-- ==== Sys2Proof/Word.lean ====
section
/-!
DEFINITION. The word types of the HXB-9720 and the one container the model uses for sparse data:
a list of key and value pairs in ascending key order.
-/

namespace Sys2Proof

/-- A byte, the smallest addressable unit (00 R4). -/
abbrev Byte := BitVec 8
/-- A 32-bit lane element (09 R209). -/
abbrev W32 := BitVec 32
/-- A 64-bit scalar register (06 R138). -/
abbrev W64 := BitVec 64
/-- A capability (19 R388). -/
abbrev CapBits := BitVec 128
/-- A vector register: lane l is bits [32l+31:32l] (09 R209). -/
abbrev VReg := BitVec 4096
/-- A predicate: lane l is bit l (09 R209). -/
abbrev PReg := BitVec 128

/-- Sparse data by key, keys strictly rising.  A key that is not listed holds the map's default. -/
abbrev SMap (α : Type) := List (Nat × α)

/-- The value at key `k`, `d` where nothing is listed. -/
def SMap.get {α : Type} (d : α) : SMap α → Nat → α
  | [], _ => d
  | (j, v) :: m, k => if k = j then v else SMap.get d m k

/-- The map with `v` at key `k`. -/
def SMap.set {α : Type} : SMap α → Nat → α → SMap α
  | [], k, v => [(k, v)]
  | (j, w) :: m, k, v =>
    if k = j then (j, v) :: m
    else if k < j then (k, v) :: (j, w) :: m
    else (j, w) :: SMap.set m k v

/-- The map without key `k`. -/
def SMap.erase {α : Type} : SMap α → Nat → SMap α
  | [], _ => []
  | (j, w) :: m, k => if k = j then m else (j, w) :: SMap.erase m k

end Sys2Proof
end

