-- ==== Sys2Proof/Config.lean ====
section
/-!
DEFINITION. What is fixed for the machine, and the free values: constants without a body, so that no
proof can see what they are.
-/

namespace Sys2Proof.Config

/-- Cores of the module (01 R11). -/
def cores : Nat := 64
/-- Compute chiplets (01 R6). -/
def chiplets : Nat := 8
/-- Bytes of one scratchpad bank, 384 KiB (01 R12, 07 R167). -/
def bankBytes : Nat := 0x60000
/-- Scratchpad banks of a core (01 R12). -/
def banks : Nat := 64
/-- Bytes of a core's scratchpad, 24 MiB (19 R388). -/
def spadBytes : Nat := 0x1800000
/-- Bytes of one chiplet's pane SRAM, 512 MiB (01 R13). -/
def paneBytes : Nat := 0x20000000
/-- Bytes of one HBM4 stack, 64 GiB (01 R13). -/
def hbmBytes : Nat := 0x1000000000
/-- Bytes of the Loupe's containment buffer, 64 MiB (15 R331). -/
def loupeBytes : Nat := 0x4000000
/-- The silicon stepping of a production module (03 R77). -/
def stepping : Nat := 1

/-- The trusted firmware's decision on a request that its policy may refuse (21 R427 leaves it open; log 12, DESIGN CHOICE). -/
opaque policyAllows : Nat → Bool
/-- Stream object of the service firmware that boot starts (21 R432 step 3 does not give it; log 12, DESIGN CHOICE). -/
opaque serviceStream : Nat → BitVec 28
/-- The stream code of the service firmware, which boot places in that object (21 R432; log 12, DESIGN CHOICE). -/
opaque serviceImage : Nat → List (BitVec 8)
/-- The outcome of the signature check that boot makes on the trusted firmware (21 R432; log 12, DESIGN CHOICE). -/
opaque signatureOk : Nat → Bool
/-- Free 64-bit values (log 14, DESIGN CHOICE). -/
opaque freeValue : Nat → BitVec 64

end Sys2Proof.Config
end

