-- ==== Sys2Proof/Syntax.lean ====
section
/-!
DEFINITION. The steps of the HXB-9720: one constructor of Instr per row of spec/opcode_table.json.
Slot instructions and S-ops carry the fields of their encoding (03 R51-R63); the other rows are steps of
the machine that are no instruction (spec file 95) and carry the unit they happen in.
-/

namespace Sys2Proof

/-- A q guard: flag index and negation (03 R51). -/
structure Guard where
  q : BitVec 3
  neg : Bool
  deriving DecidableEq, Repr

/-- A predicate guard: predicate index and negation (03 R53, R55). -/
structure PGuard where
  p : BitVec 4
  neg : Bool
  deriving DecidableEq, Repr

/-- Alias class and full/empty qualifier of an L or W slot (03 R53). -/
structure MemQ where
  cls : BitVec 3
  qual : BitVec 2
  deriving DecidableEq, Repr

/-- Fields of a V or Y slot below the opcode (03 R55). -/
structure VOp where
  d : BitVec 9
  a : BitVec 9
  b : BitVec 9
  c : BitVec 9
  g : PGuard
  typ : BitVec 4
  rnd : BitVec 2
  sat : Bool
  lia : Bool
  lid : Bool
  fn : BitVec 6
  deriving DecidableEq, Repr

/-- Fields of an M slot below the opcode (03 R56). -/
structure MOp where
  tile : BitVec 3
  cap : BitVec 4
  off : BitVec 6
  row0 : BitVec 9
  count : BitVec 10
  prof : BitVec 6
  t : Bool
  scale : BitVec 6
  size : BitVec 10
  deriving DecidableEq, Repr

/-- Guard, wait and signal fields of an E slot (03 R57). -/
structure ESync where
  g : Guard
  waitEn : Bool
  waitSem : BitVec 8
  waitThr : BitVec 8
  sigEn : Bool
  sigSem : BitVec 8
  sigInc : BitVec 4
  deriving DecidableEq, Repr

/-- Operand fields that the three atomics share (07 R174). -/
structure AtomOp where
  d : BitVec 6
  off : BitVec 6
  v : BitVec 6
  cmp : BitVec 6
  cap : BitVec 4
  fn : BitVec 4
  size : Bool
  cls : BitVec 3
  order : BitVec 2
  scope : BitVec 3
  imm : BitVec 11
  deriving DecidableEq, Repr

/-- Operand fields of CPGO (08 R199). -/
structure CpgoOp where
  esize : BitVec 2
  levels : BitVec 4
  sfmt : BitVec 5
  dfmt : BitVec 5
  trans : BitVec 2
  pub : Bool
  gather : Bool
  shadow : BitVec 6
  idxCap : BitVec 4
  idxOff : BitVec 6
  cellEn : Bool
  cell : BitVec 8
  deriving DecidableEq, Repr

/-- Operand fields of ZINJECT (15 R338). -/
structure ZinjOp where
  kind : BitVec 2
  cap : BitVec 4
  att : BitVec 8
  bit : BitVec 7
  a : BitVec 9
  b : BitVec 9
  c : BitVec 9
  role : BitVec 2
  deriving DecidableEq, Repr

/-- The TASK word (03 R60). -/
structure TaskWord where
  cls : BitVec 2
  prof : BitVec 6
  gang : BitVec 3
  nopd : BitVec 3
  depth : BitVec 3
  persist : Bool
  kobj : BitVec 28
  koff : BitVec 36
  deriving DecidableEq, Repr

/-- An OPD word (03 R61). -/
structure OpdWord where
  buf : BitVec 6
  mode : BitVec 2
  cap : BitVec 3
  ext : Bool
  start : BitVec 44
  len : BitVec 64
  deriving DecidableEq, Repr

/-- The COPY word (03 R62). -/
structure CopyWord where
  ncdim : BitVec 4
  esize : BitVec 2
  trans : BitVec 2
  sfmt : BitVec 5
  dfmt : BitVec 5
  clamp : Bool
  deriving DecidableEq, Repr

/-- A CDIM word (03 R63, 08 R206). -/
structure CdimWord where
  level : BitVec 4
  count : BitVec 32
  sstride : BitVec 40
  dstride : BitVec 40
  deriving DecidableEq, Repr

/-- The SLD and SST fields (05 R133). -/
structure SmemOp where
  size : BitVec 2
  sx : Bool
  stat : Bool
  early : Bool
  a : BitVec 4
  b : BitVec 4
  n : BitVec 12
  imm : BitVec 64
  deriving DecidableEq, Repr

/-- The core trap codes (18 R351). -/
inductive TrapCode where
  | illop | emul | illenc | illopnd | inflight | profile | priv | caprights | capbounds | align
  | panelocal | ashape | determ | swtrap
  | vfp | vbadpk | resid | mfp | mbadpk | mchk | cpfp | cpgbad | cpderr | data | revoked | semovf | barnown
  deriving DecidableEq, Repr

/-- The reasons of stream and task faults (05 R129). -/
inductive Reason where
  | illegal | extension | priv | orphan | unbound | bound | range | segment | conflict | quota | stack
  | target | rights | align
  | coretrap | header | watchdog | undecided | copycap | data | lost
  deriving DecidableEq, Repr

/-- A copy engine: a core's, or one of the hub's sixteen (01 R12, R16). -/
inductive Engine where
  | core (k : Nat)
  | hub (h : Nat)
  deriving DecidableEq, Repr

/-- Who writes a hub register: the control processor or the host (21 R409). -/
inductive Writer where
  | firmware | host
  deriving DecidableEq, Repr

/-- The conditions that trip the module (21 R417). -/
inductive TripSource where
  | external | coolant | hubCurrent | current (domain : Nat) | temperature (chip : Nat)
  deriving DecidableEq, Repr

/-- An access of a peer module to an object here, by its offset (12 R303, 19 R394); `float` for AMOF's functions. -/
inductive PeerAccess where
  | load (obj off size : Nat)
  | store (obj off : Nat) (bytes : List (BitVec 8))
  | atomic (float : Bool) (fn obj off size : Nat) (data comparand : BitVec 64)
  deriving DecidableEq, Repr

/-- What arrives on a pennant port (21 R429): an intact flit with its sequence, the first sequence that the peer has not yet
taken, and its flow class, which may bring an access; the peer's call for a replay; a flit whose CRC fails. -/
inductive Flit where
  | good (seq ack : Nat) (flow : BitVec 2) (access : Option PeerAccess)
  | replay
  | corrupt
  deriving DecidableEq, Repr

/-- One constructor per row of spec/opcode_table.json. -/
inductive Instr where
  -- scalar and control instructions (06)
  | nop (g : Guard)
  | add (d a b : BitVec 6) (g : Guard)
  | sub (d a b : BitVec 6) (g : Guard)
  | mul (d a b : BitVec 6) (g : Guard)
  | mulh (d a b : BitVec 6) (g : Guard)
  | mulhn (d a b : BitVec 6) (g : Guard)
  | div (d a b : BitVec 6) (g : Guard)
  | divn (d a b : BitVec 6) (g : Guard)
  | rem (d a b : BitVec 6) (g : Guard)
  | remn (d a b : BitVec 6) (g : Guard)
  | and (d a b : BitVec 6) (g : Guard)
  | or (d a b : BitVec 6) (g : Guard)
  | xor (d a b : BitVec 6) (g : Guard)
  | andn (d a b : BitVec 6) (g : Guard)
  | shl (d a b : BitVec 6) (g : Guard)
  | shr (d a b : BitVec 6) (g : Guard)
  | sar (d a b : BitVec 6) (g : Guard)
  | rotl (d a b : BitVec 6) (g : Guard)
  | min (d a b : BitVec 6) (g : Guard)
  | max (d a b : BitVec 6) (g : Guard)
  | minn (d a b : BitVec 6) (g : Guard)
  | maxn (d a b : BitVec 6) (g : Guard)
  | sel (d a b : BitVec 6) (g : Guard)
  | addi (d a : BitVec 6) (imm : BitVec 8) (g : Guard)
  | andi (d a : BitVec 6) (imm : BitVec 8) (g : Guard)
  | ori (d a : BitVec 6) (imm : BitVec 8) (g : Guard)
  | xori (d a : BitVec 6) (imm : BitVec 8) (g : Guard)
  | shli (d a m : BitVec 6) (g : Guard)
  | shri (d a m : BitVec 6) (g : Guard)
  | sari (d a m : BitVec 6) (g : Guard)
  | sext (d a m : BitVec 6) (g : Guard)
  | zext (d a m : BitVec 6) (g : Guard)
  | clz (d a : BitVec 6) (g : Guard)
  | popc (d a : BitVec 6) (g : Guard)
  | mov (d a : BitVec 6) (g : Guard)
  | cmp (cond qd : BitVec 3) (a b : BitVec 6) (g : Guard)
  | cmpi (cond qd : BitVec 3) (a : BitVec 6) (imm : BitVec 8) (g : Guard)
  | qlog (fn qd qa qb : BitVec 3) (g : Guard)
  | lil (d : BitVec 6) (imm : BitVec 14) (g : Guard)
  | lih (d : BitVec 6) (imm : BitVec 14) (g : Guard)
  | mfsr (d : BitVec 6) (n : BitVec 12) (g : Guard)
  | mtsr (d : BitVec 6) (n : BitVec 12) (g : Guard)
  | br (off : BitVec 20) (g : Guard)
  | brx (d a : BitVec 6) (g : Guard)
  | call (off : BitVec 20) (g : Guard)
  | loop (d : BitVec 6) (imm : BitVec 14) (g : Guard)
  | nopw (imm : BitVec 14) (g : Guard)
  | nopwCountExpiry (core : Nat)
  | rot (imm : BitVec 8) (g : Guard)
  | swpt (t : BitVec 8) (g : Guard)
  | endt (g : Guard)
  | endtCont (g : Guard)
  | cload (c : BitVec 4) (a : BitVec 6) (imm : BitVec 8) (g : Guard)
  | cnarrow (c ca : BitVec 4) (b : BitVec 6) (g : Guard)
  | crights (c ca : BitVec 4) (mask : BitVec 8) (g : Guard)
  | cget (d : BitVec 6) (ca : BitVec 4) (f : BitVec 3) (g : Guard)
  | cmov (c ca : BitVec 4) (g : Guard)
  -- memory access instructions (07)
  | lds (r : BitVec 6) (cap : BitVec 4) (off imm : BitVec 6) (size : BitVec 2) (sx : Bool) (g : Guard) (q : MemQ)
  | sts (r : BitVec 6) (cap : BitVec 4) (off imm : BitVec 6) (size : BitVec 2) (g : Guard) (q : MemQ)
  | vld (v : BitVec 9) (cap : BitVec 4) (off : BitVec 6) (imm : BitVec 12) (g : PGuard) (q : MemQ)
  | vst (v : BitVec 9) (cap : BitVec 4) (off : BitVec 6) (imm : BitVec 12) (g : PGuard) (q : MemQ)
  | vldb (v : BitVec 9) (cap : BitVec 4) (off : BitVec 6) (imm : BitVec 12) (g : PGuard) (q : MemQ)
  | vlds (v : BitVec 9) (cap : BitVec 4) (off stride imm : BitVec 6) (g : PGuard) (q : MemQ)
  | vsts (v : BitVec 9) (cap : BitVec 4) (off stride imm : BitVec 6) (g : PGuard) (q : MemQ)
  | vldx (v : BitVec 9) (cap : BitVec 4) (off : BitVec 6) (idx : BitVec 9) (wi : Bool) (g : PGuard) (q : MemQ)
  | vstx (v : BitVec 9) (cap : BitVec 4) (off : BitVec 6) (idx : BitVec 9) (wi : Bool) (g : PGuard) (q : MemQ)
  | amo (o : AtomOp) (e : ESync)
  | amor (o : AtomOp) (e : ESync)
  | amof (o : AtomOp) (e : ESync)
  | drain (scope : BitVec 3) (engine : Bool) (e : ESync)
  -- vector instructions (09)
  | vadd (o : VOp)
  | vsub (o : VOp)
  | vadds (o : VOp)
  | vsubs (o : VOp)
  | vmul (o : VOp)
  | vmulh (o : VOp)
  | vmac (o : VOp)
  | vand (o : VOp)
  | vor (o : VOp)
  | vxor (o : VOp)
  | vandn (o : VOp)
  | vshl (o : VOp)
  | vshr (o : VOp)
  | vsar (o : VOp)
  | vmin (o : VOp)
  | vmax (o : VOp)
  | vabs (o : VOp)
  | vneg (o : VOp)
  | vclz (o : VOp)
  | vpopc (o : VOp)
  | vaddi (o : VOp)
  | vfadd (o : VOp)
  | vfsub (o : VOp)
  | vfmul (o : VOp)
  | vfma (o : VOp)
  | vfmin (o : VOp)
  | vfmax (o : VOp)
  | vfabs (o : VOp)
  | vfneg (o : VOp)
  | vrcp (o : VOp)
  | vrsq (o : VOp)
  | vexp2 (o : VOp)
  | vlog2 (o : VOp)
  | vfdiv (o : VOp)
  | vclamp (o : VOp)
  | vcmp (o : VOp)
  | vfcmp (o : VOp)
  | vsel (o : VOp)
  | vmov (o : VOp)
  | vbcast (o : VOp)
  | vget (o : VOp)
  | vput (o : VOp)
  | viota (o : VOp)
  | vcvt (o : VOp)
  | vunpt5 (o : VOp)
  | vunp4 (o : VOp)
  | vunp6 (o : VOp)
  | vpack4 (o : VOp)
  | vpack6 (o : VOp)
  | vdpx (o : VOp)
  | vdpq (o : VOp)
  | vtacc (o : VOp)
  | vperm (o : VOp)
  | vrot (o : VOp)
  | vzip (o : VOp)
  | vunzip (o : VOp)
  | vredadd (o : VOp)
  | vredfadd (o : VOp)
  | vredmax (o : VOp)
  | vredmin (o : VOp)
  | plog (o : VOp)
  | pnot (o : VOp)
  | pcnt (o : VOp)
  | pfirst (o : VOp)
  | pset (o : VOp)
  | vsort (o : VOp)
  | vscan (o : VOp)
  | longOpStep (core : Nat)
  | resultLanding (core : Nat)
  | scalarResultWrite (core : Nat)
  | inflightEntryLand (core : Nat)
  -- matrix instructions (10)
  | mldw (o : MOp)
  | mswap (o : MOp)
  | mstr (o : MOp)
  | mstrv (o : MOp)
  | mzero (o : MOp)
  | mldz (o : MOp)
  | mout (o : MOp)
  | moutv (o : MOp)
  | mchk (o : MOp)
  | mshape (o : MOp)
  | planeRowWrite (core : Nat)
  | tileRowLand (core : Nat)
  | tileRowLoad (core : Nat)
  | tileRowStore (core : Nat)
  | mchkOutcome (core : Nat)
  | bandPowerUpEnd (core : Nat)
  -- copy engine instructions (08)
  | cplvl (level : BitVec 4) (cnt ss ds : BitVec 6) (e : ESync)
  | cpsrc (cap : BitVec 4) (off : BitVec 6) (e : ESync)
  | cpdst (cap : BitVec 4) (off : BitVec 6) (e : ESync)
  | cpgo (o : CpgoOp) (e : ESync)
  | cpfill (cap : BitVec 4) (off v : BitVec 6) (n : BitVec 5) (full : BitVec 2) (e : ESync)
  | cppub (d h : BitVec 6) (e : ESync)
  | cpabort (e : ESync)
  | cpqry (d : BitVec 6) (k : BitVec 3) (e : ESync)
  | copyCommandStart (eng : Engine)
  | copyRun (eng : Engine)
  | copyCommandComplete (eng : Engine)
  | starvationGuard (core : Nat)
  -- synchronisation and work instructions (11)
  | nopE (e : ESync)
  | semsig (e : ESync)
  | semaphoreSignal (core : Nat)
  | semwait (n : BitVec 8) (t : BitVec 16) (d : BitVec 6) (nc : Bool) (e : ESync)
  | barinit (bar : BitVec 9) (t : BitVec 6) (delta : BitVec 8) (mode : BitVec 2) (free : Bool) (e : ESync)
  | barinitAnswer (core : Nat)
  | bararr (bar : BitVec 9) (e : ESync)
  | barwait (bar : BitVec 9) (e : ESync)
  | barexp (bar : BitVec 9) (b : BitVec 6) (e : ESync)
  | barqry (bar : BitVec 9) (d : BitVec 6) (e : ESync)
  | cellUpdateCycle (cell : Nat)
  | barrierRelease (core : Nat)
  | spawn (qd : BitVec 3) (cap : BitVec 4) (off st : BitVec 6) (after : Bool) (e : ESync)
  | next (e : ESync)
  | yield (n t : BitVec 8) (e : ESync)
  | csend (v : BitVec 9) (dst : BitVec 6) (e : ESync)
  | crecv (v : BitVec 9) (src : BitVec 6) (e : ESync)
  | ctab (cap : BitVec 4) (off : BitVec 6) (e : ESync)
  | circuitSlot (core : Nat)
  | circuitTransferArrival (core : Nat)
  | circuitCreditReturn (core : Nat)
  -- protection instructions (15)
  | sigrd (d : BitVec 6) (k : BitVec 2) (sync : Bool) (e : ESync)
  | sigfold (a b : BitVec 6) (e : ESync)
  | sigclr (k : BitVec 2) (e : ESync)
  | zinject (o : ZinjOp) (e : ESync)
  -- system instructions (18)
  | trap (code : BitVec 16) (e : ESync)
  | eret (next : Bool) (e : ESync)
  | ctxsave (cap : BitVec 4) (off : BitVec 6) (parts : BitVec 8) (b : BitVec 6) (e : ESync)
  | ctxload (cap : BitVec 4) (off : BitVec 6) (parts : BitVec 8) (b : BitVec 6) (e : ESync)
  | halt (code : BitVec 16) (e : ESync)
  | wdog (rd : Bool) (d : BitVec 6) (e : ESync)
  | hoist (tag : BitVec 8) (e : ESync)
  -- remote accesses (07, 19)
  | remoteAccessSend (id : Nat)
  | translationWalk (id : Nat)
  | remoteAccessPerform (id : Nat)
  | remoteReturn (id : Nat)
  | remoteStoreAccept (id : Nat)
  | loupeAccept (id : Nat)
  | pageAbsentSuspend (core : Nat)
  -- stream instructions (05)
  | snop
  | sjmp (target : BitVec 64)
  | sbr (cond a b : BitVec 4) (target : BitVec 64)
  | scall (target : BitVec 64)
  | sret (next : Bool)
  | sloop (a : BitVec 4) (exit : BitVec 64)
  | sendl
  | shalt (code : BitVec 32)
  | sli (a : BitVec 4) (imm : BitVec 64)
  | sadd (a b c : BitVec 4)
  | saddi (a b : BitVec 4) (imm : BitVec 32)
  | smul (a b c : BitVec 4)
  | sshl (a b : BitVec 4) (imm : BitVec 32)
  | sand (a b c : BitVec 4)
  | smov (a b : BitVec 4)
  | sld (o : SmemOp)
  | sst (o : SmemOp)
  | park (a b c : BitVec 4) (n : BitVec 12) (imm : BitVec 64)
  | parkPoll (ctx : Nat)
  | bind (buf : BitVec 6) (a b : BitVec 4) (n : BitVec 12) (seg : BitVec 5) (imm : BitVec 64)
  | unbind (buf : BitVec 6) (discard : Bool)
  | task (w : TaskWord)
  | opd (w : OpdWord)
  | copy (w : CopyWord)
  | cdim (w : CdimWord)
  | sfence (sys : Bool)
  | notify (v : BitVec 6) (a : BitVec 4) (payload : BitVec 32)
  | ckpt (tag : BitVec 32)
  | svar (n : BitVec 12) (off : BitVec 64)
  | prio (ctx : BitVec 4) (level : BitVec 3)
  | faultv (off : BitVec 64)
  | quota (ctx : BitVec 4) (window : BitVec 9) (pool : BitVec 13) (n : BitVec 12)
  -- the Prism's own steps (05, 11, 15)
  | dispatch
  | entryReady (tid : Nat)
  | agingPromotion (tid : Nat)
  | persistentHandoffTimeout (tid : Nat)
  | poolEntryDispatch
  | hubCopyComplete (h : Nat)
  | modFillComplete (h : Nat)
  | retire (ctx : Nat)
  | headOnlyMode (tid : Nat)
  | faultDelivery (ctx : Nat)
  | squashRemove (tid : Nat)
  | checkFaultReexecution (tid : Nat)
  | voteCompare (tid : Nat)
  | thirdRunCompare (tid : Nat)
  | suspicionDecay
  | sramUncorrectableError (chip : Nat)
  | chipletReadmission (chip : Nat)
  -- suspension and resume (18)
  | preemptStop (core : Nat)
  | saveBankStart (core : Nat)
  | saveBankEnd (core : Nat)
  | saveEnd (core : Nat)
  | restoreStart (core : Nat)
  | restoreBankEnd (core : Nat)
  | resumeMerge (core : Nat)
  | watchdogExpiry (core : Nat)
  | saveTimeout (core : Nat)
  | windowLost (ctx : Nat)
  | ctxkill (ctx : Nat)
  | killComplete (ctx : Nat)
  -- objects and translation (19)
  | otswap
  | otswapDone
  | otsync
  | otsyncDone
  | mnqheadWrite (v : BitVec 10)
  | owedNoticePost
  | extentMigration (obj ext home unit place : Nat)
  -- the module in its system (21)
  | ckptExtentCopied (ctx : Nat)
  | droopAlarm (domain : Nat)
  | droopStretchEnd (core : Nat)
  | droopHalvingEnd (core : Nat)
  | ballastStart (core : Nat)
  | ballastEnd (core : Nat)
  | thermalTrip (src : TripSource)
  | tripcauseClear (mask : BitVec 16)
  | overQuota (ctx : Nat)
  | energyQuotaWrite (ctx : Nat) (v : BitVec 64)
  | hoistFire
  | hoistArm
  | hoistPin
  | hoistSnapshot
  | createObject
  | freeObject
  | createContext
  | restartContext
  | writeCapabilityEntry
  | interruptRecordPost
  | irheadWrite (v : BitVec 12)
  | elheadWrite (v : BitVec 12)
  | pennantFlitReceive (port : Nat) (f : Flit)
  | boot
  | registerWrite (who : Writer) (off : Nat) (v : BitVec 64)
  -- refusals of encodings, fetch and requests (03, 05, 19, 21)
  | illegalOpcode (code : TrapCode) (v : BitVec 64)
  | fetchFault (code : TrapCode) (v : BitVec 64)
  | unlistedOp (r : Reason)
  | streamObjectEnd
  | hostWindowAccess (win : Nat) (off : Nat) (size : Nat) (store : Option (BitVec 64))
  | badRequest (op : BitVec 8)
  | otBadOp (op : BitVec 3)
  | correctedError (chip addr : Nat)
  | chipletRetirementRequest (chip : Nat)
  | checkpointRestart (ctx : Nat)
  deriving DecidableEq, Repr

end Sys2Proof
end

