-- ==== Sys2Proof/Machine/Forms.lean ====
section
/-!
DEFINITION. The forms of the slot encodings: which fields a form uses, which values a field may hold and
which registers exist.  `slotCheck` makes checks 3 and 4 of R49 as far as they are decided by the words
alone; checks that read the machine stand in the meanings.
-/

namespace Sys2Proof

/-- How a V or Y form uses a register field (09 R223, R224). -/
inductive FieldUse where
  | zero | vr | vr1 | vr4 | sr | pr | lane | count | any | cmpd | cvtb
  deriving DecidableEq, Repr

/-- One row of R223. -/
structure VForm where
  op : Nat
  d : FieldUse
  a : FieldUse
  b : FieldUse
  c : FieldUse
  types : List Nat
  rnd : Bool
  sat : Bool
  fnLim : Nat
  lia : Bool
  lid : Bool
  lat : Nat
  deriving DecidableEq, Repr

/-- i32 n32 i16x2 n16x2 i8x4 n8x4 in the codes of R55. -/
def tInt : List Nat := [0, 1, 3, 4, 7, 8]
/-- i32 i16x2 i8x4. -/
def tSint : List Nat := [0, 3, 7]
/-- f32 f16x2 bf16x2. -/
def tFp : List Nat := [2, 5, 6]
/-- Every listed type code. -/
def tAny : List Nat := [0, 1, 2, 3, 4, 5, 6, 7, 8]

/-- Elements of a lane, 0 for an unlisted type code (09 R211). -/
def typeCount (t : Nat) : Nat :=
  if t = 0 ∨ t = 1 ∨ t = 2 then 1
  else if t = 3 ∨ t = 4 ∨ t = 5 ∨ t = 6 then 2
  else if t = 7 ∨ t = 8 then 4 else 0

/-- The row of R223 and the fields of a vector instruction (log 27, DEDUCED). -/
def vectorForm (i : Instr) : Option (VForm × VOp) :=
  match i with
  | .vadd o => some (⟨0x01, .vr, .vr, .vr, .zero, tInt, false, false, 1, true, true, 2⟩, o)
  | .vsub o => some (⟨0x02, .vr, .vr, .vr, .zero, tInt, false, false, 1, true, true, 2⟩, o)
  | .vadds o => some (⟨0x03, .vr, .vr, .vr, .zero, tInt, false, false, 1, true, true, 2⟩, o)
  | .vsubs o => some (⟨0x04, .vr, .vr, .vr, .zero, tInt, false, false, 1, true, true, 2⟩, o)
  | .vmul o => some (⟨0x05, .vr, .vr, .vr, .zero, tInt, false, true, 1, true, true, 3⟩, o)
  | .vmulh o => some (⟨0x06, .vr, .vr, .vr, .zero, tInt, false, false, 1, true, true, 3⟩, o)
  | .vmac o => some (⟨0x07, .vr, .vr, .vr, .vr, tInt, false, true, 1, true, true, 3⟩, o)
  | .vand o => some (⟨0x08, .vr, .vr, .vr, .zero, [], false, false, 1, true, true, 2⟩, o)
  | .vor o => some (⟨0x09, .vr, .vr, .vr, .zero, [], false, false, 1, true, true, 2⟩, o)
  | .vxor o => some (⟨0x0A, .vr, .vr, .vr, .zero, [], false, false, 1, true, true, 2⟩, o)
  | .vandn o => some (⟨0x0B, .vr, .vr, .vr, .zero, [], false, false, 1, true, true, 2⟩, o)
  | .vshl o => some (⟨0x0C, .vr, .vr, .vr, .zero, tInt, false, true, 1, true, true, 2⟩, o)
  | .vshr o => some (⟨0x0D, .vr, .vr, .vr, .zero, tInt, false, false, 1, true, true, 2⟩, o)
  | .vsar o => some (⟨0x0E, .vr, .vr, .vr, .zero, tInt, false, false, 1, true, true, 2⟩, o)
  | .vmin o => some (⟨0x0F, .vr, .vr, .vr, .zero, tInt, false, false, 1, true, true, 2⟩, o)
  | .vmax o => some (⟨0x10, .vr, .vr, .vr, .zero, tInt, false, false, 1, true, true, 2⟩, o)
  | .vabs o => some (⟨0x11, .vr, .vr, .zero, .zero, tSint, false, true, 1, true, true, 2⟩, o)
  | .vneg o => some (⟨0x12, .vr, .vr, .zero, .zero, tSint, false, true, 1, true, true, 2⟩, o)
  | .vclz o => some (⟨0x13, .vr, .vr, .zero, .zero, tInt, false, false, 1, true, true, 2⟩, o)
  | .vpopc o => some (⟨0x14, .vr, .vr, .zero, .zero, tInt, false, false, 1, true, true, 2⟩, o)
  | .vaddi o => some (⟨0x15, .vr, .vr, .zero, .any, tInt, false, false, 1, true, true, 2⟩, o)
  | .vfadd o => some (⟨0x20, .vr, .vr, .vr, .zero, tFp, true, true, 1, true, true, 4⟩, o)
  | .vfsub o => some (⟨0x21, .vr, .vr, .vr, .zero, tFp, true, true, 1, true, true, 4⟩, o)
  | .vfmul o => some (⟨0x22, .vr, .vr, .vr, .zero, tFp, true, true, 1, true, true, 4⟩, o)
  | .vfma o => some (⟨0x23, .vr, .vr, .vr, .vr, tFp, true, true, 1, true, true, 4⟩, o)
  | .vfmin o => some (⟨0x24, .vr, .vr, .vr, .zero, tFp, false, false, 1, true, true, 4⟩, o)
  | .vfmax o => some (⟨0x25, .vr, .vr, .vr, .zero, tFp, false, false, 1, true, true, 4⟩, o)
  | .vfabs o => some (⟨0x26, .vr, .vr, .zero, .zero, tFp, false, false, 1, true, true, 4⟩, o)
  | .vfneg o => some (⟨0x27, .vr, .vr, .zero, .zero, tFp, false, false, 1, true, true, 4⟩, o)
  | .vrcp o => some (⟨0x28, .vr, .vr, .zero, .zero, tFp, true, true, 1, true, true, 6⟩, o)
  | .vrsq o => some (⟨0x29, .vr, .vr, .zero, .zero, tFp, true, true, 1, true, true, 6⟩, o)
  | .vexp2 o => some (⟨0x2A, .vr, .vr, .zero, .zero, tFp, true, true, 1, true, true, 6⟩, o)
  | .vlog2 o => some (⟨0x2B, .vr, .vr, .zero, .zero, tFp, true, true, 1, true, true, 6⟩, o)
  | .vfdiv o => some (⟨0x2C, .vr, .vr, .vr, .zero, tFp, true, true, 1, true, true, 12⟩, o)
  | .vclamp o => some (⟨0x2D, .vr, .vr, .vr, .vr, tAny, false, false, 1, true, true, 2⟩, o)
  | .vcmp o => some (⟨0x30, .cmpd, .vr, .vr, .zero, [0, 1], false, false, 8, true, false, 2⟩, o)
  | .vfcmp o => some (⟨0x31, .cmpd, .vr, .vr, .zero, [2], false, false, 8, true, false, 2⟩, o)
  | .vsel o => some (⟨0x32, .vr, .vr, .vr, .zero, [], false, false, 1, true, true, 2⟩, o)
  | .vmov o => some (⟨0x33, .vr, .vr, .zero, .zero, [], false, false, 1, true, true, 2⟩, o)
  | .vbcast o => some (⟨0x34, .vr, .sr, .zero, .zero, tAny, false, false, 1, false, true, 2⟩, o)
  | .vget o => some (⟨0x35, .sr, .vr, .lane, .zero, [0, 1], false, false, 1, false, false, 3⟩, o)
  | .vput o => some (⟨0x36, .vr, .sr, .lane, .zero, [], false, false, 1, false, false, 2⟩, o)
  | .viota o => some (⟨0x37, .vr, .zero, .zero, .zero, [], false, false, 1, false, true, 2⟩, o)
  | .vcvt o => some (⟨0x40, .vr, .vr, .cvtb, .zero, tAny, true, true, 32, true, true, 3⟩, o)
  | .vunpt5 o => some (⟨0x41, .vr4, .vr, .zero, .zero, [], false, false, 1, false, false, 3⟩, o)
  | .vunp4 o => some (⟨0x42, .vr, .vr, .zero, .zero, [], false, false, 16, false, false, 3⟩, o)
  | .vunp6 o => some (⟨0x43, .vr, .vr, .zero, .zero, [], false, false, 5, false, false, 3⟩, o)
  | .vpack4 o => some (⟨0x44, .vr, .vr, .zero, .zero, [0, 2], true, true, 16, false, false, 3⟩, o)
  | .vpack6 o => some (⟨0x45, .vr, .vr, .zero, .zero, [0, 2], true, false, 5, false, false, 3⟩, o)
  | .vdpx o => some (⟨0x46, .vr, .vr, .zero, .zero, [], false, false, 4, false, false, 2⟩, o)
  | .vdpq o => some (⟨0x47, .vr, .vr, .zero, .zero, [0, 2], true, false, 4, false, false, 3⟩, o)
  | .vtacc o => some (⟨0x48, .vr, .vr, .vr, .vr, [], false, true, 1, true, true, 2⟩, o)
  | .vperm o => some (⟨0x50, .vr, .vr, .vr, .vr, [], false, false, 1, false, false, 4⟩, o)
  | .vrot o => some (⟨0x51, .vr, .vr, .lane, .zero, [], false, false, 1, false, false, 2⟩, o)
  | .vzip o => some (⟨0x52, .vr, .vr, .vr, .zero, [], false, false, 2, false, false, 2⟩, o)
  | .vunzip o => some (⟨0x53, .vr, .vr, .vr, .zero, [], false, false, 2, false, false, 2⟩, o)
  | .vredadd o => some (⟨0x58, .vr, .vr, .zero, .zero, [0], false, true, 2, false, false, 7⟩, o)
  | .vredfadd o => some (⟨0x59, .vr, .vr, .zero, .zero, [2], true, false, 2, false, false, 7⟩, o)
  | .vredmax o => some (⟨0x5A, .vr, .vr, .zero, .zero, [0, 1, 2], false, false, 2, false, false, 7⟩, o)
  | .vredmin o => some (⟨0x5B, .vr, .vr, .zero, .zero, [0, 1, 2], false, false, 2, false, false, 7⟩, o)
  | .plog o => some (⟨0x60, .pr, .pr, .pr, .zero, [], false, false, 4, false, false, 2⟩, o)
  | .pnot o => some (⟨0x61, .pr, .pr, .zero, .zero, [], false, false, 1, false, false, 2⟩, o)
  | .pcnt o => some (⟨0x62, .sr, .pr, .zero, .zero, [], false, false, 1, false, false, 2⟩, o)
  | .pfirst o => some (⟨0x63, .sr, .pr, .zero, .zero, [], false, false, 1, false, false, 2⟩, o)
  | .pset o => some (⟨0x64, .pr, .zero, .count, .zero, [], false, false, 2, false, false, 2⟩, o)
  | .vsort o => some (⟨0x70, .vr1, .vr, .vr, .zero, [0, 1, 2], false, false, 2, false, false, 32⟩, o)
  | .vscan o => some (⟨0x71, .vr, .vr, .zero, .zero, [0, 1, 2], true, true, 6, false, false, 16⟩, o)
  | _ => none

/-- The vector instruction of an opcode (03 R69). -/
def vectorOp (op : Nat) : Option (VOp → Instr) :=
  match op with
  | 0x01 => some .vadd
  | 0x02 => some .vsub
  | 0x03 => some .vadds
  | 0x04 => some .vsubs
  | 0x05 => some .vmul
  | 0x06 => some .vmulh
  | 0x07 => some .vmac
  | 0x08 => some .vand
  | 0x09 => some .vor
  | 0x0A => some .vxor
  | 0x0B => some .vandn
  | 0x0C => some .vshl
  | 0x0D => some .vshr
  | 0x0E => some .vsar
  | 0x0F => some .vmin
  | 0x10 => some .vmax
  | 0x11 => some .vabs
  | 0x12 => some .vneg
  | 0x13 => some .vclz
  | 0x14 => some .vpopc
  | 0x15 => some .vaddi
  | 0x20 => some .vfadd
  | 0x21 => some .vfsub
  | 0x22 => some .vfmul
  | 0x23 => some .vfma
  | 0x24 => some .vfmin
  | 0x25 => some .vfmax
  | 0x26 => some .vfabs
  | 0x27 => some .vfneg
  | 0x28 => some .vrcp
  | 0x29 => some .vrsq
  | 0x2A => some .vexp2
  | 0x2B => some .vlog2
  | 0x2C => some .vfdiv
  | 0x2D => some .vclamp
  | 0x30 => some .vcmp
  | 0x31 => some .vfcmp
  | 0x32 => some .vsel
  | 0x33 => some .vmov
  | 0x34 => some .vbcast
  | 0x35 => some .vget
  | 0x36 => some .vput
  | 0x37 => some .viota
  | 0x40 => some .vcvt
  | 0x41 => some .vunpt5
  | 0x42 => some .vunp4
  | 0x43 => some .vunp6
  | 0x44 => some .vpack4
  | 0x45 => some .vpack6
  | 0x46 => some .vdpx
  | 0x47 => some .vdpq
  | 0x48 => some .vtacc
  | 0x50 => some .vperm
  | 0x51 => some .vrot
  | 0x52 => some .vzip
  | 0x53 => some .vunzip
  | 0x58 => some .vredadd
  | 0x59 => some .vredfadd
  | 0x5A => some .vredmax
  | 0x5B => some .vredmin
  | 0x60 => some .plog
  | 0x61 => some .pnot
  | 0x62 => some .pcnt
  | 0x63 => some .pfirst
  | 0x64 => some .pset
  | 0x70 => some .vsort
  | 0x71 => some .vscan
  | _ => none

/-- Check 3 of one register field: the bits the form does not use are zero. -/
def FieldUse.zeroOk (u : FieldUse) (f : Nat) : Bool :=
  match u with
  | .zero => f == 0
  | .sr => f < 64
  | .pr => f < 16
  | _ => true

/-- Check 4 of one register field: it names an existing register, lane or count. -/
def FieldUse.limitOk (u : FieldUse) (f : Nat) : Bool :=
  match u with
  | .vr => f < 384
  | .vr1 => f < 383
  | .vr4 => f < 380
  | .cvtb => f < 384
  | .lane => f < 128
  | .count => f ≤ 128
  | .cmpd => f % 16 != f / 16 % 16 || f % 16 == 0
  | _ => true

/-- Checks 3 and 4 of a vector slot (R49, R55, R223, R224, R231, R233, R240). -/
def vectorCheck (r : VForm) (o : VOp) : Option TrapCode :=
  let typ := o.typ.toNat
  let fn := o.fn.toNat
  let satUsed := r.sat && (r.op != 0x44 || fn < 8) && (r.op != 0x71 || (fn / 2 == 0 && typ == 0))
  let ns := typeCount (fn % 16)
  let nd := typeCount typ
  let cvtOk := r.op != 0x40 ||
    ((nd == 2 * ns && ns != 0 || o.b == 0) && (ns == 2 * nd && nd != 0 || fn < 16))
  if ¬ ((r.types != [] || typ == 0) && (r.rnd || o.rnd == 0) && (satUsed || !o.sat)
      && (r.lia || !o.lia) && (r.lid || !o.lid) && fn < r.fnLim && cvtOk
      && r.d.zeroOk o.d.toNat && r.a.zeroOk o.a.toNat && r.b.zeroOk o.b.toNat
      && r.c.zeroOk o.c.toNat) then some .illenc
  else if ¬ ((r.types == [] || r.types.contains typ)
      && (r.op != 0x71 || fn / 2 != 0 || typ != 1)
      && (r.op != 0x40 || (ns != 0 && (nd == ns || nd == 2 * ns || ns == 2 * nd)))
      && r.d.limitOk o.d.toNat && r.a.limitOk o.a.toNat && r.b.limitOk o.b.toNat
      && r.c.limitOk o.c.toNat) then some .illopnd
  else none

/-- Which fields of an M slot a form uses (10 R245). -/
structure MForm where
  op : Nat
  tile : Bool
  mem : Bool
  row0 : Bool
  count : Bool
  prof : Bool
  t : Bool
  scale : Bool
  size : Bool
  deriving DecidableEq, Repr

/-- The row of R245 and the fields of a matrix instruction. -/
def matrixForm (i : Instr) : Option (MForm × MOp) :=
  match i with
  | .mldw o => some (⟨0x01, false, true, true, true, true, true, true, true⟩, o)
  | .mswap o => some (⟨0x02, false, false, false, false, false, false, false, false⟩, o)
  | .mstr o => some (⟨0x03, true, true, true, true, true, true, true, true⟩, o)
  | .mstrv o => some (⟨0x04, true, false, true, true, false, false, false, true⟩, o)
  | .mzero o => some (⟨0x05, true, false, true, true, false, false, false, false⟩, o)
  | .mldz o => some (⟨0x06, true, true, true, true, true, false, true, true⟩, o)
  | .mout o => some (⟨0x07, true, true, true, true, true, false, true, true⟩, o)
  | .moutv o => some (⟨0x08, true, false, true, true, false, false, false, true⟩, o)
  | .mchk o => some (⟨0x09, true, false, true, true, true, false, false, false⟩, o)
  | .mshape o => some (⟨0x0A, false, false, false, false, false, false, false, true⟩, o)
  | _ => none

/-- The matrix instruction of an opcode (03 R70). -/
def matrixOp (op : Nat) : Option (MOp → Instr) :=
  match op with
  | 0x01 => some .mldw
  | 0x02 => some .mswap
  | 0x03 => some .mstr
  | 0x04 => some .mstrv
  | 0x05 => some .mzero
  | 0x06 => some .mldz
  | 0x07 => some .mout
  | 0x08 => some .moutv
  | 0x09 => some .mchk
  | 0x0A => some .mshape
  | _ => none

/-- A count or size field: 0 means 512 (03 R56). -/
def MOp.rows (o : MOp) : Nat := if o.count = 0 then 512 else o.count.toNat
/-- The K or N size, 0 meaning 512 (03 R56). -/
def MOp.extent (o : MOp) : Nat := if o.size = 0 then 512 else o.size.toNat

/-- Checks 3 and 4 of an M slot (03 R56, 10 R245). -/
def matrixCheck (r : MForm) (o : MOp) : Option TrapCode :=
  let isSize := r.op == 0x01 || r.op == 0x03 || r.op == 0x06 || r.op == 0x07
  if ¬ ((r.tile || o.tile == 0) && (r.mem || (o.cap == 0 && o.off == 0)) && (r.row0 || o.row0 == 0)
      && (r.count || o.count == 0) && (r.prof || o.prof == 0) && (r.t || !o.t)
      && (r.scale || o.scale == 0) && (r.size || o.size == 0)
      && (r.op != 0x0A || o.size.toNat < 16)) then some .illenc
  else if ¬ (o.count.toNat ≤ 512 && (!r.row0 || o.row0.toNat + o.rows ≤ 512)
      && (!isSize || o.size.toNat ≤ 512)
      && (r.op != 0x01 || o.row0.toNat % 64 == 0)
      && (r.op != 0x04 || o.size.toNat + o.rows ≤ 384)
      && (r.op != 0x07 || o.scale.toNat ≤ 62)
      && (r.op != 0x08 || (o.count == 1 && o.size.toNat ≤ 380))) then some .illopnd
  else none

/-- The listed special registers (06 R145). -/
def srListed (n : Nat) : Bool :=
  n ≤ 0x004 || (0x008 ≤ n && n ≤ 0x00C) || (0x010 ≤ n && n ≤ 0x014) || (0x020 ≤ n && n ≤ 0x022)
    || (0x030 ≤ n && n ≤ 0x033) || (0x040 ≤ n && n ≤ 0x043) || (0x050 ≤ n && n ≤ 0x052)
    || (0x060 ≤ n && n ≤ 0x064) || (0x070 ≤ n && n ≤ 0x074) || (0x080 ≤ n && n ≤ 0x082)
    || n == 0x090 || (0x100 ≤ n && n ≤ 0x13F)

/-- A barrier field: 0 the gang barrier, 0x100 + n package cell n below 224 (11 R273). -/
def barrierOk (b : Nat) : Bool := b == 0 || (0x100 ≤ b && b < 0x1E0)

/-- A cell field: the gang barrier is not allowed. -/
def cellOk (b : Nat) : Bool := 0x100 ≤ b && b < 0x1E0

/-- Wait and signal fields are zero where not enabled (03 R57). -/
def ESync.ok (e : ESync) : Bool :=
  (e.waitEn || (e.waitSem == 0 && e.waitThr == 0)) && (e.sigEn || (e.sigSem == 0 && e.sigInc == 0))

/-- Check 3, then check 4. -/
def checks (enc lim : Bool) : Option TrapCode :=
  if !enc then some .illenc else if !lim then some .illopnd else none

/-- Encoding and limit checks of the three atomics (07 R174, R175): `k` is 0 AMO, 1 AMOR, 2 AMOF. -/
def atomCheck (k : Nat) (o : AtomOp) (e : ESync) : Option TrapCode :=
  let fn := o.fn.toNat
  let fnLim := if k = 0 then 8 else if k = 1 then 10 else 1
  checks (e.ok && (o.order != 0 || o.scope == 0) && fn < fnLim
      && ((k == 1 && fn == 9) || o.cmp == 0) && (k != 0 || (o.d == 0 && (o.order == 0 || o.order == 2))))
    (o.scope.toNat ≤ 4)

/-- Checks 3 and 4 of R49, decided by the slot's own fields; `none` when they pass. -/
def slotCheck (i : Instr) : Option TrapCode :=
  match vectorForm i, matrixForm i with
  | some (r, o), _ => vectorCheck r o
  | _, some (r, o) => matrixCheck r o
  | none, none =>
    match i with
    | .mfsr _ n _ => checks true (srListed n.toNat)
    | .mtsr _ n _ => checks true (srListed n.toNat)
    | .cnarrow _ _ b _ => checks true (b != 63)
    | .cget _ _ f _ => checks true (f.toNat ≤ 4)
    | .lds _ _ _ _ _ _ _ q => checks (q.qual != 3) true
    | .sts _ _ _ _ _ _ q => checks (q.qual != 3) true
    | .vld v _ _ _ _ q => checks (q.qual != 3) (v.toNat < 384)
    | .vst v _ _ _ _ q => checks (q.qual != 3) (v.toNat < 384)
    | .vldb v _ _ _ _ q => checks (q.qual != 3) (v.toNat < 384)
    | .vlds v _ _ _ _ _ q => checks (q.qual != 3) (v.toNat < 384)
    | .vsts v _ _ _ _ _ q => checks (q.qual != 3) (v.toNat < 384)
    | .vldx v _ _ x _ _ q => checks (q.qual != 3) (v.toNat < 384 && x.toNat < 384)
    | .vstx v _ _ x _ _ q => checks (q.qual != 3) (v.toNat < 384 && x.toNat < 384)
    | .amo o e => atomCheck 0 o e
    | .amor o e => atomCheck 1 o e
    | .amof o e => atomCheck 2 o e
    | .drain scope _ e => checks e.ok (scope.toNat ≤ 4)
    | .cplvl l _ _ _ e => checks e.ok (l.toNat ≤ 9)
    | .cpsrc _ _ e => checks e.ok true
    | .cpdst _ _ e => checks e.ok true
    | .cpgo o e =>
      checks (e.ok && (o.cellEn || o.cell == 0) && (o.gather || (o.idxOff == 0 && o.idxCap == 0))
          && (o.pub || o.shadow == 0) && o.trans != 3)
        (1 ≤ o.levels.toNat && o.levels.toNat ≤ 10 && o.cell.toNat < 224)
    | .cpfill _ _ _ _ full e => checks (e.ok && full != 3) true
    | .cppub d h e => checks e.ok (d != h)
    | .cpabort e => checks e.ok true
    | .cpqry _ _ e => checks e.ok true
    | .nopE e => checks e.ok true
    | .semsig e => checks (e.ok && e.sigEn) true
    | .semwait _ _ _ _ e => checks (e.ok && !e.waitEn) true
    | .barinit bar _ _ mode _ e => checks e.ok (cellOk bar.toNat && mode != 3)
    | .bararr bar e => checks e.ok (barrierOk bar.toNat)
    | .barwait bar e => checks e.ok (barrierOk bar.toNat)
    | .barexp bar _ e => checks e.ok (cellOk bar.toNat)
    | .barqry bar _ e => checks e.ok (barrierOk bar.toNat)
    | .spawn _ _ _ _ _ e => checks e.ok true
    | .next e => checks e.ok true
    | .yield _ _ e => checks (e.ok && !e.waitEn) true
    | .csend v _ e => checks e.ok (v.toNat < 384)
    | .crecv v _ e => checks e.ok (v.toNat < 384)
    | .ctab _ _ e => checks e.ok true
    | .sigrd _ _ _ e => checks e.ok true
    | .sigfold _ _ e => checks e.ok true
    | .sigclr _ e => checks e.ok true
    | .zinject o e =>
      let k := o.kind.toNat
      checks (e.ok && k != 3 && (k != 0 || o.a.toNat < 8) && (k != 1 || (o.c == 0 && o.b.toNat < 128))
          && (k != 2 || (o.a.toNat < 64 && o.b == 0 && o.c == 0)))
        ((k == 2 || o.bit.toNat < 32) && (k != 1 || o.a.toNat < 384))
    | .trap _ e => checks e.ok true
    | .eret _ e => checks e.ok true
    | .ctxsave _ _ parts b e => checks e.ok ((b == 0) == (parts.toNat < 128))
    | .ctxload _ _ parts b e => checks e.ok ((b == 0) == (parts.toNat < 128))
    | .halt _ e => checks e.ok true
    | .wdog rd d e => checks (e.ok && (rd || d == 0)) true
    | .hoist _ e => checks e.ok true
    | _ => none

/-- A format code of R78 that is not reserved. -/
def fmtListed (f : Nat) : Bool := f ≤ 0x0D

/-- Encoding checks of an S-op or extension word (03 R58-R63, 05 R131-R137): the decode fault taken,
`none` when the word passes. -/
def streamCheck (i : Instr) : Option Reason :=
  let ill (b : Bool) : Option Reason := if b then none else some .illegal
  match i with
  | .sbr cond _ b _ => ill (cond.toNat ≤ 8 && ((cond != 7 && cond != 8) || b == 0))
  | .sshl _ _ imm => ill (-63 ≤ imm.toInt && imm.toInt ≤ 63)
  | .sld o => ill (!o.stat || o.n == 0)
  | .sst o => ill (!o.sx && !o.stat && !o.early)
  | .bind _ _ _ _ seg _ => ill (16 ≤ seg.toNat)
  | .task w => ill (w.cls != 3 && w.prof.toNat ≤ 5 && w.gang != 7 && w.koff.toNat % 64 == 0)
  | .opd w =>
    ill (w.ext == (w.mode == 3) && (!w.ext || (w.buf == 0 && w.start.toNat / 2 ^ 28 == 0))
      && (if w.ext then w.len.toNat / 2 ^ 32 != 0 else w.len != 0))
  | .copy w =>
    ill (1 ≤ w.ncdim.toNat && w.ncdim.toNat ≤ 10 && w.trans != 3
      && fmtListed w.sfmt.toNat && fmtListed w.dfmt.toNat)
  | .cdim w => ill (w.level.toNat ≤ 9 && w.count != 0)
  | .svar _ o => ill (o.toNat % 8 == 0)
  | .quota _ w p _ => ill (1 ≤ w.toNat && w.toNat ≤ 256 && p.toNat ≤ 4096)
  | _ => none

end Sys2Proof
end

