-- ==== Sys2Proof/WellFormed.lean ====
section
/-!
DEFINITION. A well-formed instruction: its fields pass the encoding and operand-limit checks that its own
words decide (03 R49 checks 3 and 4, R58-R63).
-/

namespace Sys2Proof

/-- The instruction passes every check its own fields decide. -/
def wellFormed (i : Instr) : Bool := slotCheck i == none && streamCheck i == none

/-- `wellFormed` as a proposition. -/
abbrev WellFormed (i : Instr) : Prop := wellFormed i = true

end Sys2Proof
end

