-- ==== Sys2Proof/Decode.lean ====
section
/-!
DEFINITION. The decoder of core slots and S-ops (03 R50-R72), total on every word and rejecting by the
cause of R49 or the reason of R129, and the encoder written from the same tables.
A word is a natural number whose bit 0 is bit 0 of the slot's first byte (03 R45).
-/

namespace Sys2Proof

/-- What a slot or an S-op decodes to: an instruction, or the cause of its refusal. -/
inductive Decoded (ε : Type) where
  | ok (i : Instr)
  | bad (c : ε)
  deriving DecidableEq, Repr

/-- The instruction of a decoded word. -/
def Decoded.toOption {ε : Type} : Decoded ε → Option Instr
  | .ok i => some i
  | .bad _ => none

/-- Fields of the given widths, lowest first. -/
def unpack : List Nat → Nat → List Nat
  | [], _ => []
  | n :: r, w => w % 2 ^ n :: unpack r (w / 2 ^ n)

/-- The word whose fields, lowest first, have these widths and values. -/
def pack : List (Nat × Nat) → Nat
  | [] => 0
  | (n, v) :: r => v + 2 ^ n * pack r

/-- A one-bit field. -/
def bit (b : Bool) : Nat := if b then 1 else 0

/-- A q guard from its fields. -/
def mkGuard (q neg : Nat) : Guard := ⟨BitVec.ofNat 3 q, neg == 1⟩
/-- A predicate guard from its fields. -/
def mkPGuard (p neg : Nat) : PGuard := ⟨BitVec.ofNat 4 p, neg == 1⟩

/-- Check 3 of R49, then the checks of the form. -/
def formed (zero : Bool) (i : Instr) : Decoded TrapCode :=
  if zero then
    match slotCheck i with
    | none => .ok i
    | some c => .bad c
  else .bad .illenc

/-- An opcode with no listed form: an extension opcode or an illegal one (R49 checks 1 and 2, R74). -/
def unlisted (op ext : Nat) : Decoded TrapCode := if ext ≤ op then .bad .emul else .bad .illop

/-- Widths of the fields op q neg d a B of a scalar slot (03 R51). -/
def scalarWidths : List Nat := [8, 3, 1, 6, 6, 8]

/-- A scalar slot, S or X (03 R51, R67). -/
def decodeScalar (isX : Bool) (w : Nat) : Decoded TrapCode :=
  match unpack scalarWidths w with
  | [op, q, n, d, a, b] =>
    let g := mkGuard q n
    let D := BitVec.ofNat 6 d
    let A := BitVec.ofNat 6 a
    let B := BitVec.ofNat 6 b
    let I := BitVec.ofNat 8 b
    match op with
    | 0x00 => formed (d == 0 && a == 0 && b == 0) (.nop g)
    | 0x01 => formed (b < 64) (.add D A B g)
    | 0x02 => formed true (.addi D A I g)
    | 0x03 => formed (b < 64) (.sub D A B g)
    | 0x04 => formed (b < 64) (.mul D A B g)
    | 0x05 => formed (b < 64) (.mulh D A B g)
    | 0x06 => formed (b < 64) (.mulhn D A B g)
    | 0x07 => formed (b < 64) (.div D A B g)
    | 0x08 => formed (b < 64) (.divn D A B g)
    | 0x09 => formed (b < 64) (.rem D A B g)
    | 0x0A => formed (b < 64) (.remn D A B g)
    | 0x0B => formed (b < 64) (.and D A B g)
    | 0x0C => formed (b < 64) (.or D A B g)
    | 0x0D => formed (b < 64) (.xor D A B g)
    | 0x0E => formed (b < 64) (.andn D A B g)
    | 0x0F => formed true (.andi D A I g)
    | 0x10 => formed true (.ori D A I g)
    | 0x11 => formed true (.xori D A I g)
    | 0x12 => formed (b < 64) (.shl D A B g)
    | 0x13 => formed (b < 64) (.shr D A B g)
    | 0x14 => formed (b < 64) (.sar D A B g)
    | 0x15 => formed (b < 64) (.rotl D A B g)
    | 0x16 => formed (b < 64) (.shli D A B g)
    | 0x17 => formed (b < 64) (.shri D A B g)
    | 0x18 => formed (b < 64) (.sari D A B g)
    | 0x19 => formed (b < 64) (.min D A B g)
    | 0x1A => formed (b < 64) (.max D A B g)
    | 0x1B => formed (b < 64) (.minn D A B g)
    | 0x1C => formed (b < 64) (.maxn D A B g)
    | 0x1D => formed (b == 0) (.clz D A g)
    | 0x1E => formed (b == 0) (.popc D A g)
    | 0x1F => formed (b < 64) (.sext D A B g)
    | 0x20 => formed (b < 64) (.zext D A B g)
    | 0x21 => formed (b < 64) (.cmp (BitVec.ofNat 3 (d / 8)) (BitVec.ofNat 3 d) A B g)
    | 0x22 => formed true (.cmpi (BitVec.ofNat 3 (d / 8)) (BitVec.ofNat 3 d) A I g)
    | 0x23 => formed (b < 64 && a < 8 && d < 8) (.qlog (BitVec.ofNat 3 (b / 8)) (BitVec.ofNat 3 d) (BitVec.ofNat 3 a) (BitVec.ofNat 3 b) g)
    | 0x24 => formed (b < 64) (.sel D A B g)
    | 0x25 => formed true (.lil D (BitVec.ofNat 14 (a + 64 * b)) g)
    | 0x26 => formed true (.lih D (BitVec.ofNat 14 (a + 64 * b)) g)
    | 0x27 => formed (b == 0) (.mov D A g)
    | 0x28 => formed (b < 64) (.mfsr D (BitVec.ofNat 12 (a + 64 * b)) g)
    | 0x29 => formed (b < 64) (.mtsr D (BitVec.ofNat 12 (a + 64 * b)) g)
    | 0x2A => if isX then .bad .illop else formed true (.br (BitVec.ofNat 20 (d + 64 * a + 4096 * b)) g)
    | 0x2B => if isX then .bad .illop else formed (b == 0) (.brx D A g)
    | 0x2C => if isX then .bad .illop else formed true (.call (BitVec.ofNat 20 (d + 64 * a + 4096 * b)) g)
    | 0x2D => if isX then .bad .illop else formed true (.loop D (BitVec.ofNat 14 (a + 64 * b)) g)
    | 0x2E => formed (d == 0) (.nopw (BitVec.ofNat 14 (a + 64 * b)) g)
    | 0x2F => formed (d == 0 && a == 0) (.rot I g)
    | 0x30 => if isX then .bad .illop else formed (d == 0 && a == 0) (.swpt I g)
    | 0x31 => if isX then .bad .illop else formed (d == 0 && a == 0 && b < 2) (if b == 1 then .endtCont g else .endt g)
    | 0x33 => formed (d < 16) (.cload (BitVec.ofNat 4 d) A I g)
    | 0x34 => formed (d < 16 && a < 16 && b < 64) (.cnarrow (BitVec.ofNat 4 d) (BitVec.ofNat 4 a) B g)
    | 0x35 => formed (d < 16 && a < 16) (.crights (BitVec.ofNat 4 d) (BitVec.ofNat 4 a) I g)
    | 0x36 => formed (a < 16 && b < 8) (.cget D (BitVec.ofNat 4 a) (BitVec.ofNat 3 b) g)
    | 0x37 => formed (d < 16 && a < 16 && b == 0) (.cmov (BitVec.ofNat 4 d) (BitVec.ofNat 4 a) g)
    | _ => unlisted op 0xE0
  | _ => .bad .illop

/-- Widths of the fields op guard neg register capability offset imm alias qualifier form (03 R53). -/
def memoryWidths : List Nat := [6, 4, 1, 9, 4, 6, 12, 3, 2, 1]

/-- A load or store slot (03 R53, R54, R68). -/
def decodeMemory (isW : Bool) (w : Nat) : Decoded TrapCode :=
  match unpack memoryWidths w with
  | [op, p, n, r, c, o, i, al, ql, f] =>
    let g := mkPGuard p n
    let q : MemQ := ⟨BitVec.ofNat 3 al, BitVec.ofNat 2 ql⟩
    let V := BitVec.ofNat 9 r
    let C := BitVec.ofNat 4 c
    let O := BitVec.ofNat 6 o
    let S := BitVec.ofNat 2 i
    let hi := BitVec.ofNat 6 (i / 64)
    let sOk := p < 8 && r < 64 && i / 8 % 8 == 0 && f == 0
    match op with
    | 0x00 => formed (p == 0 && n == 0 && r == 0 && c == 0 && o == 0 && i == 0 && al == 0 && ql == 0 && f == 0)
        (.nop (mkGuard 0 0))
    | 0x01 =>
      if isW then formed (sOk && i / 4 % 2 == 0) (.sts (BitVec.ofNat 6 r) C O hi S (mkGuard p n) q)
      else formed sOk (.lds (BitVec.ofNat 6 r) C O hi S (i / 4 % 2 == 1) (mkGuard p n) q)
    | 0x02 => formed (f == 0) (if isW then .vst V C O (BitVec.ofNat 12 i) g q else .vld V C O (BitVec.ofNat 12 i) g q)
    | 0x03 => formed (f == 0) (if isW then .vsts V C O (BitVec.ofNat 6 i) hi g q else .vlds V C O (BitVec.ofNat 6 i) hi g q)
    | 0x04 => formed (i < 512)
        (if isW then .vstx V C O (BitVec.ofNat 9 i) (f == 1) g q else .vldx V C O (BitVec.ofNat 9 i) (f == 1) g q)
    | 0x05 => if isW then .bad .illop else formed (f == 0) (.vldb V C O (BitVec.ofNat 12 i) g q)
    | _ => unlisted op 0x30
  | _ => .bad .illop

/-- Widths of the fields op guard neg d a b c type rounding saturate lia lid function (03 R55). -/
def vectorWidths : List Nat := [8, 4, 1, 9, 9, 9, 9, 4, 2, 1, 1, 1, 6]

/-- A vector slot (03 R55, R69). -/
def decodeVector (isY : Bool) (w : Nat) : Decoded TrapCode :=
  match unpack vectorWidths w with
  | [op, p, n, d, a, b, c, t, r, s, la, ld, f] =>
    let o : VOp := ⟨BitVec.ofNat 9 d, BitVec.ofNat 9 a, BitVec.ofNat 9 b, BitVec.ofNat 9 c, mkPGuard p n,
      BitVec.ofNat 4 t, BitVec.ofNat 2 r, s == 1, la == 1, ld == 1, BitVec.ofNat 6 f⟩
    if op = 0 then formed (w == 0) (.nop (mkGuard 0 0))
    else if isY ∧ (op = 0x2C ∨ op = 0x70 ∨ op = 0x71) then .bad .illop
    else
      match vectorOp op with
      | some mk => formed true (mk o)
      | none => unlisted op 0xE0
  | _ => .bad .illop

/-- Widths of the fields op tile 0 capability offset row0 count profile t scale size (03 R56). -/
def matrixWidths : List Nat := [8, 3, 1, 4, 6, 9, 10, 6, 1, 6, 10]

/-- The matrix slot (03 R56, R70). -/
def decodeMatrix (w : Nat) : Decoded TrapCode :=
  match unpack matrixWidths w with
  | [op, tl, z, c, o, r, k, pf, t, sc, sz] =>
    let m : MOp := ⟨BitVec.ofNat 3 tl, BitVec.ofNat 4 c, BitVec.ofNat 6 o, BitVec.ofNat 9 r, BitVec.ofNat 10 k,
      BitVec.ofNat 6 pf, t == 1, BitVec.ofNat 6 sc, BitVec.ofNat 10 sz⟩
    if op = 0 then formed (w == 0) (.nop (mkGuard 0 0))
    else
      match matrixOp op with
      | some mk => formed (z == 0) (mk m)
      | none => unlisted op 0xE0
  | _ => .bad .illop

/-- Widths of the fields op q neg and the wait and signal fields, then the operands (03 R57). -/
def engineWidths : List Nat := [10, 3, 1, 1, 8, 8, 1, 8, 4, 52]

/-- The engine slot (03 R57, R71; 07 R174, R180; 08 R197-R203; 11 R283; 15 R338; 18 R381).
Operand bit k here is slot bit 44 + k. -/
def decodeEngine (w : Nat) : Decoded TrapCode :=
  match unpack engineWidths w with
  | [op, q, n, we, ws, wt, se, ss, si, x] =>
    let e : ESync := ⟨mkGuard q n, we == 1, BitVec.ofNat 8 ws, BitVec.ofNat 8 wt, se == 1, BitVec.ofNat 8 ss,
      BitVec.ofNat 4 si⟩
    let atom : AtomOp := ⟨BitVec.ofNat 6 x, BitVec.ofNat 6 (x / 2 ^ 6), BitVec.ofNat 6 (x / 2 ^ 12),
      BitVec.ofNat 6 (x / 2 ^ 18), BitVec.ofNat 4 (x / 2 ^ 24), BitVec.ofNat 4 (x / 2 ^ 28), x / 2 ^ 32 % 2 == 1,
      BitVec.ofNat 3 (x / 2 ^ 33), BitVec.ofNat 2 (x / 2 ^ 36), BitVec.ofNat 3 (x / 2 ^ 38), BitVec.ofNat 11 (x / 2 ^ 41)⟩
    match op with
    | 0x000 => formed (x == 0) (.nopE e)
    | 0x010 => formed (x < 2 ^ 22) (.cplvl (BitVec.ofNat 4 x) (BitVec.ofNat 6 (x / 2 ^ 4)) (BitVec.ofNat 6 (x / 2 ^ 10)) (BitVec.ofNat 6 (x / 2 ^ 16)) e)
    | 0x011 => formed (x < 2 ^ 10) (.cpsrc (BitVec.ofNat 4 x) (BitVec.ofNat 6 (x / 2 ^ 4)) e)
    | 0x012 => formed (x < 2 ^ 10) (.cpdst (BitVec.ofNat 4 x) (BitVec.ofNat 6 (x / 2 ^ 4)) e)
    | 0x013 => formed (x < 2 ^ 45) (.cpgo ⟨(BitVec.ofNat 2 x), (BitVec.ofNat 4 (x / 2 ^ 2)), (BitVec.ofNat 5 (x / 2 ^ 6)), (BitVec.ofNat 5 (x / 2 ^ 11)), (BitVec.ofNat 2 (x / 2 ^ 16)), (x / 2 ^ 18 % 2 == 1), (x / 2 ^ 19 % 2 == 1), (BitVec.ofNat 6 (x / 2 ^ 20)), (BitVec.ofNat 4 (x / 2 ^ 26)), (BitVec.ofNat 6 (x / 2 ^ 30)), (x / 2 ^ 36 % 2 == 1), (BitVec.ofNat 8 (x / 2 ^ 37))⟩ e)
    | 0x014 => formed (x < 2 ^ 24 && x / 2 ^ 4 % 2 == 0) (.cpfill (BitVec.ofNat 4 x) (BitVec.ofNat 6 (x / 2 ^ 5)) (BitVec.ofNat 6 (x / 2 ^ 11)) (BitVec.ofNat 5 (x / 2 ^ 17)) (BitVec.ofNat 2 (x / 2 ^ 22)) e)
    | 0x015 => formed (x < 2 ^ 12) (.cppub (BitVec.ofNat 6 x) (BitVec.ofNat 6 (x / 2 ^ 6)) e)
    | 0x016 => formed (x == 0) (.cpabort e)
    | 0x017 => formed (x < 2 ^ 9) (.cpqry (BitVec.ofNat 6 x) (BitVec.ofNat 3 (x / 2 ^ 6)) e)
    | 0x020 => formed (true) (.amo atom e)
    | 0x021 => formed (true) (.amor atom e)
    | 0x022 => formed (true) (.amof atom e)
    | 0x023 => formed (x < 2 ^ 4) (.drain (BitVec.ofNat 3 x) (x / 2 ^ 3 % 2 == 1) e)
    | 0x030 => formed (x == 0) (.semsig e)
    | 0x031 => formed (x < 2 ^ 31) (.semwait (BitVec.ofNat 8 (x / 2 ^ 16)) (BitVec.ofNat 16 x) (BitVec.ofNat 6 (x / 2 ^ 25)) (x / 2 ^ 24 % 2 == 1) e)
    | 0x032 => formed (x < 2 ^ 26) (.barinit (BitVec.ofNat 9 x) (BitVec.ofNat 6 (x / 2 ^ 9)) (BitVec.ofNat 8 (x / 2 ^ 15)) (BitVec.ofNat 2 (x / 2 ^ 23)) (x / 2 ^ 25 % 2 == 1) e)
    | 0x033 => formed (x < 2 ^ 9) (.bararr (BitVec.ofNat 9 x) e)
    | 0x034 => formed (x < 2 ^ 9) (.barwait (BitVec.ofNat 9 x) e)
    | 0x035 => formed (x < 2 ^ 15) (.barexp (BitVec.ofNat 9 x) (BitVec.ofNat 6 (x / 2 ^ 9)) e)
    | 0x036 => formed (x < 2 ^ 15) (.barqry (BitVec.ofNat 9 x) (BitVec.ofNat 6 (x / 2 ^ 9)) e)
    | 0x040 => formed (x < 2 ^ 20) (.spawn (BitVec.ofNat 3 x) (BitVec.ofNat 4 (x / 2 ^ 9)) (BitVec.ofNat 6 (x / 2 ^ 13)) (BitVec.ofNat 6 (x / 2 ^ 3)) (x / 2 ^ 19 % 2 == 1) e)
    | 0x041 => formed (x == 0) (.next e)
    | 0x042 => formed (x < 2 ^ 16) (.yield (BitVec.ofNat 8 x) (BitVec.ofNat 8 (x / 2 ^ 8)) e)
    | 0x048 => formed (x < 2 ^ 15) (.csend (BitVec.ofNat 9 x) (BitVec.ofNat 6 (x / 2 ^ 9)) e)
    | 0x049 => formed (x < 2 ^ 15) (.crecv (BitVec.ofNat 9 x) (BitVec.ofNat 6 (x / 2 ^ 9)) e)
    | 0x04A => formed (x < 2 ^ 10) (.ctab (BitVec.ofNat 4 x) (BitVec.ofNat 6 (x / 2 ^ 4)) e)
    | 0x050 => formed (x < 2 ^ 9) (.sigrd (BitVec.ofNat 6 x) (BitVec.ofNat 2 (x / 2 ^ 6)) (x / 2 ^ 8 % 2 == 1) e)
    | 0x051 => formed (x < 2 ^ 12) (.sigfold (BitVec.ofNat 6 x) (BitVec.ofNat 6 (x / 2 ^ 6)) e)
    | 0x052 => formed (x < 2 ^ 2) (.sigclr (BitVec.ofNat 2 x) e)
    | 0x053 => formed (x < 2 ^ 50) (.zinject ⟨(BitVec.ofNat 2 x), (BitVec.ofNat 4 (x / 2 ^ 2)), (BitVec.ofNat 8 (x / 2 ^ 6)), (BitVec.ofNat 7 (x / 2 ^ 14)), (BitVec.ofNat 9 (x / 2 ^ 21)), (BitVec.ofNat 9 (x / 2 ^ 30)), (BitVec.ofNat 9 (x / 2 ^ 39)), (BitVec.ofNat 2 (x / 2 ^ 48))⟩ e)
    | 0x060 => formed (x < 2 ^ 16) (.trap (BitVec.ofNat 16 x) e)
    | 0x061 => formed (x < 2) (.eret (x % 2 == 1) e)
    | 0x062 => formed (x < 2 ^ 24) (.ctxsave (BitVec.ofNat 4 x) (BitVec.ofNat 6 (x / 2 ^ 4)) (BitVec.ofNat 8 (x / 2 ^ 10)) (BitVec.ofNat 6 (x / 2 ^ 18)) e)
    | 0x063 => formed (x < 2 ^ 24) (.ctxload (BitVec.ofNat 4 x) (BitVec.ofNat 6 (x / 2 ^ 4)) (BitVec.ofNat 8 (x / 2 ^ 10)) (BitVec.ofNat 6 (x / 2 ^ 18)) e)
    | 0x064 => formed (x < 2 ^ 16) (.halt (BitVec.ofNat 16 x) e)
    | 0x065 => formed (x < 2 ^ 7) (.wdog (x % 2 == 1) (BitVec.ofNat 6 (x / 2 ^ 1)) e)
    | 0x066 => formed (x < 2 ^ 8) (.hoist (BitVec.ofNat 8 x) e)
    | _ => unlisted op 0x380
  | _ => .bad .illop

/-- An S-op or extension word that passes its encoding checks (03 R58). -/
def formedS (zero : Bool) (i : Instr) : Decoded Reason :=
  if zero then
    match streamCheck i with
    | none => .ok i
    | some c => .bad c
  else .bad .illegal

/-- Widths of the fields op flags a b c condition imm32 imm64 (03 R58). -/
def streamWidths : List Nat := [8, 8, 4, 4, 4, 4, 32, 64]

/-- An S-op or extension word of 128 bits (03 R58-R63, R72; 05 R131-R137). -/
def decodeStream (w : Nat) : Decoded Reason :=
  match unpack streamWidths w with
  | [op, fl, a, b, c, cd, i, j] =>
    let A := BitVec.ofNat 4 a
    let B := BitVec.ofNat 4 b
    let C := BitVec.ofNat 4 c
    let I := BitVec.ofNat 32 i
    let J := BitVec.ofNat 64 j
    let mem : SmemOp := ⟨BitVec.ofNat 2 fl, fl / 4 % 2 == 1, fl / 8 % 2 == 1, fl / 16 % 2 == 1, A, B, BitVec.ofNat 12 i, J⟩
    let z := cd == 0
    match op with
    | 0x00 => formedS (w == 0) .snop
    | 0x01 => formedS (z && fl == 0 && a == 0 && b == 0 && c == 0 && i == 0) (.sjmp J)
    | 0x02 => formedS (fl == 0 && c == 0 && i == 0) (.sbr (BitVec.ofNat 4 cd) A B J)
    | 0x03 => formedS (z && fl == 0 && a == 0 && b == 0 && c == 0 && i == 0) (.scall J)
    | 0x04 => formedS (z && fl < 2 && a == 0 && b == 0 && c == 0 && i == 0 && j == 0) (.sret (fl == 1))
    | 0x05 => formedS (z && fl == 0 && b == 0 && c == 0 && i == 0) (.sloop A J)
    | 0x06 => formedS (z && fl == 0 && a == 0 && b == 0 && c == 0 && i == 0 && j == 0) .sendl
    | 0x07 => formedS (z && fl == 0 && a == 0 && b == 0 && c == 0 && j == 0) (.shalt I)
    | 0x10 => formedS (z && fl == 0 && b == 0 && c == 0 && i == 0) (.sli A J)
    | 0x11 => formedS (z && fl == 0 && i == 0 && j == 0) (.sadd A B C)
    | 0x12 => formedS (z && fl == 0 && c == 0 && j == 0) (.saddi A B I)
    | 0x13 => formedS (z && fl == 0 && i == 0 && j == 0) (.smul A B C)
    | 0x14 => formedS (z && fl == 0 && c == 0 && j == 0) (.sshl A B I)
    | 0x15 => formedS (z && fl == 0 && i == 0 && j == 0) (.sand A B C)
    | 0x16 => formedS (z && fl == 0 && c == 0 && i == 0 && j == 0) (.smov A B)
    | 0x20 => formedS (z && fl < 32 && c == 0 && i < 4096) (.sld mem)
    | 0x21 => formedS (z && fl < 4 && c == 0 && i < 4096) (.sst mem)
    | 0x22 => formedS (z && fl == 0 && i < 4096) (.park A B C (BitVec.ofNat 12 i) J)
    | 0x30 => formedS (z && fl < 64 && c == 0 && i < 2 ^ 21 && i / 2 ^ 12 % 16 == 0)
        (.bind (BitVec.ofNat 6 fl) A B (BitVec.ofNat 12 i) (BitVec.ofNat 5 (i / 2 ^ 16)) J)
    | 0x31 => formedS (z && fl < 128 && a == 0 && b == 0 && c == 0 && i == 0 && j == 0)
        (.unbind (BitVec.ofNat 6 fl) (fl / 64 == 1))
    | 0x40 => formedS (i == 0 && w / 2 ^ 26 % 64 == 0)
        (.task ⟨BitVec.ofNat 2 fl, BitVec.ofNat 6 (fl / 4), BitVec.ofNat 3 (w / 2 ^ 16), BitVec.ofNat 3 (w / 2 ^ 19),
          BitVec.ofNat 3 (w / 2 ^ 22), w / 2 ^ 25 % 2 == 1, BitVec.ofNat 28 j, BitVec.ofNat 36 (j / 2 ^ 28)⟩)
    | 0x41 => formedS true
        (.opd ⟨BitVec.ofNat 6 fl, BitVec.ofNat 2 (fl / 64), BitVec.ofNat 3 (w / 2 ^ 16), w / 2 ^ 19 % 2 == 1,
          BitVec.ofNat 44 (w / 2 ^ 20), J⟩)
    | 0x42 => formedS (a == 0 && b == 0 && c == 0 && z && i / 2 ^ 5 % 8 == 0 && i < 2 ^ 14 && j == 0)
        (.copy ⟨BitVec.ofNat 4 fl, BitVec.ofNat 2 (fl / 16), BitVec.ofNat 2 (fl / 64), BitVec.ofNat 5 i,
          BitVec.ofNat 5 (i / 2 ^ 8), i / 2 ^ 13 == 1⟩)
    | 0x43 => formedS (fl / 16 == 0)
        (.cdim ⟨BitVec.ofNat 4 fl, BitVec.ofNat 32 (w / 2 ^ 16), BitVec.ofNat 40 (w / 2 ^ 48), BitVec.ofNat 40 (w / 2 ^ 88)⟩)
    | 0x50 => formedS (z && fl < 2 && a == 0 && b == 0 && c == 0 && i == 0 && j == 0) (.sfence (fl == 1))
    | 0x51 => formedS (z && fl < 64 && b == 0 && c == 0 && j == 0) (.notify (BitVec.ofNat 6 fl) A I)
    | 0x52 => formedS (z && fl == 0 && a == 0 && b == 0 && c == 0 && j == 0) (.ckpt I)
    | 0x53 => formedS (z && fl == 0 && a == 0 && b == 0 && c == 0 && i < 4096) (.svar (BitVec.ofNat 12 i) J)
    | 0x54 => formedS (z && fl < 16 && a == 0 && b == 0 && c == 0 && i < 8 && j == 0)
        (.prio (BitVec.ofNat 4 fl) (BitVec.ofNat 3 i))
    | 0x55 => formedS (z && fl == 0 && a == 0 && b == 0 && c == 0 && i == 0) (.faultv J)
    | 0x56 => formedS (z && fl < 16 && a == 0 && b == 0 && c == 0 && i < 2 ^ 29 && i / 2 ^ 9 % 2 ^ 7 == 0 && j < 4096)
        (.quota (BitVec.ofNat 4 fl) (BitVec.ofNat 9 i) (BitVec.ofNat 13 (i / 2 ^ 16)) (BitVec.ofNat 12 j))
    | _ => if 0xE0 ≤ op then .bad .extension else .bad .illegal
  | _ => .bad .illegal

/-- The slot kinds a word may stand in. -/
inductive SlotKind where
  | s | x | l | w | v | y | m | e | sop
  deriving DecidableEq, Repr

/-- The instruction a slot's word decodes to, with a core cause or a stream reason where it is refused (log 26, DEDUCED). -/
def decodeSlot (k : SlotKind) (w : Nat) : Decoded (TrapCode ⊕ Reason) :=
  let core (d : Decoded TrapCode) : Decoded (TrapCode ⊕ Reason) :=
    match d with
    | .ok i => .ok i
    | .bad c => .bad (.inl c)
  match k with
  | .s => core (decodeScalar false w)
  | .x => core (decodeScalar true w)
  | .l => core (decodeMemory false w)
  | .w => core (decodeMemory true w)
  | .v => core (decodeVector false w)
  | .y => core (decodeVector true w)
  | .m => core (decodeMatrix w)
  | .e => core (decodeEngine w)
  | .sop =>
    match decodeStream w with
    | .ok i => .ok i
    | .bad r => .bad (.inr r)

/-- Bytes of a slot (03 R45, R58). -/
def SlotKind.bytes : SlotKind → Nat
  | .s => 4
  | .x => 4
  | .l => 6
  | .w => 6
  | .v => 8
  | .y => 8
  | .m => 8
  | .e => 12
  | .sop => 16

/-- The instruction of a word as the opcode table numbers its bits: 32 bits stand in the S slot, 48 in L,
64 in V, 96 in E, and 128 in a stream object. -/
def decodeTableWord (nbits w : Nat) : Option Instr :=
  if nbits = 32 then (decodeSlot .s w).toOption
  else if nbits = 48 then (decodeSlot .l w).toOption
  else if nbits = 64 then (decodeSlot .v w).toOption
  else if nbits = 96 then (decodeSlot .e w).toOption
  else if nbits = 128 then (decodeSlot .sop w).toOption
  else none

/-- Scalar slot word from opcode, guard, d, a and B. -/
def packScalar (op : Nat) (g : Guard) (d a b : Nat) : Nat :=
  pack [(8, op), (3, g.q.toNat), (1, bit g.neg), (6, d), (6, a), (8, b)]

/-- Scalar slot word whose d, a and B fields together hold `x`. -/
def packWide (op : Nat) (g : Guard) (d x : Nat) : Nat := packScalar op g d (x % 64) (x / 64)

/-- Load or store slot word. -/
def packMemory (op p n r c o i : Nat) (q : MemQ) (f : Nat) : Nat :=
  pack [(6, op), (4, p), (1, n), (9, r), (4, c), (6, o), (12, i), (3, q.cls.toNat), (2, q.qual.toNat), (1, f)]

/-- Vector slot word. -/
def packVector (op : Nat) (o : VOp) : Nat :=
  pack [(8, op), (4, o.g.p.toNat), (1, bit o.g.neg), (9, o.d.toNat), (9, o.a.toNat), (9, o.b.toNat), (9, o.c.toNat),
    (4, o.typ.toNat), (2, o.rnd.toNat), (1, bit o.sat), (1, bit o.lia), (1, bit o.lid), (6, o.fn.toNat)]

/-- Matrix slot word. -/
def packMatrix (op : Nat) (o : MOp) : Nat :=
  pack [(8, op), (3, o.tile.toNat), (1, 0), (4, o.cap.toNat), (6, o.off.toNat), (9, o.row0.toNat), (10, o.count.toNat),
    (6, o.prof.toNat), (1, bit o.t), (6, o.scale.toNat), (10, o.size.toNat)]

/-- Engine slot word with operand bits `x`. -/
def packEngine (op : Nat) (e : ESync) (x : Nat) : Nat :=
  pack [(10, op), (3, e.g.q.toNat), (1, bit e.g.neg), (1, bit e.waitEn), (8, e.waitSem.toNat), (8, e.waitThr.toNat),
    (1, bit e.sigEn), (8, e.sigSem.toNat), (4, e.sigInc.toNat), (52, x)]

/-- Operand bits of an atomic (07 R174). -/
def packAtom (o : AtomOp) : Nat :=
  pack [(6, o.d.toNat), (6, o.off.toNat), (6, o.v.toNat), (6, o.cmp.toNat), (4, o.cap.toNat), (4, o.fn.toNat),
    (1, bit o.size), (3, o.cls.toNat), (2, o.order.toNat), (3, o.scope.toNat), (11, o.imm.toNat)]

/-- S-op word from its fields (03 R58). -/
def packStream (op fl a b c cd i j : Nat) : Nat :=
  pack [(8, op), (8, fl), (4, a), (4, b), (4, c), (4, cd), (32, i), (64, j)]

/-- SLD and SST flags. -/
def SmemOp.flags (o : SmemOp) : Nat :=
  pack [(2, o.size.toNat), (1, bit o.sx), (1, bit o.stat), (1, bit o.early)]

/-- The slot and the word of an instruction; `none` for a step that is no instruction. -/
def encode (i : Instr) : Option (SlotKind × Nat) :=
  match vectorForm i, matrixForm i with
  | some (r, o), _ => some (.v, packVector r.op o)
  | _, some (r, o) => some (.m, packMatrix r.op o)
  | none, none =>
    match i with
    | .nop g => some (.s, packScalar 0x00 g 0 0 0)
    | .add d a b g => some (.s, packScalar 0x01 g d.toNat a.toNat b.toNat)
    | .sub d a b g => some (.s, packScalar 0x03 g d.toNat a.toNat b.toNat)
    | .mul d a b g => some (.s, packScalar 0x04 g d.toNat a.toNat b.toNat)
    | .mulh d a b g => some (.s, packScalar 0x05 g d.toNat a.toNat b.toNat)
    | .mulhn d a b g => some (.s, packScalar 0x06 g d.toNat a.toNat b.toNat)
    | .div d a b g => some (.s, packScalar 0x07 g d.toNat a.toNat b.toNat)
    | .divn d a b g => some (.s, packScalar 0x08 g d.toNat a.toNat b.toNat)
    | .rem d a b g => some (.s, packScalar 0x09 g d.toNat a.toNat b.toNat)
    | .remn d a b g => some (.s, packScalar 0x0A g d.toNat a.toNat b.toNat)
    | .and d a b g => some (.s, packScalar 0x0B g d.toNat a.toNat b.toNat)
    | .or d a b g => some (.s, packScalar 0x0C g d.toNat a.toNat b.toNat)
    | .xor d a b g => some (.s, packScalar 0x0D g d.toNat a.toNat b.toNat)
    | .andn d a b g => some (.s, packScalar 0x0E g d.toNat a.toNat b.toNat)
    | .shl d a b g => some (.s, packScalar 0x12 g d.toNat a.toNat b.toNat)
    | .shr d a b g => some (.s, packScalar 0x13 g d.toNat a.toNat b.toNat)
    | .sar d a b g => some (.s, packScalar 0x14 g d.toNat a.toNat b.toNat)
    | .rotl d a b g => some (.s, packScalar 0x15 g d.toNat a.toNat b.toNat)
    | .min d a b g => some (.s, packScalar 0x19 g d.toNat a.toNat b.toNat)
    | .max d a b g => some (.s, packScalar 0x1A g d.toNat a.toNat b.toNat)
    | .minn d a b g => some (.s, packScalar 0x1B g d.toNat a.toNat b.toNat)
    | .maxn d a b g => some (.s, packScalar 0x1C g d.toNat a.toNat b.toNat)
    | .sel d a b g => some (.s, packScalar 0x24 g d.toNat a.toNat b.toNat)
    | .addi d a i g => some (.s, packScalar 0x02 g d.toNat a.toNat i.toNat)
    | .andi d a i g => some (.s, packScalar 0x0F g d.toNat a.toNat i.toNat)
    | .ori d a i g => some (.s, packScalar 0x10 g d.toNat a.toNat i.toNat)
    | .xori d a i g => some (.s, packScalar 0x11 g d.toNat a.toNat i.toNat)
    | .shli d a b g => some (.s, packScalar 0x16 g d.toNat a.toNat b.toNat)
    | .shri d a b g => some (.s, packScalar 0x17 g d.toNat a.toNat b.toNat)
    | .sari d a b g => some (.s, packScalar 0x18 g d.toNat a.toNat b.toNat)
    | .sext d a b g => some (.s, packScalar 0x1F g d.toNat a.toNat b.toNat)
    | .zext d a b g => some (.s, packScalar 0x20 g d.toNat a.toNat b.toNat)
    | .clz d a g => some (.s, packScalar 0x1D g d.toNat a.toNat 0)
    | .popc d a g => some (.s, packScalar 0x1E g d.toNat a.toNat 0)
    | .mov d a g => some (.s, packScalar 0x27 g d.toNat a.toNat 0)
    | .cmp c q a b g => some (.s, packScalar 0x21 g (q.toNat + 8 * c.toNat) a.toNat b.toNat)
    | .cmpi c q a i g => some (.s, packScalar 0x22 g (q.toNat + 8 * c.toNat) a.toNat i.toNat)
    | .qlog f qd qa qb g => some (.s, packScalar 0x23 g qd.toNat qa.toNat (qb.toNat + 8 * f.toNat))
    | .lil d i g => some (.s, packWide 0x25 g d.toNat i.toNat)
    | .lih d i g => some (.s, packWide 0x26 g d.toNat i.toNat)
    | .mfsr d n g => some (.s, packWide 0x28 g d.toNat n.toNat)
    | .mtsr d n g => some (.s, packWide 0x29 g d.toNat n.toNat)
    | .br o g => some (.s, packWide 0x2A g (o.toNat % 64) (o.toNat / 64))
    | .brx d a g => some (.s, packScalar 0x2B g d.toNat a.toNat 0)
    | .call o g => some (.s, packWide 0x2C g (o.toNat % 64) (o.toNat / 64))
    | .loop d i g => some (.s, packWide 0x2D g d.toNat i.toNat)
    | .nopw i g => some (.s, packWide 0x2E g 0 i.toNat)
    | .rot i g => some (.s, packScalar 0x2F g 0 0 i.toNat)
    | .swpt t g => some (.s, packScalar 0x30 g 0 0 t.toNat)
    | .endt g => some (.s, packScalar 0x31 g 0 0 0)
    | .endtCont g => some (.s, packScalar 0x31 g 0 0 1)
    | .cload c a i g => some (.s, packScalar 0x33 g c.toNat a.toNat i.toNat)
    | .cnarrow c ca b g => some (.s, packScalar 0x34 g c.toNat ca.toNat b.toNat)
    | .crights c ca m g => some (.s, packScalar 0x35 g c.toNat ca.toNat m.toNat)
    | .cget d ca f g => some (.s, packScalar 0x36 g d.toNat ca.toNat f.toNat)
    | .cmov c ca g => some (.s, packScalar 0x37 g c.toNat ca.toNat 0)
    | .lds r c o i sz sx g q => some (.l, packMemory 0x01 g.q.toNat (bit g.neg) r.toNat c.toNat o.toNat
        (sz.toNat + 4 * bit sx + 64 * i.toNat) q 0)
    | .sts r c o i sz g q => some (.w, packMemory 0x01 g.q.toNat (bit g.neg) r.toNat c.toNat o.toNat
        (sz.toNat + 64 * i.toNat) q 0)
    | .vld v c o i g q => some (.l, packMemory 0x02 g.p.toNat (bit g.neg) v.toNat c.toNat o.toNat i.toNat q 0)
    | .vst v c o i g q => some (.w, packMemory 0x02 g.p.toNat (bit g.neg) v.toNat c.toNat o.toNat i.toNat q 0)
    | .vldb v c o i g q => some (.l, packMemory 0x05 g.p.toNat (bit g.neg) v.toNat c.toNat o.toNat i.toNat q 0)
    | .vlds v c o t i g q => some (.l, packMemory 0x03 g.p.toNat (bit g.neg) v.toNat c.toNat o.toNat
        (t.toNat + 64 * i.toNat) q 0)
    | .vsts v c o t i g q => some (.w, packMemory 0x03 g.p.toNat (bit g.neg) v.toNat c.toNat o.toNat
        (t.toNat + 64 * i.toNat) q 0)
    | .vldx v c o x wi g q => some (.l, packMemory 0x04 g.p.toNat (bit g.neg) v.toNat c.toNat o.toNat x.toNat q (bit wi))
    | .vstx v c o x wi g q => some (.w, packMemory 0x04 g.p.toNat (bit g.neg) v.toNat c.toNat o.toNat x.toNat q (bit wi))
    | .amo o e => some (.e, packEngine 0x020 e (packAtom o))
    | .amor o e => some (.e, packEngine 0x021 e (packAtom o))
    | .amof o e => some (.e, packEngine 0x022 e (packAtom o))
    | .drain sc en e => some (.e, packEngine 0x023 e (pack [(3, sc.toNat), (1, bit en)]))
    | .cplvl l c s d e => some (.e, packEngine 0x010 e (pack [(4, l.toNat), (6, c.toNat), (6, s.toNat), (6, d.toNat)]))
    | .cpsrc c o e => some (.e, packEngine 0x011 e (pack [(4, c.toNat), (6, o.toNat)]))
    | .cpdst c o e => some (.e, packEngine 0x012 e (pack [(4, c.toNat), (6, o.toNat)]))
    | .cpgo o e => some (.e, packEngine 0x013 e (pack [(2, o.esize.toNat), (4, o.levels.toNat), (5, o.sfmt.toNat),
        (5, o.dfmt.toNat), (2, o.trans.toNat), (1, bit o.pub), (1, bit o.gather), (6, o.shadow.toNat),
        (4, o.idxCap.toNat), (6, o.idxOff.toNat), (1, bit o.cellEn), (8, o.cell.toNat)]))
    | .cpfill c o v n f e => some (.e, packEngine 0x014 e (pack [(4, c.toNat), (1, 0), (6, o.toNat), (6, v.toNat),
        (5, n.toNat), (2, f.toNat)]))
    | .cppub d h e => some (.e, packEngine 0x015 e (pack [(6, d.toNat), (6, h.toNat)]))
    | .cpabort e => some (.e, packEngine 0x016 e 0)
    | .cpqry d k e => some (.e, packEngine 0x017 e (pack [(6, d.toNat), (3, k.toNat)]))
    | .nopE e => some (.e, packEngine 0x000 e 0)
    | .semsig e => some (.e, packEngine 0x030 e 0)
    | .semwait n t d nc e => some (.e, packEngine 0x031 e (pack [(16, t.toNat), (8, n.toNat), (1, bit nc), (6, d.toNat)]))
    | .barinit b t dl m fr e => some (.e, packEngine 0x032 e (pack [(9, b.toNat), (6, t.toNat), (8, dl.toNat),
        (2, m.toNat), (1, bit fr)]))
    | .bararr b e => some (.e, packEngine 0x033 e b.toNat)
    | .barwait b e => some (.e, packEngine 0x034 e b.toNat)
    | .barexp b s e => some (.e, packEngine 0x035 e (pack [(9, b.toNat), (6, s.toNat)]))
    | .barqry b d e => some (.e, packEngine 0x036 e (pack [(9, b.toNat), (6, d.toNat)]))
    | .spawn q c o st af e => some (.e, packEngine 0x040 e (pack [(3, q.toNat), (6, st.toNat), (4, c.toNat),
        (6, o.toNat), (1, bit af)]))
    | .next e => some (.e, packEngine 0x041 e 0)
    | .yield n t e => some (.e, packEngine 0x042 e (pack [(8, n.toNat), (8, t.toNat)]))
    | .csend v d e => some (.e, packEngine 0x048 e (pack [(9, v.toNat), (6, d.toNat)]))
    | .crecv v d e => some (.e, packEngine 0x049 e (pack [(9, v.toNat), (6, d.toNat)]))
    | .ctab c o e => some (.e, packEngine 0x04A e (pack [(4, c.toNat), (6, o.toNat)]))
    | .sigrd d k sy e => some (.e, packEngine 0x050 e (pack [(6, d.toNat), (2, k.toNat), (1, bit sy)]))
    | .sigfold a b e => some (.e, packEngine 0x051 e (pack [(6, a.toNat), (6, b.toNat)]))
    | .sigclr k e => some (.e, packEngine 0x052 e k.toNat)
    | .zinject o e => some (.e, packEngine 0x053 e (pack [(2, o.kind.toNat), (4, o.cap.toNat), (8, o.att.toNat),
        (7, o.bit.toNat), (9, o.a.toNat), (9, o.b.toNat), (9, o.c.toNat), (2, o.role.toNat)]))
    | .trap c e => some (.e, packEngine 0x060 e c.toNat)
    | .eret nx e => some (.e, packEngine 0x061 e (bit nx))
    | .ctxsave c o p b e => some (.e, packEngine 0x062 e (pack [(4, c.toNat), (6, o.toNat), (8, p.toNat), (6, b.toNat)]))
    | .ctxload c o p b e => some (.e, packEngine 0x063 e (pack [(4, c.toNat), (6, o.toNat), (8, p.toNat), (6, b.toNat)]))
    | .halt c e => some (.e, packEngine 0x064 e c.toNat)
    | .wdog rd d e => some (.e, packEngine 0x065 e (pack [(1, bit rd), (6, d.toNat)]))
    | .hoist t e => some (.e, packEngine 0x066 e t.toNat)
    | .snop => some (.sop, packStream 0x00 0 0 0 0 0 0 0)
    | .sjmp t => some (.sop, packStream 0x01 0 0 0 0 0 0 t.toNat)
    | .sbr cd a b t => some (.sop, packStream 0x02 0 a.toNat b.toNat 0 cd.toNat 0 t.toNat)
    | .scall t => some (.sop, packStream 0x03 0 0 0 0 0 0 t.toNat)
    | .sret nx => some (.sop, packStream 0x04 (bit nx) 0 0 0 0 0 0)
    | .sloop a x => some (.sop, packStream 0x05 0 a.toNat 0 0 0 0 x.toNat)
    | .sendl => some (.sop, packStream 0x06 0 0 0 0 0 0 0)
    | .shalt c => some (.sop, packStream 0x07 0 0 0 0 0 c.toNat 0)
    | .sli a i => some (.sop, packStream 0x10 0 a.toNat 0 0 0 0 i.toNat)
    | .sadd a b c => some (.sop, packStream 0x11 0 a.toNat b.toNat c.toNat 0 0 0)
    | .saddi a b i => some (.sop, packStream 0x12 0 a.toNat b.toNat 0 0 i.toNat 0)
    | .smul a b c => some (.sop, packStream 0x13 0 a.toNat b.toNat c.toNat 0 0 0)
    | .sshl a b i => some (.sop, packStream 0x14 0 a.toNat b.toNat 0 0 i.toNat 0)
    | .sand a b c => some (.sop, packStream 0x15 0 a.toNat b.toNat c.toNat 0 0 0)
    | .smov a b => some (.sop, packStream 0x16 0 a.toNat b.toNat 0 0 0 0)
    | .sld o => some (.sop, packStream 0x20 o.flags o.a.toNat o.b.toNat 0 0 o.n.toNat o.imm.toNat)
    | .sst o => some (.sop, packStream 0x21 o.flags o.a.toNat o.b.toNat 0 0 o.n.toNat o.imm.toNat)
    | .park a b c n i => some (.sop, packStream 0x22 0 a.toNat b.toNat c.toNat 0 n.toNat i.toNat)
    | .bind bf a b n s i => some (.sop, packStream 0x30 bf.toNat a.toNat b.toNat 0 0 (n.toNat + 2 ^ 16 * s.toNat) i.toNat)
    | .unbind bf d => some (.sop, packStream 0x31 (bf.toNat + 64 * bit d) 0 0 0 0 0 0)
    | .task w => some (.sop, pack [(8, 0x40), (2, w.cls.toNat), (6, w.prof.toNat), (3, w.gang.toNat), (3, w.nopd.toNat),
        (3, w.depth.toNat), (1, bit w.persist), (6, 0), (32, 0), (28, w.kobj.toNat), (36, w.koff.toNat)])
    | .opd w => some (.sop, pack [(8, 0x41), (6, w.buf.toNat), (2, w.mode.toNat), (3, w.cap.toNat), (1, bit w.ext),
        (44, w.start.toNat), (64, w.len.toNat)])
    | .copy w => some (.sop, pack [(8, 0x42), (4, w.ncdim.toNat), (2, w.esize.toNat), (2, w.trans.toNat), (16, 0),
        (5, w.sfmt.toNat), (3, 0), (5, w.dfmt.toNat), (1, bit w.clamp)])
    | .cdim w => some (.sop, pack [(8, 0x43), (4, w.level.toNat), (4, 0), (32, w.count.toNat), (40, w.sstride.toNat),
        (40, w.dstride.toNat)])
    | .sfence sy => some (.sop, packStream 0x50 (bit sy) 0 0 0 0 0 0)
    | .notify v a p => some (.sop, packStream 0x51 v.toNat a.toNat 0 0 0 p.toNat 0)
    | .ckpt t => some (.sop, packStream 0x52 0 0 0 0 0 t.toNat 0)
    | .svar n o => some (.sop, packStream 0x53 0 0 0 0 0 n.toNat o.toNat)
    | .prio c l => some (.sop, packStream 0x54 c.toNat 0 0 0 0 l.toNat 0)
    | .faultv o => some (.sop, packStream 0x55 0 0 0 0 0 0 o.toNat)
    | .quota c w p n => some (.sop, packStream 0x56 c.toNat 0 0 0 0 (w.toNat + 2 ^ 16 * p.toNat) n.toNat)
    | _ => none

end Sys2Proof
end

