-- ==== Sys2Proof/Machine/Numbers.lean ====
section
/-!
DEFINITION. Numbers: floating formats, rounding, flags, conversions, narrow weights, ternary bytes and the
sums of the numerics profiles (04 R78-R104).  An exact value is a sign, a natural number and an exponent of
two, so every operation is formed exactly and rounded once.
-/

namespace Sys2Proof.Machine

/-- The exception flags NX UF OF DZ IV in bits 4 to 0 (04 R82, 09 R218). -/
abbrev Flags := BitVec 5
def fNone : Flags := 0
def fIV : Flags := 1
def fDZ : Flags := 2
def fOF : Flags := 4
def fUF : Flags := 8
def fNX : Flags := 16

/-- An exact value: (-1)^neg * m * 2^e, an infinity, or a NaN that is signalling or not. -/
inductive Val where
  | fin (neg : Bool) (m : Nat) (e : Int)
  | inf (neg : Bool)
  | nan (sig : Bool)
  deriving DecidableEq, Repr

/-- A floating format by its exponent and fraction widths (04 R79). -/
structure FloatFmt where
  eb : Nat
  fb : Nat
  deriving DecidableEq, Repr

def f32 : FloatFmt := ⟨8, 23⟩
def f16 : FloatFmt := ⟨5, 10⟩
def bf16 : FloatFmt := ⟨8, 7⟩

/-- Exponent bias. -/
def FloatFmt.bias (f : FloatFmt) : Int := 2 ^ (f.eb - 1) - 1
/-- Code of +infinity. -/
def FloatFmt.infCode (f : FloatFmt) : Nat := (2 ^ f.eb - 1) * 2 ^ f.fb
/-- Canonical NaN (04 R79). -/
def FloatFmt.nanCode (f : FloatFmt) : Nat := f.infCode + 2 ^ (f.fb - 1)
/-- The sign bit as a number. -/
def FloatFmt.signBit (f : FloatFmt) (neg : Bool) : Nat := if neg then 2 ^ (f.eb + f.fb) else 0

/-- The value of a code (04 R79). -/
def FloatFmt.val (f : FloatFmt) (c : Nat) : Val :=
  let neg := c / 2 ^ (f.eb + f.fb) % 2 == 1
  let x := c / 2 ^ f.fb % 2 ^ f.eb
  let r := c % 2 ^ f.fb
  if x = 2 ^ f.eb - 1 then
    if r = 0 then .inf neg else .nan (r / 2 ^ (f.fb - 1) == 0)
  else if x = 0 then .fin neg r (1 - f.bias - f.fb)
  else .fin neg (2 ^ f.fb + r) (x - f.bias - f.fb)

/-- Round a magnitude up: the decision of mode `mode` (04 R81) for quotient `k`, remainder `rem` of `2 * half`. -/
def roundsUp (mode : Nat) (neg : Bool) (k rem half : Nat) : Bool :=
  match mode with
  | 0 => half < rem || (rem == half && k % 2 == 1)
  | 1 => false
  | 2 => neg && rem != 0
  | _ => !neg && rem != 0

/-- The magnitude m * 2^e in units of 2^q, rounded, and whether it was inexact. -/
def roundUnits (mode : Nat) (neg : Bool) (m : Nat) (e q : Int) : Nat × Bool :=
  if q ≤ e then (m * 2 ^ (e - q).toNat, false)
  else
    let s := (q - e).toNat
    let k := m / 2 ^ s
    let rem := m % 2 ^ s
    (if roundsUp mode neg k (2 * rem) (2 ^ s) then k + 1 else k, rem != 0)

/-- `round_f` on a finite value (04 R81, R82). -/
def roundFin (f : FloatFmt) (mode : Nat) (sat : Bool) (neg : Bool) (m : Nat) (e : Int) : Nat × Flags :=
  if m = 0 then (f.signBit neg, fNone)
  else
    let top : Int := Nat.log2 m + e
    let emin : Int := 1 - f.bias
    let base := if top < emin then emin else top
    let (k, nx) := roundUnits mode neg m e (base - f.fb)
    let code := ((base + f.bias - 1) * 2 ^ f.fb).toNat + k
    if f.infCode ≤ code then
      let toInf := !sat && (mode == 0 || (mode == 2 && neg) || (mode == 3 && !neg))
      (f.signBit neg + (if toInf then f.infCode else f.infCode - 1), fOF ||| fNX)
    else
      let free := roundUnits mode neg m e (top - f.fb)
      let tiny := decide (top < emin) && !(decide (top = emin - 1) && free.1 == 2 ^ (f.fb + 1))
      (f.signBit neg + code, (if nx then fNX else fNone) ||| (if nx && tiny then fUF else fNone))

/-- `round_f`: a NaN gives the canonical NaN, an infinity stays (04 R80, R81). -/
def roundF (f : FloatFmt) (mode : Nat) (sat : Bool) : Val → Nat × Flags
  | .fin neg m e => roundFin f mode sat neg m e
  | .inf neg => (f.signBit neg + f.infCode, fNone)
  | .nan _ => (f.nanCode, fNone)

/-- The invalid flag of a signalling operand (04 R80). -/
def Val.sigFlag : Val → Flags
  | .nan true => fIV
  | _ => fNone

/-- x * 2^k. -/
def Val.scale (k : Int) : Val → Val
  | .fin n m e => .fin n m (e + k)
  | v => v

/-- -x. -/
def Val.neg : Val → Val
  | .fin n m e => .fin (!n) m e
  | .inf n => .inf (!n)
  | v => v

/-- A finite value in units of 2^q, for q at most its exponent. -/
def Val.units (q : Int) : Val → Int
  | .fin n m e =>
    let k : Int := m * 2 ^ (e - q).toNat
    if n then -k else k
  | _ => 0

/-- The exact sum with its flags (04 R80). -/
def addV (mode : Nat) (x y : Val) : Val × Flags :=
  let fl := x.sigFlag ||| y.sigFlag
  match x, y with
  | .nan _, _ => (.nan false, fl)
  | _, .nan _ => (.nan false, fl)
  | .inf a, .inf b => if a = b then (.inf a, fNone) else (.nan false, fIV)
  | .inf a, _ => (.inf a, fNone)
  | _, .inf b => (.inf b, fNone)
  | .fin a _ ex, .fin b _ ey =>
    let q := min ex ey
    let s := x.units q + y.units q
    if s = 0 then (.fin (if a = b then a else mode == 2) 0 0, fNone)
    else (.fin (s < 0) s.natAbs q, fNone)

/-- The exact product with its flags (04 R80); a zero product has the exclusive or of the signs, in the node trees of 04 R100 too (log
120, DEDUCED). -/
def mulV (x y : Val) : Val × Flags :=
  let fl := x.sigFlag ||| y.sigFlag
  match x, y with
  | .nan _, _ => (.nan false, fl)
  | _, .nan _ => (.nan false, fl)
  | .inf a, .inf b => (.inf (a != b), fNone)
  | .inf a, .fin b m _ => if m = 0 then (.nan false, fIV) else (.inf (a != b), fNone)
  | .fin a m _, .inf b => if m = 0 then (.nan false, fIV) else (.inf (a != b), fNone)
  | .fin a m ex, .fin b n ey => (.fin (a != b) (m * n) (ex + ey), fNone)

/-- A value that lies strictly between k and k + 1 units of 2^e, or is exactly k of them. -/
def sticky (neg : Bool) (k : Nat) (exact : Bool) (e : Int) : Val :=
  .fin neg (2 * k + (if exact then 0 else 1)) (e - 1)

/-- The quotient with its flags, exact up to a sticky bit far below every format (09 R226, 04 R82). -/
def divV (x y : Val) : Val × Flags :=
  let fl := x.sigFlag ||| y.sigFlag
  match x, y with
  | .nan _, _ => (.nan false, fl)
  | _, .nan _ => (.nan false, fl)
  | .inf _, .inf _ => (.nan false, fIV)
  | .inf a, .fin b _ _ => (.inf (a != b), fNone)
  | .fin a _ _, .inf b => (.fin (a != b) 0 0, fNone)
  | .fin a m ex, .fin b n ey =>
    if n = 0 then (if m = 0 then (.nan false, fIV) else (.inf (a != b), fDZ))
    else
      let k := 100 + Nat.log2 n
      let q := m * 2 ^ k / n
      (sticky (a != b) q (m * 2 ^ k % n == 0) (ex - ey - k), fNone)

/-- The integer square root, from `bits` bits down. -/
def isqrtFrom (n : Nat) : Nat → Nat → Nat
  | 0, r => r
  | b + 1, r =>
    let r' := r + 2 ^ b
    isqrtFrom n b (if r' * r' ≤ n then r' else r)

/-- The integer square root. -/
def isqrt (n : Nat) : Nat := isqrtFrom n (Nat.log2 n / 2 + 1) 0

/-- 1 / sqrt x (09 R227). -/
def rsqV (x : Val) : Val × Flags :=
  match x with
  | .nan s => (.nan false, if s then fIV else fNone)
  | .inf neg => if neg then (.nan false, fIV) else (.fin false 0 0, fNone)
  | .fin neg m e =>
    if m = 0 then (.inf neg, fDZ)
    else if neg then (.nan false, fIV)
    else
      let odd := e % 2 = 1
      let m' := if odd then 2 * m else m
      let e' := if odd then e - 1 else e
      let k := 120 + Nat.log2 m'
      let t := isqrt (2 ^ (2 * k) / m')
      (sticky false t (t * t * m' == 2 ^ (2 * k)) (-(e' / 2) - k), fNone)

/-- Fixed-point fraction bits of the two transcendentals (log 16, DESIGN CHOICE). -/
def fixBits : Nat := 320

/-- ln 2 in units of 2^-fixBits: the sum of 1 / (k 2^k). -/
def ln2Fix : Nat → Nat → Nat
  | 0, _ => 0
  | n + 1, k => 2 ^ fixBits / (k * 2 ^ k) + ln2Fix n (k + 1)

/-- The exponential series from term `k` with value `t`. -/
def expSeries (x : Nat) : Nat → Nat → Nat → Nat
  | 0, _, _ => 0
  | n + 1, k, t => t + expSeries x n (k + 1) (t * x / (2 ^ fixBits * (k + 1)))

/-- 2^x (09 R226, R227; log 16, DESIGN CHOICE). -/
def exp2V (x : Val) : Val × Flags :=
  match x with
  | .nan s => (.nan false, if s then fIV else fNone)
  | .inf neg => if neg then (.fin false 0 0, fNone) else (.inf false, fNone)
  | .fin neg m e =>
    if m = 0 then (.fin false 1 0, fNone)
    else
      let top : Int := Nat.log2 m + e
      if 14 ≤ top then (.fin false (if neg then 3 else 1) (if neg then -20000 else 20000), fNone)
      else if top < -200 then (.fin false (if neg then 2 ^ 201 - 1 else 2 ^ 201 + 1) (-201), fNone)
      else
        let y : Int := (Val.fin neg m e).units (min e 0)
        let s := (-(min e 0)).toNat
        let i := y / 2 ^ s
        let f := (y % 2 ^ s).toNat
        if f = 0 then (.fin false 1 i, fNone)
        else
          let z := f * ln2Fix fixBits 1 / 2 ^ s
          (sticky false (expSeries z 80 0 (2 ^ fixBits)) false (i - fixBits), fNone)

/-- Bits of log2 y for y in [1, 2) of `p` fraction bits. -/
def log2Bits (p : Nat) : Nat → Nat → Nat → Nat
  | 0, _, acc => acc
  | n + 1, y, acc =>
    let z := y * y / 2 ^ p
    if 2 ^ (p + 1) ≤ z then log2Bits p n (z / 2) (2 * acc + 1) else log2Bits p n z (2 * acc)

/-- log2 x (09 R226, R227; log 16, DESIGN CHOICE). -/
def log2V (x : Val) : Val × Flags :=
  match x with
  | .nan s => (.nan false, if s then fIV else fNone)
  | .inf neg => if neg then (.nan false, fIV) else (.inf false, fNone)
  | .fin neg m e =>
    if m = 0 then (.inf true, fDZ)
    else if neg then (.nan false, fIV)
    else
      let l := Nat.log2 m
      let k : Int := l + e
      if m = 2 ^ l then (.fin (k < 0) k.natAbs 0, fNone)
      else
        let v : Int := k * 2 ^ 140 + log2Bits 400 140 (m * 2 ^ 400 / 2 ^ l) 0
        if 0 ≤ v then (.fin false (2 * v.toNat + 1) (-141), fNone)
        else (.fin true (-2 * v - 1).toNat (-141), fNone)

/-- `rnd_int` on a finite value (04 R84). -/
def rndInt (mode : Nat) (neg : Bool) (m : Nat) (e : Int) : Int × Bool :=
  let (k, nx) := roundUnits mode neg m e 0
  (if neg then -(k : Int) else k, nx)

/-- `wrap(x, w)` (04 R84). -/
def wrapI (x : Int) (w : Nat) : Nat := (x % 2 ^ w).toNat
/-- x as a signed number of w bits. -/
def signedOf (x w : Nat) : Int := if x % 2 ^ w < 2 ^ (w - 1) then (x % 2 ^ w : Nat) else (x % 2 ^ w : Nat) - 2 ^ w
/-- The lower bound of an integer type. -/
def intLo (signed : Bool) (w : Nat) : Int := if signed then -2 ^ (w - 1) else 0
/-- The upper bound of an integer type. -/
def intHi (signed : Bool) (w : Nat) : Int := if signed then 2 ^ (w - 1) - 1 else 2 ^ w - 1
/-- Clamp to the range of an integer type (04 R84). -/
def satI (signed : Bool) (w : Nat) (x : Int) : Int := max (intLo signed w) (min (intHi signed w) x)

/-- A signed power term: 0 for c = 0, else (-1)^s 2^(c-1+k) (04 R85-R87). -/
def powTerm (s c k : Nat) : Int := if c = 0 then 0 else if s = 1 then -2 ^ (c - 1 + k) else 2 ^ (c - 1 + k)

def i4Val (c : Nat) : Int := signedOf c 4
def p4Val (c : Nat) : Int := powTerm (c / 8 % 2) (c % 8) 0
def dp6Val (c : Nat) : Int := powTerm (c / 32 % 2) (c / 8 % 4) 0 + powTerm (c / 4 % 2) (c % 4) 3
def dp8Val (c : Nat) : Int := powTerm (c / 128 % 2) (c / 16 % 8) 0 + powTerm (c / 8 % 2) (c % 8) 0

/-- The p4 codes a conversion may produce (04 R85). -/
def p4Codes : List Nat := (List.range 16).filter (· != 8)
/-- Canonical dp6 codes: smallest c2 first, signs clear where a term is absent (04 R86). -/
def dp6Codes : List Nat :=
  ((List.range 4).flatMap fun c2 => (List.range 16).map fun r => (r / 2) * 8 + (r % 2) * 4 + c2).filter
    fun c => (c / 8 % 4 != 0 || c / 32 == 0) && (c % 4 != 0 || c / 4 % 2 == 0)
/-- Canonical dp8 codes in the order R88 prefers them. -/
def dp8Codes : List Nat :=
  [0] ++ ((List.range 7).flatMap fun k => [(k + 1) * 16, (k + 1) * 16 + 128]) ++ [0x77, 0xFF] ++
    ((List.range 8).flatMap fun c1 => (List.range c1).flatMap fun c2 =>
      if c2 = 0 then [] else
        [c1 * 16 + c2, c1 * 16 + c2 + 8, c1 * 16 + c2 + 128, c1 * 16 + c2 + 136])

/-- The code nearest to m 2^e: smaller magnitude on a tie, the earlier code among equals (04 R89). -/
def nearest (val : Nat → Int) (neg : Bool) (m : Nat) (e : Int) : List Nat → Nat → Nat
  | [], best => best
  | c :: cs, best =>
    let q := min e 0
    let x := (Val.fin neg m e).units q
    let u : Int := 2 ^ (-q).toNat
    let dist (k : Nat) : Nat := (x - val k * u).natAbs
    let better := dist c < dist best || (dist c == dist best && (val c).natAbs < (val best).natAbs)
    nearest val neg m e cs (if better then c else best)

/-- `p4_q`, `dp6_q` or `dp8_q` (04 R89).  An infinity sets IV alone (log 114, DEDUCED). -/
def quantise (val : Nat → Int) (codes : List Nat) (x : Val) : Nat × Flags :=
  match x with
  | .nan _ => (0, fIV)
  | .inf neg => (nearest val neg 1 20 codes 0, fIV)
  | .fin neg m e =>
    let top : Int := if m = 0 then 0 else Nat.log2 m + e
    let c := if 20 ≤ top then nearest val neg 1 20 codes 0 else nearest val neg m e codes 0
    let q := min e 0
    (c, if (Val.fin neg m e).units q = val c * 2 ^ (-q).toNat then fNone else fNX)

/-- `trit_decode` (04 R90): the five weights and the bad mark. -/
def tritDecode (v : Nat) : List Int × Bool :=
  if 243 ≤ v then ([0, 0, 0, 0, 0], true)
  else
    let q : List Nat := [65536, 21846, 7282, 2428, 810].map (fun k => v * k / 65536)
    let r : List Nat := q.tail ++ [0]
    ((q.zip r).map (fun p => (p.1 : Int) - 3 * p.2 - 1), false)

/-- Width in bits of a bank format's element, t5 as one byte (04 R78, R96). -/
def fmtWidth (f : Nat) : Nat :=
  match f with
  | 0x00 => 32
  | 0x01 => 8
  | 0x02 => 8
  | 0x03 => 16
  | 0x04 => 16
  | 0x05 => 32
  | 0x06 => 16
  | 0x07 => 16
  | 0x08 => 32
  | 0x09 => 4
  | 0x0A => 4
  | 0x0B => 6
  | 0x0C => 8
  | 0x0D => 8
  | _ => 32

/-- The floating format of a format code. -/
def fmtFloat (f : Nat) : Option FloatFmt :=
  match f with
  | 0x06 => some f16
  | 0x07 => some bf16
  | 0x08 => some f32
  | _ => none

/-- The integer an integer-like or narrow code stands for. -/
def fmtInt (f c : Nat) : Int :=
  match f with
  | 0x01 => signedOf c 8
  | 0x02 => c % 256
  | 0x03 => signedOf c 16
  | 0x04 => c % 65536
  | 0x05 => signedOf c 32
  | 0x09 => i4Val c
  | 0x0A => p4Val c
  | 0x0B => dp6Val c
  | 0x0C => dp8Val c
  | _ => c

/-- An integer as an exact value. -/
def Val.ofInt (x : Int) : Val := .fin (x < 0) x.natAbs 0

/-- The value of a bank element before its scale (04 R96). -/
def fmtVal (f c : Nat) : Val :=
  match fmtFloat f with
  | some ff => ff.val c
  | none => Val.ofInt (fmtInt f c)

/-- Width and signedness of an integer target of `conv`. -/
def fmtSigned (f : Nat) : Bool := f != 0x02 && f != 0x04

/-- Integer targets of `conv` of any width and signedness (04 R97). -/
def convInt (signed : Bool) (w : Nat) (mode : Nat) (sat srcfloat : Bool) (y : Val) : Nat × Flags :=
  match y with
  | .nan _ => (0, fIV)
  | .inf neg => (wrapI (if neg then intLo signed w else intHi signed w) w, fIV)
  | .fin neg m e =>
    let (k, nx) := rndInt mode neg m e
    let fl := if nx then fNX else fNone
    if intLo signed w ≤ k ∧ k ≤ intHi signed w then (wrapI k w, fl)
    else if srcfloat then (wrapI (satI signed w k) w, fl ||| fIV)
    else if sat then (wrapI (satI signed w k) w, fl)
    else (wrapI k w, fl)

/-- `conv(x, f, E, m, sat, srcfloat)` (04 R97). -/
def conv (x : Val) (f : Nat) (E : Int) (mode : Nat) (sat srcfloat : Bool) : Nat × Flags :=
  let y := x.scale (-E)
  match f with
  | 0x06 => let (c, fl) := roundF f16 mode sat y; (c, fl ||| x.sigFlag)
  | 0x07 => let (c, fl) := roundF bf16 mode sat y; (c, fl ||| x.sigFlag)
  | 0x08 => let (c, fl) := roundF f32 mode sat y; (c, fl ||| x.sigFlag)
  | 0x0A => quantise p4Val p4Codes y
  | 0x0B => quantise dp6Val dp6Codes y
  | 0x0C => quantise dp8Val dp8Codes y
  | _ => convInt (fmtSigned f) (fmtWidth f) mode sat srcfloat y

/-- Widening of a bank element into a lane (04 R96). -/
def widen (f c : Nat) : Nat :=
  match f with
  | 0x00 => c
  | 0x05 => c
  | 0x08 => c
  | 0x0D => c % 256
  | 0x07 => c % 65536 * 65536
  | 0x06 =>
    match f16.val c with
    | .nan _ => f32.signBit (c / 32768 % 2 == 1) + f32.infCode + c % 1024 * 2 ^ 13
    | v => (roundF f32 0 false v).1
  | _ => wrapI (fmtInt f c) 32

/-- Narrowing of a lane into a bank element (04 R96). -/
def narrow (f mode : Nat) (sat : Bool) (x : Nat) : Nat × Flags :=
  match f with
  | 0x00 => (x, fNone)
  | 0x0D => (x % 256, fNone)
  | _ =>
    match fmtFloat f with
    | some _ => conv (f32.val x) f 0 mode sat true
    | none => conv (Val.ofInt (signedOf x 32)) f 0 mode sat false

/-- `round_ne` into f32, as a value again, with the IV and OF flags. -/
def roundNe (v : Val) : Val × Flags :=
  let (c, fl) := roundF f32 0 false v
  (f32.val c, fl)

/-- round_ne(x + y) (04 R100). -/
def nodeFloat (x y : Val × Flags) : Val × Flags :=
  let (s, f1) := addV 0 x.1 y.1
  let (r, f2) := roundNe s
  (r, x.2 ||| y.2 ||| f1 ||| f2)

/-- One level of a tree: adjacent pairs combined. -/
def pairUp {α : Type} (op : α → α → α) : List α → List α
  | x :: y :: r => op x y :: pairUp op r
  | r => r

/-- A tree of `n` levels over a list (04 R100, R104). -/
def tree {α : Type} (op : α → α → α) : Nat → List α → List α
  | 0, l => l
  | n + 1, l => tree op n (pairUp op l)

/-- The highest exponent of the non-zero finite products (04 R101). -/
def topExp : List Val → Option Int
  | [] => none
  | .fin _ m e :: r =>
    if m = 0 then topExp r
    else
      let t : Int := Nat.log2 m + e
      match topExp r with
      | none => some t
      | some u => some (max t u)
  | _ :: r => topExp r

/-- A product's bits of weight 2^q and above, truncated toward zero in magnitude, in units of 2^q. -/
def truncUnits (q : Int) : Val → Int
  | .fin n m e =>
    let k : Int := if q ≤ e then m * 2 ^ (e - q).toNat else m / 2 ^ (q - e).toNat
    if n then -k else k
  | _ => 0

/-- `wide(p)` with its IV and OF flags (04 R101, R103).  Beside a NaN, infinities of both signs do not set IV (log 103, DESIGN
CHOICE). -/
def wide (p : List (Val × Flags)) : Val × Flags :=
  let fl := p.foldl (fun a x => a ||| x.2) fNone
  let vs := p.map (·.1)
  if vs.any (fun v => match v with | .nan _ => true | _ => false) then (.nan false, fl)
  else if vs.contains (.inf false) && vs.contains (.inf true) then (.nan false, fl ||| fIV)
  else if vs.contains (.inf false) then (.inf false, fl)
  else if vs.contains (.inf true) then (.inf true, fl)
  else
    match topExp vs with
    | none => (.fin false 0 0, fl)
    | some t =>
      let q := t - 47
      let s := vs.foldl (fun a v => a + truncUnits q v) 0
      if s = 0 then (.fin false 0 0, fl)
      else
        let (r, f2) := roundNe (.fin (s < 0) s.natAbs q)
        (r, fl ||| f2)

/-- x truncated toward zero to bf16 (04 R102). -/
def truncBf (v : Val) : Val := bf16.val (roundF bf16 1 false v).1

/-- The three bf16 parts of an f32 operand (04 R102). -/
def split3 (v : Val) : Val × Val × Val :=
  match v with
  | .fin _ _ _ =>
    let hi := truncBf v
    let r1 := (addV 0 v hi.neg).1
    let mid := truncBf r1
    let r2 := (addV 0 r1 mid.neg).1
    (hi, mid, truncBf r2)
  | .inf n => (.inf n, .fin false 0 0, .fin false 0 0)
  | .nan s => (.nan s, .fin false 0 0, .fin false 0 0)

/-- The group sum of 16 products under a float profile (04 R100). -/
def groupSum (prof : Nat) (p : List (Val × Flags)) : Val × Flags :=
  if prof = 1 ∨ prof = 4 then
    match tree nodeFloat 4 p with
    | [x] => x
    | _ => (.fin false 0 0, fNone)
  else wide p

/-- The 16 products of one group. -/
def products (a w : List Val) : List (Val × Flags) := (a.zip w).map (fun p => mulV p.1 p.2)

/-- Chain the groups of 16 of two operand rows onto an accumulator (04 R100). -/
def chainGroups (prof : Nat) : Nat → List Val → List Val → Val × Flags → Val × Flags
  | 0, _, _, t => t
  | g + 1, a, w, t =>
    let x := groupSum prof (products (a.take 16) (w.take 16))
    chainGroups prof g (a.drop 16) (w.drop 16) (nodeFloat t x)

/-- The six passes of profile 3, activation parts against weight parts, each operand with its scale (04 R102). -/
def chainSplit (g : Nat) (a w : List (Val × Int)) (t : Val × Flags) : Val × Flags :=
  let pa := a.map fun p => (split3 p.1, p.2)
  let pw := w.map fun p => (split3 p.1, p.2)
  let ah := pa.map (fun p => p.1.1.scale p.2)
  let am := pa.map (fun p => p.1.2.1.scale p.2)
  let al := pa.map (fun p => p.1.2.2.scale p.2)
  let wh := pw.map (fun p => p.1.1.scale p.2)
  let wm := pw.map (fun p => p.1.2.1.scale p.2)
  let wl := pw.map (fun p => p.1.2.2.scale p.2)
  [(ah, wh), (ah, wm), (am, wh), (am, wm), (ah, wl), (al, wh)].foldl
    (fun t p => chainGroups 3 g p.1 p.2 t) t

/-- A NaN in the old accumulator sets IV when it is signalling (04 R80, R103). -/
def accVal (bits : Nat) : Val × Flags :=
  let v := f32.val bits
  (v, v.sigFlag)

end Sys2Proof.Machine
end

