-- ==== Sys2Proof/Machine/State.lean ====
section
/-!
DEFINITION. The state of the HXB-9720 as plain data, and the state right after reset.  Sparse maps list
only what was written; an unlisted key reads as the default named at the field.  Counts of cycles that
remain are natural numbers; registers software sees are bit vectors.
-/

namespace Sys2Proof.Machine

/-- Why a step stops. -/
inductive Fault where
  /-- Raised by `exec` of a core-slot instruction while the acting core runs no strand, and of an S-op while
  the acting context is not decoding.  `step` never does either.  Safe: the device has no such event. -/
  | noStrand
  deriving DecidableEq, Repr

/-- Why an instruction has no meaning. -/
inductive Refusal where
  /-- Raised by an arm of `exec` whose instruction has no meaning yet.  Safe. -/
  | notModelled (mnemonic : String)
  deriving DecidableEq, Repr

/-- Memory: address and byte pairs, addresses strictly rising, no byte equal to 0, which an unlisted
address reads as (logs 6, 7). -/
abbrev Memory := List Host.Cell

/-- Addresses above `lo` rise strictly and no zero byte is listed. -/
def Memory.wfAbove : Option Nat → Memory → Bool
  | _, [] => true
  | lo, (a, b) :: m => lo.all (· < a) && b != 0 && Memory.wfAbove (some a) m

/-- The canonical form of memory. -/
def Memory.wf (m : Memory) : Bool := Memory.wfAbove none m

/-! ### A strand -/

/-- A live entry of the loop stack (06 R138, R158). -/
structure LoopEntry where
  start : Nat
  stop : Nat
  rem : W64
  deriving DecidableEq, Repr

/-- The scalar registers (06 R138). -/
structure ScalarRegs where
  /-- physical s registers: s48-s63 by their place in the rotating block; default 0 -/
  s : SMap W64
  /-- q7 to q0; q0 reads true whatever is stored -/
  q : BitVec 8
  /-- c0-c15; default the null capability -/
  c : SMap CapBits
  /-- the alternate bank c0-c7 (11 R295) -/
  alt : SMap CapBits
  rotb : BitVec 4
  /-- innermost first -/
  loops : List LoopEntry
  /-- code-object offset of the next bundle (06 R156) -/
  pc : Nat
  deriving DecidableEq, Repr

/-- Identity, privilege and counters of a strand (06 R147-R149, 15 R337). -/
structure Ident where
  att : W32
  tid : W32
  gangSize : Nat
  rank : Nat
  ctx : Nat
  pers : Bool
  priv : BitVec 2
  hndl : Bool
  sres : BitVec 3
  dz : Bool
  cyc : W64
  frz : W64
  waitc : W64
  cls : BitVec 2
  role : BitVec 2
  dep : Bool
  head : Bool
  deriving DecidableEq, Repr

/-- The running kernel: its code capability and the facts of its header (03 R65, R47). -/
structure Kernel where
  code : CapBits
  hdr : Nat
  tiles : BitVec 8
  bands : BitVec 4
  banks : BitVec 64
  cycles : W32
  variant : W32
  sems : List (Nat × Nat)
  deriving DecidableEq, Repr

/-- One operand of the task, as SPAWN, NEXT and the signature need it (11 R289, 15 R324). -/
structure Operand where
  mode : BitVec 2
  cap : Nat
  start : Nat
  len : Nat
  view : CapBits
  deriving DecidableEq, Repr

/-- The place of a strand in a spawn tree (11 R289-R294). -/
structure SpawnNode where
  node : Nat
  /-- place in the tree: the root's rank, then at each level how many children its parent had spawned before -/
  path : List Nat
  /-- nodes above it, nearest first; empty for the root -/
  ancestors : List Nat
  /-- number of the gang barrier -/
  gang : Nat
  depth : Nat
  limit : Nat
  /-- write ranges: root operand, offset, length -/
  writes : List (Nat × Nat × Nat)
  children : List Nat
  throttled : Bool
  /-- the freeze cycle owed after an issue cycle while throttled -/
  owed : Bool
  deriving DecidableEq, Repr

/-- Destination of an interlocked write. -/
inductive SDest where
  | s (phys : Nat)
  | q (i : Nat)
  | c (i : Nat)
  deriving DecidableEq, Repr

/-- An interlocked result on its way (06 R141-R143). -/
structure SPend where
  dst : SDest
  value : BitVec 128
  /-- core cycles left -/
  due : Nat
  seq : Nat
  slot : Nat
  /-- a division by zero sets DZ when it is written -/
  dz : Bool
  deriving DecidableEq, Repr

/-- Destination of an exposed result. -/
inductive EDest where
  | v (i : Nat)
  | p (i : Nat)
  | s (phys : Nat)
  deriving DecidableEq, Repr

/-- An exposed result on its way (09 R212, 18 R356). -/
structure Exposed where
  dst : EDest
  /-- lanes written; bit 0 for a scalar -/
  mask : PReg
  value : VReg
  /-- advancing cycles left -/
  due : Nat
  seq : Nat
  slot : Nat
  addr : Nat
  /-- bits it raises in VSTAT when it lands: RESID BADIX BADPK NX UF OF DZ IV -/
  flags : BitVec 8
  /-- cycles for which its destination counts beyond its landing (18 R354) -/
  extra : Nat
  /-- elements whose residue check failed (09 R222) -/
  resn : Nat
  deriving DecidableEq, Repr

/-- The vector state (09 R209, R217-R220). -/
structure VectorRegs where
  /-- default 0 -/
  v : SMap VReg
  /-- p1-p15, default all false; p0 reads all true -/
  p : SMap PReg
  vstat : BitVec 8
  vctl : BitVec 6
  vixr : BitVec 9
  vpi : BitVec 6
  deriving DecidableEq, Repr

/-- A VSORT or VSCAN on its way (09 R239-R241): the network as far as it has come, and the times that are left. -/
structure LongOp where
  /-- VSORT, else VSCAN -/
  sort : Bool
  typ : Nat
  /-- VSORT in descending order, VSCAN exclusive -/
  rev : Bool
  /-- VSCAN: 0 add, 1 max, 2 min -/
  op : Nat
  sat : Bool
  /-- active lanes at issue -/
  act : PReg
  /-- the register d -/
  dst : Nat
  /-- the partial network: keys and payloads of VSORT, source and results so far of VSCAN -/
  img0 : VReg
  img1 : VReg
  /-- VSORT: the source lane of each position -/
  order : List Nat
  /-- VSCAN: running value, flags so far, failed residue checks, and the upsets of its steps by lane -/
  acc : W32
  flags : Flags
  resn : Nat
  flips : List (Nat × Nat)
  /-- advancing cycles until its results land -/
  left : Nat
  /-- cycles the network has run -/
  age : Nat
  /-- stages or blocks completed -/
  done : Nat
  seq : Nat
  slot : Nat
  addr : Nat
  /-- a stop waits for its next step boundary, and it has stopped there -/
  stopping : Bool
  stopped : Bool
  deriving DecidableEq, Repr

/-- A row of decoded weights (10 R242, R253). -/
structure PlaneRow where
  w : List Val
  rs : Val
  /-- the scale kept beside the values of class C -/
  scale : Int
  deriving DecidableEq, Repr

/-- A slice record (10 R242). -/
structure SliceRec where
  /-- 0 A, 1 B, 2 C, 3 D -/
  cls : Nat
  bank : Nat
  off : Nat
  pitch : Nat
  fmt : Nat
  scale : BitVec 8
  trans : Bool
  n : Nat
  row0 : Nat
  count : Nat
  prof : Nat
  deriving DecidableEq, Repr

/-- The two planes: rows by K-row and records by slice. -/
structure Plane where
  rows : SMap PlaneRow
  recs : SMap SliceRec
  deriving DecidableEq, Repr

/-- The matrix operations that take time. -/
inductive MKind where
  | ldw | str | strv | zero | ldz | out | outv | chk
  deriving DecidableEq, Repr

/-- A matrix operation in progress (10 R249-R252). -/
structure MatOp where
  kind : MKind
  o : MOp
  /-- core cycles since issue -/
  age : Nat
  seq : Nat
  addr : Nat
  /-- rows, counted from the first row of this issue or resume -/
  rows : Nat
  /-- cycles per activation row -/
  c : Nat
  /-- a check row is streamed -/
  check : Bool
  /-- scratchpad address of row 0 and pitch -/
  base : Nat
  pitch : Nat
  shift : Int
  /-- the format registers as they stood at issue (06 R146) -/
  fmts : SMap W64
  /-- CHKTOL as it stood at issue -/
  tol : BitVec 24
  bands : Nat
  /-- rows read and not yet landed, oldest first, as element codes -/
  inFlight : List (List Nat)
  read : Nat
  landed : Nat
  /-- column sums of the check row so far, and the flags they raised -/
  colsum : List Val
  sumFlags : Flags
  /-- bits of tile rows that ZINJECT flipped in the operation's own bundle: it reads the old value (15 R341) -/
  unflip : SMap (BitVec 16384)
  /-- the plane it multiplies with (10 R251) -/
  plane : Plane
  /-- first row of this stretch relative to row0, after a stop (10 R252) -/
  first : Nat
  stopping : Bool
  /-- MPI has taken its steps since it stopped (10 R252, R266) -/
  noted : Bool
  deriving DecidableEq, Repr

/-- The matrix state (10 R242, R262-R266). -/
structure MatrixRegs where
  /-- tile t row i at 512 t + i, 512 columns of 32 bits; default 0 -/
  tile : SMap (BitVec 16384)
  /-- CC_t[i] and CR_t[n] at 512 t + i; default 0 -/
  cc : SMap W32
  cr : SMap W32
  crv : BitVec 8
  active : Plane
  shadow : Plane
  ashape : BitVec 4
  /-- IV OF BADPK CHK CSKIP in bits 0 to 4, IVTE OFTE CTE in bits 8 to 10 -/
  mstat : BitVec 11
  chkloc : W64
  chktol : BitVec 24
  ldidx : BitVec 4
  stidx : BitVec 6
  ops : List MatOp
  /-- band power-up cycles left (10 R261) -/
  powerUp : Nat
  deriving DecidableEq, Repr

/-- A side of a copy command. -/
structure CopySide where
  cap : CapBits
  off : W64
  fmt : Nat
  scale : BitVec 8
  deriving DecidableEq, Repr

/-- The identity that tags a strand's accesses: its task and its member. -/
structure Owner where
  ctx : Nat
  tid : W32
  rank : Nat
  /-- node in the spawn tree, 0 the root, and gang -/
  node : Nat
  gang : Nat
  /-- 0 primary, 1 twin, 2 third -/
  role : Nat
  att : Nat
  deriving DecidableEq, Repr

/-- What the present part of a copy has asked of a peer home: its reads' flits wait for their acknowledgement (12 R306). -/
inductive Ask where
  | none | sent
  /-- the port went down before the link acknowledged them (21 R430) -/
  | lost
  deriving DecidableEq, Repr

/-- A queued copy command (08 R181-R193). -/
structure CopyCmd where
  id : Nat
  owner : Owner
  o : CpgoOp
  /-- count, source stride, destination stride of the levels used, level 0 first -/
  levels : List (Nat × Int × Int)
  src : CopySide
  dst : CopySide
  idx : CapBits
  idxOff : W64
  /-- rounding mode and saturation of the destination banks, default (0, false) -/
  modes : SMap (Nat × Bool)
  signal : Option (Nat × Nat)
  runs : Nat
  done : Nat
  started : Bool
  /-- its next run waits for an absent extent -/
  held : Bool
  /-- its next run waits for room on a link, an extent that a checkpoint copies, or bytes written in the same cycle -/
  stalls : Bool
  /-- where the reads of its present run stand that leave by a pennant link -/
  ask : Ask
  /-- its next run fails, and waits for the older commands of the queue -/
  failing : Bool
  flags : Flags
  bytes : Nat
  /-- GCYC of issue -/
  issued : Nat
  /-- its bundle and slot (18 R352) -/
  origin : Nat × Nat
  /-- destination bytes of the present run that are written, and the gathered offset read at its start -/
  part : Nat
  index : Int
  /-- ends at its next run boundary (08 R202), and then gives CPI its runs; the signals of CPABORTs that wait for an idle engine -/
  stop : Bool
  stopLast : Bool
  aborts : List ((Nat × Nat) × Nat × Nat)
  deriving DecidableEq, Repr

/-- The copy engine's registers of a strand (08 R181, R195, R196). -/
structure CopyRegs where
  /-- count, source and destination stride; default (1, 0, 0) -/
  level : SMap (W32 × BitVec 40 × BitVec 40)
  srcCap : CapBits
  srcOff : W64
  dstCap : CapBits
  dstOff : W64
  /-- capability registers the descriptors were copied from, for TRAPV (18 R351) -/
  srcIx : Nat
  dstIx : Nat
  skip : BitVec 48
  /-- bank map, default the identity -/
  bankMap : SMap Nat
  guardCount : BitVec 16
  abort : Bool
  gbad : Bool
  derr : Bool
  te : BitVec 5
  flags : Flags
  /-- runs of the last command that completed or ended -/
  lastRuns : BitVec 48
  deriving DecidableEq, Repr

/-- An arrival record (11 R279). -/
structure ArrivalRec where
  bar : Nat
  phase : Bool
  k : Nat
  delta : Nat
  /-- the arrival has been counted -/
  counted : Bool
  /-- GCYC of the release, once the completion is known -/
  rg : Option Nat
  deriving DecidableEq, Repr

/-- A signal that waits for accesses to perform (11 R270). -/
structure SigWait where
  sem : Nat
  inc : Nat
  /-- accesses with a lower number must have performed at the scope -/
  before : Nat
  /-- its bundle and slot -/
  origin : Nat × Nat
  deriving DecidableEq, Repr

/-- Synchronisation state of a strand (11). -/
structure SyncRegs where
  /-- semaphores, default 0 -/
  sem : SMap Nat
  /-- increments that act in this cycle (11 R271) -/
  semAdd : SMap Nat
  /-- bundle and slot of the command whose signal acted last, by semaphore (18 R352) -/
  semFrom : SMap (Nat × Nat)
  recs : List ArrivalRec
  phase : BitVec 3
  gdelta : BitVec 8
  barphase : W64
  sigs : List SigWait
  /-- BARINIT outstanding: cell and signal -/
  barinit : Option (Nat × Option (Nat × Nat))
  /-- circuit slot table bytes, default 0 -/
  ctab : SMap Byte
  /-- the tables that replace it, and the GCYC from which each governs, in that order -/
  ctabNext : List (SMap Byte × Nat)
  /-- credits per destination, default 2 -/
  credits : SMap Nat
  /-- offers: destination, data, GCYC of issue; oldest first -/
  sends : List (Nat × VReg × Nat)
  /-- inbox entries: source, data; oldest first -/
  inbox : List (Nat × VReg)
  /-- the semaphores of the header hold back the first bundle (11 R272) -/
  headerWait : Bool
  /-- staged task of NEXT: its ID and operand cursors (11 R295) -/
  staged : Option (W32 × List W64)
  /-- what each NEXT of the strand claimed, with its iteration, oldest first, 0 for nothing, and the present iteration
  (11 R296) -/
  claims : List (Nat × W32 × List W64)
  iter : Nat
  /-- YIELD's suspension: semaphore, threshold -/
  yielding : Option (Nat × Nat)
  deriving DecidableEq, Repr

/-- A late fault (18 R351, R352): code, value and the bundle address and slot where valid. -/
structure LateFault where
  code : TrapCode
  value : W64
  place : Option (Nat × Nat)
  slot : Nat
  deriving DecidableEq, Repr

/-- The trap return state (18 R359). -/
structure TrapReturn where
  f : Nat
  sres : BitVec 3
  /-- an issue-time trap, and slots of the bundle at f have committed -/
  split : Bool
  part : Bool
  /-- bundles issued before the handler -/
  seq : Nat
  transfer : Option W64
  /-- the transfer passes over the bundle at its target (06 R158) -/
  skip : Bool
  nopw : Nat
  /-- the drain of ENDT goes on (06 R162) -/
  ending : Option Bool
  priv : BitVec 2
  loops : List LoopEntry
  /-- the kernel that was running, whose capability fetch takes up again -/
  kn : Kernel
  deriving DecidableEq, Repr

/-- Trap registers and captured results (18 R352, R356, R357). -/
structure TrapRegs where
  trapc : W64
  trapv : W64
  trapslot : W64
  emuslot : W64
  ret : Option TrapReturn
  /-- entries held for ERET -/
  held : List Exposed
  /-- entries that count from the next bundle on -/
  waiting : List Exposed
  /-- entries on their way again -/
  released : List Exposed
  /-- a resume or an ERET lets the next absent fault in -/
  absDue : Bool
  /-- absent-fault queue (18 R375) -/
  absent : List LateFault
  /-- watchdog count of cycles since the last restart, restarts used (18 R378, R386) -/
  wdCount : Nat
  wdUsed : Nat
  deriving DecidableEq, Repr

/-- Where a strand stands in its bundle (03 R48, 06 R156, R159). -/
structure Flow where
  /-- the bundle being issued: address, length, slots left in header order -/
  bundle : Option (Nat × Nat × List Nat)
  /-- address of the bundle and the slots that remain, when re-entered after a trap -/
  resume : Option (Nat × Nat)
  transfer : Option W64
  /-- a LOOP of count 0 goes on after the bundle at its target, whose header fetch has yet to read (06 R158) -/
  skip : Bool
  /-- bubble cycles left, counted in CYC -/
  bubbles : Nat
  /-- idle cycles of NOPW left -/
  nopw : Nat
  /-- special-register writes and rotations of this bundle, applied after its last slot (06 R146, R160) -/
  deferred : List (Option Nat × W64)
  /-- ENDT or ENDT.cont draining (06 R162): continue a persistent strand -/
  ending : Option Bool
  /-- bundles issued, the order of R213 -/
  seq : Nat
  /-- accesses issued, the order of R170 and R176 -/
  accesses : Nat
  /-- DRAIN: accesses below this number, scope, copies below this number, and the signal when the wait ends -/
  drain : Option (Nat × Nat × Nat × Option (Nat × Nat))
  /-- outstanding ordered atomics (.acq), twice the access number or twice the bundle plus one: no memory
  operation issues before they return (07 R176) -/
  acquire : List Nat
  /-- a freeze of the core from issue: CTXSAVE or CTXLOAD cycles left (18 R384) -/
  busy : Nat
  /-- a stop waits for interlocked results and stated steps before the next bundle (18 R355, R358) -/
  settling : Bool
  /-- TRAP's software trap, raised in the next cycle: code and bundle address (18 R382) -/
  swtrap : Option (W64 × Nat)
  /-- the bundle that comes next has frozen for the order of writes to one register (06 R143) -/
  ordered : Bool
  deriving DecidableEq, Repr

/-- Everything that is saved and restored with a strand (18 R362). -/
structure Strand where
  sc : ScalarRegs
  id : Ident
  kn : Kernel
  ops : List Operand
  node : SpawnNode
  pend : List SPend
  exposed : List Exposed
  /-- advancing cycles left of each counted destination (18 R354) -/
  counts : List Nat
  longs : List LongOp
  vec : VectorRegs
  mx : MatrixRegs
  /-- FMTB0-FMTB63 (04 R92), default 0 -/
  fmtb : SMap W64
  cp : CopyRegs
  sy : SyncRegs
  /-- SIG0-SIG3, and what hardware folds of the present cycle add to them when it ends (15 R336, 06 R146) -/
  sig : SMap W64
  sigNow : SMap W64
  tr : TrapRegs
  fl : Flow
  /-- µJ charged to the strand, in the unit of log 11 (DESIGN CHOICE), and the GCYC of its dispatch (18 R361) -/
  energy : Nat
  stamp : Nat
  deriving DecidableEq, Repr

def ScalarRegs.zero : ScalarRegs := ⟨[], 0, [], [], 0, [], 0⟩
def Ident.zero : Ident := ⟨0, 0, 1, 0, 0, false, 0, false, 0, false, 0, 0, 0, 0, 0, false, false⟩
def Kernel.zero : Kernel := ⟨0, 0, 0, 0, 0, 0, 0, []⟩
def SpawnNode.zero : SpawnNode := ⟨0, [], [], 0, 0, 0, [], [], false, false⟩
def VectorRegs.zero : VectorRegs := ⟨[], [], 0, 0, 0, 0⟩
def Plane.zero : Plane := ⟨[], []⟩
def MatrixRegs.zero : MatrixRegs := ⟨[], [], [], 0xFF, Plane.zero, Plane.zero, 0, 0, 0, 0x101010, 0, 0, [], 0⟩
def CopyRegs.zero : CopyRegs := ⟨[], 0, 0, 0, 0, 0, 0, 0, [], 0, false, false, false, 0, 0, 0⟩
def SyncRegs.zero : SyncRegs :=
  ⟨[], [], [], [], 0, 0, 0, [], none, [], [], [], [], [], false, none, [], 0, none⟩
def TrapRegs.zero : TrapRegs := ⟨0, 0, 0, 0, none, [], [], [], false, [], 0, 0⟩
def Flow.zero : Flow := ⟨none, none, none, false, 0, 0, [], none, 0, 0, none, [], 0, false, none, false⟩

/-- The null strand: the registers as dispatch leaves them, and zero where dispatch gives a task's value. -/
def Strand.zero : Strand :=
  ⟨ScalarRegs.zero, Ident.zero, Kernel.zero, [], SpawnNode.zero, [], [], [], [], VectorRegs.zero,
   MatrixRegs.zero, [], CopyRegs.zero, SyncRegs.zero, [], [], TrapRegs.zero, Flow.zero, 0, 0⟩

/-! ### A core -/

/-- What a core does with its cycles. -/
inductive CoreMode where
  | free
  /-- a task has been sent to it; its first bundle may issue in so many cycles (05 R124) -/
  | starting (left : Nat)
  | running
  | saving
  | restoring
  deriving DecidableEq, Repr

/-- What ends the absence of a strand (18 R361 word 3). -/
inductive Wake where
  | core
  | extent (obj ext : Nat)
  | semaphore (n thr : Nat)
  | grant
  | gang
  deriving DecidableEq, Repr

/-- A request to take the strand off its core: reason of R361, what wakes it, whole gang, and the cycles
until it reaches the core. -/
structure StopReq where
  reason : Nat
  wake : Wake
  whole : Bool
  left : Nat
  deriving DecidableEq, Repr

/-- The part of a save or restore that runs (18 R366, R373). -/
inductive SeqPart where
  /-- the block of registers, vectors, tiles and inbox entries -/
  | registers
  | bank (b : Nat)
  | image
  /-- waiting for returns, then the merge -/
  | merge
  /-- the merge made, the planes being rebuilt -/
  | rebuild
  deriving DecidableEq, Repr

/-- The save and restore sequencer of a core. -/
structure Sequencer where
  part : SeqPart
  /-- cycles left of the part -/
  left : Nat
  /-- banks still to do, ascending -/
  banks : List Nat
  req : StopReq
  /-- GCYC at which the save or restore began -/
  began : Nat
  /-- step 3 of a save has written the frame (R366) -/
  wrote : Bool
  deriving DecidableEq, Repr

/-- States of a departed strand in a Periscope entry (18 R367). -/
inductive PState where
  | saving | divert | restore | forward
  deriving DecidableEq, Repr

/-- A departed strand of a bank: its tag, state, the logical bank, and the core it is on again. -/
structure Departed where
  owner : Owner
  state : PState
  newCore : Nat
  deriving DecidableEq, Repr

/-- What happened in the present core cycle; cleared when the cycle ends. -/
structure Now where
  /-- VSTAT, MSTAT and CPSTAT bits raised, which an MTSR of the same cycle keeps -/
  vstat : BitVec 8
  mstat : BitVec 11
  cpflags : Flags
  dz : Bool
  /-- scalar registers written: physical number and bundle -/
  written : List (Nat × Nat)
  /-- scratchpad writes of the bundle's W and E slots, and of the matrix engine: address and byte -/
  wbuf : List (Nat × Byte)
  mbuf : List (Nat × Byte)
  /-- banks the bundle scheduled (07 R169) -/
  banks : BitVec 64
  /-- late faults raised, in the order found -/
  late : List LateFault
  /-- current weight of the cycle (21 R410) -/
  weight : Nat
  /-- the core advanced -/
  advanced : Bool
  /-- the freeze counts in WAITC (06 R150) -/
  waits : Bool
  /-- a bundle issued -/
  issued : Bool
  /-- live loop entries and inbox entries at the start of the cycle, which MFSR reads (06 R146) -/
  ldepth : Nat
  inbox : List (Nat × VReg)
  /-- CHKLOC as a failing MCHK records it (10 R260); it is written when the cycle ends -/
  chkloc : Option W64
  /-- a CPABORT sets CPSTAT.ABORT, after a write of the bundle (06 R146, 08 R202) -/
  abort : Bool
  /-- bits of vector registers that a ZINJECT flips as the cycle ends: register, bit (15 R341) -/
  flips : List (Nat × Nat)
  deriving DecidableEq, Repr

/-- A core (01 R12). -/
structure Core where
  mode : CoreMode
  st : Strand
  /-- LIMW (21 R412) -/
  limw : BitVec 12
  /-- weights of the last 31 cycles, newest first, and the window sum of the last cycle (21 R411, R413) -/
  weights : List Nat
  lastSum : Nat
  /-- ballast cycles left, and the weight it falls from and to (21 R413) -/
  ballast : Nat
  ballastFrom : Nat
  ballastTo : Nat
  /-- the context charged for it, and the context whose strand left the core last (21 R413) -/
  ballastCtx : Option Nat
  lastCtx : Option Nat
  /-- GCYC left of a stretch, halved core cycles left, a freeze is due (21 R415) -/
  stretch : Nat
  halve : Nat
  halvePhase : Bool
  /-- command slots of the copy engine, oldest first (18 R369), and the strand served last -/
  cmds : List CopyCmd
  served : Option Owner
  /-- banks whose bank-cycle of this reference cycle the engine has used (08 R189) -/
  engineBanks : BitVec 64
  /-- cycles for which an engine access to a bank has been refused, by bank, default 0 (08 R188) -/
  starve : SMap Nat
  /-- Periscope table by bank (18 R367) -/
  periscope : SMap (List Departed)
  req : Option StopReq
  seq : Option Sequencer
  now : Now
  deriving DecidableEq, Repr

/-- An upset of a vector unit, given from outside (09 R222): GCYC and core, the slot that issues then, the lane of its
result, its tree node or its step, the element within the lane, and the bits that flip in the value formed. -/
structure Upset where
  cycle : Nat
  core : Nat
  slot : Nat
  lane : Nat
  part : Nat
  flip : Nat
  deriving DecidableEq, Repr

/-! ### Remote accesses and translation -/

inductive RKind where
  | load | store | amo | amor | amof
  deriving DecidableEq, Repr

/-- Where a remote access stands (07 R166, 19 R395-R397). -/
inductive RStage where
  | queued
  /-- at its port, translated when the entry is cached -/
  | port
  /-- at its port, the extent absent -/
  | absent
  /-- left for the Loupe -/
  | loupe
  /-- on a pennant link, which has not acknowledged it (12 R306) -/
  | sent
  /-- performed; the value returned -/
  | performed (v : W64)
  /-- a store performed, its acceptance not yet seen by the queue -/
  | stored
  deriving DecidableEq, Repr

/-- A remote access in flight. -/
structure Remote where
  id : Nat
  owner : Owner
  core : Nat
  /-- number of the access in its strand -/
  num : Nat
  slot : Nat
  addr : Nat
  kind : RKind
  /-- capability kind, object, offset, bytes -/
  ckind : Nat
  obj : Nat
  off : Nat
  size : Nat
  data : W64
  /-- bytes of a store by object offset -/
  bytes : List (Nat × Byte)
  comparand : W64
  fn : Nat
  dst : Option SDest
  seq : Nat
  sx : Bool
  cls : Nat
  rel : Bool
  acq : Bool
  scope : Nat
  stage : RStage
  /-- goes to the Loupe instead of its home (07 R179) -/
  held : Bool
  /-- issued before this GCYC + 1 it does not leave the core -/
  issued : Nat
  deriving DecidableEq, Repr

/-- An object table entry (19 R394). -/
structure OtEntry where
  w0 : W64
  w1 : W64
  w2 : W64
  w3 : W64
  deriving DecidableEq, Repr

/-- An object: its directory entry (19 R393) and its extents; `kind` is the capability kind it was created
with (21 R427). -/
structure Obj where
  frame : Bool
  pcode : Nat
  owner : Nat
  migthr : Nat
  kind : Nat
  size : Nat
  /-- address of the extent array -/
  array : BitVec 48
  exts : List OtEntry
  deriving DecidableEq, Repr

/-- A translation cache entry: object, extent, the copied entry and the fields of its directory entry: FRAME, page-size
code, MIGTHR and extent count (19 R396). -/
structure Cached where
  obj : Nat
  ext : Nat
  entry : OtEntry
  frame : Bool
  pcode : Nat
  migthr : Nat
  count : Nat
  /-- pinned by an owed notice (19 R404) -/
  pinned : Bool
  deriving DecidableEq, Repr

/-- An operand view object: the resolved places of its segments (05 R112). -/
structure View where
  /-- the entry it serves -/
  tid : Nat
  seglog : Nat
  /-- object and offset of each segment -/
  segs : List (Nat × Nat)
  deriving DecidableEq, Repr

/-! ### Contexts and the window -/

/-- A logical buffer as decode sees it (05 R108, R134). -/
structure Buf where
  bound : Bool
  r : Bool
  w : Bool
  obj : Nat
  seglog : Nat
  start : Nat
  len : Nat
  /-- shadow of each segment at decode, default 0x1000 the home -/
  map : SMap Nat
  /-- task ID + 1 of the entry that created the mapping, default 0 for none -/
  prod : SMap Nat
  /-- number of the binding -/
  bid : Nat
  deriving DecidableEq, Repr

/-- The published mappings of a buffer: shadows by segment, and GEN (05 R107, R126). -/
structure Published where
  map : SMap Nat
  gen : BitVec 32
  /-- the binding it belongs to -/
  bid : Nat
  deriving DecidableEq, Repr

/-- The front-end state of a context (05 R105). -/
structure FrontEnd where
  spc : Nat
  g : SMap W64
  btab : SMap Buf
  /-- return offset and whether it is a fault frame; innermost first -/
  calls : List (Nat × Bool)
  /-- start, remaining, call depth; innermost first -/
  loops : List (Nat × W64 × Nat)
  prio : Nat
  wquota : Nat
  pquota : Nat
  heap : CapBits
  fvec : Nat
  handler : Bool
  deriving DecidableEq, Repr

/-- Counters of the status block (05 R107), each wrapping at 2^64. -/
structure Stats where
  sopf : W64
  tret : W64
  cret : W64
  wfstall : W64
  rnstall : W64
  dfault : W64
  tfault : W64
  squash : W64
  parkc : W64
  aged : W64
  renames : W64
  freed : W64
  deriving DecidableEq, Repr

/-- Counters of the Periscope page (18 R376). -/
structure PeriPage where
  saves : W64
  restores : W64
  srcyc : W64
  divbytes : W64
  fwdbytes : W64
  divsem : W64
  divret : W64
  divinb : W64
  parkupd : W64
  absflt : W64
  abslost : W64
  sigfolds : W64
  deriving DecidableEq, Repr

/-- The energy page in the unit of log 11, DESIGN CHOICE (21 R420). -/
structure EnergyPage where
  quota : Nat
  charged : Nat
  ballast : Nat
  debt : Nat
  overq : Bool
  deriving DecidableEq, Repr

/-- A fault waiting for delivery (05 R127-R129). -/
structure FaultInfo where
  kind : Nat
  reason : Reason
  sop : Nat
  /-- TRAPC, core and TRAPSLOT slot, attempt, TRAPV of a core trap -/
  trapc : W64
  core : Nat
  slot : Nat
  att : Nat
  trapv : W64
  /-- extension-word index + 1, buffer and offset concerned -/
  ext : Nat
  buf : Nat
  off : Nat
  /-- FUNCMODE bit 4 when it was raised (21 R409) -/
  hw : Bool
  deriving DecidableEq, Repr

/-- A check fault as the Prism learns of it: where it was raised, and MSTAT and CHKLOC of that cycle (16 R347). -/
structure CheckFault where
  code : TrapCode
  trapc : W64
  value : W64
  core : Nat
  slot : Nat
  role : Nat
  att : Nat
  mstat : W64
  chkloc : W64
  deriving DecidableEq, Repr

/-- A word being watched by PARK (05 R133). -/
structure ParkState where
  a : BitVec 4
  b : BitVec 4
  obj : Nat
  off : Nat
  /-- A, the offset in the window, for a decode fault (05 R128) -/
  woff : Nat
  /-- GCYC of the last reading -/
  last : Nat
  /-- a write reached the line since -/
  hit : Bool
  deriving DecidableEq, Repr

/-- An operand resolved at decode (05 R109-R112). -/
structure ROperand where
  w : OpdWord
  /-- segments: mapping before it, shadow taken, twin's shadow; 0x1000 stands for the home and for none -/
  segs : List (Nat × Nat × Nat)
  seglog : Nat
  /-- first segment index -/
  seg0 : Nat
  /-- rights of the context's capability: atomic -/
  atomic : Bool
  /-- the binding -/
  bid : Nat
  /-- entries to wait for, per operand -/
  prods : List Nat
  /-- object and start of the buffer's home, or of the EXT range -/
  obj : Nat
  base : Nat
  deriving DecidableEq, Repr

/-- A TASK or COPY whose extension words are being decoded. -/
structure PendingSop where
  task : Option TaskWord
  copy : Option CopyWord
  opds : List OpdWord
  cdims : List CdimWord
  /-- the kernel capability found at the TASK word -/
  code : CapBits
  /-- operands as far as they are resolved -/
  ops : List ROperand
  /-- the entry taken, and its segments still to be renamed: operand and place in it -/
  tid : Option Nat
  todo : List (Nat × Nat)
  deriving DecidableEq, Repr

/-- The work of a window entry (05 R115). -/
inductive EntryKind where
  | task (w : TaskWord) (code : CapBits)
  | copy (w : CopyWord) (dims : List CdimWord)
  | unbind (buf : Nat) (discard : Bool) (b : Buf)
  | sst (obj off size : Nat) (ckind : Nat) (v : W64)
  | notify (v : Nat) (g : W64) (payload : W32)
  | ckpt (tag : W32)
  | shalt (code : W32)
  deriving DecidableEq, Repr

/-- Window entry states (05 R116). -/
inductive EState where
  | wait | ready | run | done | verified | fault | squash
  deriving DecidableEq, Repr

/-- One run of a task: the role, attempt, every core that held a strand of it, how many strands have ended, and
the sums of SIG0 and SIG3 (15 R326). -/
structure TaskRun where
  role : Nat
  att : Nat
  cores : List Nat
  strands : Nat
  ended : Nat
  sig0 : W64
  sig3 : W64
  /-- waits for cores after an abort -/
  waiting : Bool
  /-- chiplet to avoid -/
  avoid : Option Nat
  /-- operands as its strands get them -/
  ops : List Operand
  /-- places in the spawn tree of the children dispatched -/
  born : List (List Nat)
  deriving DecidableEq, Repr

/-- A window entry (05 R115, R116). -/
structure Entry where
  tid : Nat
  ctx : Nat
  kind : EntryKind
  state : EState
  /-- stream offset of its S-op -/
  sop : Nat
  /-- front-end state before its S-op and after its extension words -/
  before : FrontEnd
  after : FrontEnd
  ops : List ROperand
  prods : List Nat
  /-- effective priority and GCYC from which it ages -/
  prio : Nat
  readySince : Nat
  /-- rises of the effective priority by aging (R121) -/
  rises : Nat
  att : Nat
  escaped : Bool
  dep : Bool
  headOnly : Bool
  /-- MOD fills and write-backs outstanding, and the GCYC in which the last fill ended (08 R207) -/
  fills : Nat
  filledAt : Nat
  /-- its held writes are being performed, one in a step, before head-only mode (15 R332) -/
  heading : Bool
  runs : List TaskRun
  fault : Option FaultInfo
  /-- check faults of its strands in this cycle, which the Prism takes (15 R322, R342) -/
  checks : List CheckFault
  /-- its interrupt record of kind 7 was posted (05 R121) -/
  unplaceable : Bool
  /-- claimed by a persistent task -/
  claimed : Bool
  /-- GCYC at which the entry was dispatched, and at which its last run ended or it became VERIFIED -/
  stamp : Nat
  doneAt : Nat
  /-- GCYC at which it first entered DONE -/
  done : Option Nat
  /-- GCYC from which it waits for a NEXT, and none took it within the time of 05 R123 -/
  waitFrom : Nat
  timedOut : Bool
  /-- GCYC of its decoding -/
  decoded : Nat
  deriving DecidableEq, Repr

/-- A physical shadow buffer (05 R113). -/
structure Shadow where
  ctx : Nat
  seglog : Nat
  heapOff : Nat
  obj : Nat
  /-- the entry that writes it, until that retires, and whether its mapping is discarded or replaced -/
  writer : Option Nat
  dead : Bool
  /-- the entry whose retirement released it -/
  replacer : Nat
  /-- retired entries that read it and had operations outstanding -/
  readers : List Nat
  /-- waiting to be copied by a checkpoint (21 R422) -/
  copying : Bool
  deriving DecidableEq, Repr

/-- A pending-launch pool entry (11 R290). -/
structure PoolEntry where
  tid : Nat
  role : Nat
  node : SpawnNode
  off : Nat
  arg : W64
  /-- operand entries: root operand, target, write, offset, length -/
  ents : List (Nat × Nat × Bool × Nat × Nat)
  parentCore : Nat
  /-- earlier children that must be done first (.after) -/
  after : List Nat
  number : Nat
  /-- the spawning strand, whose accesses below `before` must have performed (11 R291) -/
  owner : Owner
  before : Nat
  /-- GCYC from which it ages -/
  since : Nat
  deriving DecidableEq, Repr

/-- An absent strand: its continuation record and frame (18 R361, R362). -/
structure Absent where
  st : Strand
  /-- 1 saving, 2 absent, 3 restoring, 4 discarded -/
  state : Nat
  req : StopReq
  slot : Nat
  oldCore : Nat
  newCore : Nat
  locked : Bool
  /-- return area (18 R370): destination, value and bundle -/
  returns : List (SDest × W64 × Nat)
  sig : W64
  since : Nat
  prio : Nat
  /-- its frame could not be brought up to date, an extent of it being moved or copied (19 R405, 21 R422) -/
  stale : Bool
  deriving DecidableEq, Repr

/-- A package barrier cell (11 R275). -/
structure Cell where
  own : Option Nat
  at_ : Nat
  a : Nat
  bt : Nat
  b : Nat
  pb : Bool
  delta : Nat
  mode : Nat
  /-- phase of each arrived core -/
  ph : SMap Nat
  carried : Nat
  /-- parked: completion is not judged (18 R371) -/
  parked : Bool
  deriving DecidableEq, Repr

/-- The recorded schedule state of a checkpoint and the bytes copied to its target (21 R421). -/
structure CkptRecord where
  tag : W32
  fe : FrontEnd
  pub : SMap Published
  /-- cells owned, with their fields -/
  cells : SMap Cell
  absent : List Absent
  energy : EnergyPage
  /-- the budget level, which selects the variants of SVAR -/
  budget : BitVec 3
  /-- frame images of the absent strands: slot, bytes by offset in the frame -/
  frames : List (Nat × List (Nat × Byte))
  /-- bytes of the extents by offset: those copied, and those that were clean at the marking: object, extent -/
  data : List (Nat × Nat × List Host.Cell)
  /-- published shadows copied: number, its descriptor, bytes by offset -/
  bufs : List (Nat × Shadow × List Host.Cell)
  deriving DecidableEq, Repr

/-- A checkpoint being copied (21 R421, R422). -/
structure Checkpoint where
  tag : W32
  /-- FUNCMODE bit 3 at the marking: the mode in which it completes (21 R409) -/
  hw : Bool
  /-- extents and shadows still to copy: object and extent -/
  todo : List (Nat × Nat)
  shadows : List Nat
  /-- offset in the target object at which the next copied bytes go, and bytes of the present extent or shadow that are there -/
  next : Nat
  part : Nat
  rec_ : CkptRecord
  deriving DecidableEq, Repr

/-- A stream context (05 R105-R107). -/
structure Context where
  created : Bool
  killed : Bool
  dying : Bool
  sobj : Nat
  fe : FrontEnd
  det : Bool
  budget : BitVec 3
  /-- 0 idle, 1 fetching, 2 parked, 3 stopped, 4 dying -/
  run : Nat
  stats : Stats
  donecode : W32
  /-- fault records by slot, eight words each -/
  frec : SMap (List W64)
  fhead : BitVec 4
  fcount : W32
  /-- the fault delivered since the last accepted restart: offset of its S-op -/
  lastFault : Option Nat
  /-- GCYC from which it decodes again after a fault was delivered -/
  decodeFrom : Nat
  pub : SMap Published
  count : Nat
  /-- capability table, default null -/
  caps : SMap CapBits
  pending : Option PendingSop
  park : Option ParkState
  fault : Option FaultInfo
  frameObj : Nat
  /-- frame slots of records discarded by a kill (18 R377) -/
  deadSlots : List Nat
  heapObj : Nat
  ckptObj : Nat
  pool : List PoolEntry
  peri : PeriPage
  energy : EnergyPage
  hoistok : Bool
  ckrec : W32
  ckdone : W32
  ckbytes : W64
  ckpt : Option Checkpoint
  saved : Option CkptRecord
  deriving DecidableEq, Repr

/-! ### Hub -/

/-- The gang barrier of a task run: on a wired-AND line of a chiplet or in a cell (11 R274, 18 R372) (log 54, DESIGN CHOICE). -/
structure GangBar where
  gang : Nat
  tid : Nat
  role : Nat
  size : Nat
  line : Option (Nat × Nat)
  cell : Option Nat
  a : Nat
  carried : Nat
  pb : Bool
  deriving DecidableEq, Repr

/-- An update on its way to a barrier (11 R277). -/
inductive UpdKind where
  | barinit (at_ delta mode : Nat) (free : Bool)
  | exp (n : Nat)
  | arrive (k : Nat)
  | bytes (n : Nat)
  | query (dst : SDest)
  deriving DecidableEq, Repr

structure BarUpdate where
  /-- cell number; none for the gang barrier of the owner -/
  cell : Option Nat
  core : Nat
  owner : Owner
  kind : UpdKind
  /-- cycles left; an arrival also waits for accesses below `before` -/
  left : Nat
  before : Nat
  waits : Bool
  /-- bundle of a query -/
  num : Nat
  /-- bundle address and slot of its command -/
  origin : Nat × Nat
  deriving DecidableEq, Repr

/-- A release, an answer or a circuit event on its way to a core. -/
inductive Arrival where
  /-- barrier, phase released, the spacing of a cell, and RG -/
  | release (bar : Nat) (phase : Bool) (delta : Option Nat) (rg : Nat)
  /-- cell, refused, the cell becomes free, and the slot of the BARINIT -/
  | answer (cell : Nat) (refused free : Bool) (origin : Nat × Nat)
  | transfer (src dest : Nat) (data : VReg)
  | credit (dest : Nat)
  deriving DecidableEq, Repr

structure InFlightEvent where
  core : Nat
  owner : Owner
  what : Arrival
  left : Nat
  deriving DecidableEq, Repr

/-- A write held in the Loupe (15 R331). -/
structure HeldWrite where
  tid : Nat
  role : Nat
  owner : Owner
  order : Nat
  ckind : Nat
  obj : Nat
  off : Nat
  size : Nat
  bytes : List (Nat × Byte)
  /-- an atomic: kind, function, operand -/
  atom : Option (RKind × Nat × W64)
  core : Nat
  deriving DecidableEq, Repr

/-- Work of a hub copy engine (08 R204-R208). -/
inductive HubKind where
  | copy (tid : Nat)
  | fill (tid : Nat)
  | writeback (tid : Nat)
  deriving DecidableEq, Repr

structure HubCopy where
  kind : HubKind
  /-- object and offset of source and destination, and bytes, for the plain copies -/
  src : Nat × Nat
  dst : Nat × Nat
  len : Nat
  /-- the command of a stream COPY -/
  cmd : Option CopyCmd
  clamp : Bool
  /-- bytes of a plain copy that are written -/
  done : Nat
  /-- bytes moved in this cycle, at most 256 (08 R204) -/
  moved : Nat
  /-- the entry that writes the source of a fill (08 R208) -/
  after : Option Nat
  held : Bool
  ask : Ask
  deriving DecidableEq, Repr

/-- An interrupt record waiting in the hub queue: kind, vector, context, datum, payload. -/
structure IntRec where
  kind : Nat
  vector : Nat
  ctx : Nat
  datum : W64
  payload : W32
  deriving DecidableEq, Repr

/-- A move of an extent to a new home, unit and base: the steps of 19 R405 that are done, the cycles of its hub copy that are
left, and the engine that makes it. -/
structure Migration where
  obj : Nat
  ext : Nat
  home : Nat
  unit : Nat
  base : Nat
  step : Nat
  left : Nat
  engine : Option Nat
  deriving DecidableEq, Repr

/-- A running command of the OT command unit (19 R400-R402). -/
structure OtRun where
  op : Nat
  obj : Nat
  ext : Nat
  count : Nat
  old : W64
  deriving DecidableEq, Repr

/-- What waits for a flit's acknowledgement (12 R306): a remote access by its number, a copy command's reads, or those of a hub
engine's plain copy. -/
inductive FlitUse where
  | access (id : Nat)
  | command (id : Nat)
  | hub (engine : Nat)
  deriving DecidableEq, Repr

/-- A flit that a port has sent and its peer has not acknowledged: sequence, destination module and flow class, the access
it carries (21 R429, R430), and what waits for it. -/
structure TxFlit where
  seq : Nat
  unit : Nat
  cls : BitVec 2
  access : PeerAccess
  use : FlitUse
  deriving DecidableEq, Repr

/-- A pennant port (21 R429, R430). -/
structure Port where
  up : Bool
  /-- sequence of the flit expected next, and consecutive replays of the peer that failed -/
  expect : Nat
  failures : Nat
  /-- sequence of the next new flit, the replay buffer, how many of its flits have left since the last replay began, and
  consecutive replays that the peer called for -/
  next : Nat
  buffer : List TxFlit
  sent : Nat
  replays : Nat
  deriving DecidableEq, Repr

/-- Registers of the hub (21 R409, 15 R344, 19 R400, R403). -/
structure HubRegs where
  funcmode : BitVec 5
  /-- FUNCMODE written in this GCYC, which acts from the next one on -/
  funcNext : Option (BitVec 5)
  wdctl : BitVec 12
  /-- default 7 -/
  pwr : SMap (BitVec 3)
  drpcnt : SMap W64
  /-- DRPTHR of each domain, default EN 1 THR 12 -/
  drpthr : SMap (BitVec 9)
  /-- DRPTHR written in this reference cycle, which acts from the next one on (06 R146) -/
  drpNext : SMap (BitVec 9)
  susplim : BitVec 16
  ccret : BitVec 8
  susp : SMap Nat
  lphead : W64
  rxcnt : W64
  votes : W64
  third : W64
  undec : W64
  /-- HOISTCTL FMASK PINEN ARM, HOISTSTAT -/
  hfmask : BitVec 6
  hpinen : Bool
  harm : Bool
  hstat : W64
  /-- GCYC of the last fire counted in MISSED: the sources of one cycle make one fire (21 R423) -/
  hmiss : Option Nat
  elhead : BitVec 12
  eltail : BitVec 12
  ellost : W64
  elog : SMap (List W64)
  tripcause : BitVec 64
  overhead : Nat
  intlost : W64
  irhead : BitVec 12
  irtail : BitVec 12
  /-- host physical address of the interrupt ring, which the firmware chooses (21 R425) -/
  ringBase : W64
  mbOp : BitVec 8
  /-- OP as it stood at the last GO -/
  mbRun : BitVec 8
  mbStatus : BitVec 8
  mbArg : SMap W64
  mbResult : W64
  otObjExt : W64
  otNew : W64
  otMask : W64
  otOld : W64
  otCount : W32
  otStatus : BitVec 3
  otBusy : Bool
  otOp : BitVec 3
  mnqhead : BitVec 10
  mnqtail : BitVec 10
  mnqlost : W64
  mnq : SMap (W64 × W64)
  /-- a notice of the queue was raised in hardware mode, by its place (21 R409) -/
  mnqHw : SMap Bool
  ovf : Nat
  /-- data of the last host load through a window (21 R424) -/
  hostData : W64
  deriving DecidableEq, Repr

/-- A window of aperture 1: object, base, length, read, write (21 R424). -/
structure HostWindow where
  obj : Nat
  base : Nat
  len : Nat
  r : Bool
  w : Bool
  deriving DecidableEq, Repr

/-- A task that the control firmware dispatches (18 R350): the GCYC from which it may start, its core, context, task ID,
kernel and capabilities (log 100, DESIGN CHOICE). -/
structure FwTask where
  start : Nat
  core : Nat
  ctx : Nat
  tid : W32
  code : CapBits
  hdr : Nat
  caps : SMap CapBits
  deriving DecidableEq, Repr

/-- The Hoist: a fire waiting for its snapshot, and the latched registers (21 R423). -/
structure Snapshot where
  /-- per core: CYC FRZ next offset TID CSTAT MSTAT; per context: SPC WUSE PUSE; LPOCC; cells -/
  cores : SMap (List W64)
  ctxs : SMap (List W64)
  lpocc : W64
  cells : SMap Cell
  deriving DecidableEq, Repr

/-- Which agent acts next in the cycle (log 1, DESIGN CHOICE). -/
inductive Turn where
  | outside
  | core (k : Nat) (stage : Nat)
  | var (stage : Nat)
  | prism (stage : Nat)
  | tick
  deriving DecidableEq, Repr

/-- A byte written in this cycle through the port of a pane, in that core's place in its chiplet or 8 for the mesh (07 R165), or by
a matrix engine into its scratchpad, 9 (10 R247); whether a copy engine wrote it, and the byte before. -/
structure CycleWrite where
  key : Nat
  port : Nat
  engine : Bool
  old : Byte
  deriving DecidableEq, Repr

/-- The whole machine. -/
structure State where
  gcyc : W64
  /-- power: the module has booted and holds state (21 R417, R432) -/
  on : Bool
  turn : Turn
  cores : SMap Core
  ctxs : SMap Context
  /-- the context that decodes -/
  curCtx : Nat
  mem : Memory
  /-- full bits: core k, physical granule g at 2^21 k + g; default false -/
  full : SMap Bool
  /-- pane writes of this cycle's bundles, in port order (07 R165) -/
  paneW : List (Nat × Byte)
  /-- bytes written in this cycle in panes and by matrix engines, oldest first -/
  cycleW : List CycleWrite
  /-- bytes that writes replaced while window entries wait, by GCYC, newest first (05 R133) -/
  past : List (Nat × List (Nat × Byte))
  remotes : List Remote
  nextId : Nat
  objs : SMap Obj
  /-- translation caches: 0-7 HBM controllers, 8 host link, 16-31 pennant ports -/
  caches : SMap (List Cached)
  /-- directory entries, and table entries by extent, whose read is uncorrectable (19 R397) -/
  badEntries : List (Nat × Option Nat)
  views : SMap View
  window : List Entry
  shadows : SMap Shadow
  absent : List Absent
  /-- marks of discarded records that wait for an extent of their frame: object, offset, byte (18 R361, 19 R405) -/
  dueMarks : List (Nat × Nat × Byte)
  /-- the context served last at each effective priority, default 0 (05 R121) -/
  rot : SMap Nat
  cells : SMap Cell
  gangs : List GangBar
  updates : List BarUpdate
  events : List InFlightEvent
  held : List HeldWrite
  /-- copies by hub engine 0-15, and copies that wait for one -/
  hubCopies : SMap HubCopy
  hubQueue : List HubCopy
  hub : HubRegs
  irq : List IntRec
  ot : Option OtRun
  /-- owed notices, oldest first: object, extent, and whether they were raised in hardware mode -/
  owed : List (Nat × Nat × Bool)
  /-- extents being moved, in the order of their requests -/
  moves : List Migration
  ports : SMap Port
  routes : SMap Nat
  windows : SMap HostWindow
  /-- fires that wait for their snapshots: GCYC of each -/
  hoist : List Nat
  snap : Snapshot
  measure : W64
  /-- bytes of memory, by key, whose reading finds an uncorrectable error (08 R192, 18 R351) -/
  poison : List Nat
  /-- upsets of the vector units, given from outside (log 15, DESIGN CHOICE) -/
  upsets : List Upset
  /-- locations of the lines written in this cycle, for PARK (12 R303) -/
  lines : List (Nat × Nat)
  /-- tasks that the control firmware is to dispatch, given from outside -/
  fwTasks : List FwTask
  /-- energy of the device's own work as metered outside, by GCYC: patrol scrubbing and in-field tests (21 R418) (log 101,
  DESIGN CHOICE) -/
  metered : List (Nat × Nat)
  env : List (Nat × Instr)
  oracle : List Nat
  freeCtr : Nat
  deriving DecidableEq, Repr

def Now.zero : Now := ⟨0, 0, 0, false, [], [], [], 0, [], 0, false, false, false, 0, [], none, false, []⟩

/-- A core that no strand holds. -/
def Core.idle : Core :=
  ⟨.free, Strand.zero, 3072, [], 0, 0, 0, 0, none, none, 0, 0, false, [], none, 0, [], [], none, none, Now.zero⟩

def Buf.unbound : Buf := ⟨false, false, false, 0, 0, 0, 0, [], [], 0⟩
def Published.zero : Published := ⟨[], 0, 0⟩
def FrontEnd.zero : FrontEnd := ⟨0, [], [], [], [], 0, 0, 0, 0, 0, false⟩
def Stats.zero : Stats := ⟨0, 0, 0, 0, 0, 0, 0, 0, 0, 0, 0, 0⟩
def PeriPage.zero : PeriPage := ⟨0, 0, 0, 0, 0, 0, 0, 0, 0, 0, 0, 0⟩
def EnergyPage.zero : EnergyPage := ⟨0, 0, 0, 0, false⟩

/-- A context that has not been created. -/
def Context.none : Context :=
  ⟨false, false, false, 0, FrontEnd.zero, false, 0, 0, Stats.zero, 0, [], 0, 0, Option.none, 0, [], 0, [], Option.none,
   Option.none, Option.none, 0, [], 0, 0, [], PeriPage.zero, EnergyPage.zero, false, 0, 0, 0, Option.none, Option.none⟩

def Cell.free : Cell := ⟨none, 0, 0, 0, 0, false, 0, 0, [], 0, false⟩
def Port.init : Port := ⟨true, 0, 0, 0, [], 0, 0⟩

def HubRegs.reset : HubRegs :=
  ⟨0x1F, none, 0x410, [], [], [], [], 1024, 0, [], 0, 0, 0, 0, 0, 0, false, true, 0, none, 0, 0, 0, [], 0, 0, 0, 0, 0, 0, 0, 0, 0, [], 0,
   0, 0, 0, 0, 0, 0, false, 0, 0, 0, 0, [], [], 0, 0⟩

def Snapshot.zero : Snapshot := ⟨[], [], 0, []⟩

/-- The machine right after reset: every register at its reset value, every memory clear, no context
created and nothing from outside (log 4, DESIGN CHOICE; log 5, DESIGN CHOICE). -/
def State.reset : State :=
  { gcyc := 0, on := true, turn := .outside, cores := [], ctxs := [], curCtx := 0, mem := [], full := [], paneW := [],
    cycleW := [], past := [],
    remotes := [], nextId := 0, objs := [], caches := [], badEntries := [], views := [], window := [], shadows := [],
    absent := [], dueMarks := [], rot := [], cells := [], gangs := [], updates := [], events := [], held := [], hubCopies := [], hubQueue := [],
    hub := HubRegs.reset, irq := [], ot := none, owed := [], moves := [], ports := [], routes := [],
    windows := [], hoist := [], snap := Snapshot.zero, measure := 0, poison := [], upsets := [], lines := [],
    fwTasks := [], metered := [], env := [], oracle := [], freeCtr := 0 }

end Sys2Proof.Machine
end

