-- ==== Sys2Proof/Machine/Ops.lean ====
section
/-!
DEFINITION. The shared operations: access to the parts of the state, memory, capabilities, the register
files, placing objects, and taking a trap and returning from one (18 R353-R360, R383).
-/

namespace Sys2Proof

/-- TRAPC code (18 R351). -/
def TrapCode.num : TrapCode → Nat
  | .illop => 0x01
  | .emul => 0x02
  | .illenc => 0x03
  | .illopnd => 0x04
  | .inflight => 0x05
  | .profile => 0x06
  | .priv => 0x07
  | .caprights => 0x08
  | .capbounds => 0x09
  | .align => 0x0A
  | .panelocal => 0x0B
  | .ashape => 0x0C
  | .determ => 0x0D
  | .swtrap => 0x0E
  | .vfp => 0x20
  | .vbadpk => 0x21
  | .resid => 0x22
  | .mfp => 0x23
  | .mbadpk => 0x24
  | .mchk => 0x25
  | .cpfp => 0x26
  | .cpgbad => 0x27
  | .cpderr => 0x28
  | .data => 0x29
  | .revoked => 0x2A
  | .semovf => 0x2B
  | .barnown => 0x2C

/-- Reason codes (05 R129). -/
def Reason.num : Reason → Nat
  | .illegal => 0x01
  | .extension => 0x02
  | .priv => 0x03
  | .orphan => 0x04
  | .unbound => 0x05
  | .bound => 0x06
  | .range => 0x07
  | .segment => 0x08
  | .conflict => 0x09
  | .quota => 0x0A
  | .stack => 0x0B
  | .target => 0x0C
  | .rights => 0x0D
  | .align => 0x0E
  | .coretrap => 0x20
  | .header => 0x21
  | .watchdog => 0x22
  | .undecided => 0x23
  | .copycap => 0x24
  | .data => 0x25
  | .lost => 0x00

end Sys2Proof

namespace Sys2Proof.Machine

/-- Parts of a charge unit (2^-10 µJ) that energy is kept in (log 11, DESIGN CHOICE). -/
def energyUnit : Nat := 100000

/-! ### Parts of the state -/

def State.core (s : State) (k : Nat) : Core := SMap.get Core.idle s.cores k
def State.setCore (s : State) (k : Nat) (c : Core) : State := { s with cores := SMap.set s.cores k c }
def State.modCore (s : State) (k : Nat) (f : Core → Core) : State := s.setCore k (f (s.core k))
/-- The strand on core `k`. -/
def State.strand (s : State) (k : Nat) : Strand := (s.core k).st
def State.modStrand (s : State) (k : Nat) (f : Strand → Strand) : State :=
  s.modCore k fun c => { c with st := f c.st }
def State.modNow (s : State) (k : Nat) (f : Now → Now) : State := s.modCore k fun c => { c with now := f c.now }
def State.ctx (s : State) (x : Nat) : Context := SMap.get Context.none s.ctxs x
def State.setCtx (s : State) (x : Nat) (c : Context) : State := { s with ctxs := SMap.set s.ctxs x c }
def State.modCtx (s : State) (x : Nat) (f : Context → Context) : State := s.setCtx x (f (s.ctx x))
def State.modHub (s : State) (f : HubRegs → HubRegs) : State := { s with hub := f s.hub }

/-- GCYC as a number. -/
def State.now (s : State) : Nat := s.gcyc.toNat

/-- Chiplet of a core (01 R11). -/
def chipOf (k : Nat) : Nat := k / 8
/-- Supply domain of a chiplet (01 R9). -/
def domainOf (chip : Nat) : Nat := chip / 2
/-- Mesh node of a chiplet (01 R7). -/
def nodeOf (chip : Nat) : Int × Int :=
  match chip with
  | 0 => (0, 0)
  | 1 => (1, 0)
  | 2 => (2, 0)
  | 3 => (2, 1)
  | 4 => (2, 2)
  | 5 => (1, 2)
  | 6 => (0, 2)
  | 7 => (0, 1)
  | _ => (1, 1)
/-- Mesh hops between two chiplets, 8 naming the hub (11 R300, 15 R331). -/
def meshHops (a b : Nat) : Nat :=
  ((nodeOf a).1 - (nodeOf b).1).natAbs + ((nodeOf a).2 - (nodeOf b).2).natAbs

/-! ### Memory -/

/-- What a byte reads as: 0 where memory lists nothing (log 6, DESIGN CHOICE; log 7, DESIGN CHOICE). -/
def Memory.read (m : Memory) (a : Nat) : Byte := SMap.get 0 m a

/-- Write one byte, keeping the canonical form. -/
def Memory.write (m : Memory) (a : Nat) (b : Byte) : Memory :=
  if b = 0 then SMap.erase m a else SMap.set m a b

/-- Write a list of bytes at given addresses, the later winning. -/
def Memory.writeAll : Memory → List (Nat × Byte) → Memory
  | m, [] => m
  | m, (a, b) :: r => Memory.writeAll (m.write a b) r

/-- n bytes from a, little-endian (00 R4). -/
def Memory.readLE (m : Memory) : Nat → Nat → Nat
  | _, 0 => 0
  | a, n + 1 => (m.read a).toNat + 256 * m.readLE (a + 1) n

/-- The n bytes of a value, lowest first. -/
def leBytes : Nat → Nat → List Byte
  | 0, _ => []
  | n + 1, v => BitVec.ofNat 8 v :: leBytes n (v / 256)

/-- The value of a list of bytes, lowest first. -/
def ofLE : List Byte → Nat
  | [] => 0
  | b :: r => b.toNat + 256 * ofLE r

/-- Bytes placed at rising addresses. -/
def atAddr : Nat → List Byte → List (Nat × Byte)
  | _, [] => []
  | a, b :: r => (a, b) :: atAddr (a + 1) r

/-- The bytes of a range of memory become zero. -/
def Memory.clear (m : Memory) (a n : Nat) : Memory := m.filter fun c => !(a ≤ c.1 && c.1 < a + n)
/-- n little-endian items of w bytes each. -/
def items (n w : Nat) (f : Nat → Nat) : List Byte := (List.range n).flatMap fun i => leBytes w (f i)

/-- Bit i where b holds. -/
def flag (b : Bool) (i : Nat) : Nat := if b then 2 ^ i else 0
/-- The set bits of a mask, ascending. -/
def bitsOf {w : Nat} (m : BitVec w) : List Nat := (List.range w).filter fun i => m.getLsbD i

/-- Keys of the one byte memory: where each space lies. -/
def hbmKey (stack off : Nat) : Nat := stack * 2 ^ 36 + off
def paneKey (chip off : Nat) : Nat := 2 ^ 40 + chip * 2 ^ 29 + off
def spadKey (core phys : Nat) : Nat := 2 ^ 42 + core * 2 ^ 25 + phys
def hostKey (off : Nat) : Nat := 2 ^ 52 + off
def peerKey (unit obj off : Nat) : Nat := 2 ^ 64 * (1 + unit * 2 ^ 28 + obj) + off

/-! ### Capabilities (19 R388) -/

def capLen (c : CapBits) : Nat := c.toNat / 2 ^ 88
def capBase (c : CapBits) : Nat := c.toNat / 2 ^ 40 % 2 ^ 48
def capKind (c : CapBits) : Nat := c.toNat / 2 ^ 36 % 16
def capRights (c : CapBits) : Nat := c.toNat / 2 ^ 28 % 256
def capObj (c : CapBits) : Nat := c.toNat % 2 ^ 28
def mkCap (obj rights kind base len : Nat) : CapBits :=
  BitVec.ofNat 128 (obj % 2 ^ 28 + 2 ^ 28 * (rights % 256) + 2 ^ 36 * (kind % 16) + 2 ^ 40 * (base % 2 ^ 48)
    + 2 ^ 88 * (len % 2 ^ 40))
/-- Right bit i in the order read, write, execute, atomic, spawn, inject, publish, peer. -/
def capHas (c : CapBits) (i : Nat) : Bool := capRights c / 2 ^ i % 2 == 1
def rRead : Nat := 0
def rWrite : Nat := 1
def rExec : Nat := 2
def rAtomic : Nat := 3
def rSpawn : Nat := 4
def rInject : Nat := 5
def rPublish : Nat := 6
def rPeer : Nat := 7
def kObject : Nat := 0
def kScratch : Nat := 1
def kPane : Nat := 2
def kHost : Nat := 3
def kPeer : Nat := 4

/-! ### Objects and their places (19 R392-R397) -/

def pageLog (code : Nat) : Nat :=
  match code with
  | 0 => 16
  | 1 => 21
  | 2 => 28
  | _ => 32

def OtEntry.p (e : OtEntry) : Bool := e.w0.getLsbD 0
def OtEntry.d (e : OtEntry) : Bool := e.w0.getLsbD 1
def OtEntry.pend (e : OtEntry) : Bool := e.w0.getLsbD 2
def OtEntry.cw (e : OtEntry) : Bool := e.w0.getLsbD 3
def OtEntry.home (e : OtEntry) : Nat := e.w0.toNat / 2 ^ 8 % 8
def OtEntry.unit (e : OtEntry) : Nat := e.w0.toNat / 2 ^ 16 % 64
def OtEntry.acc (e : OtEntry) : Nat := e.w2.toNat % 2 ^ 16

/-- An object is a reserved one of the firmware (19 R391). -/
def reservedObj (o : Nat) : Bool := 0xFFE0000 ≤ o && o < 0xFFF0000
/-- An object is an operand view (19 R391). -/
def isView (o : Nat) : Bool := 0xFFF0000 ≤ o

/-- The object and offset behind a view offset; anything else names itself (05 R112). -/
def State.resolve (s : State) (obj off : Nat) : Nat × Nat :=
  if isView obj then
    match SMap.get (none : Option View) (s.views.map fun p => (p.1, some p.2)) obj with
    | some v =>
      match v.segs[off / 2 ^ v.seglog]? with
      | some (o, b) => (o, b + off % 2 ^ v.seglog)
      | none => (0, 0)
    | none => (0, 0)
  else (obj, off)

def State.obj (s : State) (o : Nat) : Option Obj := SMap.get none (s.objs.map fun p => (p.1, some p.2)) o

/-- The memory key of an extent's byte. -/
def OtEntry.key (e : OtEntry) (page off : Nat) : Nat :=
  let base := e.w1.toNat
  match e.home with
  | 0 => hbmKey e.unit (base + off)
  | 1 => paneKey e.unit (base + off)
  | 2 => hostKey (base + off)
  | _ => peerKey e.unit (base % 2 ^ 28) (base / 2 ^ 32 * page + off)

/-- Where an object's byte is. -/
inductive Place where
  | gone
  | absent (obj ext : Nat)
  | at (key : Nat)
  deriving DecidableEq, Repr

/-- The place of byte `off` of an object as the object table gives it. -/
def State.place (s : State) (obj off : Nat) : Place :=
  let r := s.resolve obj off
  match s.obj r.1 with
  | none => .gone
  | some o =>
    let page := 2 ^ pageLog o.pcode
    match o.exts[r.2 / page]? with
    | none => .gone
    | some e => if e.p then .at (e.key page (r.2 % page)) else .absent r.1 (r.2 / page)

/-- Change an object table entry at its home. -/
def State.modEntryOf (s : State) (obj ext : Nat) (f : OtEntry → OtEntry) : State :=
  match s.obj obj with
  | none => s
  | some o =>
    { s with objs := SMap.set s.objs obj { o with exts := o.exts.mapIdx fun i e => if i = ext then f e else e } }
def State.tableEntry (s : State) (obj ext : Nat) : Option OtEntry := (s.obj obj).bind fun o => o.exts[ext]?
def OtEntry.or0 (e : OtEntry) (m : W64) : OtEntry := { e with w0 := e.w0 ||| m }
/-- The extents that bytes [off, off + n) of an object or view lie in, in order. -/
def State.extents (s : State) (obj off n : Nat) : List (Nat × Nat) :=
  if n = 0 then []
  else
    let ends (i : Nat) : List Nat := [max off (i * 2 ^ 16), min (off + n - 1) (i * 2 ^ 16 + 2 ^ 16 - 1)]
    let offs := (List.range ((off + n - 1) / 2 ^ 16 - off / 2 ^ 16 + 1)).flatMap fun i => ends (off / 2 ^ 16 + i)
    (offs.map fun a =>
      let (o, b) := s.resolve obj a
      (o, b / 2 ^ pageLog (((s.obj o).map (·.pcode)).getD 0))).dedup

/-- The extents that a list of bytes of an object lies in. -/
def State.byteExtents (s : State) (obj : Nat) (bs : List (Nat × Byte)) : List (Nat × Nat) :=
  (bs.flatMap fun p => s.extents obj p.1 1).dedup
/-- An extent of a list is being copied by a checkpoint, which a write waits for (21 R422). -/
def State.copyHolds (s : State) (es : List (Nat × Nat)) : Bool := es.any fun x => (s.tableEntry x.1 x.2).any OtEntry.cw
/-- A write in the own pane sets D of the extents that it reaches (19 R398, 21 R421). -/
def State.dirty (s : State) (es : List (Nat × Nat)) : State :=
  es.foldl (fun s x => if (s.tableEntry x.1 x.2).any (!·.d) then s.modEntryOf x.1 x.2 (·.or0 2) else s) s

/-- The location of a byte: its memory key, or while it has no present place its object and offset (12 R303). -/
def State.homeOf (s : State) (obj off : Nat) : Nat × Nat :=
  match s.place obj off with
  | .at k => (0, k)
  | _ => ((s.resolve obj off).1 + 1, (s.resolve obj off).2)

/-- The locations of bytes [off, off + n) of an object or view, as runs of consecutive ones with their lengths. -/
def State.spans (s : State) (obj off n : Nat) : List ((Nat × Nat) × Nat) :=
  if n = 0 then []
  else
    (List.range ((off + n - 1) / 2 ^ 16 - off / 2 ^ 16 + 1)).flatMap fun i =>
      let a := max off ((off / 2 ^ 16 + i) * 2 ^ 16)
      let b := min (off + n) ((off / 2 ^ 16 + i + 1) * 2 ^ 16)
      let l := 2 ^ 16 - (s.resolve obj a).2 % 2 ^ 16
      if b - a ≤ l then [(s.homeOf obj a, b - a)] else [(s.homeOf obj a, l), (s.homeOf obj (a + l), b - a - l)]

/-- Two lists of runs share a location. -/
def spansMeet (x y : List ((Nat × Nat) × Nat)) : Bool :=
  x.any fun a => y.any fun b => a.1.1 == b.1.1 && decide (a.1.2 < b.1.2 + b.2 ∧ b.1.2 < a.1.2 + a.2)

/-- Consecutive runs of bytes given by offset: first offset and length. -/
def byteRuns : List (Nat × Byte) → List (Nat × Nat)
  | [] => []
  | (a, _) :: r =>
    match byteRuns r with
    | (b, n) :: l => if b = a + 1 then (a, n + 1) :: l else (a, 1) :: (b, n) :: l
    | [] => [(a, 1)]

/-- A key of pane memory. -/
def inPane (k : Nat) : Bool := 2 ^ 40 ≤ k && k < 2 ^ 42
/-- The byte at a key as a read of this cycle sees it: in a pane, what stood there before the cycle's first write (07 R165). -/
def State.sampled (s : State) (k : Nat) : Byte :=
  match s.cycleW.find? fun w => inPane k && w.key == k with
  | some w => w.old
  | none => s.mem.read k
/-- A byte of a list of keys that the mesh port of its pane has written in this cycle: a read through that port waits for the next
cycle, since it may not see the write and may not go before it (07 R165, R170). -/
def State.meshWrote (s : State) (keys : List (Option Nat)) : Bool :=
  s.cycleW.any fun w => w.port == 8 && inPane w.key && keys.contains (some w.key)

/-- A byte of an object, 0 where it has no present place. -/
def State.objByte (s : State) (obj off : Nat) : Byte :=
  match s.place obj off with
  | .at k => s.sampled k
  | _ => 0

/-- n bytes of an object, lowest first. -/
def State.objBytes (s : State) (obj : Nat) : Nat → Nat → List Byte
  | _, 0 => []
  | off, n + 1 => s.objByte obj off :: s.objBytes obj (off + 1) n

/-- The value of n bytes of an object. -/
def State.objLE (s : State) (obj off n : Nat) : Nat := ofLE (s.objBytes obj off n)

/-- Memory writes of bytes of an object that have a place. -/
def State.objCells (s : State) (obj : Nat) : Nat → List Byte → List (Nat × Byte)
  | _, [] => []
  | off, b :: r =>
    match s.place obj off with
    | .at k => (k, b) :: s.objCells obj (off + 1) r
    | _ => s.objCells obj (off + 1) r

/-! ### Writes of one cycle (07 R165, 10 R247), and bytes that were replaced (05 R133) -/

/-- The matrix port of a scratchpad comes after the port of its slots and its copy engine (10 R247). -/
def matrixPort : Nat := 9
/-- Note that a port writes keys in this cycle. -/
def State.noteWrites (s : State) (port : Nat) (engine : Bool) (keys : List Nat) : State :=
  { s with cycleW := s.cycleW ++ keys.map fun k => ⟨k, port, engine, s.mem.read k⟩ }
/-- A later port has written the key in this cycle: its byte remains. -/
def State.covered (s : State) (port k : Nat) : Bool := s.cycleW.any fun w => w.key == k && port < w.port
/-- The byte at a key as an engine at a port reads it: what stood there before the cycle, but for the engine's own writes, which an
earlier run has made (08 R187). -/
def State.priorByte (s : State) (port k : Nat) : Byte :=
  let own (w : CycleWrite) : Bool := w.engine && w.port == port
  match ((s.cycleW.filter (·.key == k)).reverse.takeWhile fun w => !own w).getLast? with
  | none => s.mem.read k
  | some w => w.old

/-- Keep the bytes at some keys, which are about to be written, for early readers while window entries wait. -/
def State.keepPast (s : State) (keys : List Nat) : State :=
  if s.window = [] then s else { s with past := (s.now, keys.map fun k => (k, s.mem.read k)) :: s.past }
/-- Forget what no unretired entry has seen decoded. -/
def State.prunePast (s : State) : State :=
  match (s.window.map (·.decoded)).min? with
  | none => { s with past := [] }
  | some d => { s with past := s.past.filter fun p => d < p.1 }
/-- With no window entry nothing reads early. -/
def State.forgetPast (s : State) : State := if s.window = [] ∧ s.past ≠ [] then { s with past := [] } else s
/-- The values that n bytes at some keys held since a GCYC, the present one first. -/
def State.valuesSince (s : State) (keys : List (Option Nat)) (since : Nat) : List Nat :=
  let now : List (Option Nat × Byte) := keys.map fun k => (k, (k.map s.mem.read).getD 0)
  let states := (s.past.takeWhile fun p => since < p.1).foldl (fun (l : List (List (Option Nat × Byte)) × List (Option Nat × Byte)) p =>
    let before := l.2.map fun q => (q.1, (q.1.bind fun k => List.lookup k p.2).getD q.2)
    (l.1 ++ [before], before)) ([now], now)
  (states.1.map fun l => ofLE (l.map (·.2))).dedup

/-- Write bytes by memory key; a written byte is good again (log 40, DESIGN CHOICE). -/
def State.putCells (s : State) (cells : List (Nat × Byte)) : State :=
  { s with mem := s.mem.writeAll cells, poison := s.poison.filter fun k => !cells.any (·.1 == k) }
/-- Clear n bytes from a key on. -/
def State.clearCells (s : State) (a n : Nat) : State :=
  { s with mem := s.mem.clear a n, poison := s.poison.filter fun k => !(a ≤ k && k < a + n) }
/-- Write bytes by memory key that an early reader may still see as they were. -/
def State.storeCells (s : State) (cells : List (Nat × Byte)) : State := (s.keepPast (cells.map (·.1))).putCells cells

/-- Write bytes of an object at their places and note the lines written, for PARK (05 R133). -/
def State.writeObj (s : State) (obj off : Nat) (bs : List Byte) : State :=
  { s.storeCells (s.objCells obj off bs) with lines := s.homeOf obj off :: s.lines }

/-- The kind a capability of an object carries (21 R427, log 18, DEDUCED). -/
def State.objKind (s : State) (o : Nat) : Nat := ((s.obj o).map (·.kind)).getD 0

/-- The pane chiplet that holds a pane object, none while an extent of it is being moved (07 R164, 19 R392, R405). -/
def State.paneOf (s : State) (o : Nat) : Option Nat :=
  match s.obj o with
  | some x =>
    match x.exts with
    | e :: _ => if x.kind = kPane ∧ x.exts.all (fun f => f.p && f.home == 1 && f.unit == e.unit) then some e.unit else none
    | [] => none
  | none => none

/-! ### Registers of a strand -/

/-- Physical register of name i (06 R138, R140). -/
def rotIndex (rotb : BitVec 4) (i : Nat) : Nat := if 48 ≤ i then 48 + (i - 48 + rotb.toNat) % 16 else i

def Strand.s (st : Strand) (i : Nat) : W64 :=
  if i = 0 then 0 else SMap.get 0 st.sc.s (rotIndex st.sc.rotb i)
def Strand.q (st : Strand) (i : Nat) : Bool := i == 0 || st.sc.q.getLsbD i
def Strand.c (st : Strand) (i : Nat) : CapBits := SMap.get 0 st.sc.c i
/-- The value of a q guard (03 R51). -/
def Strand.guard (st : Strand) (g : Guard) : Bool := st.q g.q.toNat != g.neg
def Strand.v (st : Strand) (i : Nat) : VReg := SMap.get 0 st.vec.v i
def Strand.p (st : Strand) (i : Nat) : PReg := if i = 0 then BitVec.allOnes 128 else SMap.get 0 st.vec.p i
/-- The active lanes of a predicate guard (09 R215). -/
def Strand.active (st : Strand) (g : PGuard) : PReg := if g.neg then ~~~(st.p g.p.toNat) else st.p g.p.toNat

def Strand.withScalar (st : Strand) (f : ScalarRegs → ScalarRegs) : Strand := { st with sc := f st.sc }
def Strand.withId (st : Strand) (f : Ident → Ident) : Strand := { st with id := f st.id }
def Strand.withVec (st : Strand) (f : VectorRegs → VectorRegs) : Strand := { st with vec := f st.vec }
def Strand.withMx (st : Strand) (f : MatrixRegs → MatrixRegs) : Strand := { st with mx := f st.mx }
def Strand.withCp (st : Strand) (f : CopyRegs → CopyRegs) : Strand := { st with cp := f st.cp }
def Strand.withSy (st : Strand) (f : SyncRegs → SyncRegs) : Strand := { st with sy := f st.sy }
def Strand.withTr (st : Strand) (f : TrapRegs → TrapRegs) : Strand := { st with tr := f st.tr }
def Strand.withFlow (st : Strand) (f : Flow → Flow) : Strand := { st with fl := f st.fl }
/-- Acquires still to return: even numbers name remote accesses, odd ones the bundles of local atomics (07 R176, R177). -/
def Strand.acquiring (st : Strand) : List Nat :=
  st.fl.acquire.filter fun a => a % 2 == 0 || st.pend.any fun p => p.seq == a / 2 && p.slot == 7

/-- The slot being issued. -/
def Strand.slot (st : Strand) : Nat :=
  match st.fl.bundle with
  | some (_, _, k :: _) => k
  | _ => 0
/-- The address and length of the bundle being issued. -/
def Strand.bundleAddr (st : Strand) : Nat :=
  match st.fl.bundle with
  | some (a, _, _) => a
  | none => st.sc.pc
def Strand.bundleLen (st : Strand) : Nat :=
  match st.fl.bundle with
  | some (_, n, _) => n
  | none => 0

/-- Queue an interlocked write (06 R141).  X's value is kept over that of S in the same bundle (R143). -/
def Strand.push (st : Strand) (d : SDest) (v : BitVec 128) (lat : Nat) (dz : Bool) : Strand :=
  let old := if st.slot = 1 then
      st.pend.map fun p => if p.dst = d ∧ p.seq = st.fl.seq ∧ p.slot = 0 then { p with dst := .s 0 } else p
    else st.pend
  { st with pend := old ++ [⟨d, v, lat, st.fl.seq, st.slot, dz⟩] }

/-- The interlocked write of s[d], resolved under the present rotation (06 R140). -/
def Strand.pushS (st : Strand) (d : Nat) (v : W64) (lat : Nat) (dz : Bool) : Strand :=
  if d = 0 then (if dz then st.push (.s 0) 0 lat true else st)
  else st.push (.s (rotIndex st.sc.rotb d)) (v.setWidth 128) lat dz

def Strand.pushQ (st : Strand) (d : Nat) (v : Bool) (lat : Nat) : Strand :=
  if d = 0 then st else st.push (.q d) (if v then 1 else 0) lat false

def Strand.pushC (st : Strand) (d : Nat) (v : CapBits) (lat : Nat) : Strand := st.push (.c d) v lat false

/-- Set a q flag. -/
def setQ (q : BitVec 8) (i : Nat) (b : Bool) : BitVec 8 :=
  if b then q ||| ((1 : BitVec 8) <<< i) else q &&& ~~~((1 : BitVec 8) <<< i)

/-- Write a destination now. -/
def ScalarRegs.put (r : ScalarRegs) (d : SDest) (v : BitVec 128) : ScalarRegs :=
  match d with
  | .s i => if i = 0 then r else { r with s := SMap.set r.s i (v.setWidth 64) }
  | .q i => { r with q := setQ r.q i (v.getLsbD 0) }
  | .c i => { r with c := SMap.set r.c i v }

/-- Queue an exposed result (09 R212). -/
def Strand.expose (st : Strand) (d : EDest) (mask : PReg) (v : VReg) (lat : Nat) (flags : BitVec 8) (extra : Nat) :
    Strand :=
  { st with exposed := st.exposed ++ [⟨d, mask, v, lat, st.fl.seq, st.slot, st.bundleAddr, flags, extra, 0⟩] }

/-- Count a destination toward the in-flight limit (18 R354). -/
def Strand.count (st : Strand) (n lat : Nat) : Strand := { st with counts := st.counts ++ List.replicate n lat }

/-! ### Bands of the matrix array (10 R253, R261, R262) -/

/-- Enabled bands of a mask. -/
def bandCount (m : BitVec 4) : Nat := if m = 1 then 1 else if m = 3 then 2 else if m = 7 then 3 else if m = 15 then 4 else 0

/-- A plane without the rows and records of the bands that a mask leaves out. -/
def Plane.gate (p : Plane) (m : BitVec 4) : Plane :=
  ⟨p.rows.filter fun r => m.getLsbD (r.1 / 128), p.recs.filter fun r => m.getLsbD (r.1 / 2)⟩

/-- ASHAPE.BANDS := m: bands switched on power up for 256 cycles, bands switched off lose rows and records. -/
def Strand.setBands (st : Strand) (m : BitVec 4) : Strand :=
  st.withMx fun x =>
    { x with ashape := m, active := x.active.gate m, shadow := x.shadow.gate m,
             powerUp := if m &&& ~~~x.ashape = 0 then x.powerUp else 258 }

/-- RWS bits: a written 0 clears, a written 1 leaves. -/
def keepBits {w : Nat} (old : BitVec w) (v : W64) (lo : Nat) : BitVec w := old &&& (v >>> lo).setWidth w

/-! ### Registers of the matrix engine (10 R262-R264, R266) -/

/-- ASHAPE as MFSR reads it (10 R262): BANDS in bits 3:0, 0 above. -/
def MatrixRegs.ashapeValue (x : MatrixRegs) : Nat := x.ashape.toNat
/-- A write of ASHAPE (10 R262): bits 3:0 go to BANDS, with what that does to the bands (10 R261); bits 63:4 are ignored. -/
def Strand.writeAshape (st : Strand) (v : W64) : Strand := st.setBands (v.setWidth 4)
/-- A write of MSTAT (10 R263): bits 10:8 are CTE, OFTE and IVTE; a 0 in bits 4:0 clears CSKIP, CHK, BADPK, OF or IV, and a 1 leaves it;
the busy bits, CRV and the reserved bits take nothing. -/
def MatrixRegs.writeMstat (x : MatrixRegs) (v : W64) : MatrixRegs :=
  { x with mstat := (keepBits x.mstat v 0 &&& 0x1F) ||| (v.setWidth 11 &&& 0x700) }
/-- The bits of CHKLOC that a write sets (10 R264): SYN 63:32, CV 31, RV 30, KC 29, TILE 26:24, COL 20:12, ROW 8:0. -/
def chklocBits : W64 := 0xFFFFFFFFE71FF1FF
/-- A write of CHKLOC (10 R264); its reserved bits read 0. -/
def MatrixRegs.writeChkloc (x : MatrixRegs) (v : W64) : MatrixRegs := { x with chkloc := v &&& chklocBits }
/-- MPI as MFSR reads it (10 R266): LDIDX in bits 11:8, STIDX in bits 5:0, 0 elsewhere. -/
def MatrixRegs.mpiValue (x : MatrixRegs) : Nat := x.ldidx.toNat * 2 ^ 8 + x.stidx.toNat
/-- A write of MPI (10 R266); its reserved bits are ignored. -/
def MatrixRegs.writeMpi (x : MatrixRegs) (v : W64) : MatrixRegs := { x with ldidx := v.extractLsb' 8 4, stidx := v.setWidth 6 }

/-! ### Producers of mappings (05 R109) -/

/-- A front-end state whose mappings keep the producers that `live` names: a task ID may be used again once its entry has
retired (05 R115). -/
def FrontEnd.keepProds (f : FrontEnd) (live : Nat → Bool) : FrontEnd :=
  { f with btab := f.btab.map fun b => (b.1, { b.2 with prod := b.2.prod.filter fun p => p.2 != 0 && live (p.2 - 1) }) }

/-! ### Steps of long operations (09 R241) -/

/-- The first operation of a list that stands stopped at `at_` steps stands at `n`. -/
def moveStopped (at_ n : Nat) : List LongOp → List LongOp
  | [] => []
  | o :: r => if o.stopped && o.done == at_ then { o with done := n } :: r else o :: moveStopped at_ n r
/-- A write of VPI moves the stopped operation whose steps VPI shows (log 20, DESIGN CHOICE). -/
def Strand.setVpi (st : Strand) (v : BitVec 6) : Strand :=
  { st with vec := { st.vec with vpi := v }, longs := moveStopped st.vec.vpi.toNat v.toNat st.longs }

/-! ### Lanes -/

def lane (v : VReg) (l : Nat) : W32 := v.extractLsb' (32 * l) 32

/-- The register whose lane i is `f i`, from lane i on. -/
def lanesFrom (f : Nat → W32) : Nat → Nat → Nat
  | _, 0 => 0
  | i, n + 1 => (f i).toNat + 2 ^ 32 * lanesFrom f (i + 1) n

def ofLanes (f : Nat → W32) : VReg := BitVec.ofNat 4096 (lanesFrom f 0 128)

/-- The predicate whose lane i is `f i`, from lane i on. -/
def bitsFrom (f : Nat → Bool) : Nat → Nat → Nat
  | _, 0 => 0
  | i, n + 1 => (if f i then 1 else 0) + 2 * bitsFrom f (i + 1) n

def ofBits (f : Nat → Bool) : PReg := BitVec.ofNat 128 (bitsFrom f 0 128)

/-- Lanes of `new` where the mask is set, of `old` elsewhere. -/
def mergeLanes (mask : PReg) (old new : VReg) : VReg :=
  ofLanes fun l => if mask.getLsbD l then lane new l else lane old l

/-! ### Scratchpad addresses (08 R194, 07 R167) -/

def bankOf (a : Nat) : Nat := a / Config.bankBytes
/-- Physical scratchpad address of a logical one, through the bank map. -/
def Strand.phys (st : Strand) (a : Nat) : Nat :=
  SMap.get (bankOf a) st.cp.bankMap (bankOf a) * Config.bankBytes + a % Config.bankBytes
/-- The byte at a scratchpad address of core k's strand. -/
def State.spadByte (s : State) (k a : Nat) : Byte := s.mem.read (spadKey k ((s.strand k).phys a))
def State.spadBytes (s : State) (k : Nat) : Nat → Nat → List Byte
  | _, 0 => []
  | a, n + 1 => s.spadByte k a :: s.spadBytes k (a + 1) n
/-- Key of the full bit of the granule at a scratchpad address. -/
def Strand.fullKey (st : Strand) (k a : Nat) : Nat := 2 ^ 21 * k + st.phys a / 16
def State.isFull (s : State) (k a : Nat) : Bool := SMap.get false s.full ((s.strand k).fullKey k a)
def State.setFull (s : State) (k a : Nat) (b : Bool) : State :=
  { s with full := SMap.set s.full ((s.strand k).fullKey k a) b }
/-- The full bits of a list of granule addresses. -/
def State.setFulls (s : State) (k : Nat) (b : Bool) : List Nat → State
  | [] => s
  | a :: r => (s.setFull k a b).setFulls k b r
/-- Perform the queued scratchpad writes of core k: bundle writes, then matrix writes, which set their granules
full (10 R247, R258). -/
def State.flushSpad (s : State) (k : Nat) (matrixToo : Bool) : State :=
  let st := s.strand k
  let n := (s.core k).now
  let put (ws : List (Nat × Byte)) : List (Nat × Byte) := ws.map fun p => (spadKey k (st.phys p.1), p.2)
  let s := (s.putCells (put n.wbuf)).modNow k fun n => { n with wbuf := [], mbuf := if matrixToo then [] else n.mbuf }
  if matrixToo then
    let s := s.noteWrites matrixPort false (n.mbuf.map fun p => spadKey k (st.phys p.1))
    (s.putCells (put n.mbuf)).setFulls k true (n.mbuf.map fun (p : Nat × Byte) => p.1 / 16 * 16).dedup
  else s

/-! ### Strands, owners and runs -/

/-- The tag of a strand's accesses. -/
def Strand.owner (st : Strand) : Owner :=
  ⟨st.id.ctx, st.id.tid, st.id.rank, st.node.node, st.node.gang, st.id.role.toNat, st.id.att.toNat⟩

/-- A core holds a strand. -/
def Core.holds (c : Core) : Bool :=
  match c.mode with
  | .free => false
  | _ => true

/-- The core on which an owner's strand stands. -/
def findCore (o : Owner) : SMap Core → Option Nat
  | [] => none
  | (k, c) :: r => if c.holds && c.st.owner == o then some k else findCore o r

def State.coreOf (s : State) (o : Owner) : Option Nat := findCore o s.cores

/-- Slot numbers of accesses that no slot of a bundle makes: a copy engine's writes (08 R190), the accesses of a peer module (21 R430),
the stores of SST (05 R133), the writes of a hub engine (08 R204), and the host's accesses (21 R424). -/
def engineSlot : Nat := 8
def peerSlot : Nat := 9
def sstSlot : Nat := 10
def hubSlot : Nat := 11
def hostSlot : Nat := 12

/-- Remote accesses of an owner, numbered below n, that have not performed at their scope (12 R306): a held
one until the Loupe accepts it, another until its home applied it, and one at a peer until its link acknowledges it. -/
def Remote.performed (r : Remote) : Bool :=
  match r.stage with
  | .performed _ => true
  | .stored => true
  | _ => false
def State.unperformed (s : State) (o : Owner) (n : Nat) : Bool :=
  s.remotes.any fun r => r.owner == o && r.slot < 8 && r.num < n && !r.performed

/-- A window entry by task ID. -/
def State.entry (s : State) (tid : Nat) : Option Entry := s.window.find? (·.tid == tid)
def State.modEntry (s : State) (tid : Nat) (f : Entry → Entry) : State :=
  { s with window := s.window.map fun e => if e.tid = tid then f e else e }

/-! ### Interrupt records and the error log (21 R425, R426) -/

/-- Post a device event; beyond 64 waiting it is counted in INTLOST. -/
def State.post (s : State) (r : IntRec) : State :=
  if s.irq.length < 64 then { s with irq := s.irq ++ [r] }
  else s.modHub fun h => { h with intlost := h.intlost + 1 }

/-- An error-log entry: its kind and unit, and what it names (log 87, DEDUCED). -/
def errorEntry (now : W64) (kind unit ctx tid att core : Nat) (trapc mstat chkloc place : W64) : List W64 :=
  [BitVec.ofNat 64 (kind + unit * 2 ^ 8 + ctx * 2 ^ 16 + tid * 2 ^ 32), now, BitVec.ofNat 64 (att % 2 ^ 32 + core * 2 ^ 32),
   trapc, mstat, chkloc, place, 0]

/-- Write an error-log entry of eight words; a full ring counts it in ELLOST. -/
def State.logError (s : State) (ws : List W64) : State :=
  let h := s.hub
  if h.eltail + 1 = h.elhead then s.modHub fun h => { h with ellost := h.ellost + 1 }
  else
    let s' := s.modHub fun h => { h with elog := SMap.set h.elog h.eltail.toNat ws, eltail := h.eltail + 1 }
    if h.funcmode.getLsbD 2 then s'
    else s'.post ⟨5, 0, (ws.headD 0).toNat / 2 ^ 16 % 16, BitVec.ofNat 64 (0x50000 + 64 * h.eltail.toNat), 0⟩

/-- A fire of the Hoist (21 R423): source bits instruction, host, fault, pin.  A further source of the fire's own cycle joins it:
SRC takes all of them, TAG the first HOIST's, and CTX that of the HOIST, else that of the fault. -/
def State.fireHoist (s : State) (src : Nat) (tag ctx : Nat) : State :=
  let h := s.hub
  let old := h.hstat.toNat
  let put (v : Nat) (s : State) : State := s.modHub fun h => { h with hstat := BitVec.ofNat 64 v }
  if s.hoist.contains s.now then
    let seen := old / 2 ^ 8 % 16
    let first := src = 1 ∧ seen % 2 = 0
    let tag := if first then tag % 256 else old % 256
    let ctx := if first ∨ src = 4 ∧ seen % 2 = 0 ∧ seen / 4 % 2 = 0 then ctx % 16 else old / 2 ^ 12 % 16
    put (old / 2 ^ 16 * 2 ^ 16 + ctx * 2 ^ 12 + Nat.lor seen src * 2 ^ 8 + tag) s
  else if h.harm then
    { (put (old / 2 ^ 32 * 2 ^ 32 + s.now % 2 ^ 16 * 2 ^ 16 + ctx % 16 * 2 ^ 12 + src * 2 ^ 8 + tag % 256) s).modHub fun h =>
        { h with harm := false } with hoist := s.hoist ++ [s.now] }
  else if s.hub.hmiss = some s.now then s
  else (put (min (2 ^ 32 - 1) (old / 2 ^ 32 + 1) * 2 ^ 32 + old % 2 ^ 32) s).modHub fun h => { h with hmiss := some s.now }

/-! ### Ending strands and tasks -/

/-- Commands of a strand on whatever engine they run, oldest first. -/
def insertCmd (c : CopyCmd) : List CopyCmd → List CopyCmd
  | [] => [c]
  | d :: r => if c.id < d.id then c :: d :: r else d :: insertCmd c r
def State.commands (s : State) (o : Owner) : List CopyCmd :=
  (s.cores.flatMap fun p => p.2.cmds.filter fun c => c.owner == o).foldr insertCmd []

/-- Bytes of a frame, and the distance of frame slots: that rounded up to 1 MiB (18 R362). -/
def frameBytes : Nat := 0x2130000
def frameStride : Nat := 0x2200000
/-- The memory key of a byte of a frame object, where its extent is present (19 R397, R405).  Hardware reaches frames by the places of
their extents alone (log 10, DESIGN CHOICE). -/
def State.frameKey (s : State) (obj off : Nat) : Option Nat :=
  match s.obj obj with
  | none => none
  | some o =>
    let page := 2 ^ pageLog o.pcode
    (o.exts[off / page]?).bind fun e => if e.p then some (e.key page (off % page)) else none
/-- Bytes of a frame object wait: an extent of theirs is absent, or for a write a checkpoint copies it (19 R397, 21 R422). -/
def State.frameHeld (s : State) (obj off n : Nat) (write : Bool) : Option (Nat × Nat) :=
  match s.obj obj with
  | none => none
  | some o =>
    let lo := off / 2 ^ pageLog o.pcode
    let es := (o.exts.drop lo).take (if n = 0 then 0 else (off + n - 1) / 2 ^ pageLog o.pcode - lo + 1)
    let i := es.findIdx fun e => !e.p || (write && e.cw)
    if i < es.length then some (obj, lo + i) else none
/-- Write a byte of a frame object, or keep it until its extent is present. -/
def State.markFrame (s : State) (obj off : Nat) (b : Byte) : State :=
  match s.frameHeld obj off 1 true, s.frameKey obj off with
  | some _, _ => { s with dueMarks := s.dueMarks ++ [(obj, off, b)] }
  | none, some k => (s.putCells [(k, b)]).dirty (s.extents obj off 1)
  | none, none => s
/-- A record is marked discarded in its frame: state 4 of word 0 (R361). -/
def State.markDiscarded (s : State) (a : Absent) : State :=
  s.markFrame (s.ctx a.st.id.ctx).frameObj (a.slot * frameStride + 4) (BitVec.ofNat 8 (a.st.id.ctx + 64))

/-- Take the strand off a core: the core is free, its scratchpad, LIMW and current window stay (log 8, DEDUCED). -/
def Core.release (c : Core) : Core :=
  { c with mode := .free, st := Strand.zero, req := none, seq := none
           lastCtx := if c.holds then some c.st.id.ctx else c.lastCtx }

/-- A strand belongs to task `tid` and, where one is named, to the run of `role`. -/
def inTask (tid : Nat) (role : Option Nat) (o : Owner) : Bool :=
  o.tid.toNat == tid && role.all (· == o.role)

/-- Abort the strands of a task or of one of its runs: cores free, queued copies discarded, accesses and held
writes dropped, but for those that a link carries, records discarded, pool entries of the tree gone (05 R127, 15 R322, 11 R292). -/
def State.abort (s : State) (tid : Nat) (role : Option Nat) : State :=
  let s := (s.absent.filter fun a => inTask tid role a.st.owner).foldl State.markDiscarded s
  { s with
    cores := s.cores.map fun p =>
      let c := p.2
      let c := { c with cmds := c.cmds.filter (fun x => !inTask tid role x.owner),
                        periscope := c.periscope.map fun q => (q.1, q.2.filter (fun d => !inTask tid role d.owner)) }
      (p.1, if c.holds && inTask tid role c.st.owner then c.release else c)
    remotes := s.remotes.filter (fun r => !inTask tid role r.owner || r.performed || r.stage == .sent)
    held := s.held.filter (fun h => !inTask tid role h.owner)
    absent := s.absent.filter (fun a => !inTask tid role a.st.owner)
    updates := s.updates.filter (fun u => !inTask tid role u.owner)
    events := s.events.filter (fun e => !inTask tid role e.owner)
    gangs := s.gangs.filter (fun g => !(g.tid == tid && role.all (· == g.role)))
    ctxs := s.ctxs.map fun p =>
      (p.1, { p.2 with pool := p.2.pool.filter (fun e => !(e.tid == tid && role.all (· == e.role))) }) }

/-- A fault of a window entry: its strands are aborted and the entry waits at FAULT (05 R116, 18 R360). -/
def State.entryFault (s : State) (tid kind : Nat) (r : Reason) (trapc : W64) (core slot : Nat) (trapv : W64) : State :=
  let s := s.abort tid none
  s.modEntry tid fun e =>
    { e with state := .fault,
             fault := some ⟨kind, r, e.sop, trapc, core, slot, e.att, trapv, 0, 0, 0, s.hub.funcmode.getLsbD 4⟩ }

/-- A task fault raised by the strand on core k (18 R360): every strand of its task is aborted; what the slots
before it have written stays written (log 93, DEDUCED). -/
def State.taskFault (s : State) (k : Nat) (r : Reason) (trapc : W64) (slot : Nat) (trapv : W64) : State :=
  (s.flushSpad k true).entryFault (s.strand k).id.tid.toNat 2 r trapc k slot trapv

/-! ### Kernel headers (03 R65) -/

/-- The facts of a valid header at `off` of the code capability's object. -/
def State.header (s : State) (code : CapBits) (off : Nat) : Option Kernel :=
  let o := capObj code
  let rd (a n : Nat) : Nat := s.objLE o (off + a) n
  let n := rd 3 1
  let sems := (List.range n).map fun i => (rd (32 + 4 * i) 1, rd (32 + 4 * i + 2) 2)
  let bands := rd 9 1
  let inWindow (a len : Nat) : Bool := capBase code ≤ a && a + len ≤ capBase code + capLen code
  if inWindow off 32 && rd 0 2 == 0x4B5A && rd 2 1 == 1 && n ≤ 32 && inWindow off (32 + 4 * n)
      && rd 4 4 != 0 && (bands == 1 || bands == 3 || bands == 7 || bands == 15) && rd 10 2 == 0
      && rd 12 4 % 64 == 0 && 32 + 4 * n ≤ rd 12 4 && rd 24 4 % 32 == 0 && rd 28 4 == 0
      && (List.range n).all (fun i => rd (33 + 4 * i) 1 == 0)
      && decide ((sems.map (·.1)).Nodup) then
    some ⟨code, off, BitVec.ofNat 8 (rd 8 1), BitVec.ofNat 4 bands, BitVec.ofNat 64 (rd 16 8), BitVec.ofNat 32 (rd 4 4),
      BitVec.ofNat 32 (rd 24 4), sems⟩
  else none

/-- Offset of the first bundle of a kernel (03 R65). -/
def State.codeStart (s : State) (kn : Kernel) : Nat := kn.hdr + s.objLE (capObj kn.code) (kn.hdr + 12) 4

/-- The handler kernel of a context: entry 0 of its table with execute right, its window's base a header
(18 R359). -/
def State.handler (s : State) (ctx : Nat) : Option Kernel :=
  let c := SMap.get 0 (s.ctx ctx).caps 0
  if capHas c rExec then s.header c (capBase c) else none

/-! ### Special registers: writing (06 R145-R147, R155) -/

/-- Write special register n of a strand; reserved bits and read-only registers are left. `idle`: its copy queue
is empty (08 R196). -/
def Strand.writeSR (st : Strand) (n : Nat) (v : W64) (idle : Bool) : Strand :=
  let f (hi lo : Nat) : Nat := v.toNat / 2 ^ lo % 2 ^ (hi + 1 - lo)
  match n with
  | 0x000 => st.withId fun i => { i with dz := i.dz && v.getLsbD 0 }
  | 0x020 => st.withVec fun x => { x with vstat := keepBits x.vstat v 0 }
  | 0x021 => st.withVec fun x => { x with vctl := v.setWidth 6 }
  | 0x022 => st.withVec fun x => { x with vixr := v.setWidth 9 }
  | 0x030 => st.writeAshape v
  | 0x031 => st.withMx fun x => x.writeMstat v
  | 0x032 => st.withMx fun x => x.writeChkloc v
  | 0x033 => st.withMx fun x => { x with chktol := v.setWidth 24 }
  | 0x040 => st.withCp fun c =>
      { c with guardCount := v.extractLsb' 48 16, abort := c.abort && v.getLsbD 34, gbad := c.gbad && v.getLsbD 33,
               derr := c.derr && v.getLsbD 32, te := v.extractLsb' 8 5, flags := keepBits c.flags v 0 }
  | 0x041 => if idle then st.withCp fun c => { c with skip := v.setWidth 48 } else st
  | 0x042 => st.setVpi (v.setWidth 6)
  | 0x043 => st.withMx fun x => x.writeMpi v
  | 0x050 => st.withSy fun y => { y with gdelta := v.extractLsb' 8 8, phase := v.setWidth 3 }
  | 0x060 => { st with sig := SMap.set st.sig 0 v }
  | 0x061 => { st with sig := SMap.set st.sig 1 v }
  | 0x062 => { st with sig := SMap.set st.sig 2 v }
  | 0x063 => { st with sig := SMap.set st.sig 3 v }
  | 0x070 => st.withTr fun t => { t with trapc := v &&& 0xE0FFFF }
  | 0x071 => st.withTr fun t => { t with trapv := v }
  | 0x073 => st.withTr fun t => { t with trapslot := v &&& 0xFFFFFFFFFFFF000F }
  | 0x074 => st.withTr fun t => { t with emuslot := v &&& 0xFFFFFFFFFFFFFFC7 }
  | 0x082 => { st with energy := v.toNat * energyUnit }
  | 0x090 => st.withScalar fun r => { r with rotb := v.setWidth 4 }
  | _ =>
    if 0x100 ≤ n ∧ n < 0x140 then
      let r : W64 := BitVec.ofNat 64 (f 19 16 * 2 ^ 16 + f 15 8 * 2 ^ 8 + f 4 0)
      { st with fmtb := SMap.set st.fmtb (n - 0x100) r }
    else st

/-- No command of the strand is queued on any engine. -/
def State.copyIdle (s : State) (o : Owner) : Bool := s.cores.all fun p => p.2.cmds.all (·.owner != o)

/-- Write special register n from core k; LIMW and DRPTHR are not strand state (21 R412, R416). -/
def State.writeSR (s : State) (k n : Nat) (v : W64) : State :=
  if n = 0x080 then s.modCore k fun c => { c with limw := if v.toNat % 4096 < 96 then 96 else v.setWidth 12 }
  else if n = 0x081 then
    s.modHub fun h => { h with drpNext := SMap.set h.drpNext (domainOf (chipOf k)) (v.setWidth 9) }
  else s.modStrand k fun st => st.writeSR n v (s.copyIdle st.owner)

/-- A rotation acts. -/
def Strand.applyRot (st : Strand) (k : W64) : Strand :=
  st.withScalar fun r => { r with rotb := BitVec.ofNat 4 (r.rotb.toNat + k.toNat) }

/-- The special-register writes and rotations of a bundle's committed slots act, after its last slot or at the trap
that splits it (06 R146, R160).  Where another slot of the bundle writes the same register itself, an MSHAPE or a SIGCLR, the
MTSR stays (log 126, DESIGN CHOICE). -/
def State.applyDeferred (s : State) (k : Nat) : State :=
  let l := (s.strand k).fl.deferred
  (l.foldl (fun s d =>
    match d.1 with
    | some n => s.writeSR k n d.2
    | none => s.modStrand k fun st => st.applyRot d.2) s).modStrand k fun st =>
      st.withFlow fun f => { f with deferred := [] }

/-! ### Taking a trap and returning (18 R353-R360, R382, R383) -/

/-- The registers handler entry writes: return state, loop stack, mode, trap registers and pc. -/
def Strand.enterHandler (st : Strand) (kn : Kernel) (pc : Nat) (ret : TrapReturn) (trapc trapv trapslot : W64)
    (emuslot : Option W64) : Strand :=
  { st with
    sc := { st.sc with loops := [], pc := pc }
    id := { st.id with hndl := true, priv := 1 }
    kn := { st.kn with code := kn.code, hdr := kn.hdr, variant := kn.variant }
    tr := { st.tr with ret := some ret, trapc := trapc, trapv := trapv, trapslot := trapslot,
                       emuslot := emuslot.getD st.tr.emuslot }
    fl := { st.fl with bundle := none, resume := none, transfer := none, skip := false, nopw := 0, ending := none,
                       bubbles := 7, ordered := false } }

/-- TRAPC of a trap: code, LATE, ABS, MULT (18 R352). -/
def trapcBits (c : TrapCode) (late abs mult : Bool) : W64 :=
  BitVec.ofNat 64 (c.num + (if late then 2 ^ 21 else 0) + (if abs then 2 ^ 22 else 0) + (if mult then 2 ^ 23 else 0))

/-- TRAPSLOT of a bundle and slot.  A fault of the copy engine or of a remote return has no bundle and counts as
slot 7 (18 R352). -/
def trapslotBits (place : Option (Nat × Nat)) : W64 :=
  match place with
  | some (a, k) => BitVec.ofNat 64 (a * 2 ^ 16 + 8 + k)
  | none => 7

/-- Where a trap goes (18 R360): the handler, or a task fault. -/
def State.trapTo (s : State) (k : Nat) (ret : TrapReturn) (trapc trapv : W64) (place : Option (Nat × Nat))
    (emuslot : Option W64) : State :=
  let st := s.strand k
  let slot := (place.map (·.2)).getD 7
  if st.id.hndl then s.taskFault k .coretrap trapc slot trapv
  else
    match s.handler st.id.ctx with
    | none => s.taskFault k .coretrap trapc slot trapv
    | some kn =>
      s.modStrand k fun st => st.enterHandler kn (s.codeStart kn) ret trapc trapv (trapslotBits place) emuslot

/-- Take an issue-time trap at the present slot of core k: earlier slots have acted, this and later ones do
nothing, and slot-resume names this one (03 R48, 18 R353, R359).  A committed ROT or MTSR has acted before the remaining slots
read (log 127, DEDUCED). -/
def State.issueTrap (s : State) (k : Nat) (code : TrapCode) (v : W64) : State :=
  let s := s.applyDeferred k
  let st := s.strand k
  let a := st.bundleAddr
  let slot := st.slot
  let ret : TrapReturn := ⟨a, BitVec.ofNat 3 slot, true, true, st.fl.seq, st.fl.transfer, st.fl.skip, st.fl.nopw, st.fl.ending,
    st.id.priv, st.sc.loops, st.kn⟩
  let s := s.modStrand k fun st => st.withId fun i => { i with sres := BitVec.ofNat 3 slot }
  let emu := if code = .emul then some (BitVec.ofNat 64 (a * 2 ^ 16 + v.toNat % 1024 * 2 ^ 6 + slot)) else none
  let s := s.trapTo k ret (trapcBits code false false false) v (some (a, slot)) emu
  s.modStrand k fun st => st.withFlow fun f => { f with bundle := none }

/-- Return from the handler (18 R383): where issue resumes is kept in `resume`; the held entries count down from
the bundle that issues at t_R, three cycles after ERET. -/
def Strand.returnFrom (st : Strand) (nextSlot : Bool) : Strand :=
  match st.tr.ret with
  | none => st
  | some r =>
    let skip := nextSlot && r.split
    let first : Nat := if skip then st.tr.trapslot.toNat % 8 + 1 else r.sres.toNat
    { st with
      sc := { st.sc with loops := r.loops, pc := r.f }
      id := { st.id with hndl := false, priv := r.priv }
      kn := { st.kn with code := r.kn.code, hdr := r.kn.hdr, variant := r.kn.variant }
      tr := { st.tr with ret := none, held := [], waiting := st.tr.waiting ++ st.tr.held, absDue := true }
      fl := { st.fl with bundle := none, nopw := r.nopw, transfer := r.transfer, skip := r.skip, ending := r.ending, bubbles := 2,
                         resume := if r.part then some (r.f, first) else none } }

/-! ### Energy (21 R418-R420) -/

/-- Charge a context; the part that finds QUOTA at 0 joins DEBT, and QUOTA reaching 0 sets OVERQ (log 56, DEDUCED). -/
def State.charge (s : State) (x amt : Nat) : State :=
  s.modCtx x fun c =>
    let e := c.energy
    { c with energy := { e with charged := e.charged + amt, quota := e.quota - amt, debt := e.debt + (amt - e.quota),
                                overq := e.overq || (e.quota != 0 && e.quota ≤ amt) } }
def State.overheadCharge (s : State) (amt : Nat) : State := s.modHub fun h => { h with overhead := h.overhead + amt }
/-- Copies of the Prism, and diverted writes, cost 10 pJ a byte. -/
def perByte : Nat := 1024

/-- Charge energy of a strand: re-executions and third runs to OVERHEAD (21 R418). -/
def State.chargeStrand (s : State) (st : Strand) (amt : Nat) : State :=
  if st.id.att ≠ 0 ∨ st.id.role = 2 then s.overheadCharge amt else s.charge st.id.ctx amt

/-- Charge energy to the account of a strand's accesses. -/
def State.chargeOwner (s : State) (o : Owner) (amt : Nat) : State :=
  if o.att ≠ 0 ∨ o.role = 2 then s.overheadCharge amt else s.charge o.ctx amt

/-! ### Outcomes of a meaning -/

/-- A core slot acts on the core whose turn it is; where no strand runs there, the instruction faults (log 17, DESIGN CHOICE). -/
def onCore (s : State) (f : Nat → State) : Host.Outcome State Fault Refusal :=
  match s.turn with
  | .core k _ => if (s.core k).mode = .running then .next (f k) else .fault .noStrand
  | _ => .fault .noStrand

/-- An S-op acts on the context that decodes. -/
def onCtx (s : State) (f : Nat → State) : Host.Outcome State Fault Refusal :=
  if (s.ctx s.curCtx).run = 1 then .next (f s.curCtx) else .fault .noStrand

/-- A scalar instruction: its checks have passed, and the effect acts when its guard is true (06 R144). -/
def guarded (s : State) (g : Guard) (f : Strand → Strand) : Host.Outcome State Fault Refusal :=
  onCore s fun k => if (s.strand k).guard g then s.modStrand k f else s

end Sys2Proof.Machine
end

