-- ==== Sys2Proof/Machine/Scalar.lean ====
section
/-!
DEFINITION. Scalar and control instructions (06 R151-R163), except the special-register moves.
A meaning reads the registers as they stand before the bundle; its results are queued as interlocked
writes with the latencies of R141, and transfers are kept until the last slot has committed (R156).
-/

namespace Sys2Proof.Machine

/-! ### Values -/

/-- sext(imm8, 8) (06 R151). -/
def imm8 (i : BitVec 8) : W64 := i.signExtend 64
def shlV (a n : W64) : W64 := a <<< (n.toNat % 64)
def shrV (a n : W64) : W64 := a >>> (n.toNat % 64)
def sarV (a n : W64) : W64 := a.sshiftRight (n.toNat % 64)
def rotlV (a n : W64) : W64 := a.rotateLeft (n.toNat % 64)
def mulhV (a b : W64) : W64 := ((a.signExtend 128 * b.signExtend 128) >>> 64).setWidth 64
def mulhnV (a b : W64) : W64 := ((a.setWidth 128 * b.setWidth 128) >>> 64).setWidth 64
/-- Signed quotient, truncated toward zero; all ones for a zero divisor (06 R151). -/
def divS (a b : W64) : W64 := if b = 0 then BitVec.allOnes 64 else a.sdiv b
def divU (a b : W64) : W64 := if b = 0 then BitVec.allOnes 64 else a / b
def remS (a b : W64) : W64 := if b = 0 then BitVec.allOnes 64 else a.srem b
def remU (a b : W64) : W64 := if b = 0 then BitVec.allOnes 64 else a % b
def minS (a b : W64) : W64 := if a.slt b then a else b
def maxS (a b : W64) : W64 := if a.slt b then b else a
def minU (a b : W64) : W64 := if a.ult b then a else b
def maxU (a b : W64) : W64 := if a.ult b then b else a
/-- Ones among the low n bits. -/
def onesBelow (x : Nat) : Nat → Nat
  | 0 => 0
  | n + 1 => x / 2 ^ n % 2 + onesBelow x n
/-- Leading zeros of the low w bits. -/
def leadZeros (w x : Nat) : Nat := if x % 2 ^ w = 0 then w else w - 1 - Nat.log2 (x % 2 ^ w)
def clzV (a : W64) : W64 := BitVec.ofNat 64 (leadZeros 64 a.toNat)
def popcV (a : W64) : W64 := BitVec.ofNat 64 (onesBelow a.toNat 64)
/-- sext(a, m + 1) (06 R151). -/
def sextV (a : W64) (m : BitVec 6) : W64 := BitVec.ofInt 64 (signedOf a.toNat (m.toNat + 1))
def zextV (a : W64) (m : BitVec 6) : W64 := BitVec.ofNat 64 (a.toNat % 2 ^ (m.toNat + 1))
/-- The conditions of R52. -/
def condV (c : BitVec 3) (a b : W64) : Bool :=
  match c.toNat with
  | 0 => a == b
  | 1 => a != b
  | 2 => a.slt b
  | 3 => !a.slt b
  | 4 => a.ult b
  | 5 => !a.ult b
  | 6 => a &&& b != 0
  | _ => a &&& b == 0
/-- The functions of QLOG (03 R52). -/
def qlogV (f : BitVec 3) (a b : Bool) : Bool :=
  match f.toNat with
  | 0 => a && b
  | 1 => a || b
  | 2 => a != b
  | 3 => a && !b
  | 4 => !(a && b)
  | 5 => !(a || b)
  | 6 => a == b
  | _ => a || !b

/-! ### Shapes -/

/-- s[d] := f(s[a], s[b]) at issue + lat. -/
def regOp (f : W64 → W64 → W64) (lat : Nat) (d a b : BitVec 6) (g : Guard) (s : State) :
    Host.Outcome State Fault Refusal :=
  guarded s g fun st => st.pushS d.toNat (f (st.s a.toNat) (st.s b.toNat)) lat false

/-- s[d] := f(s[a], b) at issue + 1. -/
def immOp (f : W64 → W64 → W64) (d a : BitVec 6) (b : W64) (g : Guard) (s : State) :
    Host.Outcome State Fault Refusal :=
  guarded s g fun st => st.pushS d.toNat (f (st.s a.toNat) b) 1 false

/-- A division: as `regOp`, with DZ for a zero divisor. -/
def divOp (f : W64 → W64 → W64) (d a b : BitVec 6) (g : Guard) (s : State) : Host.Outcome State Fault Refusal :=
  guarded s g fun st => st.pushS d.toNat (f (st.s a.toNat) (st.s b.toNat)) 18 (st.s b.toNat == 0)

/-! ### Arithmetic, logic and moves -/

/-- A scalar NOP, and the NOP of any other slot, does nothing (03 R67-R71). -/
def execNop (g : Guard) (s : State) : Host.Outcome State Fault Refusal := guarded s g fun st => st
def execAdd (d a b : BitVec 6) (g : Guard) (s : State) : Host.Outcome State Fault Refusal := regOp (· + ·) 1 d a b g s
def execSub (d a b : BitVec 6) (g : Guard) (s : State) : Host.Outcome State Fault Refusal := regOp (· - ·) 1 d a b g s
def execMul (d a b : BitVec 6) (g : Guard) (s : State) : Host.Outcome State Fault Refusal := regOp (· * ·) 3 d a b g s
def execMulh (d a b : BitVec 6) (g : Guard) (s : State) : Host.Outcome State Fault Refusal := regOp mulhV 3 d a b g s
def execMulhn (d a b : BitVec 6) (g : Guard) (s : State) : Host.Outcome State Fault Refusal := regOp mulhnV 3 d a b g s
def execDiv (d a b : BitVec 6) (g : Guard) (s : State) : Host.Outcome State Fault Refusal := divOp divS d a b g s
def execDivn (d a b : BitVec 6) (g : Guard) (s : State) : Host.Outcome State Fault Refusal := divOp divU d a b g s
def execRem (d a b : BitVec 6) (g : Guard) (s : State) : Host.Outcome State Fault Refusal := divOp remS d a b g s
def execRemn (d a b : BitVec 6) (g : Guard) (s : State) : Host.Outcome State Fault Refusal := divOp remU d a b g s
def execAnd (d a b : BitVec 6) (g : Guard) (s : State) : Host.Outcome State Fault Refusal := regOp (· &&& ·) 1 d a b g s
def execOr (d a b : BitVec 6) (g : Guard) (s : State) : Host.Outcome State Fault Refusal := regOp (· ||| ·) 1 d a b g s
def execXor (d a b : BitVec 6) (g : Guard) (s : State) : Host.Outcome State Fault Refusal := regOp (· ^^^ ·) 1 d a b g s
def execAndn (d a b : BitVec 6) (g : Guard) (s : State) : Host.Outcome State Fault Refusal :=
  regOp (fun x y => x &&& ~~~y) 1 d a b g s
def execShl (d a b : BitVec 6) (g : Guard) (s : State) : Host.Outcome State Fault Refusal := regOp shlV 1 d a b g s
def execShr (d a b : BitVec 6) (g : Guard) (s : State) : Host.Outcome State Fault Refusal := regOp shrV 1 d a b g s
def execSar (d a b : BitVec 6) (g : Guard) (s : State) : Host.Outcome State Fault Refusal := regOp sarV 1 d a b g s
def execRotl (d a b : BitVec 6) (g : Guard) (s : State) : Host.Outcome State Fault Refusal := regOp rotlV 1 d a b g s
def execMin (d a b : BitVec 6) (g : Guard) (s : State) : Host.Outcome State Fault Refusal := regOp minS 1 d a b g s
def execMax (d a b : BitVec 6) (g : Guard) (s : State) : Host.Outcome State Fault Refusal := regOp maxS 1 d a b g s
def execMinn (d a b : BitVec 6) (g : Guard) (s : State) : Host.Outcome State Fault Refusal := regOp minU 1 d a b g s
def execMaxn (d a b : BitVec 6) (g : Guard) (s : State) : Host.Outcome State Fault Refusal := regOp maxU 1 d a b g s

/-- SEL writes s[d] whatever its guard holds (06 R154). -/
def execSel (d a b : BitVec 6) (g : Guard) (s : State) : Host.Outcome State Fault Refusal :=
  onCore s fun k => s.modStrand k fun st =>
    st.pushS d.toNat (if st.guard g then st.s a.toNat else st.s b.toNat) 1 false

def execAddi (d a : BitVec 6) (imm : BitVec 8) (g : Guard) (s : State) : Host.Outcome State Fault Refusal :=
  immOp (· + ·) d a (imm8 imm) g s
def execAndi (d a : BitVec 6) (imm : BitVec 8) (g : Guard) (s : State) : Host.Outcome State Fault Refusal :=
  immOp (· &&& ·) d a (imm8 imm) g s
def execOri (d a : BitVec 6) (imm : BitVec 8) (g : Guard) (s : State) : Host.Outcome State Fault Refusal :=
  immOp (· ||| ·) d a (imm8 imm) g s
def execXori (d a : BitVec 6) (imm : BitVec 8) (g : Guard) (s : State) : Host.Outcome State Fault Refusal :=
  immOp (· ^^^ ·) d a (imm8 imm) g s
def execShli (d a m : BitVec 6) (g : Guard) (s : State) : Host.Outcome State Fault Refusal :=
  immOp shlV d a (m.setWidth 64) g s
def execShri (d a m : BitVec 6) (g : Guard) (s : State) : Host.Outcome State Fault Refusal :=
  immOp shrV d a (m.setWidth 64) g s
def execSari (d a m : BitVec 6) (g : Guard) (s : State) : Host.Outcome State Fault Refusal :=
  immOp sarV d a (m.setWidth 64) g s
def execSext (d a m : BitVec 6) (g : Guard) (s : State) : Host.Outcome State Fault Refusal :=
  immOp (fun x _ => sextV x m) d a 0 g s
def execZext (d a m : BitVec 6) (g : Guard) (s : State) : Host.Outcome State Fault Refusal :=
  immOp (fun x _ => zextV x m) d a 0 g s
def execClz (d a : BitVec 6) (g : Guard) (s : State) : Host.Outcome State Fault Refusal :=
  immOp (fun x _ => clzV x) d a 0 g s
def execPopc (d a : BitVec 6) (g : Guard) (s : State) : Host.Outcome State Fault Refusal :=
  immOp (fun x _ => popcV x) d a 0 g s
def execMov (d a : BitVec 6) (g : Guard) (s : State) : Host.Outcome State Fault Refusal :=
  immOp (fun x _ => x) d a 0 g s

/-- CMP (06 R153). -/
def execCmp (cond qd : BitVec 3) (a b : BitVec 6) (g : Guard) (s : State) : Host.Outcome State Fault Refusal :=
  guarded s g fun st => st.pushQ qd.toNat (condV cond (st.s a.toNat) (st.s b.toNat)) 1
def execCmpi (cond qd : BitVec 3) (a : BitVec 6) (imm : BitVec 8) (g : Guard) (s : State) :
    Host.Outcome State Fault Refusal :=
  guarded s g fun st => st.pushQ qd.toNat (condV cond (st.s a.toNat) (imm8 imm)) 1
def execQlog (fn qd qa qb : BitVec 3) (g : Guard) (s : State) : Host.Outcome State Fault Refusal :=
  guarded s g fun st => st.pushQ qd.toNat (qlogV fn (st.q qa.toNat) (st.q qb.toNat)) 1

/-- LIL and LIH (06 R152). -/
def execLil (d : BitVec 6) (imm : BitVec 14) (g : Guard) (s : State) : Host.Outcome State Fault Refusal :=
  guarded s g fun st => st.pushS d.toNat (imm.signExtend 64) 1 false
def execLih (d : BitVec 6) (imm : BitVec 14) (g : Guard) (s : State) : Host.Outcome State Fault Refusal :=
  guarded s g fun st => st.pushS d.toNat ((st.s d.toNat <<< 14) ||| imm.setWidth 64) 1 false

/-! ### Transfer of control (06 R156-R162) -/

/-- A taken transfer: it redirects issue after the last slot of the bundle (06 R156). -/
def Strand.goto (st : Strand) (t : W64) : Strand := st.withFlow fun f => { f with transfer := some t }

/-- A + sext(offset20, 20). -/
def Strand.branchTarget (st : Strand) (off : BitVec 20) : W64 := BitVec.ofNat 64 st.bundleAddr + off.signExtend 64
/-- A + length of the bundle. -/
def Strand.linkValue (st : Strand) : W64 := BitVec.ofNat 64 (st.bundleAddr + st.bundleLen)

def execBr (off : BitVec 20) (g : Guard) (s : State) : Host.Outcome State Fault Refusal :=
  guarded s g fun st => st.goto (st.branchTarget off)
def execCall (off : BitVec 20) (g : Guard) (s : State) : Host.Outcome State Fault Refusal :=
  guarded s g fun st => (st.pushS 47 st.linkValue 1 false).goto (st.branchTarget off)
def execBrx (d a : BitVec 6) (g : Guard) (s : State) : Host.Outcome State Fault Refusal :=
  guarded s g fun st =>
    (if d = 0 then st else st.pushS d.toNat st.linkValue 1 false).goto (st.s a.toNat)

/-- Length of the frame with header byte `h` (03 R45). -/
def frameLen (h : Nat) : Nat :=
  1 + 4 * (h % 2) + 4 * (h / 2 % 2) + 6 * (h / 4 % 2) + 6 * (h / 8 % 2) + 8 * (h / 16 % 2) + 8 * (h / 32 % 2)
    + 8 * (h / 64 % 2) + 12 * (h / 128 % 2)

/-- LOOP (06 R158): its two limits trap whatever the guard holds (03 R49).  With a count of 0 fetch goes to the last bundle
of the body and on past it. -/
def execLoop (d : BitVec 6) (imm : BitVec 14) (g : Guard) (s : State) : Host.Outcome State Fault Refusal :=
  onCore s fun k =>
    let st := s.strand k
    if imm.toNat < st.bundleLen ∨ 4 ≤ st.sc.loops.length then s.issueTrap k .illopnd 0
    else if !st.guard g then s
    else
      let e := st.bundleAddr + imm.toNat
      let n := st.s d.toNat
      if n = 0 then
        s.modStrand k fun st => (st.goto (BitVec.ofNat 64 e)).withFlow fun f => { f with skip := true }
      else
        s.modStrand k fun st =>
          st.withScalar fun r => { r with loops := ⟨st.bundleAddr + st.bundleLen, e, n⟩ :: r.loops }

/-- NOPW: the idle cycles follow the bundle; two NOPWs of one bundle add up (06 R159, log 19, DEDUCED). -/
def execNopw (imm : BitVec 14) (g : Guard) (s : State) : Host.Outcome State Fault Refusal :=
  guarded s g fun st => st.withFlow fun f => { f with nopw := f.nopw + imm.toNat }

/-- One idle cycle of NOPW has passed (06 R159, 18 R358): the last one ends the count. -/
def execNopwCountExpiry (core : Nat) (s : State) : Host.Outcome State Fault Refusal :=
  .next (s.modStrand core fun st => st.withFlow fun f => { f with nopw := f.nopw - 1 })

/-- ROT acts after the last slot of its bundle (06 R160, R146). -/
def execRot (imm : BitVec 8) (g : Guard) (s : State) : Host.Outcome State Fault Refusal :=
  guarded s g fun st => st.withFlow fun f => { f with deferred := f.deferred ++ [(none, imm8 imm)] }

/-- The granted power level of a core's supply domain (21 R414). -/
def State.grant (s : State) (k : Nat) : Nat := (SMap.get 7 s.hub.pwr (domainOf (chipOf k))).toNat

/-- Offset of power table t of the running variant (03 R66). -/
def Kernel.powerTable (kn : Kernel) (t : Nat) : Nat := kn.hdr + kn.variant.toNat + 32 * t

/-- A word of the power tables lies in the code capability's window. -/
def Kernel.tableWord (kn : Kernel) (a : Nat) : Bool :=
  capBase kn.code ≤ a && a + 4 ≤ capBase kn.code + capLen kn.code

/-- SWPT (06 R161): the table words are read through the code capability.  The faults are raised whatever
the guard holds.  An entry of the granted level that is not 0 is taken though entry 0 holds 0 (log 95, DEDUCED). -/
def execSwpt (t : BitVec 8) (g : Guard) (s : State) : Host.Outcome State Fault Refusal :=
  onCore s fun k =>
    let st := s.strand k
    let kn := st.kn
    let base := kn.powerTable t.toNat
    let a1 := base + 4 * s.grant k
    let e1 := s.objLE (capObj kn.code) a1 4
    let e0 := s.objLE (capObj kn.code) base 4
    if kn.variant = 0 then s.issueTrap k .illopnd 0
    else if !kn.tableWord a1 then s.issueTrap k .capbounds (BitVec.ofNat 64 a1)
    else if e1 = 0 && !kn.tableWord base then s.issueTrap k .capbounds (BitVec.ofNat 64 base)
    else if e1 = 0 ∧ e0 = 0 then s.issueTrap k .illopnd 0
    else if !st.guard g then s
    else s.modStrand k fun st => st.goto (BitVec.ofNat 64 (kn.hdr + if e1 = 0 then e0 else e1))

/-- ENDT: the drain begins after the bundle (06 R162). -/
def execEndt (g : Guard) (s : State) : Host.Outcome State Fault Refusal :=
  guarded s g fun st => st.withFlow fun f => { f with ending := some false }

/-- ENDT.cont: with PERS = 0 an illegal operand (06 R162, 11 R297). -/
def execEndtCont (g : Guard) (s : State) : Host.Outcome State Fault Refusal :=
  onCore s fun k =>
    let st := s.strand k
    if !st.id.pers then s.issueTrap k .illopnd 0
    else if st.guard g then s.modStrand k fun st => st.withFlow fun f => { f with ending := some true }
    else s

/-! ### Capability registers (06 R163, 19 R389, R390) -/

def execCload (c : BitVec 4) (a : BitVec 6) (imm : BitVec 8) (g : Guard) (s : State) :
    Host.Outcome State Fault Refusal :=
  onCore s fun k =>
    let st := s.strand k
    let i := (st.s a.toNat + imm8 imm).toNat
    if 4096 ≤ i then s.issueTrap k .illopnd 0
    else if st.guard g then s.modStrand k fun st => st.pushC c.toNat (SMap.get 0 (s.ctx st.id.ctx).caps i) 8
    else s

def execCnarrow (c ca : BitVec 4) (b : BitVec 6) (g : Guard) (s : State) : Host.Outcome State Fault Refusal :=
  onCore s fun k =>
    let st := s.strand k
    let x := st.c ca.toNat
    let o := (st.s b.toNat).toNat
    let n := (st.s (b.toNat + 1)).toNat
    if capLen x < o + n then s.issueTrap k .capbounds (BitVec.ofNat 64 o)
    else if st.guard g then
      s.modStrand k fun st =>
        st.pushC c.toNat (mkCap (capObj x) (capRights x) (capKind x) (capBase x + o) n) 1
    else s

def execCrights (c ca : BitVec 4) (mask : BitVec 8) (g : Guard) (s : State) : Host.Outcome State Fault Refusal :=
  guarded s g fun st =>
    let x := st.c ca.toNat
    st.pushC c.toNat (mkCap (capObj x) (Nat.land (capRights x) mask.toNat) (capKind x) (capBase x) (capLen x)) 1

/-- The field of a capability that CGET names (03 R67). -/
def capField (f : Nat) (x : CapBits) : Nat :=
  match f with
  | 0 => capObj x
  | 1 => capRights x
  | 2 => capKind x
  | 3 => capBase x
  | _ => capLen x

def execCget (d : BitVec 6) (ca : BitVec 4) (f : BitVec 3) (g : Guard) (s : State) : Host.Outcome State Fault Refusal :=
  guarded s g fun st => st.pushS d.toNat (BitVec.ofNat 64 (capField f.toNat (st.c ca.toNat))) 1 false
def execCmov (c ca : BitVec 4) (g : Guard) (s : State) : Host.Outcome State Fault Refusal :=
  guarded s g fun st => st.pushC c.toNat (st.c ca.toNat) 1

/-- A result reaches its register: the oldest due interlocked write (06 R141); a zero divisor sets DZ (R147).  Of two writes of
one bundle that are due together, that of the later slot stands (log 108, DESIGN CHOICE). -/
def execScalarResultWrite (core : Nat) (s : State) : Host.Outcome State Fault Refusal :=
  .next <|
    match (s.strand core).pend.find? (·.due == 0) with
    | none => s
    | some p =>
      let s := s.modStrand core fun st =>
        { st with sc := st.sc.put p.dst p.value, pend := st.pend.erase p }
      s.modNow core fun n =>
        { n with dz := n.dz || p.dz,
                 written := match p.dst with
                   | .s i => (i, p.seq) :: n.written
                   | _ => n.written }

end Sys2Proof.Machine
end

