-- ==== Sys2Proof/Machine/Operands.lean ====
section
/-!
DEFINITION. Operand forms of memory and engine instructions: the checks of R167, local and remote,
signatures, the remote queue, the wait and signal fields of the E slot, and the in-flight limit.
-/

namespace Sys2Proof.Machine

/-- Why a bundle cannot issue in a cycle: it can, it freezes, or it freezes in a counted wait (06 R150). -/
inductive Hold where
  | go | freeze | wait
  deriving DecidableEq, Repr

/-- The first of two holds. -/
def Hold.or (a b : Hold) : Hold := if a = .go then b else a

/-! ### Checks (07 R167) -/

/-- A failed check: the trap and its TRAPV. -/
abbrev Trap := Option (TrapCode × W64)

/-- The rights an access needs; peer too through a peer-kind capability (19 R389). -/
def capGrants (x : CapBits) (rights : List Nat) : Bool := rights.all (capHas x) && (capKind x != kPeer || capHas x rPeer)

/-- Checks 1 and 2: rights and kind. -/
def Strand.checkCap (st : Strand) (c : Nat) (rights kinds : List Nat) : Trap :=
  let x := st.c c
  if capGrants x rights && kinds.contains (capKind x) then none else some (.caprights, BitVec.ofNat 64 c)

/-- The space a capability's access reaches from a core (07 R164). -/
inductive Space where
  | spad | pane | remote
  deriving DecidableEq, Repr

def State.space (s : State) (k : Nat) (x : CapBits) : Space :=
  if capKind x = kScratch then .spad
  else if capKind x = kPane ∧ s.paneOf (capObj x) = some (chipOf k) then .pane
  else .remote

/-- Check 3: the footprint lies in the window. -/
def checkBounds (x : CapBits) (o : Int) (len : Nat) : Trap :=
  if 0 ≤ o ∧ o + len ≤ capLen x then none else some (.capbounds, BitVec.ofInt 64 o)

/-- The address of a capability offset. -/
def capAddr (x : CapBits) (o : Int) : Nat := (capBase x + o).toNat

/-- Checks 5 and 6: one bank, and alignment. -/
def checkAlign (x : CapBits) (o : Int) (len align : Nat) : Trap :=
  let a := capAddr x o
  if capKind x = kScratch ∧ bankOf a ≠ bankOf (a + len - 1) then some (.align, BitVec.ofNat 64 a)
  else if a % align = 0 then none else some (.align, BitVec.ofNat 64 a)

/-- The first failure of a list of checks. -/
def firstTrap : List Trap → Trap
  | [] => none
  | none :: r => firstTrap r
  | some t :: _ => some t

/-- FMTB of the bank that holds a scratchpad address (04 R92). -/
def Strand.fmtReg (st : Strand) (a : Nat) : W64 := SMap.get 0 st.fmtb (bankOf a)
def fmtCode (r : W64) : Nat := r.toNat % 32
def fmtScale (r : W64) : Int := signedOf (r.toNat / 2 ^ 8) 8
def fmtRnd (r : W64) : Nat := r.toNat / 2 ^ 16 % 4
def fmtSat (r : W64) : Bool := r.getLsbD 18
def fmtTrap (r : W64) : Bool := r.getLsbD 19

/-- Check 7 of a raw access: the bank's format is not reserved (04 R95). -/
def Strand.checkRaw (st : Strand) (x : CapBits) (o : Int) : Trap :=
  if capKind x = kScratch ∧ !fmtListed (fmtCode (st.fmtReg (capAddr x o))) then some (.illopnd, 0) else none

/-! ### Held writes, signatures and escape (07 R179, 15 R324, R325, R333) -/

/-- Writes through this capability leave for the Loupe. -/
def Strand.holds (st : Strand) (x : CapBits) : Bool :=
  (st.id.cls != 0 || st.id.dep) && capKind x != kScratch && !isView (capObj x)

def fmix (x : W64) : W64 :=
  let x := x ^^^ (x >>> 33)
  let x := x * 0xFF51AFD7ED558CCD
  let x := x ^^^ (x >>> 33)
  let x := x * 0xC4CEB9FE1A85EC53
  x ^^^ (x >>> 33)

/-- `sigterm(i, o, d)` (15 R324). -/
def sigterm (i o : Nat) (d : Byte) : W64 :=
  fmix (BitVec.ofNat 64 (i % 8 * 2 ^ 61 + o % 2 ^ 61) + (BitVec.ofNat 64 d.toNat + 1) * 0x9E3779B97F4A7C15)

/-- The operand whose view an object is, counted from `i`. -/
def viewOperand (obj : Nat) : List Operand → Nat → Option (Nat × Nat)
  | [], _ => none
  | o :: r, i => if capObj o.view = obj then some (i, capBase o.view) else viewOperand obj r (i + 1)

/-- The location a signature term names. -/
def Strand.sigPlace (st : Strand) (obj off : Nat) : Nat × Nat :=
  match (if isView obj then viewOperand obj st.ops 0 else none) with
  | some (i, base) => (i, off - base)
  | none => (7, obj % 2 ^ 28 * 2 ^ 32 + off % 2 ^ 32)

/-- Sum of the terms of written bytes. -/
def Strand.foldSum (st : Strand) (obj : Nat) (bs : List (Nat × Byte)) : W64 :=
  bs.foldl (fun a p => a + sigterm (st.sigPlace obj p.1).1 (st.sigPlace obj p.1).2 p.2) 0

/-- A hardware fold of the present cycle adds to SIGk. -/
def Strand.addSig (st : Strand) (i : Nat) (v : W64) : Strand :=
  { st with sigNow := SMap.set st.sigNow i (SMap.get 0 st.sigNow i + v) }

/-- SIG0 and SIG3 wrap, SIG1 and SIG2 saturate (15 R336). -/
def sigSum (i : Nat) (a b : W64) : W64 :=
  if i = 1 ∨ i = 2 then (if 2 ^ 64 ≤ a.toNat + b.toNat then BitVec.allOnes 64 else a + b) else a + b

/-- The folds of the cycle join the registers. -/
def Strand.mergeSig (st : Strand) : Strand :=
  { st with sig := st.sigNow.foldl (fun m p => SMap.set m p.1 (sigSum p.1 (SMap.get 0 m p.1) p.2)) st.sig, sigNow := [] }

/-- Fold the bytes of a slot's write that is not to a scratchpad. -/
def Strand.fold (st : Strand) (x : CapBits) (bs : List (Nat × Byte)) : Strand :=
  if capKind x = kScratch then st else st.addSig 0 (st.foldSum (capObj x) bs)

/-- An effect of an undependent class N strand outside its views marks its entry escaped (07 R179). -/
def State.escape (s : State) (k : Nat) (x : CapBits) : State :=
  let st := s.strand k
  if st.id.cls = 0 ∧ !st.id.dep ∧ capKind x ≠ kScratch ∧ !isView (capObj x) then
    s.modEntry st.id.tid.toNat fun e => { e with escaped := true }
  else s

/-! ### The remote queue (07 R166) -/

/-- Entries of core k's remote queue: those not yet returned or accepted. -/
def State.queued (s : State) (k : Nat) : Nat :=
  s.remotes.countP fun r => r.core == k && (decide (r.slot < 8) || (r.slot == engineSlot && r.held && r.stage == .loupe
    && decide (r.issued + meshHops (chipOf r.core) 8 < s.now)))

/-- Put an access into the remote queue (log 44, DESIGN CHOICE). -/
def State.enqueue (s : State) (k : Nat) (kind : RKind) (x : CapBits) (off size : Nat) (data comparand : W64) (fn : Nat)
    (bytes : List (Nat × Byte)) (dst : Option SDest) (sx : Bool) (cls : Nat) (rel acq : Bool) (scope : Nat)
    (held : Bool) : State :=
  let st := s.strand k
  let r : Remote :=
    { id := s.nextId, owner := st.owner, core := k, num := st.fl.accesses, slot := st.slot, addr := st.bundleAddr,
      kind := kind, ckind := capKind x, obj := capObj x, off := off, size := size, data := data, bytes := bytes,
      comparand := comparand, fn := fn, dst := dst, seq := st.fl.seq, sx := sx, cls := cls, rel := rel, acq := acq,
      scope := scope, stage := .queued, held := held, issued := s.now }
  let s := s.modStrand k fun st => st.withFlow fun f =>
    { f with accesses := f.accesses + 1, acquire := if acq then 2 * s.nextId :: f.acquire else f.acquire }
  { s with remotes := s.remotes ++ [r], nextId := s.nextId + 1 }

/-- A late fault of the strand on core k. -/
def State.late (s : State) (k : Nat) (f : LateFault) : State := s.modNow k fun n => { n with late := n.late ++ [f] }

/-- A late fault of the slot that runs. -/
def State.slotLate (s : State) (k : Nat) (c : TrapCode) (v : Nat) : State :=
  let st := s.strand k
  s.late k ⟨c, BitVec.ofNat 64 v, some (st.bundleAddr, st.slot), st.slot⟩
/-- A local access of a FRAME object in the own pane: it is not performed, and the slot has a late fault (19 R399). -/
def State.frameFault (s : State) (k : Nat) (x : CapBits) : State := s.slotLate k .revoked (capObj x)
def State.inFrame (s : State) (x : CapBits) : Bool := (s.obj (capObj x)).any (·.frame)

/-- Write bytes outside the scratchpad: folded, then held, sent, or written through the own pane's port. -/
def State.storeOut (s : State) (k : Nat) (x : CapBits) (bs : List (Nat × Byte)) (cls : Nat) : State :=
  let st := s.strand k
  let s := (s.modStrand k fun st => st.fold x bs).escape k x
  let off := (bs.map (·.1)).foldl min ((bs.map (·.1)).headD 0)
  let top := (bs.map (·.1)).foldl max 0
  if st.holds x then s.enqueue k .store x off (top + 1 - off) 0 0 0 bs none false cls false false 0 true
  else if s.space k x = .pane then
    if s.inFrame x then s.frameFault k x
    else
      let cells := bs.flatMap fun p => s.objCells (capObj x) p.1 [p.2]
      { (s.dirty (s.byteExtents (capObj x) bs)).noteWrites (k % 8) false (cells.map (·.1)) with
        paneW := s.paneW ++ cells
        lines := (bs.map fun p => s.homeOf (capObj x) p.1) ++ s.lines }
  else s.enqueue k .store x off (top + 1 - off) 0 0 0 bs none false cls false false 0 false

/-! ### Atomic functions (07 R175) -/

/-- The new memory value; `kind` amof has fn 0 for f32 and 1 for bf16x2. -/
def atomNew (kind : RKind) (fn size : Nat) (m v c : Nat) : Nat :=
  let w := 8 * size
  let sm := signedOf m w
  let sv := signedOf v w
  match kind with
  | .amof =>
    let half (ff : FloatFmt) (x y : Nat) : Nat := (roundF ff 0 false (addV 0 (ff.val x) (ff.val y)).1).1
    if fn = 0 then half f32 m v
    else half bf16 (m % 2 ^ 16) (v % 2 ^ 16) + 2 ^ 16 * half bf16 (m / 2 ^ 16) (v / 2 ^ 16)
  | _ =>
    match fn with
    | 0 => (m + v) % 2 ^ w
    | 1 => Nat.land m v
    | 2 => Nat.lor m v
    | 3 => Nat.xor m v
    | 4 => if sm < sv then m else v
    | 5 => if sm < sv then v else m
    | 6 => min m v
    | 7 => max m v
    | 8 => v
    | _ => if m = c then v else m

/-! ### E slot: wait, signal and guard (03 R57, 11 R269, R270) -/

/-- Semaphore n of a strand. -/
def Strand.semaphore (st : Strand) (n : Nat) : Nat := SMap.get 0 st.sy.sem n

/-- The increment of a signal field, 0 meaning 16. -/
def engineInc (e : ESync) : Nat := if e.sigInc = 0 then 16 else e.sigInc.toNat
/-- The signal of an enabled field. -/
def engineSignal (e : ESync) : Option (Nat × Nat) := if e.sigEn then some (e.sigSem.toNat, engineInc e) else none

/-- The slot of the command whose signal acts. -/
def Strand.signalFrom (st : Strand) (x : Option (Nat × Nat)) (origin : Nat × Nat) : Strand :=
  match x with
  | none => st
  | some (n, _) => st.withSy fun y => { y with semFrom := SMap.set y.semFrom n origin }

/-- A signal acts: its increment joins those of the cycle (11 R271). -/
def Strand.addSignal (st : Strand) (x : Option (Nat × Nat)) : Strand :=
  match x with
  | none => st
  | some (n, i) => st.withSy fun y => { y with semAdd := SMap.set y.semAdd n (SMap.get 0 y.semAdd n + i) }

/-- The signal of the slot that runs acts. -/
def Strand.signal (st : Strand) (x : Option (Nat × Nat)) : Strand :=
  (st.signalFrom x (st.bundleAddr, st.slot)).addSignal x

/-- Semaphore overflow: the value is 65535, and the fault names the command whose signal acted last (11 R271, 18 R352). -/
def Strand.semFault (st : Strand) (n : Nat) : LateFault :=
  let x := SMap.get (0, 7) st.sy.semFrom n
  ⟨.semovf, BitVec.ofNat 64 n, some x, x.2⟩

/-- Subtract from a semaphore. -/
def Strand.consume (st : Strand) (n t : Nat) : Strand :=
  st.withSy fun y => { y with sem := SMap.set y.sem n (SMap.get 0 y.sem n - t) }

/-- The wait of an E command is consumed in its issue cycle. -/
def Strand.consumeWait (st : Strand) (e : ESync) : Strand :=
  if e.waitEn then st.consume e.waitSem.toNat e.waitThr.toNat else st

/-- An engine command: its checks, whatever the guard holds; then under a true guard the wait and the effect.
The signal acts at issue where `atIssue` says so, and always under a false guard (log 90, DEDUCED). -/
def engine (s : State) (e : ESync) (atIssue : Bool) (check : Nat → Trap) (f : Nat → State → State) :
    Host.Outcome State Fault Refusal :=
  onCore s fun k =>
    match check k with
    | some (c, v) => s.issueTrap k c v
    | none =>
      if (s.strand k).guard e.g then
        let s := f k (s.modStrand k fun st => st.consumeWait e)
        if atIssue then s.modStrand k fun st => st.signal (engineSignal e) else s
      else s.modStrand k fun st => st.signal (engineSignal e)

/-- No issue-time check beyond those of the encoding. -/
def noCheck : Nat → Trap := fun _ => none

/-- Privilege check 6 with the opcode as TRAPV (18 R351). -/
def Strand.checkPriv (st : Strand) (lvl op : Nat) : Trap :=
  if lvl ≤ st.id.priv.toNat then none else some (.priv, BitVec.ofNat 64 op)

/-! ### The in-flight limit (18 R354) -/

/-- Destination registers of a long operation. -/
def LongOp.dests (o : LongOp) : Nat := if o.sort then 2 else 1

/-- Pending exposed writes, counting the entries held for ERET and the long operations that a stop holds. -/
def Strand.pending (st : Strand) : Nat :=
  st.counts.length + st.tr.held.length + st.tr.waiting.length
    + ((st.longs.filter fun o => o.stopping || o.stopped).map LongOp.dests).sum

/-- Check 4 of the limit for n more destinations (log 32, DEDUCED). -/
def Strand.checkInflight (st : Strand) (n : Nat) : Trap :=
  if st.pending + n ≤ 32 then none else some (.inflight, BitVec.ofNat 64 (st.pending + n))

/-- An instruction with counted destinations: its checks, then its effect; it counts whatever its guard holds. -/
def counted (s : State) (n lat : Nat) (check : Nat → Trap) (f : Nat → State → State) :
    Host.Outcome State Fault Refusal :=
  onCore s fun k =>
    match firstTrap [(s.strand k).checkInflight n, check k] with
    | some (c, v) => s.issueTrap k c v
    | none => f k (s.modStrand k fun st => st.count n lat)

/-- An engine command with counted destinations. -/
def engineCounted (s : State) (e : ESync) (n lat : Nat) (check : Nat → Trap) (f : Nat → State → State) :
    Host.Outcome State Fault Refusal :=
  onCore s fun k =>
    match firstTrap [(s.strand k).checkInflight n, check k] with
    | some (c, v) => s.issueTrap k c v
    | none =>
      let s := s.modStrand k fun st => st.count n lat
      let s := if (s.strand k).guard e.g then f k (s.modStrand k fun st => st.consumeWait e) else s
      s.modStrand k fun st => st.signal (engineSignal e)

end Sys2Proof.Machine
end

