-- ==== Sys2Proof/Machine/Flags.lean ====
section
/-!
DEFINITION. Flags: how the exception flags of a cycle are collected and merged into VSTAT, MSTAT, CPSTAT and
CSTAT (04 R82, R83), and the late faults they raise (09 R221, 10 R267, 08 R192).  A flag raised in a cycle
joins its register when the core's cycle ends, so an MFSR of the cycle reads the old value and an MTSR of the
cycle is applied first (06 R146).
-/

namespace Sys2Proof.Machine

/-- The fields of VCTL (09 R219). -/
def VectorRegs.te (v : VectorRegs) : BitVec 5 := v.vctl.setWidth 5
def VectorRegs.bpte (v : VectorRegs) : Bool := v.vctl.getLsbD 5

/-- VSTAT bits of arithmetic flags. -/
def vbits (f : Flags) : BitVec 8 := f.setWidth 8
def vBADPK : BitVec 8 := 0x20
def vBADIX : BitVec 8 := 0x40
def vRESID : BitVec 8 := 0x80

/-- Raise bits of VSTAT: VFP and VBADPK where enabled, RESID always, for `resn` failed checks (09 R221, R222, R234). -/
def State.raiseV (s : State) (k : Nat) (bits : BitVec 8) (resn addr slot : Nat) : State :=
  if bits = 0 then s
  else
    let st := s.strand k
    let all := (s.core k).now.vstat ||| bits
    let v : W64 := (all.setWidth 5).setWidth 64
    let s := s.modNow k fun n =>
      { n with vstat := all, late := n.late.map fun l => if l.code = .vfp then { l with value := v } else l }
    let s := if bits.setWidth 5 &&& st.vec.te ≠ 0 then s.late k ⟨.vfp, v, some (addr, slot), slot⟩ else s
    let s := if bits.getLsbD 5 && st.vec.bpte then s.late k ⟨.vbadpk, 0, some (addr, slot), slot⟩ else s
    if bits.getLsbD 7 then
      (s.modStrand k fun st => st.addSig 2 (BitVec.ofNat 64 resn)).late k ⟨.resid, 0, some (addr, slot), slot⟩
    else s

/-- MSTAT bits. -/
def mIV : BitVec 11 := 1
def mOF : BitVec 11 := 2
def mBADPK : BitVec 11 := 4
def mCHK : BitVec 11 := 8
def mCSKIP : BitVec 11 := 16
/-- The MSTAT bits IV and OF of arithmetic flags (10 R255). -/
def mbits (f : Flags) : BitVec 11 :=
  (if f.getLsbD 0 then mIV else 0) ||| (if f.getLsbD 2 then mOF else 0)

/-- Raise bits of MSTAT, with MFP where IVTE or OFTE is set (10 R267). -/
def State.raiseM (s : State) (k : Nat) (bits : BitVec 11) (addr : Nat) : State :=
  if bits = 0 then s
  else
    let st := s.strand k
    let s := s.modNow k fun n => { n with mstat := n.mstat ||| bits }
    let iv := bits.getLsbD 0 && st.mx.mstat.getLsbD 8
    let ov := bits.getLsbD 1 && st.mx.mstat.getLsbD 9
    if iv || ov then
      let v := (if bits.getLsbD 0 then 1 else 0) + (if bits.getLsbD 1 then 2 else 0)
      s.late k ⟨.mfp, BitVec.ofNat 64 v, some (addr, 6), 6⟩
    else s

/-- A flip of one bit of a vector register. -/
def VectorRegs.flip (x : VectorRegs) (f : Nat × Nat) : VectorRegs :=
  { x with v := SMap.set x.v f.1 (SMap.get 0 x.v f.1 ^^^ ((1 : BitVec 4096) <<< f.2)) }
/-- The core's cycle ends: what it raised joins the registers (04 R83), and then the flips of ZINJECT act (15 R341). -/
def State.mergeNow (s : State) (k : Nat) : State :=
  let n := (s.core k).now
  s.modStrand k fun st =>
    { st.mergeSig with
      vec := n.flips.foldl VectorRegs.flip { st.vec with vstat := st.vec.vstat ||| n.vstat }
      mx := { st.mx with mstat := st.mx.mstat ||| n.mstat, chkloc := n.chkloc.getD st.mx.chkloc }
      cp := { st.cp with flags := st.cp.flags ||| n.cpflags, abort := st.cp.abort || n.abort }
      id := { st.id with dz := st.id.dz || n.dz } }

end Sys2Proof.Machine
end

