-- ==== Sys2Proof/Machine/Memory.lean ====
section
/-!
DEFINITION. Memory access instructions (07): scalar and vector loads and stores, atomics and DRAIN.
A local load samples memory before any write of its cycle; scratchpad stores of a bundle are queued and
performed when the slots after W need them or the cycle ends (R165, R169).
-/

namespace Sys2Proof.Machine

/-- Note the scratchpad banks a bundle schedules (07 R169). -/
def State.schedule (s : State) (k : Nat) (banks : BitVec 64) : State :=
  s.modNow k fun n => { n with banks := n.banks ||| banks }
/-- The one bank of an address. -/
def Strand.bankBit (st : Strand) (a : Nat) : BitVec 64 := (1 : BitVec 64) <<< bankOf (st.phys a)

/-- Queue scratchpad writes at given addresses. -/
def State.bufferCells (s : State) (k : Nat) (cs : List (Nat × Byte)) : State :=
  s.modNow k fun n => { n with wbuf := n.wbuf ++ cs }

/-- The granule wait of R171: all full for `want`, all empty otherwise. -/
def State.granules (s : State) (k : Nat) (want : Bool) (as : List Nat) : Bool := as.all fun a => s.isFull k a == want

/-! ### Scalar loads and stores (R172) -/

/-- Accepted kinds of the scalar forms and the atomics, and of the vector forms (07 R164). -/
def scalarKinds : List Nat := [kObject, kScratch, kPane, kHost, kPeer]
def vectorKinds : List Nat := [kScratch, kPane]

/-- A qualifier on an access that is not local to the scratchpad is an illegal operand (R171), found after the checks of rights,
bounds and alignment (log 102, DESIGN CHOICE). -/
def checkQual (x : CapBits) (q : MemQ) : Trap :=
  if q.qual != 0 && capKind x != kScratch then some (.illopnd, 0) else none

/-- Byte offset of a scalar access. -/
def Strand.scalarOff (st : Strand) (off imm : BitVec 6) (size : BitVec 2) : Int :=
  (st.s off.toNat).toNat + imm.toInt * (2 ^ size.toNat : Nat)

/-- The checks of a scalar access of n bytes. -/
def Strand.checkScalar (st : Strand) (c right : Nat) (o : Int) (n : Nat) (q : MemQ) : Trap :=
  let x := st.c c
  firstTrap [st.checkCap c [right] scalarKinds, checkBounds x o n, checkAlign x o n n, st.checkRaw x o, checkQual x q]

/-- The value of bytes loaded, extended to 64 bits. -/
def extendLoad (sx : Bool) (n v : Nat) : W64 := if sx then BitVec.ofInt 64 (signedOf v (8 * n)) else BitVec.ofNat 64 v

def execLds (r : BitVec 6) (cap : BitVec 4) (off imm : BitVec 6) (size : BitVec 2) (sx : Bool) (g : Guard) (q : MemQ)
    (s : State) : Host.Outcome State Fault Refusal :=
  counted s 1 20
    (fun k => let st := s.strand k
      st.checkScalar cap.toNat rRead (st.scalarOff off imm size) (2 ^ size.toNat) q)
    fun k s =>
      let st := s.strand k
      let x := st.c cap.toNat
      let n := 2 ^ size.toNat
      let a := capAddr x (st.scalarOff off imm size)
      let dst := if r = 0 then 0 else rotIndex st.sc.rotb r.toNat
      if !st.guard g then s
      else
        match s.space k x with
        | .spad =>
          let v := extendLoad sx n (ofLE (s.spadBytes k a n))
          let s := (s.schedule k (st.bankBit a)).modStrand k fun st =>
            if r = 0 then st else st.expose (.s dst) 1 (v.setWidth 4096) 6 0 14
          if q.qual = 2 then s.setFull k a false else s
        | .pane =>
          let v := extendLoad sx n (s.objLE (capObj x) a n)
          if s.inFrame x then s.frameFault k x
          else s.modStrand k fun st => if r = 0 then st else st.expose (.s dst) 1 (v.setWidth 4096) 20 0 0
        | .remote =>
          s.enqueue k .load x a n 0 0 0 [] (some (.s dst)) sx q.cls.toNat false false 0 false

def execSts (r : BitVec 6) (cap : BitVec 4) (off imm : BitVec 6) (size : BitVec 2) (g : Guard) (q : MemQ) (s : State) :
    Host.Outcome State Fault Refusal :=
  onCore s fun k =>
    let st := s.strand k
    let x := st.c cap.toNat
    let n := 2 ^ size.toNat
    let o := st.scalarOff off imm size
    match st.checkScalar cap.toNat rWrite o n q with
    | some (c, v) => s.issueTrap k c v
    | none =>
      let a := capAddr x o
      let bs := atAddr a (leBytes n (st.s r.toNat).toNat)
      if !st.guard g then s
      else if capKind x = kScratch then
        let s := (s.schedule k (st.bankBit a)).bufferCells k bs
        if q.qual != 0 then s.setFull k a true else s
      else s.storeOut k x bs q.cls.toNat

/-! ### Vector loads and stores (R173) -/

/-- Lanes 0 to 127 that are set in a mask. -/
def lanesOf (m : PReg) : List Nat := (List.range 128).filter fun l => m.getLsbD l

/-- Format of the element at an offset of a capability: raw32 outside the scratchpad (04 R96). -/
def Strand.elemFmt (st : Strand) (x : CapBits) (o : Int) : Nat :=
  if capKind x = kScratch then fmtCode (st.fmtReg (capAddr x o)) else 0

/-- Bytes of a single element. -/
def elemBytes (f : Nat) : Nat := max 1 (fmtWidth f / 8)

/-- A format of single elements: listed, and of whole bytes (07 R173). -/
def singleOk (f : Nat) : Bool := fmtListed f && 8 ≤ fmtWidth f

/-- Check 4: a pane capability names an object of the own chiplet's pane. -/
def State.checkPane (s : State) (k : Nat) (x : CapBits) : Trap :=
  if capKind x = kPane ∧ s.space k x ≠ .pane then some (.panelocal, BitVec.ofNat 64 (capObj x)) else none

/-- Bytes of the contiguous footprint at offset o; 32 bits an element in a bank of reserved format (log 119, DESIGN CHOICE). -/
def Strand.footprint (st : Strand) (x : CapBits) (o : Int) : Nat := 16 * fmtWidth (st.elemFmt x o)

/-- Checks of VLD and VST, over the whole footprint. -/
def State.checkContig (s : State) (k c right : Nat) (o : Int) (q : MemQ) : Trap :=
  let st := s.strand k
  let x := st.c c
  let n := st.footprint x o
  firstTrap [st.checkCap c [right] vectorKinds, checkBounds x o n, s.checkPane k x, checkAlign x o n 16,
    if fmtListed (st.elemFmt x o) then none else some (.illopnd, 0), checkQual x q]

/-- Checks of single elements at offsets `os`; where there is none, check 7 tests the bank at `base`, the offset of lane 0 (R168; log
119, DESIGN CHOICE). -/
def State.checkSingles (s : State) (k c right : Nat) (base : Int) (os : List Int) (q : MemQ) : Trap :=
  let st := s.strand k
  let x := st.c c
  let w (o : Int) : Nat := elemBytes (st.elemFmt x o)
  let ill (o : Int) : Trap := if singleOk (st.elemFmt x o) then none else some (.illopnd, 0)
  firstTrap ([st.checkCap c [right] vectorKinds] ++ os.map (fun o => checkBounds x o (w o))
    ++ (if os = [] then [] else [s.checkPane k x])
    ++ os.map (fun o => if capKind x = kScratch ∧ bankOf (capAddr x o) ≠ bankOf (capAddr x o + w o - 1) then
        some (.align, BitVec.ofNat 64 (capAddr x o)) else none)
    ++ os.map (fun o => checkAlign x o (w o) (w o))
    ++ (if os = [] then [ill base] else os.map ill) ++ [checkQual x q])

/-- n bytes at an address of a capability, as a number. -/
def State.readLocal (s : State) (k : Nat) (x : CapBits) (a n : Nat) : Nat :=
  if capKind x = kScratch then ofLE (s.spadBytes k a n) else s.objLE (capObj x) a n

/-- Latency and extra count of a local load (R165, 18 R354). -/
def loadLat (x : CapBits) : Nat × Nat := if capKind x = kScratch then (6, 14) else (20, 0)

/-- Queue the value of a vector load for its active lanes. -/
def State.landLoad (s : State) (k : Nat) (x : CapBits) (v : Nat) (act : PReg) (f : Nat → W32) : State :=
  if act = 0 then s
  else if capKind x ≠ kScratch ∧ s.inFrame x then s.frameFault k x
  else s.modStrand k fun st => st.expose (.v v) act (ofLanes f) (loadLat x).1 0 (loadLat x).2

/-- Offset of the contiguous forms: s[J] + imm12 x 16. -/
def Strand.off12 (st : Strand) (off : BitVec 6) (imm : BitVec 12) : Int := (st.s off.toNat).toNat + imm.toInt * 16
/-- Offset of lane l under a stride: s[J] + imm6 x 16 + l x s[T]. -/
def Strand.offStride (st : Strand) (off stride imm : BitVec 6) (l : Nat) : Int :=
  (st.s off.toNat).toNat + imm.toInt * 16 + l * (st.s stride.toNat).toInt
/-- Offset of lane l under an index register. -/
def Strand.offIndex (st : Strand) (off : BitVec 6) (idx : BitVec 9) (wi : Bool) (l : Nat) : Int :=
  (st.s off.toNat).toNat + (lane (st.v idx.toNat) l).toInt * (if wi then 4 else 1)

/-- Granule addresses of the elements of a contiguous access. -/
def contigGranules (a w : Nat) (act : PReg) : List Nat :=
  (lanesOf act).flatMap fun l => [a + l * w / 8, a + (l * w + w - 1) / 8]

def execVld (v : BitVec 9) (cap : BitVec 4) (off : BitVec 6) (imm : BitVec 12) (g : PGuard) (q : MemQ) (s : State) :
    Host.Outcome State Fault Refusal :=
  counted s 1 20 (fun k => s.checkContig k cap.toNat rRead ((s.strand k).off12 off imm) q) fun k s =>
    let st := s.strand k
    let x := st.c cap.toNat
    let o := st.off12 off imm
    let a := capAddr x o
    let f := st.elemFmt x o
    let w := fmtWidth f
    let act := st.active g
    let n := s.readLocal k x a (st.footprint x o)
    let s := s.landLoad k x v.toNat act fun l => BitVec.ofNat 32 (widen f (n / 2 ^ (w * l) % 2 ^ w))
    if act ≠ 0 ∧ capKind x = kScratch then
      let s := s.schedule k (st.bankBit a)
      if q.qual = 2 then s.setFulls k false (contigGranules a w act) else s
    else s

/-- The value of a register after the elements of the active lanes are put in place. -/
def putElems (n w : Nat) (f : Nat → Nat) : List Nat → Nat
  | [] => n
  | l :: r =>
    let m := putElems n w f r
    m - (m / 2 ^ (w * l) % 2 ^ w) * 2 ^ (w * l) + f l % 2 ^ w * 2 ^ (w * l)

/-- Bytes that the elements of the active lanes touch, by byte of the footprint. -/
def touched (w : Nat) (act : PReg) (j : Nat) : Bool :=
  (List.range 128).any fun l => act.getLsbD l && w * l / 8 ≤ j && j ≤ (w * l + w - 1) / 8

/-- Union of the flags of the lanes. -/
def flagsOf (f : Nat → Flags) (ls : List Nat) : Flags := ls.foldl (fun a l => a ||| f l) 0

def execVst (v : BitVec 9) (cap : BitVec 4) (off : BitVec 6) (imm : BitVec 12) (g : PGuard) (q : MemQ) (s : State) :
    Host.Outcome State Fault Refusal :=
  onCore s fun k =>
    let st := s.strand k
    let x := st.c cap.toNat
    let o := st.off12 off imm
    match s.checkContig k cap.toNat rWrite o q with
    | some (c, t) => s.issueTrap k c t
    | none =>
      let a := capAddr x o
      let f := st.elemFmt x o
      let w := fmtWidth f
      let act := st.active g
      let r := st.fmtReg a
      let code (l : Nat) : Nat × Flags := narrow f (fmtRnd r) (fmtSat r) (lane (st.v v.toNat) l).toNat
      if act = 0 then s
      else if capKind x = kScratch then
        let n := putElems (ofLE (s.spadBytes k a (16 * w))) w (fun l => (code l).1) (lanesOf act)
        let bs := (atAddr 0 (leBytes (16 * w) n)).filter fun p => touched w act p.1
        let s := (s.schedule k (st.bankBit a)).bufferCells k (bs.map fun p => (a + p.1, p.2))
        let s := if q.qual != 0 then s.setFulls k true (contigGranules a w act) else s
        s.raiseV k (vbits (flagsOf (fun l => (code l).2) (lanesOf act))) 0 st.bundleAddr 3
      else
        s.storeOut k x ((lanesOf act).flatMap fun l => atAddr (a + 4 * l) (leBytes 4 (lane (st.v v.toNat) l).toNat))
          q.cls.toNat

/-- The widened element at an offset. -/
def State.elemAt (s : State) (k : Nat) (x : CapBits) (o : Int) : W32 :=
  let f := (s.strand k).elemFmt x o
  BitVec.ofNat 32 (widen f (s.readLocal k x (capAddr x o) (elemBytes f)))

/-- A load of single elements: all banks are scheduled unless `one` (R169). -/
def loadSingles (s : State) (v : BitVec 9) (cap : BitVec 4) (g : PGuard) (q : MemQ) (off : Strand → Nat → Int)
    (one : Bool) : Host.Outcome State Fault Refusal :=
  counted s 1 20
    (fun k => let st := s.strand k
      s.checkSingles k cap.toNat rRead (off st 0) (if one then [off st 0] else (lanesOf (st.active g)).map (off st)) q)
    fun k s =>
      let st := s.strand k
      let x := st.c cap.toNat
      let act := st.active g
      let s := s.landLoad k x v.toNat act fun l => if act.getLsbD l then s.elemAt k x (off st l) else 0
      if act ≠ 0 ∧ capKind x = kScratch then
        let s := s.schedule k (if one then st.bankBit (capAddr x (off st 0)) else BitVec.allOnes 64)
        if q.qual = 2 then s.setFulls k false ((lanesOf act).map fun l => capAddr x (off st l)) else s
      else s

def execVldb (v : BitVec 9) (cap : BitVec 4) (off : BitVec 6) (imm : BitVec 12) (g : PGuard) (q : MemQ) (s : State) :
    Host.Outcome State Fault Refusal :=
  loadSingles s v cap g q (fun st _ => st.off12 off imm) true
def execVlds (v : BitVec 9) (cap : BitVec 4) (off stride imm : BitVec 6) (g : PGuard) (q : MemQ) (s : State) :
    Host.Outcome State Fault Refusal :=
  loadSingles s v cap g q (fun st l => st.offStride off stride imm l) false
def execVldx (v : BitVec 9) (cap : BitVec 4) (off : BitVec 6) (idx : BitVec 9) (wi : Bool) (g : PGuard) (q : MemQ)
    (s : State) : Host.Outcome State Fault Refusal :=
  loadSingles s v cap g q (fun st l => st.offIndex off idx wi l) false

/-- A store of single elements, the higher lane winning (R173). -/
def storeSingles (s : State) (v : BitVec 9) (cap : BitVec 4) (g : PGuard) (q : MemQ) (off : Strand → Nat → Int) :
    Host.Outcome State Fault Refusal :=
  onCore s fun k =>
    let st := s.strand k
    let x := st.c cap.toNat
    let act := st.active g
    match s.checkSingles k cap.toNat rWrite (off st 0) ((lanesOf act).map (off st)) q with
    | some (c, t) => s.issueTrap k c t
    | none =>
      let code (l : Nat) : Nat × Flags :=
        let r := st.fmtReg (capAddr x (off st l))
        narrow (st.elemFmt x (off st l)) (fmtRnd r) (fmtSat r) (lane (st.v v.toNat) l).toNat
      if act = 0 then s
      else if capKind x = kScratch then
        let bs := (lanesOf act).flatMap fun l =>
          atAddr (capAddr x (off st l)) (leBytes (elemBytes (st.elemFmt x (off st l))) (code l).1)
        let s := (s.schedule k (BitVec.allOnes 64)).bufferCells k bs
        let s := if q.qual != 0 then s.setFulls k true ((lanesOf act).map fun l => capAddr x (off st l)) else s
        s.raiseV k (vbits (flagsOf (fun l => (code l).2) (lanesOf act))) 0 st.bundleAddr 3
      else
        s.storeOut k x ((lanesOf act).flatMap fun l =>
          atAddr (capAddr x (off st l)) (leBytes 4 (lane (st.v v.toNat) l).toNat)) q.cls.toNat

def execVsts (v : BitVec 9) (cap : BitVec 4) (off stride imm : BitVec 6) (g : PGuard) (q : MemQ) (s : State) :
    Host.Outcome State Fault Refusal :=
  storeSingles s v cap g q (fun st l => st.offStride off stride imm l)
def execVstx (v : BitVec 9) (cap : BitVec 4) (off : BitVec 6) (idx : BitVec 9) (wi : Bool) (g : PGuard) (q : MemQ)
    (s : State) : Host.Outcome State Fault Refusal :=
  storeSingles s v cap g q (fun st l => st.offIndex off idx wi l)

/-! ### Atomics (R174-R179) -/

/-- Bytes of an atomic of kind amo or amor, and of amof. -/
def AtomOpSize (kind : RKind) (o : AtomOp) : Nat := if kind = .amof then 4 else if o.size then 8 else 4

/-- Function number handed to `atomNew`. -/
def atomFn (kind : RKind) (o : AtomOp) : Nat := if kind = .amof then (if o.size then 1 else 0) else o.fn.toNat

/-- An atomic returns the old value. -/
def atomReturns (kind : RKind) (o : AtomOp) : Bool := kind == .amor || (kind == .amof && o.d != 0)

/-- Offset of an atomic. -/
def Strand.atomOff (st : Strand) (kind : RKind) (o : AtomOp) : Int :=
  (st.s o.off.toNat).toNat + o.imm.toInt * AtomOpSize kind o

/-- The checks of an atomic: the class rule of R179, the determinism check of R178, then those of R167. -/
def State.checkAtom (s : State) (k : Nat) (kind : RKind) (o : AtomOp) : Trap :=
  let st := s.strand k
  let c := o.cap.toNat
  let x := st.c c
  let off := st.atomOff kind o
  let n := AtomOpSize kind o
  firstTrap
    [if st.id.cls != 0 && capKind x != kScratch && !isView (capObj x) && atomReturns kind o then some (.illopnd, 0)
       else none,
     if kind = .amof ∧ (s.ctx st.id.ctx).det then some (.determ, 0) else none,
     st.checkCap c (if atomReturns kind o then [rAtomic, rRead] else [rAtomic]) scalarKinds,
     checkBounds x off n, checkAlign x off n n, st.checkRaw x off]

/-- A scratchpad atomic performs: read, change and write, the old value returned. -/
def State.atomSpad (s : State) (k : Nat) (kind : RKind) (fn a n v c : Nat) : State × Nat :=
  let key (a : Nat) : Nat := spadKey k ((s.strand k).phys a)
  let old := ofLE ((List.range n).map fun i => s.priorByte 8 (key (a + i)))
  let new := atomNew kind fn n old v c
  (s.putCells (((atAddr a (leBytes n new)).map fun p => (key p.1, p.2)).filter fun p => !s.covered 8 p.1), old)

/-- The effect of an atomic under a true guard. -/
def State.doAtom (s : State) (k : Nat) (kind : RKind) (o : AtomOp) : State :=
  let st := s.strand k
  let x := st.c o.cap.toNat
  let n := AtomOpSize kind o
  let a := capAddr x (st.atomOff kind o)
  let v := (st.s o.v.toNat).toNat % 2 ^ (8 * n)
  let c := (st.s o.cmp.toNat).toNat % 2 ^ (8 * n)
  let fn := atomFn kind o
  let ret := atomReturns kind o
  let acq := o.order.getLsbD 0
  let rel := o.order.getLsbD 1
  let dst : SDest := .s (if o.d = 0 then 0 else rotIndex st.sc.rotb o.d.toNat)
  if capKind x = kScratch then
    let s := s.flushSpad k false
    if rel && s.unperformed st.owner st.fl.accesses then
      -- an earlier slot's remote access comes first (R177)
      s.enqueue k kind x a n (BitVec.ofNat 64 v) (BitVec.ofNat 64 c) fn [] (if ret then some dst else none) false 0
        true acq o.scope.toNat false
    else
      let (s, old) := (s.schedule k (st.bankBit a)).atomSpad k kind fn a n v c
      s.modStrand k fun st =>
        let st := if ret then st.push dst (BitVec.ofNat 128 old) 6 false else st
        if acq then st.withFlow fun f => { f with acquire := (2 * f.seq + 1) :: f.acquire } else st
  else
    let bs := atAddr a (leBytes n v)
    let s := (s.modStrand k fun st => st.fold x bs).escape k x
    s.enqueue k kind x a n (BitVec.ofNat 64 v) (BitVec.ofNat 64 c) fn [] (if ret then some dst else none) false
      o.cls.toNat rel acq o.scope.toNat (st.holds x && !ret)

def execAmo (o : AtomOp) (e : ESync) (s : State) : Host.Outcome State Fault Refusal :=
  engine s e true (fun k => s.checkAtom k .amo o) fun k s => s.doAtom k .amo o
def execAmor (o : AtomOp) (e : ESync) (s : State) : Host.Outcome State Fault Refusal :=
  engine s e true (fun k => s.checkAtom k .amor o) fun k s => s.doAtom k .amor o
def execAmof (o : AtomOp) (e : ESync) (s : State) : Host.Outcome State Fault Refusal :=
  engine s e true (fun k => s.checkAtom k .amof o) fun k s => s.doAtom k .amof o

/-! ### DRAIN (R180) -/

/-- Copy commands of an owner, numbered below n, that have not completed and performed. -/
def State.copying (s : State) (o : Owner) (n : Nat) : Bool :=
  s.cores.any fun p => p.2.cmds.any fun c => c.owner == o && c.id < n

/-- Some run of an owner's copy commands numbered below n has still to be folded into the signature (15 R339). -/
def State.folding (s : State) (o : Owner) (n : Nat) : Bool :=
  s.cores.any fun p => p.2.cmds.any fun c =>
    c.owner == o && decide (c.id < n) && decide (c.done < c.runs) && capKind c.dst.cap != kScratch

/-- The wait of a DRAIN has ended. -/
def State.drained (s : State) (o : Owner) (accesses copies : Nat) : Bool :=
  !s.unperformed o accesses && !s.copying o copies

def execDrain (scope : BitVec 3) (engineToo : Bool) (e : ESync) (s : State) : Host.Outcome State Fault Refusal :=
  engine s e false noCheck fun k s =>
    let st := s.strand k
    let copies := if engineToo then s.nextId else 0
    if s.drained st.owner st.fl.accesses copies then s.modStrand k fun st => st.signal (engineSignal e)
    else s.modStrand k fun st => (st.signalFrom (engineSignal e) (st.bundleAddr, st.slot)).withFlow fun f =>
      { f with drain := some (f.accesses, scope.toNat, copies, engineSignal e) }

end Sys2Proof.Machine
end

