-- ==== Sys2Proof/Machine/Translation.lean ====
section
/-!
DEFINITION. Translation at the entry ports: the caches, walks and access counters (19 R395-R398, R404), and the bytes that an
access reads and writes through a port.
-/

namespace Sys2Proof.Machine

/-! ### Translation (19 R395-R398) -/

/-- Home and unit of the extent that holds a byte; HBM stack 0 where there is none. -/
def State.homeAt (s : State) (obj off : Nat) : Nat × Nat :=
  let (o, b) := s.resolve obj off
  match s.obj o with
  | some x => ((x.exts[b / 2 ^ pageLog x.pcode]?).map fun e => (e.home, e.unit)).getD (0, 0)
  | none => (0, 0)

/-- The port of a flow, destination module and flow class (21 R430).  Accesses and copies of a module take class 0: the spec
gives none of them a class (log 98, DESIGN CHOICE). -/
def State.route (s : State) (unit flow : Nat) : Nat := SMap.get 0 s.routes (4 * unit + flow)
/-- Pennant port p is up. -/
def State.portUp (s : State) (p : Nat) : Bool := (SMap.get Port.init s.ports p).up

/-- The entry port of a core's access; 16 + i names pennant port i. -/
def State.entryPort (s : State) (chip ckind obj off : Nat) : Nat :=
  if ckind = kHost then 8 else if ckind = kPeer then 16 + s.route (s.homeAt obj off).2 0 else chip

/-- The port a hub engine uses: the HBM controller nearest to its side's home.  Of the four controllers next to the hub,
which host and peer homes lie behind, it is the lowest (log 98, DESIGN CHOICE). -/
def State.hubPort (s : State) (obj off : Nat) : Nat :=
  match s.homeAt obj off with
  | (0, u) => u % 8
  | (1, u) => u % 8
  | _ => 1

def State.cached (s : State) (port obj ext : Nat) : Option Cached :=
  (SMap.get [] s.caches port).find? fun c => c.obj == obj && c.ext == ext
def State.modCached (s : State) (port obj ext : Nat) (f : OtEntry → OtEntry) : State :=
  { s with caches := SMap.set s.caches port ((SMap.get [] s.caches port).map fun c =>
      if c.obj = obj ∧ c.ext = ext then { c with entry := f c.entry } else c) }
def OtEntry.setAcc (e : OtEntry) (a : Nat) : OtEntry := { e with w2 := BitVec.ofNat 64 (min a 0xFFFF) }

/-- The host link port writes an access counter back to its entry, when the cached one is evicted or invalidated (R398). -/
def State.writeBack (s : State) (port : Nat) (c : Cached) : State :=
  if port = 8 ∧ c.entry.home = 2 then s.modEntryOf c.obj c.ext fun e => e.setAcc c.entry.acc else s

/-- Put a walked entry into a cache of 4096; the oldest entry not pinned leaves a full one (log 36, DESIGN CHOICE). -/
def State.fillCache (s : State) (port : Nat) (c : Cached) : State :=
  let l := SMap.get [] s.caches port
  if l.length < 4096 then { s with caches := SMap.set s.caches port (l ++ [c]) }
  else
    match l.find? (fun x => !x.pinned) with
    | none => s
    | some x => ({ s with caches := SMap.set s.caches port (l.erase x ++ [c]) }).writeBack port x

/-- The outcome of a translation (R397). -/
inductive Finding where
  | ok | gone | absent (obj ext : Nat)
  /-- the directory or table entry read is uncorrectable -/
  | error
  deriving DecidableEq, Repr

/-- Log an uncorrectable entry of the object table. -/
def State.logEntry (s : State) (port obj ext : Nat) : State :=
  let own := ((s.obj obj).map (·.owner)).getD 0
  s.logError (errorEntry s.gcyc 5 port own 0 0 0 0 0 0 (BitVec.ofNat 64 (obj + 2 ^ 32 * ext)))

/-- A walk of an object's extent: the directory entry, then the table entry.  An uncorrectable one is logged. -/
def State.walk (s : State) (port obj ext : Nat) : State × Finding :=
  let failed := (s.logEntry port obj ext, Finding.error)
  if s.badEntries.contains (obj, none) then failed
  else
    match s.obj obj with
    | none => (s, .gone)
    | some o =>
      match o.exts[ext]? with
      | none => (s, .gone)
      | some e =>
        if s.badEntries.contains (obj, some ext) then failed
        else if e.p then (s.fillCache port ⟨obj, ext, e, o.frame, o.pcode, o.migthr, o.exts.length, false⟩, .ok)
        else (s, .absent obj ext)

/-- Post a migration notice into the queue, which has room; in host-assisted mode it raises an interrupt record of kind 4, whose
datum is its word 0 (R403, R404, 21 R409, R425) (log 110, DESIGN CHOICE). -/
def State.notice (s : State) (obj ext acc : Nat) (hw : Bool) : State :=
  let own := ((s.obj obj).map (·.owner)).getD 0
  let w : W64 := BitVec.ofNat 64 (obj + 2 ^ 28 * own + 2 ^ 32 * ext)
  let s := s.modHub fun h =>
    { h with mnq := SMap.set h.mnq h.mnqtail.toNat (w, BitVec.ofNat 64 (acc + 2 ^ 16 * h.ovf)),
             mnqHw := SMap.set h.mnqHw h.mnqtail.toNat hw, mnqtail := h.mnqtail + 1, ovf := 0 }
  if hw then s else s.post ⟨4, 0, own, w, 0⟩

/-- A crossing of the migration threshold at the host link port (R404). -/
def State.crossing (s : State) (obj ext acc : Nat) : State :=
  match s.tableEntry obj ext with
  | none => s
  | some e =>
    if e.pend then s
    else
      let s := (s.modEntryOf obj ext (·.or0 4)).modCached 8 obj ext (·.or0 4)
      let h := s.hub
      let hw := h.funcmode.getLsbD 0
      if h.mnqtail + 1 ≠ h.mnqhead then s.notice obj ext acc hw
      else if s.owed.length < 1024 then
        { (s.modHub fun h => { h with ovf := min (2 ^ 32 - 1) (h.ovf + 1) }) with
          owed := s.owed ++ [(obj, ext, hw)]
          caches := SMap.set s.caches 8 ((SMap.get [] s.caches 8).map fun c =>
            if c.obj = obj ∧ c.ext = ext then { c with pinned := true } else c) }
      else s.modHub fun h => { h with mnqlost := h.mnqlost + 1, ovf := min (2 ^ 32 - 1) (h.ovf + 1) }

/-- An access counts at the host link port (R398). -/
def State.countAccess (s : State) (obj ext : Nat) : State :=
  let s := if (s.cached 8 obj ext).isSome then s else (s.walk 8 obj ext).1
  match s.cached 8 obj ext with
  | none => s
  | some c =>
    let a := min 0xFFFF (c.entry.acc + 1)
    let s := s.modCached 8 obj ext (·.setAcc a)
    if c.migthr ≠ 0 ∧ c.entry.acc ≠ a ∧ a = c.migthr then s.crossing obj ext a else s

/-- An access through one extent at a port: walked where it misses, then D, ACC and the copy mark act (R398,
21 R422).  `img` marks a capability image of the save sequencer or CTXSAVE, the only access a frame admits. -/
def State.reach (s : State) (port obj ext : Nat) (write img : Bool) : State × Finding :=
  let frame := match s.cached port obj ext with
    | some c => c.frame
    | none => (s.obj obj).any (·.frame)
  if frame && !img || write && reservedObj obj || 16 ≤ port && !s.portUp (port - 16) then (s, .gone)
  else
    let (s, r) := if (s.cached port obj ext).isSome then (s, Finding.ok) else s.walk port obj ext
    match r, s.cached port obj ext with
    | .ok, some c =>
      if c.entry.home = 3 && !s.portUp (s.route c.entry.unit 0) then (s, .gone)
      else if write && (((s.tableEntry obj ext).map OtEntry.cw).getD false) then (s, .absent obj ext)
      else
        let s := if write && !c.entry.d then
            (s.modCached port obj ext (·.or0 2)).modEntryOf obj ext (·.or0 2)
          else s
        (if c.entry.home = 2 then s.countAccess obj ext else s, .ok)
    | r, _ => (s, r)

/-- An extent of a range of an object is absent or being moved: an access to it waits (19 R397). -/
def State.rangeAbsent (s : State) (obj off n : Nat) : Bool :=
  (s.extents obj off n).any fun p => (s.tableEntry p.1 p.2).any fun t => !t.p

/-- Reach every extent of a list, stopping at the first that fails. -/
def State.reachAll (s : State) (port : Nat) (write img : Bool) : List (Nat × Nat) → State × Finding
  | [] => (s, .ok)
  | (o, e) :: r =>
    match s.reach port o e write img with
    | (s, .ok) => s.reachAll port write img r
    | x => x

/-- The key of a byte as the port's cache places it; the table's place where nothing is cached. -/
def State.keyVia (s : State) (port obj off : Nat) : Option Nat :=
  let (o, b) := s.resolve obj off
  let page := 2 ^ pageLog (((s.obj o).map (·.pcode)).getD 0)
  match s.cached port o (b / page) with
  | some c => some (c.entry.key (2 ^ pageLog c.pcode) (b % 2 ^ pageLog c.pcode))
  | none =>
    match s.place obj off with
    | .at k => some k
    | _ => none

/-- Keys of n bytes of an object through a port. -/
def State.keysVia (s : State) (port obj off n : Nat) : List (Option Nat) :=
  (List.range n).map fun i => s.keyVia port obj (off + i)
/-- n bytes of an object through a port as they stood before this cycle's pane writes, with the mark of an uncorrectable one (log 40,
DESIGN CHOICE). -/
def State.readVia (s : State) (port obj off n : Nat) : List Byte × Bool :=
  let ks := s.keysVia port obj off n
  (ks.map fun k => (k.map s.sampled).getD 0, ks.any fun k => k.any s.poison.contains)
/-- A read of n bytes through a port waits for the next cycle (07 R165). -/
def State.freshVia (s : State) (port obj off n : Nat) : Bool := s.meshWrote (s.keysVia port obj off n)

/-- Memory writes of bytes of an object as a port's cache places them. -/
def State.cellsVia (s : State) (port obj : Nat) (bs : List (Nat × Byte)) : List (Nat × Byte) :=
  bs.filterMap fun p => (s.keyVia port obj p.1).map fun k => (k, p.2)
/-- Note the lines that bytes of an object lie in, for PARK. -/
def State.noteLines (s : State) (obj : Nat) (bs : List (Nat × Byte)) : State :=
  { s with lines := (bs.map fun p => s.homeOf obj p.1) ++ s.lines }

/-- Write bytes by object offset through a port; those of a pane come by its mesh port. -/
def State.writeVia (s : State) (port obj : Nat) (bs : List (Nat × Byte)) : State :=
  let cells := s.cellsVia port obj bs
  ((s.noteWrites 8 false ((cells.map (·.1)).filter inPane)).storeCells cells).noteLines obj bs

/-- Bytes of an own-pane object as the engine of core k reads them, by its core's port (07 R165). -/
def State.paneRead (s : State) (k obj off n : Nat) : List Byte × Bool :=
  let ks := (List.range n).map fun i => s.keyVia (chipOf k) obj (off + i)
  (ks.map fun x => (x.map (s.priorByte (k % 8))).getD 0, ks.any fun x => x.any s.poison.contains)
/-- Own-pane bytes that the engine of core k writes: a byte that a later port writes in this cycle keeps that port's. -/
def State.paneWrite (s : State) (k obj : Nat) (bs : List (Nat × Byte)) : State :=
  let cells := s.cellsVia (chipOf k) obj bs
  let mine := cells.filter fun p => !s.covered (k % 8) p.1
  ((s.noteWrites (k % 8) true (cells.map (·.1))).storeCells mine).noteLines obj bs
/-- The pane writes of the cycle's bundles act, in port order; a byte that came by the mesh remains. -/
def State.flushPane (s : State) : State :=
  let cells := s.paneW.filter fun p => !s.covered 7 p.1
  { s.storeCells cells with paneW := [] }

end Sys2Proof.Machine
end

