-- ==== Sys2Proof/Machine/Frames.lean ====
section
/-!
DEFINITION. Frames in memory (18 R361, R362): bytes of the frame object, the continuation record, and the parts that
hardware keeps up in the frame while the strand is away (layouts inside the blocks: log 10, DESIGN CHOICE).
-/

namespace Sys2Proof.Machine

/-! ### Bytes of a frame -/

/-- A block of a frame: its offset and length, and its bytes that are not 0. -/
structure FramePart where
  off : Nat
  len : Nat
  cells : List (Nat × Byte)
  deriving DecidableEq, Repr

def FramePart.ofBytes (off : Nat) (bs : List Byte) : FramePart := ⟨off, bs.length, (atAddr off bs).filter (·.2 != 0)⟩
/-- The bytes of an n-byte value at a that are not 0. -/
def cellsLE : Nat → Nat → Nat → List (Nat × Byte)
  | _, 0, _ => []
  | a, n + 1, v => if v = 0 then [] else (if v % 256 = 0 then [] else [(a, BitVec.ofNat 8 v)]) ++ cellsLE (a + 1) n (v / 256)
/-- The block of registers of w bytes each that a map holds. -/
def FramePart.ofMap {n : Nat} (off len w : Nat) (m : SMap (BitVec n)) : FramePart :=
  ⟨off, len, m.flatMap fun p => cellsLE (off + w * p.1) w p.2.toNat⟩
def wordBytes (ws : List Nat) : List Byte := ws.flatMap (leBytes 8)
/-- A list of bytes brought to a length. -/
def padTo (n : Nat) (bs : List Byte) : List Byte := bs.take n ++ List.replicate (n - bs.length) 0

/-- Pieces of a range of an object that lie within 64 KiB each. -/
def chunksOf (off n : Nat) : List (Nat × Nat) :=
  if n = 0 then []
  else (List.range ((off + n - 1) / 2 ^ 16 - off / 2 ^ 16 + 1)).map fun i =>
    let a := max off ((off / 2 ^ 16 + i) * 2 ^ 16)
    (a, min (off + n) ((off / 2 ^ 16 + i + 1) * 2 ^ 16) - a)

/-- Write a block of the frame at `base` of an object; D of its extents is set (19 R398). -/
def State.putPart (s : State) (obj base : Nat) (p : FramePart) : State :=
  (chunksOf (base + p.off) p.len).foldl (fun s c =>
    match s.frameKey obj c.1 with
    | none => s
    | some k =>
      let here := p.cells.filter fun x => c.1 ≤ base + x.1 && base + x.1 < c.1 + c.2
      ((s.clearCells k c.2).putCells (here.map fun x => (k + (base + x.1 - c.1), x.2))).dirty (s.extents obj c.1 1)) s
/-- The accesses of hardware to n bytes of a frame count at the host link port, one for each 512 bytes of a host-homed extent (18 R366,
19 R398) (log 123, DESIGN CHOICE). -/
def State.countSpan (s : State) (obj off n : Nat) : State :=
  (chunksOf off n).foldl (fun s c =>
    (s.extents obj c.1 1).foldl (fun s x =>
      if (s.tableEntry x.1 x.2).any (·.home == 2) then
        (List.range ((c.2 + 511) / 512)).foldl (fun s _ => s.countAccess x.1 x.2) s
      else s) s) s
def State.putParts (s : State) (obj base : Nat) (ps : List FramePart) : State := ps.foldl (fun s p => s.putPart obj base p) s
/-- The bytes that are not 0 in a range of a frame, by offset in the frame. -/
def State.partCells (s : State) (obj base off len : Nat) : List (Nat × Byte) :=
  (chunksOf (base + off) len).flatMap fun c =>
    match s.frameKey obj c.1 with
    | none => []
    | some k => (s.mem.filter fun x => k ≤ x.1 && x.1 < k + c.2).map fun x => (c.1 + (x.1 - k) - base, x.2)

/-- Offsets in a frame of a byte of a bank image, and of the full bit of its granule. -/
def imageOff (a : Nat) : Nat := 0x900000 + a
def imageFullOff (a : Nat) : Nat := 0x2100000 + a / Config.bankBytes * 0xC00 + a % Config.bankBytes / 128

/-! ### The continuation record (R361) -/

/-- Where a strand goes on: the next bundle, or the rest of one. -/
def Strand.frontier (st : Strand) : Nat := (st.fl.resume.map (·.1)).getD st.sc.pc
/-- Its captured results (R356). -/
def Strand.queue (st : Strand) : List Exposed := st.tr.held ++ st.tr.waiting

def Wake.bits : Wake → Nat
  | .core => 0
  | .extent o e => 1 + o * 2 ^ 4 + e * 2 ^ 32
  | .semaphore n t => 2 + n * 2 ^ 4 + t * 2 ^ 12
  | .grant => 3
  | .gang => 4

/-- The frame object of a record, and the offset of its frame. -/
def State.frameOf (s : State) (a : Absent) : Nat × Nat := ((s.ctx a.st.id.ctx).frameObj, a.slot * frameStride)

def State.recordWords (s : State) (a : Absent) : List Nat :=
  let st := a.st
  let cpi := ((s.commands st.owner).head?.map (·.done)).getD st.cp.lastRuns.toNat
  let returns := s.remotes.countP fun r => r.owner == st.owner && decide (r.slot < 8) && r.dst.isSome
  [st.id.tid.toNat + st.id.ctx * 2 ^ 32 + a.state * 2 ^ 36 + a.req.reason * 2 ^ 40 + (st.fl.resume.map (·.2)).getD 0 * 2 ^ 48
     + flag st.id.hndl 51 + flag st.tr.ret.isSome 52 + flag a.req.whole 53 + domainOf (chipOf a.oldCore) * 2 ^ 54
     + flag a.locked 56 + flag (st.tr.absent != []) 57,
   capObj st.kn.code + st.frontier * 2 ^ 28,
   (s.frameOf a).1 + (s.frameOf a).2 * 2 ^ 28,
   a.req.wake.bits,
   cpi % 2 ^ 48 + (st.mx.ldidx.toNat * 2 ^ 8 + st.mx.stidx.toNat) * 2 ^ 48,
   st.vec.vpi.toNat + st.queue.length * 2 ^ 6 + st.id.att.toNat * 2 ^ 16 + returns * 2 ^ 48,
   st.energy / (1024 * energyUnit), st.stamp]

/-! ### Parts that hardware keeps up in the frame (R366 step 2, R370) -/

def ArrivalRec.words (r : ArrivalRec) : List Nat :=
  [r.bar + flag r.phase 12 + flag r.counted 13 + flag r.rg.isSome 14 + 2 ^ 15 + r.k * 2 ^ 16 + r.delta * 2 ^ 24, r.rg.getD 0]
def SDest.bits : SDest → Nat
  | .s i => i
  | .q i => i + 2 ^ 8
  | .c i => i + 2 ^ 9
def LateFault.words (f : LateFault) : List Nat :=
  [f.code.num + f.slot * 2 ^ 8 + flag f.place.isSome 11 + ((f.place.map (·.2)).getD 0) * 2 ^ 12 + ((f.place.map (·.1)).getD 0) * 2 ^ 16,
   f.value.toNat]

/-- Semaphores, arrival records, circuits, return area, absent faults, signature image, staged task, and inbox. -/
def Absent.liveParts (a : Absent) : List FramePart :=
  let y := a.st.sy
  let nth {α : Type} (l : List α) (i : Nat) : Option α := l[i]?
  let cursors := (y.staged.map (·.2)).getD []
  let inbox : List (Nat × Nat × VReg) := (List.range 64).flatMap fun k =>
    (y.inbox.filter (·.1 == k)).mapIdx fun e x => (k, e, x.2)
  [FramePart.ofBytes 0x800 (items 256 2 fun i => SMap.get 0 y.sem i),
   .ofBytes 0xA00 (padTo 64 (wordBytes (y.recs.flatMap ArrivalRec.words))
     ++ padTo 64 (wordBytes [y.gdelta.toNat * 2 ^ 8 + y.phase.toNat, y.barphase.toNat])),
   .ofBytes 0xA80 (padTo 128 (items 64 1 (fun i => (SMap.get 0 y.ctab i).toNat)
     ++ items 16 1 (fun i => ((List.range 4).map fun j => SMap.get 2 y.credits (4 * i + j) * 4 ^ j).sum)
     ++ wordBytes [((List.range 64).map fun k => flag (y.inbox.any (·.1 == k)) k).sum]
     ++ items 4 1 fun i => ((nth y.sends i).map fun x => 128 + x.1).getD 0)),
   .ofBytes 0xB00 (items 4 512 fun i => ((nth y.sends i).map (·.2.1.toNat)).getD 0),
   .ofBytes 0x1300 (padTo 1024 (wordBytes (a.returns.flatMap fun r => [r.1.bits + 2 ^ 63, r.2.1.toNat]))),
   .ofBytes 0x1700 (padTo 256 (wordBytes (a.st.tr.absent.flatMap LateFault.words))),
   .ofBytes 0x1800 (wordBytes [a.sig.toNat, (y.staged.map fun x => x.1.toNat + 2 ^ 32).getD 0]
     ++ leBytes 48 ((List.range cursors.length).map fun i => ((nth cursors i).map fun c => c.toNat % 2 ^ 44).getD 0 * 2 ^ (44 * i)).sum),
   ⟨0x48000, 65536, inbox.flatMap fun x => cellsLE (0x48000 + 1024 * x.1 + 512 * x.2.1) 512 x.2.2.toNat⟩]

/-! ### The copy-engine image (R362) -/

/-- A command snapshot of 720 bytes. -/
def CopyCmd.snapshot (c : CopyCmd) : List Byte :=
  let m (z : Int) (w : Nat) : Nat := (z % 2 ^ w).toNat
  let side (x : CopySide) : List Nat := [x.cap.toNat % 2 ^ 64, x.cap.toNat / 2 ^ 64, x.off.toNat, x.fmt + x.scale.toNat * 2 ^ 8]
  padTo 720 (wordBytes
    ([1 + c.o.esize.toNat * 2 ^ 1 + c.o.trans.toNat * 2 ^ 3 + flag c.o.pub 5 + flag c.o.gather 6 + c.o.shadow.toNat * 2 ^ 8
        + flag c.o.cellEn 14 + c.o.cell.toNat * 2 ^ 16 + c.levels.length * 2 ^ 24 + flag c.started 32 + flag c.held 33
        + flag c.stop 34 + flag c.stopLast 35 + flag c.signal.isSome 36 + c.flags.toNat % 32 * 2 ^ 40,
      (c.signal.map fun x => x.1 + x.2 * 2 ^ 32).getD 0, c.runs, c.done, c.part, m c.index 64, c.issued, c.origin.1 * 8 + c.origin.2]
      ++ side c.src ++ side c.dst ++ [c.idx.toNat % 2 ^ 64, c.idx.toNat / 2 ^ 64, c.idxOff.toNat]
      ++ c.levels.flatMap fun l => [l.1, m l.2.1 40, m l.2.2 40]) ++ items 64 1 fun b =>
        let x := SMap.get (0, false) c.modes b
        x.1 + flag x.2 4)

/-- The copy-engine image of 6080 bytes: levels, descriptors, skip count, CPI and QLEN, bank map, and the strand's commands. -/
def State.copyImage (s : State) (st : Strand) : List Byte :=
  let c := st.cp
  padTo 6080 (wordBytes
    (((List.range 10).flatMap fun i =>
        let l := SMap.get (1, 0, 0) c.level i
        [l.1.toNat + l.2.1.toNat * 2 ^ 32 % 2 ^ 64, l.2.1.toNat / 2 ^ 32 + l.2.2.toNat * 2 ^ 8])
      ++ [c.srcCap.toNat % 2 ^ 64, c.srcCap.toNat / 2 ^ 64, c.srcOff.toNat, c.dstCap.toNat % 2 ^ 64, c.dstCap.toNat / 2 ^ 64,
          c.dstOff.toNat, c.skip.toNat, c.lastRuns.toNat, (s.commands st.owner).length])
    ++ items 64 1 (fun b => SMap.get b c.bankMap b)
    ++ (s.commands st.owner).flatMap CopyCmd.snapshot)

/-! ### Words that a snapshot or a checkpoint's target shows (21 R420-R423) -/

/-- Word i of the energy page of a context (21 R420). -/
def EnergyPage.word (e : EnergyPage) (i : Nat) : W64 :=
  let u (v : Nat) : Nat := v / energyUnit
  match i with
  | 0 => BitVec.ofNat 64 (u e.quota)
  | 1 => BitVec.ofNat 64 (u e.charged)
  | 2 => BitVec.ofNat 64 (u e.ballast)
  | _ => BitVec.ofNat 64 (u e.debt % 2 ^ 63 + if e.overq then 2 ^ 63 else 0)

/-- The six words of a cell in a snapshot or a checkpoint, of the fields of 11 R275 in their order: OWN, AT, A, PB, DELTA and
MODE from bit 0 of the first on; BT; B; PH, three bits a core, in the last three. -/
def Cell.snapWords (c : Cell) : List W64 :=
  let own := match c.own with
    | some x => 1 + x % 16 * 2
    | none => 0
  let ph := ((List.range Config.cores).map fun k => SMap.get 0 c.ph k % 8 * 2 ^ (3 * k)).sum
  [BitVec.ofNat 64 (own + c.at_ % 128 * 2 ^ 5 + c.a % 128 * 2 ^ 12 + (if c.pb then 2 ^ 19 else 0) + c.delta % 256 * 2 ^ 20
      + c.mode % 4 * 2 ^ 28),
   BitVec.ofNat 64 (c.bt % 2 ^ 48), BitVec.ofNat 64 (c.b % 2 ^ 48),
   BitVec.ofNat 64 ph, BitVec.ofNat 64 (ph / 2 ^ 64), BitVec.ofNat 64 (ph / 2 ^ 128)]

/-- Bytes of a range of memory, by distance from its start. -/
def Memory.range (m : Memory) (a n : Nat) : List Host.Cell :=
  (m.filter fun c => a ≤ c.1 && c.1 < a + n).map fun c => (c.1 - a, c.2)
/-- Put such bytes back over n bytes from a. -/
def Memory.putRange (m : Memory) (a n : Nat) (l : List Host.Cell) : Memory :=
  l.foldl (fun m c => m.write (a + c.1) c.2) (m.clear a n)

/-! ### The record of a checkpoint in its target (21 R421) (layout: log 62, DESIGN CHOICE) -/

/-- A list of entries of words behind its length. -/
def counts (l : List (List Nat)) : List Nat := l.length :: l.flatten
def pairWords (m : SMap Nat) : List Nat := counts (m.map fun p => [p.1, p.2])

/-- Stream PC, g registers, call and loop stacks, and the buffer table. -/
def FrontEnd.words (f : FrontEnd) : List Nat :=
  f.spc :: ((List.range 16).map fun i => (SMap.get 0 f.g i).toNat)
    ++ counts (f.calls.map fun c => [c.1 + flag c.2 63])
    ++ counts (f.loops.map fun l => [l.1, l.2.1.toNat, l.2.2])
    ++ counts (f.btab.map fun b =>
      [b.1 + flag b.2.bound 8 + flag b.2.r 9 + flag b.2.w 10 + b.2.seglog * 2 ^ 16 + b.2.obj * 2 ^ 32, b.2.start, b.2.len]
        ++ pairWords b.2.map)

/-- The schedule state of a record but for its frame images. -/
def CkptRecord.words (r : CkptRecord) : List Nat :=
  r.tag.toNat :: r.fe.words
    ++ counts (r.pub.map fun p => [p.1, p.2.gen.toNat, p.2.bid] ++ pairWords p.2.map)
    ++ counts (r.cells.map fun c => c.1 :: c.2.snapWords.map BitVec.toNat)
    ++ counts (r.frames.map fun f => [f.1])
    ++ r.budget.toNat :: (List.range 4).map fun i => (r.energy.word i).toNat

/-- Bytes of these words, brought to a multiple of 64 KiB. -/
def CkptRecord.size (r : CkptRecord) : Nat := (8 * r.words.length + 2 ^ 16 - 1) / 2 ^ 16 * 2 ^ 16
/-- Offset in the target behind the record and its frame images. -/
def CkptRecord.end_ (r : CkptRecord) : Nat := r.size + r.frames.length * frameStride

/-- Write the record and its frame images into the target object. -/
def State.putRecord (s : State) (obj : Nat) (r : CkptRecord) : State :=
  (r.frames.mapIdx fun i f => (i, f.2)).foldl (fun s f => s.putPart obj (r.size + f.1 * frameStride) ⟨0, frameBytes, f.2⟩)
    (s.putPart obj 0 (.ofBytes 0 (wordBytes r.words)))

/-- A record and the parts kept up for it, as they stand, in its frame; once the save is over the copy-engine image too
(18 R369). -/
def State.mirror (s : State) (a : Absent) : State :=
  let f := s.frameOf a
  let copies := if a.state = 1 then [] else [FramePart.ofBytes 0x1840 (s.copyImage a.st)]
  if (s.frameHeld f.1 f.2 frameBytes true).isSome then
    { s with absent := s.absent.map fun (b : Absent) => if b.st.owner = a.st.owner then { b with stale := true } else b }
  else (s.countSpan f.1 f.2 1).putParts f.1 f.2 (FramePart.ofBytes 0 (wordBytes (s.recordWords a)) :: a.liveParts ++ copies)
/-- The accesses to parts of a record's frame count. -/
def State.countParts (s : State) (a : Absent) (ps : List FramePart) : State :=
  ps.foldl (fun s p => s.countSpan (s.frameOf a).1 ((s.frameOf a).2 + p.off) p.len) s
/-- What waited for an extent of a frame reaches it: marks, then the parts that are kept up. -/
def State.remirror (s : State) : State :=
  let l := s.dueMarks
  let s := l.foldl (fun s m => s.markFrame m.1 m.2.1 m.2.2) { s with dueMarks := [] }
  (s.absent.filter (·.stale)).foldl (fun s a =>
    ({ s with absent := s.absent.map fun (b : Absent) => if b.st.owner = a.st.owner then { b with stale := false } else b }).mirror a) s

end Sys2Proof.Machine
end

