-- ==== Sys2Proof/Machine/Access.lean ====
section
/-!
DEFINITION. Accesses that leave a slot: where a strand is, the Periscope routes of copy accesses (18 R367, R370), and the bytes
that the Loupe holds (15 R331).
-/

namespace Sys2Proof.Machine

/-! ### Where a strand is (18 R361, R370) -/

/-- The continuation record of a strand that is saving, absent or restoring. -/
def State.away (s : State) (o : Owner) : Option Absent := s.absent.find? fun a => a.st.owner == o
/-- Change a record; its frame follows (18 R366, R370). -/
def State.modAbsent (s : State) (o : Owner) (f : Absent → Absent) : State :=
  let s : State := { s with absent := s.absent.map fun (a : Absent) => if a.st.owner = o then f a else a }
  match s.away o with
  | some a => s.mirror a
  | none => s
/-- The core that runs a strand; none while it is away. -/
def State.present (s : State) (o : Owner) : Option Nat := if (s.away o).isSome then none else s.coreOf o
/-- The registers of a strand: its core's, or the frame's. -/
def State.modOwner (s : State) (o : Owner) (f : Strand → Strand) : State :=
  match s.away o with
  | some _ => s.modAbsent o fun a => { a with st := f a.st }
  | none =>
    match s.coreOf o with
    | some k => s.modStrand k f
    | none => s
/-- A strand wherever it is. -/
def State.strandOf (s : State) (o : Owner) : Option Strand :=
  match s.away o with
  | some a => some a.st
  | none => (s.coreOf o).map s.strand

def State.modPeri (s : State) (ctx : Nat) (f : PeriPage → PeriPage) : State :=
  s.modCtx ctx fun c => { c with peri := f c.peri }

/-- A late fault of a strand: raised on its core, or queued in its frame (18 R375). -/
def State.raiseTo (s : State) (o : Owner) (f : LateFault) : State :=
  match s.away o with
  | some a =>
    if a.st.tr.absent.length < 16 then
      (s.modOwner o fun st => st.withTr fun t => { t with absent := t.absent ++ [f] }).modPeri o.ctx fun p =>
        { p with absflt := p.absflt + 1 }
    else s.modPeri o.ctx fun p => { p with abslost := p.abslost + 1 }
  | none =>
    match s.coreOf o with
    | some k => s.late k f
    | none => s

/-- A late fault of a remote return: it counts as slot 7, and TRAPSLOT names the slot of the access (18 R352). -/
def Remote.fault (r : Remote) (c : TrapCode) (v : Nat) : LateFault := ⟨c, BitVec.ofNat 64 v, some (r.addr, r.slot), 7⟩

/-- A late fault that no slot of a bundle carries; it counts as slot 7 (18 R352) (log 37, DEDUCED). -/
def looseFault (c : TrapCode) (v : Nat) : LateFault := ⟨c, BitVec.ofNat 64 v, none, 7⟩

/-- A signal reaches a strand: the semaphores of its core, with the increments of the cycle (11 R271), or the semaphore image
(18 R370) (log 38, DEDUCED). -/
def State.signalTo (s : State) (o : Owner) (x : Option (Nat × Nat)) : State :=
  match x, s.away o with
  | some (n, i), some a =>
    let v := a.st.semaphore n + i
    let s := (s.modOwner o fun st => st.withSy fun y => { y with sem := SMap.set y.sem n (min 65535 v) }).modPeri o.ctx
      fun p => { p with divsem := p.divsem + 1 }
    if 65535 < v then s.raiseTo o (a.st.semFault n) else s
  | some _, none => s.modOwner o fun st => st.addSignal x
  | none, _ => s
/-- A signal whose command stood at `origin`. -/
def State.signalOf (s : State) (o : Owner) (x : Option (Nat × Nat)) (origin : Nat × Nat) : State :=
  (s.modOwner o fun st => st.signalFrom x origin).signalTo o x

/-! ### Accesses to peer homes (21 R429, R430) (log 109, DESIGN CHOICE) -/

/-- The peer's module, object and offset of a byte of an object with a peer home. -/
def State.peerPlace (s : State) (obj off : Nat) : Option (Nat × Nat × Nat) :=
  let (o, b) := s.resolve obj off
  match s.obj o with
  | none => none
  | some x =>
    let page := 2 ^ pageLog x.pcode
    match x.exts[b / page]? with
    | some e => if e.home = 3 then some (e.unit, e.w1.toNat % 2 ^ 28, e.w1.toNat / 2 ^ 32 * page + b % page) else none
    | none => none

/-- The flit of a load. -/
def State.peerLoad (s : State) (obj off n : Nat) : List (Nat × PeerAccess) :=
  match s.peerPlace obj off with
  | some (u, o, a) => [(u, .load o a n)]
  | none => []
/-- The flits of a store: one for each run of its bytes within 128. -/
def State.peerStore (s : State) (obj : Nat) (bs : List (Nat × Byte)) : List (Nat × PeerAccess) :=
  (byteRuns bs).flatMap fun r =>
    (List.range ((r.1 + r.2 - 1) / 128 - r.1 / 128 + 1)).flatMap fun i =>
      let a := max r.1 ((r.1 / 128 + i) * 128)
      match s.peerPlace obj a with
      | some (u, o, p) =>
        [(u, .store o p ((bs.filter fun b => decide (a ≤ b.1 ∧ b.1 < min (r.1 + r.2) ((r.1 / 128 + i + 1) * 128))).map (·.2)))]
      | none => []
/-- The flits of an access of a kind. -/
def State.peerFlits (s : State) (kind : RKind) (fn obj off size : Nat) (data cmp : W64) (bytes : List (Nat × Byte)) :
    List (Nat × PeerAccess) :=
  match kind with
  | .load => s.peerLoad obj off size
  | .store => s.peerStore obj bytes
  | k =>
    match s.peerPlace obj off with
    | some (u, o, a) => [(u, .atomic (k == .amof) fn o a size data cmp)]
    | none => []

/-- The replay buffers of the ports, 512 flits each, have room for flits of class 0. -/
def State.linkRoom (s : State) (l : List (Nat × PeerAccess)) : Bool :=
  l.all fun f =>
    let p := s.route f.1 0
    decide ((SMap.get Port.init s.ports p).buffer.length + l.countP (fun g => s.route g.1 0 == p) ≤ 512)
/-- Put flits into the buffers of their ports, in order, for what waits for their acknowledgement. -/
def State.sendPeer (s : State) (use : FlitUse) (l : List (Nat × PeerAccess)) : State :=
  l.foldl (fun s f =>
    let p := SMap.get Port.init s.ports (s.route f.1 0)
    { s with ports := SMap.set s.ports (s.route f.1 0)
               { p with next := p.next + 1, buffer := p.buffer ++ [⟨p.next, f.1, 0, f.2, use⟩] } }) s
/-- A link has yet to acknowledge a flit of a use. -/
def State.inFlight (s : State) (use : FlitUse) : Bool := s.ports.any fun p => p.2.buffer.any (·.use == use)
/-- Writes to a peer home leave by its link, as a posted access that performs once the link acknowledges it (12 R306). -/
def State.postPeer (s : State) (slot num : Nat) (o : Owner) (core ckind obj : Nat) (bs : List (Nat × Byte))
    (flits : List (Nat × PeerAccess)) : State :=
  let off := (bs.headD (0, 0)).1
  let r : Remote :=
    { id := s.nextId, owner := o, core := core, num := num, slot := slot, addr := 0, kind := .store, ckind := ckind, obj := obj,
      off := off, size := bs.length, data := 0, bytes := bs, comparand := 0, fn := 0, dst := none, seq := 0, sx := false,
      cls := 0, rel := false, acq := false, scope := 0, stage := .sent, held := false, issued := s.now }
  ({ s with remotes := s.remotes ++ [r], nextId := s.nextId + 1 }).sendPeer (.access s.nextId) flits

/-! ### Bytes held in the Loupe (15 R331) -/

/-- Put a byte at a location of a list of located bytes. -/
def putAt (m : List ((Nat × Nat) × Byte)) (p : Nat × Nat) (b : Byte) : List ((Nat × Nat) × Byte) :=
  m.map fun x => if x.1 = p then (p, b) else x

/-- Apply one held write to located bytes: a store, the later of two bytes at one location winning (07 R173), or an atomic. -/
def HeldWrite.over (h : HeldWrite) (loc : Nat → Nat × Nat) (m : List ((Nat × Nat) × Byte)) : List ((Nat × Nat) × Byte) :=
  match h.atom with
  | none => h.bytes.foldl (fun m p => putAt m (loc p.1) p.2) m
  | some (kind, fn, v) =>
    let old := ofLE ((List.range h.size).map fun i => (m.lookup (loc (h.off + i))).getD 0)
    (atAddr h.off (leBytes h.size (atomNew kind fn h.size old v.toNat 0))).foldl (fun m p => putAt m (loc p.1) p.2) m

/-- Two owners belong to one run of one task. -/
def sameRun (a b : Owner) : Bool := a.tid == b.tid && a.role == b.role && a.att == b.att

/-- Bytes read by a strand or a copy engine, with its run's held writes applied in issue order wherever they name the same
locations.  The bytes of held atomics are read too, since a result may depend on all of them.  `before`: the number of the
reading access; its strand's younger writes stay out (07 R170) (log 72, DEDUCED). -/
def State.readHeld (s : State) (port : Nat) (o : Owner) (obj off n : Nat) (before : Option Nat) : List Byte × Bool :=
  let hs := s.held.filter fun h => sameRun h.owner o && !(h.owner == o && before.any (· ≤ h.order))
  let (bs, bad) := s.readVia port obj off n
  let here := s.spans obj off n
  if !(hs.any fun h => spansMeet (s.spans h.obj h.off h.size) here) then (bs, bad)
  else
    let read := bs.mapIdx fun i b => (s.homeOf obj (off + i), b)
    let more := (hs.filter (·.atom.isSome)).flatMap fun h =>
      (s.readVia port h.obj h.off h.size).1.mapIdx fun i b => (s.homeOf h.obj (h.off + i), b)
    let m := hs.foldl (fun m h => h.over (s.homeOf h.obj) m) (read ++ more)
    ((m.take n).map (·.2), bad)

/-! ### Scratchpad accesses of a copy engine (18 R367) -/

/-- The departed strand of a bank's Periscope entry. -/
def Core.departed (c : Core) (bank : Nat) (o : Owner) : Option Departed :=
  (SMap.get [] c.periscope bank).find? fun d => d.owner == o

/-- Where the accesses of core k's engine to bank b of strand `o` go to its image (18 R367). -/
def State.toImage (s : State) (k : Nat) (o : Owner) (b : Nat) (write : Bool) : Bool :=
  match (s.core k).departed b o with
  | some d => if write then d.state != .forward else d.state == .divert || d.state == .restore
  | none => !write && (s.present o).isNone
/-- Bank images among n bytes of the scratchpad: ranges in the frame object. -/
def State.imageRanges (s : State) (k : Nat) (o : Owner) (a n : Nat) (write : Bool) : List (Nat × Nat × Nat) :=
  match s.away o with
  | none => []
  | some x =>
    if n = 0 then []
    else
      ((List.range (bankOf (a + n - 1) - bankOf a + 1)).filter fun i => s.toImage k o (bankOf a + i) write).map fun i =>
        let lo := max a ((bankOf a + i) * Config.bankBytes)
        let hi := min (a + n) ((bankOf a + i + 1) * Config.bankBytes)
        ((s.frameOf x).1, (s.frameOf x).2 + imageOff lo, hi - lo)
/-- A copy engine's access to the scratchpad waits for the extents of the images that it reaches, and counts there. -/
def State.imageReach (s : State) (k : Nat) (o : Owner) (a n : Nat) (write : Bool) : State × Finding :=
  let l := s.imageRanges k o a n write
  match l.findSome? fun r => s.frameHeld r.1 r.2.1 r.2.2 write with
  | some p => (s, .absent p.1 p.2)
  | none => (l.foldl (fun s r => s.countSpan r.1 r.2.1 r.2.2) s, .ok)

/-- Byte `a` of the scratchpad in the bank images of a record (18 R362). -/
def State.imageByte (s : State) (o : Owner) (a : Nat) : Byte :=
  match s.away o with
  | none => 0
  | some x => ((s.frameKey (s.frameOf x).1 ((s.frameOf x).2 + imageOff a)).map s.mem.read).getD 0

/-- The byte of the scratchpad of strand `o` that the engine of core k reads: it sees no matrix write of its cycle
(10 R247). -/
def State.engineSpad (s : State) (k : Nat) (o : Owner) (a : Nat) : Byte :=
  let byte (c : Nat) : Byte := s.priorByte 8 (spadKey c ((s.strand c).phys a))
  match (s.core k).departed (bankOf a) o with
  | some d =>
    match d.state with
    | .saving => byte k
    | .forward => byte d.newCore
    | _ => s.imageByte o a
  | none =>
    match s.present o with
    | some c => byte c
    | none => s.imageByte o a

/-- That byte is uncorrectable; an image holds no such mark (15 R331). -/
def State.enginePoison (s : State) (k : Nat) (o : Owner) (a : Nat) : Bool :=
  let at_ (c : Nat) : Bool := s.poison.contains (spadKey c ((s.strand c).phys a))
  match (s.core k).departed (bankOf a) o with
  | some d => (d.state == .saving && at_ k) || (d.state == .forward && at_ d.newCore)
  | none => at_ k

/-- Write bytes into a scratchpad at once, setting full the granules named. -/
def State.pokeSpad (s : State) (k : Nat) (bs : List (Nat × Byte)) (full : List Nat) : State :=
  let st := s.strand k
  (s.putCells (bs.map fun p => (spadKey k (st.phys p.1), p.2))).setFulls k true full

/-- Write bytes and full granules into the bank images of a record. -/
def State.pokeImage (s : State) (o : Owner) (bs : List (Nat × Byte)) (full : List Nat) : State :=
  match s.away o with
  | none => s
  | some x =>
    let key (off : Nat) : Option Nat := s.frameKey (s.frameOf x).1 ((s.frameOf x).2 + off)
    let bytes := bs.filterMap fun (p : Nat × Byte) => (key (imageOff p.1)).map fun k => (k, p.2)
    full.foldl (fun s g =>
      match key (imageFullOff g) with
      | some k => s.putCells [(k, s.mem.read k ||| BitVec.ofNat 8 (2 ^ (g / 16 % 8)))]
      | none => s) ((s.putCells bytes).dirty (bs.flatMap fun p => s.extents (s.frameOf x).1 ((s.frameOf x).2 + imageOff p.1) 1).dedup)

/-- A write of the engine of core k into one bank of the scratchpad of strand `o`, routed by the bank's
Periscope entry; without an entry it reaches the strand that owns the bank, and no other.  A byte that the matrix port writes
in the cycle keeps that port's (10 R247). -/
def State.engineWrite (s : State) (k : Nat) (o : Owner) (bank : Nat) (bs : List (Nat × Byte)) (full : List Nat) : State :=
  let n := BitVec.ofNat 64 bs.length
  let poke (s : State) (c : Nat) : State :=
    s.pokeSpad c (bs.filter fun p => !s.covered 8 (spadKey c ((s.strand c).phys p.1))) full
  let cost (s : State) : State := s.chargeOwner o (bs.length * perByte)
  let diverted (s : State) := cost ((s.pokeImage o bs full).modPeri o.ctx fun p => { p with divbytes := p.divbytes + n })
  let forward (s : State) (c : Nat) :=
    cost ((poke s c).modPeri o.ctx fun p => { p with fwdbytes := p.fwdbytes + n })
  match (s.core k).departed bank o with
  | some d =>
    match d.state with
    | .saving => diverted (poke s k)
    | .divert => diverted s
    | .restore => forward (diverted s) d.newCore
    | .forward => forward s d.newCore
  | none => if (s.core k).holds && (s.strand k).owner == o then poke s k else s

/-! ### Held writes on their way (07 R179) -/

/-- A write of a copy engine leaves for the Loupe; `num` is its command. -/
def State.sendHeld (s : State) (k : Nat) (o : Owner) (ckind obj off : Nat) (bs : List (Nat × Byte)) (cmd : Nat) : State :=
  let r : Remote :=
    { id := s.nextId, owner := o, core := k, num := cmd, slot := engineSlot, addr := 0, kind := .store, ckind := ckind, obj := obj,
      off := off, size := bs.length, data := 0, bytes := bs, comparand := 0, fn := 0, dst := none, seq := 0, sx := false,
      cls := 0, rel := false, acq := false, scope := 0, stage := .queued, held := true, issued := s.now }
  { s with remotes := s.remotes ++ [r], nextId := s.nextId + 1 }

end Sys2Proof.Machine
end

