-- ==== Sys2Proof/Machine/Copy.lean ====
section
/-!
DEFINITION. Copy engines (08): the descriptors and the queue, the checks of CPGO (R186), runs, completion and
the ways a command ends, CPFILL, CPPUB, CPABORT, CPQRY, and the runs of the hub engines (R204-R208).
-/

namespace Sys2Proof.Machine

/-! ### Descriptors (R181, R197, R198) -/

def fitsS (v : W64) (n : Nat) : Bool := decide (-2 ^ (n - 1) ≤ v.toInt ∧ v.toInt < 2 ^ (n - 1))

def execCplvl (level : BitVec 4) (cnt ss ds : BitVec 6) (e : ESync) (s : State) : Host.Outcome State Fault Refusal :=
  engine s e true
    (fun k =>
      let st := s.strand k
      let n := st.s cnt.toNat
      let a := st.s ss.toNat
      let b := st.s ds.toNat
      if n = 0 ∨ 2 ^ 32 ≤ n.toNat ∨ !fitsS a 40 ∨ !fitsS b 40 ∨ (level = 0 ∧ (a ≠ 0 ∨ b ≠ 0)) then some (.illopnd, 0)
      else none)
    fun k s => s.modStrand k fun st => st.withCp fun c =>
      let r := ((st.s cnt.toNat).setWidth 32, (st.s ss.toNat).setWidth 40, (st.s ds.toNat).setWidth 40)
      { c with level := SMap.set c.level level.toNat r }

def execCpsrc (cap : BitVec 4) (off : BitVec 6) (e : ESync) (s : State) : Host.Outcome State Fault Refusal :=
  engine s e true noCheck fun k s => s.modStrand k fun st => st.withCp fun c =>
    { c with srcCap := st.c cap.toNat, srcOff := st.s off.toNat, srcIx := cap.toNat }
def execCpdst (cap : BitVec 4) (off : BitVec 6) (e : ESync) (s : State) : Host.Outcome State Fault Refusal :=
  engine s e true noCheck fun k s => s.modStrand k fun st => st.withCp fun c =>
    { c with dstCap := st.c cap.toNat, dstOff := st.s off.toNat, dstIx := cap.toNat }

/-! ### The nest (R182-R185) -/

def raw32 : Nat := 0x00
def t5 : Nat := 0x0D

/-- Format and scale of a side (R185); those of a gathering side are of the bank of its descriptor's offset, wherever a run lands
(log 129, DESIGN CHOICE). -/
def Strand.side (st : Strand) (x : CapBits) (o : W64) (code : Nat) : CopySide :=
  if capKind x = kScratch then
    let r := st.fmtReg (capBase x + o.toNat)
    ⟨x, o, fmtCode r, BitVec.ofNat 8 (r.toNat / 2 ^ 8)⟩
  else ⟨x, o, code, 0⟩

/-- The command moves bits (R185). -/
def CopyCmd.moves (c : CopyCmd) : Bool :=
  (c.src.fmt == c.dst.fmt && c.src.scale == c.dst.scale) || c.src.fmt == raw32 || c.dst.fmt == raw32
    || (c.src.fmt == t5 && c.dst.fmt == t5)
/-- Element widths in bits. -/
def CopyCmd.ws (c : CopyCmd) : Nat := if c.moves then 8 * 2 ^ c.o.esize.toNat else fmtWidth c.src.fmt
def CopyCmd.wd (c : CopyCmd) : Nat := if c.moves then 8 * 2 ^ c.o.esize.toNat else fmtWidth c.dst.fmt
def CopyCmd.transposes (c : CopyCmd) : Bool := c.o.trans != 0
/-- Count of level k. -/
def CopyCmd.count (c : CopyCmd) (k : Nat) : Nat := ((c.levels[k]?).map (·.1)).getD 1
def CopyCmd.sstride (c : CopyCmd) (k : Nat) : Int := ((c.levels[k]?).map (·.2.1)).getD 0
def CopyCmd.dstride (c : CopyCmd) (k : Nat) : Int := ((c.levels[k]?).map (·.2.2)).getD 0
/-- Levels whose indices number the runs, fastest first: 1 and up, or 0, 2 and up when transposing (R183). -/
def CopyCmd.outer (c : CopyCmd) : List Nat :=
  if c.transposes then 0 :: (List.range c.levels.length).drop 2 else (List.range c.levels.length).drop 1
/-- Runs of the nest. -/
def CopyCmd.total (c : CopyCmd) : Nat := (c.outer.map c.count).foldl (· * ·) 1
/-- Elements of a run. -/
def CopyCmd.runCount (c : CopyCmd) : Nat := if c.transposes then c.count 1 else c.count 0

/-- Indices of run n over the given counts, the first fastest. -/
def digits : List Nat → Nat → List Nat
  | [], _ => []
  | c :: r, n => n % c :: digits r (n / c)

/-- Σ index × stride over the outer levels; level 0 of a transposing command moves by `w0`. -/
def CopyCmd.outerSum (c : CopyCmd) (stride : Nat → Int) (n : Nat) : Int :=
  ((c.outer.zip (digits (c.outer.map c.count) n)).map fun p => stride p.1 * p.2).foldl (· + ·) 0

/-- Bytes of a run on each side. -/
def CopyCmd.srcBytes (c : CopyCmd) : Nat := (c.count 0 * c.ws + 7) / 8
def CopyCmd.dstBytes (c : CopyCmd) : Nat := (c.runCount * c.wd + 7) / 8

/-- Offset of run n in the destination window. -/
def CopyCmd.dstAt (c : CopyCmd) (n : Nat) : Int :=
  c.dst.off.toNat + c.outerSum (fun k => c.dstride (if c.transposes ∧ k = 0 then 1 else k)) n

/-- Bit offset and bits of the pieces of elements e to e + m - 1 of run n in the source window; `idx` is the gathered
offset. -/
def CopyCmd.pieces (c : CopyCmd) (clamp : Bool) (idx : Int) (n e m : Nat) : List (Int × Nat) :=
  let o : Int := c.src.off.toNat
  if clamp then
    -- a level's source stride field holds origin and extent (R206)
    let origin (k : Nat) : Int := signedOf ((c.sstride k).toNat / 2 ^ 20) 20
    let ext (k : Nat) : Nat := (c.sstride k).toNat % 2 ^ 20
    let pitch (k : Nat) : Int := ((List.range k).map fun j => (ext j : Int)).foldl (· * ·) c.ws
    let at_ (k i : Nat) : Int := max 0 (min (ext k - 1 : Int) (origin k + i)) * pitch k
    let outer := ((c.outer.zip (digits (c.outer.map c.count) n)).map fun p => at_ p.1 p.2).foldl (· + ·) 0
    (List.range m).map fun i => (8 * o + at_ (if c.transposes then 1 else 0) (e + i) + outer, c.ws)
  else if c.o.gather then [(8 * (o + idx) + c.ws * e, m * c.ws)]
  else if c.transposes then
    let w := c.ws / 8
    let base := o + c.outerSum (fun k => if k = 0 then w else c.sstride k) n
    (List.range m).map fun (i : Nat) => (8 * (base + c.sstride 1 * (e + i : Nat)), c.ws)
  else [(8 * (o + c.outerSum c.sstride n) + c.ws * e, m * c.ws)]

/-- The bounding box over levels 1 and up (R186). -/
def CopyCmd.box (c : CopyCmd) (o : Int) (counts : Nat → Nat) (stride : Nat → Int) (run : Nat) : Int × Int :=
  let ks := (List.range c.levels.length).drop 1
  (ks.foldl (fun a k => a + min 0 ((counts k - 1 : Int) * stride k)) o,
   ks.foldl (fun a k => a + max 0 ((counts k - 1 : Int) * stride k)) o + run - 1)
def CopyCmd.srcBox (c : CopyCmd) : Int × Int := c.box c.src.off.toNat c.count c.sstride c.srcBytes
def CopyCmd.dstBox (c : CopyCmd) : Int × Int :=
  c.box c.dst.off.toNat (fun k => if c.transposes ∧ k = 1 then c.count 0 else c.count k) c.dstride c.dstBytes

/-- Strides of the destination that move its elements: the row stride of a transposing command goes by count 0. -/
def CopyCmd.dstSteps (c : CopyCmd) : List Int :=
  ((List.range c.levels.length).drop 1).filterMap fun k =>
    if 1 < c.count (if c.transposes ∧ k = 1 then 0 else k) then some (c.dstride k) else none
/-- Strides of the source that move its elements; a gathering one takes its index offsets run by run. -/
def CopyCmd.srcSteps (c : CopyCmd) : List Int :=
  ((List.range c.levels.length).drop 1).filterMap fun k => if 1 < c.count k then some (c.sstride k) else none

/-- The destination bank a publishing command writes in place of its own (R194). -/
def CopyCmd.target (c : CopyCmd) (a : Nat) : Nat :=
  if c.o.pub then c.o.shadow.toNat * Config.bankBytes + a % Config.bankBytes else a

/-! ### CPGO (R186, R199) -/

/-- Level k as the registers hold it. -/
def CopyRegs.levelOf (c : CopyRegs) (k : Nat) : Nat × Int × Int :=
  let (n, a, b) := SMap.get (1, 0, 0) c.level k
  (n.toNat, a.toInt, b.toInt)

/-- Scratchpad banks of a box; a box that leaves the scratchpad has none beyond it. -/
def boxBanks (x : CapBits) (b : Int × Int) : List Nat :=
  let lo := bankOf (capAddr x b.1)
  (List.range (min (bankOf (capAddr x b.2)) 63 - lo + 1)).map (lo + ·)

/-- The command that CPGO would queue. -/
def State.command (s : State) (k : Nat) (o : CpgoOp) (e : ESync) : CopyCmd :=
  let st := s.strand k
  let src := st.side st.cp.srcCap st.cp.srcOff o.sfmt.toNat
  let dst := st.side st.cp.dstCap st.cp.dstOff o.dfmt.toNat
  let c : CopyCmd :=
    { id := s.nextId, owner := st.owner, o := o, levels := (List.range o.levels.toNat).map st.cp.levelOf, src := src,
      dst := dst, idx := st.c o.idxCap.toNat, idxOff := st.s o.idxOff.toNat, modes := [], signal := engineSignal e,
      runs := 0, done := 0, started := false, held := false, stalls := false, ask := .none, failing := false, flags := 0, bytes := 0, issued := s.now,
      origin := (st.bundleAddr, st.slot), part := 0, index := 0, stop := false, stopLast := false, aborts := [] }
  let modes : SMap (Nat × Bool) :=
    if capKind st.cp.dstCap ≠ kScratch then []
    else (boxBanks st.cp.dstCap c.dstBox).foldl (fun m b =>
      let r := SMap.get 0 st.fmtb b
      SMap.set m b (fmtRnd r, fmtSat r)) []
  { c with runs := c.total, done := min c.total st.cp.skip.toNat, modes := modes }

/-- A window holds a box. -/
def inBox (x : CapBits) (b : Int × Int) : Bool := 0 ≤ b.1 && b.2 < capLen x

/-- The element addresses of a side are multiples of its width. -/
def aligned (x : CapBits) (o : W64) (w : Nat) (steps : List Int) : Trap :=
  if w % 8 ≠ 0 then none
  else
    let a := capBase x + o.toNat
    if a % (w / 8) = 0 ∧ steps.all (fun d => d % ((w / 8 : Nat) : Int) == 0) then none
    else some (.align, BitVec.ofNat 64 a)

/-- The checks of CPGO in order (R186).  Check 7 knows the offset of a gathering source, not its index entries, which no check
aligns (log 129, DESIGN CHOICE). -/
def State.checkCpgo (s : State) (k : Nat) (o : CpgoOp) (c : CopyCmd) : Trap :=
  let st := s.strand k
  let spad (x : CapBits) : Bool := capKind x == kScratch
  let ill (b : Bool) : Trap := if b then some (.illopnd, 0) else none
  let sameFmt (x : CapBits) (b : Int × Int) : Bool :=
    !spad x || ((boxBanks x b).all fun i =>
      let r := SMap.get 0 st.fmtb i
      let r0 := SMap.get 0 st.fmtb (bankOf (capAddr x b.1))
      fmtListed (fmtCode r) && fmtCode r == fmtCode r0 && fmtScale r == fmtScale r0)
  let lo := bankOf (capAddr c.dst.cap c.dstBox.1)
  let list : Int × Int := (c.idxOff.toNat, c.idxOff.toNat + 4 * c.total - 1)
  firstTrap
    [ill (o.levels = 0 || 10 < o.levels || decide (2 ^ 48 ≤ c.total) || c.levels.any (fun l => l.1 == 0)
        || c.sstride 0 != 0 || c.dstride 0 != 0
        || (c.transposes && (o.levels.toNat < 2 || !c.moves || o.esize.toNat + 1 != o.trans.toNat || o.gather
              || decide (64 / (c.ws / 8) < c.count 0) || decide (64 / (c.ws / 8) < c.count 1)))
        || (o.gather && ((List.range c.levels.length).drop 1).any fun i => c.sstride i != 0)
        || (spad c.src.cap && o.sfmt != 0) || (spad c.dst.cap && o.dfmt != 0)
        || !fmtListed o.sfmt.toNat || !fmtListed o.dfmt.toNat || (o.cellEn && 223 < o.cell.toNat)),
     if capGrants c.src.cap [rRead] then none else some (.caprights, BitVec.ofNat 64 st.cp.srcIx),
     if capGrants c.dst.cap (if o.pub then [rWrite, rPublish] else [rWrite]) then none
       else some (.caprights, BitVec.ofNat 64 st.cp.dstIx),
     if !o.gather || capGrants c.idx [rRead] then none else some (.caprights, o.idxCap.setWidth 64),
     if !o.gather || (s.space k c.idx != .remote) then none else some (.caprights, o.idxCap.setWidth 64),
     if !o.pub || spad c.dst.cap then none else some (.caprights, BitVec.ofNat 64 st.cp.dstIx),
     if o.gather || inBox c.src.cap c.srcBox then none else some (.capbounds, c.src.off),
     if inBox c.dst.cap c.dstBox then none else some (.capbounds, c.dst.off),
     if !o.gather || decide (c.idxOff.toNat + 4 * c.total ≤ capLen c.idx) then none else some (.capbounds, c.idxOff),
     ill (!(if o.gather then !spad c.src.cap || fmtListed c.src.fmt else sameFmt c.src.cap c.srcBox)
        || (o.gather && !sameFmt c.idx list) || !sameFmt c.dst.cap c.dstBox
        || (!c.moves && (c.src.fmt == t5 || c.dst.fmt == t5 || o.esize != 0))),
     if !o.pub || (bankOf (capAddr c.dst.cap c.dstBox.2) == lo && o.shadow.toNat != lo && st.kn.banks.getLsbD lo
        && st.kn.banks.getLsbD o.shadow.toNat) then none
       else some (.align, BitVec.ofNat 64 (capAddr c.dst.cap c.dstBox.1)),
     aligned c.src.cap c.src.off c.ws c.srcSteps, aligned c.dst.cap c.dst.off c.wd c.dstSteps]

def execCpgo (o : CpgoOp) (e : ESync) (s : State) : Host.Outcome State Fault Refusal :=
  engine s e false (fun k => s.checkCpgo k o (s.command k o e)) fun k s =>
    let c := s.command k o e
    { ((s.modCore k fun x => { x with cmds := x.cmds ++ [c] }).modStrand k fun st =>
        st.withCp fun r => { r with skip := 0 }) with nextId := s.nextId + 1 }

/-! ### The immediate commands -/

/-- CPFILL writes raw bits at issue, after the W slot of its bundle (R200). -/
def execCpfill (cap : BitVec 4) (off v : BitVec 6) (n : BitVec 5) (full : BitVec 2) (e : ESync) (s : State) :
    Host.Outcome State Fault Refusal :=
  let len := 16 * (n.toNat + 1)
  engine s e true
    (fun k =>
      let st := s.strand k
      let x := st.c cap.toNat
      let o : Int := (st.s off.toNat).toNat
      firstTrap [st.checkCap cap.toNat [rWrite] [kScratch], checkBounds x o len, checkAlign x o len 16, st.checkRaw x o])
    fun k s =>
      let st := s.strand k
      let a := capAddr (st.c cap.toNat) (st.s off.toNat).toNat
      let g := List.range (n.toNat + 1)
      let bs := g.flatMap fun i =>
        atAddr (a + 16 * i) (leBytes 8 (st.s v.toNat).toNat ++ leBytes 8 (st.s v.toNat).toNat)
      let s := ((s.flushSpad k false).schedule k (st.bankBit a)).pokeSpad k bs []
      if full = 0 then s else s.setFulls k (full == 1) (g.map fun i => a + 16 * i)

/-- CPPUB exchanges two entries of the bank map (R194, R201). -/
def execCppub (d h : BitVec 6) (e : ESync) (s : State) : Host.Outcome State Fault Refusal :=
  engine s e true
    (fun k =>
      let b := (s.strand k).kn.banks
      if d = h ∨ !b.getLsbD d.toNat ∨ !b.getLsbD h.toNat then some (.illopnd, 0) else none)
    fun k s => (s.flushSpad k true).modStrand k fun st => st.withCp fun c =>
      let m (i : Nat) := SMap.get i c.bankMap i
      { c with bankMap := SMap.set (SMap.set c.bankMap d.toNat (m h.toNat)) h.toNat (m d.toNat) }

/-- A CPPUB of d and h waits for the commands that publish into either (R194). -/
def State.publishing (s : State) (o : Owner) (d h : Nat) : Bool :=
  (s.commands o).any fun c =>
    c.o.pub && (c.o.shadow.toNat == d || c.o.shadow.toNat == h || bankOf (capAddr c.dst.cap c.dst.off.toNat) == d
      || bankOf (capAddr c.dst.cap c.dst.off.toNat) == h)

/-- Remove commands of a strand from every engine. -/
def State.dropCommands (s : State) (p : CopyCmd → Bool) : State :=
  { s with cores := s.cores.map fun c => (c.1, { c.2 with cmds := c.2.cmds.filter fun x => !p x }) }

/-- Periscope entries of a strand go from the cores whose engine holds none of its commands (18 R367). -/
def State.freeDeparted (s : State) (o : Owner) : State :=
  { s with cores := s.cores.map fun p =>
      if p.2.cmds.any (·.owner == o) then p
      else (p.1, { p.2 with periscope := p.2.periscope.map fun q => (q.1, q.2.filter (·.owner != o)) }) }

/-- The signals of CPABORTs act once no command of the strand is left, on an idle engine; until then the oldest command keeps them
(R202). -/
def State.passAborts (s : State) (o : Owner) (l : List ((Nat × Nat) × Nat × Nat)) : State :=
  match s.commands o with
  | [] => l.foldl (fun s x => s.signalOf o (some x.1) x.2) s
  | d :: _ =>
    let keep (c : CopyCmd) : CopyCmd := if c.id = d.id then { c with aborts := c.aborts ++ l } else c
    { s with cores := s.cores.map fun p => (p.1, { p.2 with cmds := p.2.cmds.map keep }) }

/-- CPABORT: a command between two runs stops here, one within a run at the end of that run (R202). -/
def execCpabort (e : ESync) (s : State) : Host.Outcome State Fault Refusal :=
  engine s e false noCheck fun k s =>
    let st := s.strand k
    let o := st.owner
    let q := s.commands o
    let oldest (c : CopyCmd) : Bool := q.head?.any (·.id == c.id)
    let s := (s.modNow k fun n => { n with abort := true }).modStrand k fun st => st.withCp fun c =>
      { c with lastRuns := (q.head?.map fun x => BitVec.ofNat 48 x.done).getD c.lastRuns }
    let s := s.dropCommands fun c => c.owner == o && c.part == 0
    let old := (q.filter (·.part == 0)).flatMap (·.aborts)
    if s.copyIdle o then ((s.passAborts o old).modStrand k fun st => st.signal (engineSignal e)).freeDeparted o
    else
      let stopped (c : CopyCmd) : CopyCmd := if c.owner = o then { c with stop := true, stopLast := c.stopLast || oldest c } else c
      let s : State := { s with cores := s.cores.map fun (p : Nat × Core) => (p.1, { p.2 with cmds := p.2.cmds.map stopped }) }
      (s.passAborts o (old ++ (engineSignal e).toList.map fun x => (x, st.bundleAddr, st.slot))).freeDeparted o

/-- CPQRY (R203). -/
def execCpqry (d : BitVec 6) (i : BitVec 3) (e : ESync) (s : State) : Host.Outcome State Fault Refusal :=
  engine s e true noCheck fun k s =>
    let v : Nat :=
      match (s.commands (s.strand k).owner)[i.toNat]? with
      | none => 0
      | some c => (if c.held then 3 else if c.started then 2 else 1) * 2 ^ 60 + c.done % 2 ^ 48
    s.modStrand k fun st => st.pushS d.toNat (BitVec.ofNat 64 v) 2 false

/-! ### Engines -/

/-- Chip, port and core of an engine's accesses to an object. -/
def State.enginePort (s : State) (g : Engine) (ckind obj off : Nat) : Nat :=
  match g with
  | .core k => s.entryPort (chipOf k) ckind obj off
  | .hub _ => s.hubPort obj off

/-- The engine reaches a side without a port: its scratchpad, or its chiplet's pane. -/
def State.near (s : State) (g : Engine) (x : CapBits) : Bool :=
  match g with
  | .core k => s.space k x != .remote
  | .hub _ => false

def State.sideReach (s : State) (g : Engine) (o : Owner) (x : CapBits) (off n : Nat) (write : Bool) : State × Finding :=
  let a := capBase x + off
  if capKind x = kScratch then
    match g with
    | .core k => s.imageReach k o a n write
    | .hub _ => (s, .ok)
  else if s.near g x then
    if (s.obj (capObj x)).any (!·.frame) then
      let es := s.extents (capObj x) a n
      if !write then (s, .ok)
      else
        match es.find? fun p => (s.tableEntry p.1 p.2).any OtEntry.cw with
        | some p => (s, .absent p.1 p.2)
        | none => (s.dirty es, .ok)
    else (s, .gone)
  else s.reachAll (s.enginePort g (capKind x) (capObj x) a) write false (s.extents (capObj x) a n)

/-- A side's bytes came by a mesh port in this cycle: the engine reads them in the next (07 R165). -/
def State.sideFresh (s : State) (g : Engine) (x : CapBits) (off n : Nat) : Bool :=
  let a := capBase x + off
  capKind x != kScratch && !s.near g x && s.freshVia (s.enginePort g (capKind x) (capObj x) a) (capObj x) a n

/-- Bytes of a side as the engine reads them, and whether one is uncorrectable (15 R331). -/
def State.sideRead (s : State) (g : Engine) (o : Owner) (x : CapBits) (off n : Nat) : List Byte × Bool :=
  let a := capBase x + off
  match g with
  | .core k =>
    if capKind x = kScratch then
      ((List.range n).map fun i => s.engineSpad k o (a + i),
       (List.range n).any fun i => s.enginePoison k o (a + i))
    else if s.near g x then s.paneRead k (capObj x) a n
    else s.readHeld (s.enginePort g (capKind x) (capObj x) a) o (capObj x) a n none
  | .hub _ => s.readVia (s.hubPort (capObj x) a) (capObj x) a n

/-- The bits of pieces, the first piece lowest. -/
def State.runBits (s : State) (g : Engine) (c : CopyCmd) : List (Int × Nat) → Nat × Bool
  | [] => (0, false)
  | (p, n) :: r =>
    let lo := (p / 8).toNat
    let (bs, bad) := s.sideRead g c.owner c.src.cap lo ((p.toNat + n + 7) / 8 - lo)
    let (x, bad') := s.runBits g c r
    (ofLE bs / 2 ^ (p.toNat - 8 * lo) % 2 ^ n + 2 ^ n * x, bad || bad')

/-- Elements e to e + m - 1 of the present run as the destination holds them, and the flags of their conversion, under the
RND and SAT of the bank that each is written to (R185, 04 R92, R97). -/
def CopyCmd.convert (c : CopyCmd) (e m x : Nat) : Nat × Flags :=
  if c.moves then (x, fNone)
  else
    let el (j : Nat) : Nat × Flags :=
      let (rnd, sat) := SMap.get (0, false) c.modes (bankOf (capAddr c.dst.cap (c.dstAt c.done + (c.wd * (e + j) / 8 : Nat))))
      conv ((fmtVal c.src.fmt (x / 2 ^ (c.ws * j) % 2 ^ c.ws)).scale c.src.scale.toInt) c.dst.fmt c.dst.scale.toInt rnd sat
        (fmtFloat c.src.fmt).isSome
    ((List.range m).foldl (fun a j => a + 2 ^ (c.wd * j) * (el j).1) 0, flagsOf (fun j => (el j).2) (List.range m))

/-- A later run writes in the granule at address g of the destination. -/
def CopyCmd.laterWrites (c : CopyCmd) (n g : Nat) : Bool :=
  (List.range (c.runs - n - 1)).any fun i =>
    let a := capAddr c.dst.cap (c.dstAt (n + 1 + i))
    a < g + 16 && g < a + c.dstBytes

/-- The holder of writes through a destination (07 R179). -/
def State.holdsFor (s : State) (g : Engine) (o : Owner) (x : CapBits) : Bool :=
  match g with
  | .core _ => ((s.strandOf o).map fun st => st.holds x).getD false
  | .hub _ => false

/-- The signature term of bytes that a run writes, added on the core or in the signature image, which counts its runs
(15 R325). -/
def State.foldRun (s : State) (o : Owner) (x : CapBits) (bs : List (Nat × Byte)) (ends : Bool) : State :=
  if capKind x = kScratch then s
  else
    match s.away o with
    | some a =>
      (s.modAbsent o fun a => { a with sig := a.sig + a.st.foldSum (capObj x) bs }).modPeri a.st.id.ctx fun p =>
        { p with sigfolds := p.sigfolds + if ends then 1 else 0 }
    | none => s.modOwner o fun st => (st.fold x bs).mergeSig

/-- Bytes that the next step of a run writes: in the scratchpad up to the end of an aligned 512-byte block (R189), elsewhere,
on their way to the Loupe too, up to the end of a granule (12 R313). -/
def CopyCmd.partLen (c : CopyCmd) : Nat :=
  let a := capAddr c.dst.cap (c.dstAt c.done + c.part)
  min (c.dstBytes - c.part) (if capKind c.dst.cap = kScratch then 512 - a % 512 else 16 - a % 16)

/-- Flits of a read and of a part's bytes, where a side has a peer home. -/
def State.peerReads (s : State) (x : CapBits) (off n : Nat) : List (Nat × PeerAccess) :=
  if capKind x = kScratch then [] else s.peerLoad (capObj x) (capBase x + off) n
def CopyCmd.peerWrites (c : CopyCmd) (s : State) (bs : List (Nat × Byte)) : List (Nat × PeerAccess) :=
  if capKind c.dst.cap = kScratch then [] else s.peerStore (capObj c.dst.cap) bs

/-- Write bytes of the present run (log 76, DESIGN CHOICE). -/
def State.writePart (s : State) (g : Engine) (c : CopyCmd) (bs : List (Nat × Byte)) (ends : Bool) : State :=
  let x := c.dst.cap
  match g with
  | .core k =>
    if capKind x = kScratch then
      let granules := (bs.map fun p => p.1 / 16 * 16).dedup.filter fun g => !c.laterWrites c.done g
      let moved := bs.map fun p => (c.target p.1, p.2)
      s.engineWrite k c.owner (bankOf ((moved.map (·.1)).headD 0)) moved (granules.map c.target)
    else
      let s := s.foldRun c.owner x bs ends
      let s := match s.strandOf c.owner with
        | some st => if st.id.cls = 0 ∧ !st.id.dep ∧ !isView (capObj x) then
            s.modEntry c.owner.tid.toNat fun e => { e with escaped := true } else s
        | none => s
      if s.holdsFor g c.owner x then
        s.sendHeld k c.owner (capKind x) (capObj x) ((bs.map (·.1)).headD 0) bs c.id
      else if s.near g x then s.paneWrite k (capObj x) bs
      else
        match c.peerWrites s bs with
        | [] => s.writeVia (s.enginePort g (capKind x) (capObj x) ((bs.map (·.1)).headD 0)) (capObj x) bs
        | fl => s.postPeer engineSlot c.id c.owner k (capKind x) (capObj x) bs fl
  | .hub h =>
    let p := s.hubPort (capObj x) ((bs.map (·.1)).headD 0)
    match c.peerWrites s bs with
    | [] => s.writeVia p (capObj x) bs
    | fl => s.postPeer hubSlot h c.owner (8 * p) (capKind x) (capObj x) bs fl

/-- The byte at an offset of the destination, in the bank that is written. -/
def State.oldByte (s : State) (g : Engine) (c : CopyCmd) (o : Nat) : Nat :=
  match g with
  | .core k =>
    if capKind c.dst.cap = kScratch then (s.engineSpad k c.owner (c.target (capAddr c.dst.cap o))).toNat
    else ofLE (s.sideRead g c.owner c.dst.cap o 1).1
  | .hub _ => ofLE (s.sideRead g c.owner c.dst.cap o 1).1

/-- What became of the next part of a run. -/
inductive RunResult where
  /-- its bytes, its flags and the gathered offset of the run -/
  | performed (n : Nat) (f : Flags) (idx : Int)
  /-- its extent is absent (R192) -/
  | waits
  /-- it waits for a link's room or acknowledgement, a checkpoint's copy of its extent, or the cycle after a write of the bytes that
  it reads -/
  | stalls
  /-- its reads leave by a pennant link, and are made once the link acknowledges them (12 R306) -/
  | asks
  | outside | bad | revoked (obj : Nat)
  /-- a translation ended with an uncorrectable entry: offset of the access (19 R397) -/
  | lost (off : Nat)
  deriving DecidableEq, Repr

/-- The result ends the command (R192). -/
def RunResult.fails : RunResult → Bool
  | .outside => true
  | .bad => true
  | .revoked _ => true
  | .lost _ => true
  | .performed _ _ _ => false
  | .waits => false
  | .stalls => false
  | .asks => false

/-- The command reads its next index entry as this part starts its run (R184). -/
def CopyCmd.readsIndex (c : CopyCmd) : Bool := c.o.gather && c.part == 0
/-- Offset of the present run's index entry. -/
def CopyCmd.indexAt (c : CopyCmd) : Nat := c.idxOff.toNat + 4 * c.done
/-- The gathered offset of the present run, and whether its index entry is uncorrectable. -/
def State.indexOf (s : State) (g : Engine) (c : CopyCmd) : Int × Bool :=
  if c.readsIndex then
    let (bs, bad) := s.sideRead g c.owner c.idx c.indexAt 4
    (signedOf (ofLE bs) 32, bad)
  else (if c.o.gather then c.index else 0, false)

/-- What an access of a part to `off` of a side found (R192, 19 R397), where it is not performed. -/
def State.runResult (s : State) (f : Finding) (x : CapBits) (off : Nat) : RunResult :=
  match f with
  | .gone => .revoked (capObj x)
  | .error => .lost (capAddr x off)
  | .absent o e => if (s.tableEntry o e).any (·.p) then .stalls else .waits
  | .ok => .stalls

/-- Perform the next part of a command's present run (R182-R192), its index entry reached.  All of the run's data is read before
its first write, so that an uncorrectable byte keeps the whole run from being performed. -/
def State.performRun (s : State) (g : Engine) (c : CopyCmd) (clamp : Bool) : State × RunResult :=
  let (idx, idxBad) := s.indexOf g c
  let len := c.partLen
  let e := 8 * c.part / c.wd
  let m := min c.runCount ((8 * (c.part + len) + c.wd - 1) / c.wd) - e
  let ps := c.pieces clamp idx c.done e m
  let need := if c.part = 0 then c.pieces clamp idx c.done 0 c.runCount else ps
  if idxBad then (s, .bad)
  else if c.o.gather && !inBox c.src.cap (c.src.off.toNat + idx, c.src.off.toNat + idx + c.srcBytes - 1) then (s, .outside)
  else
    let lo := (need.foldl (fun a p => min a p.1) ((need.map (·.1)).headD 0) / 8).toNat
    let hi := need.foldl (fun a p => max a ((p.1.toNat + p.2 + 7) / 8)) lo
    match s.sideReach g c.owner c.src.cap lo (hi - lo) false with
    | (s, .ok) =>
      let reads := if c.part = 0 then s.peerReads c.src.cap lo (hi - lo) else []
      if reads ≠ [] ∧ c.ask = .lost then (s, .revoked (capObj c.src.cap))
      else if reads ≠ [] ∧ c.ask = .none then if s.linkRoom reads then (s.sendPeer (.command c.id) reads, .asks) else (s, .stalls)
      else if s.sideFresh g c.src.cap lo (hi - lo) || s.inFlight (.command c.id) then (s, .stalls)
      else if (s.runBits g c need).2 then (s, .bad)
      else
        let d := (c.dstAt c.done).toNat + c.part
        let held := s.holdsFor g c.owner c.dst.cap
        match (if held then (s, Finding.ok) else s.sideReach g c.owner c.dst.cap d len true) with
        | (s, .ok) =>
          let (y, fl) := c.convert e m (s.runBits g c ps).1
          -- a run that ends inside a byte keeps that byte's other bits
          let bits := min (8 * len) (c.runCount * c.wd - 8 * c.part)
          let over_ := bits % 8
          let old := if over_ = 0 then 0 else s.oldByte g c (d + len - 1) / 2 ^ over_ * 2 ^ over_
          let v := y / 2 ^ (8 * c.part - c.wd * e) % 2 ^ bits + 2 ^ (8 * (len - 1)) * old
          let bs := atAddr (capAddr c.dst.cap d) (leBytes len v)
          if !s.linkRoom (if held then [] else c.peerWrites s bs) || (over_ ≠ 0 && s.sideFresh g c.dst.cap (d + len - 1) 1) then (s, .stalls)
          else (s.writePart g c bs (c.part + len == c.dstBytes), .performed len fl idx)
        | (s, f) => (s, s.runResult f c.dst.cap d)
    | (s, f) => (s, s.runResult f c.src.cap lo)

/-- Perform the next part of a command's present run; a gathering one reaches its index entry as the run starts (R184, 19 R397,
R399). -/
def State.performPart (s : State) (g : Engine) (c : CopyCmd) (clamp : Bool) : State × RunResult :=
  match (if c.readsIndex then s.sideReach g c.owner c.idx c.indexAt 4 false else (s, .ok)) with
  | (s, .ok) => if c.readsIndex && s.sideFresh g c.idx c.indexAt 4 then (s, .stalls) else s.performRun g c clamp
  | (s, f) => (s, s.runResult f c.idx c.indexAt)

/-- A command after a part of its run has been performed. -/
def CopyCmd.moved (c : CopyCmd) (n : Nat) (f : Flags) (idx : Int) : CopyCmd :=
  let c := { c with held := false, stalls := false, ask := .none, failing := false, flags := c.flags ||| f, bytes := c.bytes + n }
  if c.dstBytes ≤ c.part + n then { c with done := c.done + 1, part := 0, index := 0 }
  else { c with part := c.part + n, index := idx }

/-! ### Steps of the engines -/

/-- Locations of a box outside the scratchpad, as runs: extent by extent, or segment by segment of a view (12 R303). -/
def State.boxSpans (s : State) (x : CapBits) (b : Int × Int) : List ((Nat × Nat) × Nat) :=
  let lo := (capBase x + b.1).toNat
  let hi := (capBase x + b.2 + 1).toNat
  match s.obj (capObj x) with
  | some o =>
    let page := 2 ^ pageLog o.pcode
    (List.range o.exts.length).filterMap fun i =>
      let a := max lo (i * page)
      let z := min hi ((i + 1) * page)
      if a < z then some (s.homeOf (capObj x) a, z - a) else none
  | none => if isView (capObj x) then s.spans (capObj x) lo (hi - lo) else []
/-- Two boxes share a location (log 80, DEDUCED). -/
def State.boxesMeet (s : State) (x : CapBits) (a : Int × Int) (y : CapBits) (b : Int × Int) : Bool :=
  if capKind x = kScratch ∨ capKind y = kScratch then
    capKind x == capKind y && decide (capBase x + a.1 ≤ capBase y + b.2 ∧ capBase y + b.1 ≤ capBase x + a.2)
  else spansMeet (s.boxSpans x a) (s.boxSpans y b)

/-- The box a command writes, in the shadow bank when it publishes. -/
def CopyCmd.written (c : CopyCmd) : CapBits × Int × Int :=
  if c.o.pub then
    let a := c.target (capAddr c.dst.cap c.dstBox.1)
    (mkCap 0 0 kScratch 0 0, a, a + (c.dstBox.2 - c.dstBox.1))
  else (c.dst.cap, c.dstBox.1, c.dstBox.2)
/-- The box a command reads; a gathering one may read its whole window. -/
def CopyCmd.reads (c : CopyCmd) : Int × Int := if c.o.gather then (0, (capLen c.src.cap : Int) - 1) else c.srcBox

/-- An earlier command's destination meets what c reads or writes (R187). -/
def State.after (s : State) (c e : CopyCmd) : Bool :=
  let (x, lo, hi) := e.written
  let (y, lo', hi') := c.written
  s.boxesMeet x (lo, hi) c.src.cap c.reads || s.boxesMeet x (lo, hi) y (lo', hi')
    || (c.o.gather && s.boxesMeet x (lo, hi) c.idx (c.idxOff.toNat, c.idxOff.toNat + 4 * c.runs - 1))

/-- The physical bank of core k in which the engine reaches logical bank b of a strand; none where its accesses go to the
image or to another core (18 R367). -/
def State.engineBank (s : State) (k : Nat) (o : Owner) (b : Nat) : BitVec 64 :=
  let here : Bool := match (s.core k).departed b o with
    | some d => d.state == .saving
    | none => (s.core k).holds && (s.strand k).owner == o
  if here then (s.strand k).bankBit (b * Config.bankBytes) else 0

/-- Scratchpad banks that the next part of a command touches, as physical banks of core k. -/
def State.partBanks (s : State) (k : Nat) (c : CopyCmd) : BitVec 64 :=
  let bits (x : CapBits) (b : Int × Int) : BitVec 64 :=
    if capKind x ≠ kScratch then 0 else (boxBanks x b).foldl (fun a i => a ||| s.engineBank k c.owner i) 0
  let (idx, _) := s.indexOf (.core k) c
  let ps := c.pieces false idx c.done 0 c.runCount
  let lo := (ps.foldl (fun a p => min a p.1) ((ps.map (·.1)).headD 0)) / 8
  let hi := ps.foldl (fun a (p : Int × Nat) => max a ((p.1 + p.2 - 1) / 8)) lo
  let i : Int := c.idxOff.toNat + 4 * c.done
  let d := capAddr c.dst.cap (c.dstAt c.done + c.part)
  bits c.src.cap (lo, hi) ||| (if c.o.gather && c.part == 0 then bits c.idx (i, i + 3) else 0)
    ||| if capKind c.dst.cap = kScratch then s.engineBank k c.owner (bankOf (c.target d)) else 0

/-- A command of core k's engine can perform its next run, bank conflicts aside (R187, 12 R312). -/
def State.runReady (s : State) (c : CopyCmd) : Bool :=
  c.started && c.done < c.runs && (s.commands c.owner).all fun e => e.id ≥ c.id || !s.after c e

/-- The command is the oldest of its strand. -/
def State.isOldest (s : State) (c : CopyCmd) : Bool := (s.commands c.owner).all fun e => c.id ≤ e.id

/-- What a held or stalled command waits for has come: its extent, room, or the end of the older commands. -/
def State.unheld (s : State) (g : Engine) (c : CopyCmd) (clamp : Bool) : Bool :=
  (!c.held && !c.stalls && !c.failing) || (match s.performPart g c clamp with
    | (_, .waits) => false
    | (_, .stalls) => false
    | (_, r) => !r.fails || s.isOldest c)

/-- The list from the place after the first element that meets p on, then the elements up to it. -/
def rotateAfter {α : Type} (p : α → Bool) (l : List α) : List α :=
  let before := l.takeWhile fun x => !p x
  l.drop (before.length + 1) ++ before ++ (l.drop before.length).take 1

/-- Commands of core k whose next part the engine may make now, bank conflicts aside: the one within a run, else those of
the first strand in rotation that has one (18 R369). -/
def State.pendingCmds (s : State) (k : Nat) : List CopyCmd :=
  let x := s.core k
  let go := x.cmds.filter fun c => s.runReady c && s.unheld (.core k) c false
  match go.find? fun c => c.part != 0 with
  | some c => [c]
  | none =>
    match (rotateAfter (fun o => x.served == some o) (x.cmds.map (·.owner)).dedup).find? fun o => go.any (·.owner == o) with
    | some o => go.filter (·.owner == o)
    | none => []

/-- Those of them that find their banks free. -/
def State.runnable (s : State) (k : Nat) : List CopyCmd :=
  let x := s.core k
  (s.pendingCmds k).filter fun c => s.partBanks k c &&& (x.now.banks ||| x.engineBanks) == 0

/-- Banks to which the engine of core k has an access pending that a bundle refuses in this cycle (R188): those of accesses
that wait for no data of another chiplet or home, and those of the others. -/
def State.refusedBanks (s : State) (k : Nat) (near : Bool) : BitVec 64 :=
  ((s.pendingCmds k).filter fun c => (s.space k c.src.cap != .remote) == near).foldl
    (fun a c => a ||| (s.partBanks k c &&& (s.core k).now.banks)) 0

def State.modCmd (s : State) (k id : Nat) (f : CopyCmd → CopyCmd) : State :=
  s.modCore k fun x => { x with cmds := x.cmds.map fun c => if c.id = id then f c else c }

/-- CPI of the last command that completed or ended. -/
def State.setLast (s : State) (o : Owner) (n : Nat) : State :=
  s.modOwner o fun st => st.withCp fun c => { c with lastRuns := BitVec.ofNat 48 n }

/-- A late fault of a command: it counts as slot 7; TRAPSLOT names the slot of its CPGO, and nothing while the strand is
absent (18 R352). -/
def State.copyLate (s : State) (c : CopyCmd) (code : TrapCode) (v : Nat) : State :=
  s.raiseTo c.owner ⟨code, BitVec.ofNat 64 v, if (s.away c.owner).isSome then none else some c.origin, 7⟩

/-- A stopped command ends at its run boundary (R202). -/
def State.stopCommand (s : State) (c : CopyCmd) : State :=
  let s := s.dropCommands fun x => x.id == c.id
  let s := if c.stopLast then s.setLast c.owner c.done else s
  (s.passAborts c.owner c.aborts).freeDeparted c.owner

/-- The oldest command of a strand ends at its present run: the queue is left empty, and the strand has a late fault
(R192) (log 35, DEDUCED). -/
def State.endCommand (s : State) (c : CopyCmd) (code : TrapCode) (v : Nat) : State :=
  let l := (s.commands c.owner).flatMap (·.aborts)
  let s := ((s.dropCommands fun x => x.owner == c.owner).setLast c.owner c.done).passAborts c.owner l
  ((s.modOwner c.owner fun st => st.withCp fun r =>
    { r with gbad := r.gbad || code == .cpgbad, derr := r.derr || code == .cpderr }).copyLate c code v).freeDeparted c.owner

/-- Take the next number of the oracle, 0 when it is exhausted (log 2, DESIGN CHOICE). -/
def State.draw (s : State) : Nat × State :=
  match s.oracle with
  | [] => (0, s)
  | n :: r => (n, { s with oracle := r })

/-- The commands of an engine that have not started and whose predecessors all have, after their cycles of issue (R187,
12 R312). -/
def State.startable (s : State) (k : Nat) : List CopyCmd :=
  (s.core k).cmds.filter fun c => !c.started && c.issued < s.now && (s.commands c.owner).all fun e => e.id ≥ c.id || e.started

def execCopyCommandStart (eng : Engine) (s : State) : Host.Outcome State Fault Refusal :=
  .next <|
    match eng with
    | .core k =>
      match s.startable k with
      | c :: _ => s.modCmd k c.id fun c => { c with started := true }
      | [] => s
    | .hub h =>
      match SMap.get none (s.hubCopies.map fun p => (p.1, some p.2)) h with
      | some x => { s with hubCopies := SMap.set s.hubCopies h { x with cmd := x.cmd.map fun c => { c with started := true } } }
      | none => s

/-- An entry's copy failed (R205, R208). -/
def State.copyFault (s : State) (h tid kind : Nat) (r : Reason) : State :=
  ({ s with hubCopies := SMap.erase s.hubCopies h }).entryFault tid kind r 0 0 0 0

def HubKind.tid : HubKind → Nat
  | .copy t => t
  | .fill t => t
  | .writeback t => t

/-- Bytes that a hub engine's next step moves: to the end of a granule of its destination. -/
def HubCopy.step (x : HubCopy) : Nat := min (x.len - x.done) (16 - (x.dst.2 + x.done) % 16)

/-- The flits of that step's read and write, where a side has a peer home. -/
def HubCopy.reads (x : HubCopy) (s : State) : List (Nat × PeerAccess) := s.peerLoad x.src.1 (x.src.2 + x.done) x.step
def HubCopy.writes (x : HubCopy) (s : State) : List (Nat × PeerAccess) :=
  s.peerStore x.dst.1 (atAddr (x.dst.2 + x.done) (s.objBytes x.src.1 (x.src.2 + x.done) x.step))
/-- Its links have what the step needs: room, and the acknowledgement of its read. -/
def State.linksReady (s : State) (h : Nat) (x : HubCopy) : Bool :=
  match x.ask with
  | .none => s.linkRoom (if x.reads s = [] then x.writes s else x.reads s)
  | .sent => !s.inFlight (.hub h) && s.linkRoom (x.writes s)
  | .lost => true
/-- Writes of hub engine h to peer homes that no link has acknowledged. -/
def State.hubWriting (s : State) (h : Nat) : Bool := s.remotes.any fun r => r.slot == hubSlot && r.num == h && !r.performed

/-- A step of a plain copy of a hub engine: bit for bit, granule by granule (R208, 12 R313).  Uncorrectable data give a record of
kind 2 whatever the entry is, and a copy whose object is gone ends as complete (log 128, DESIGN CHOICE). -/
def State.plainCopy (s : State) (h : Nat) (x : HubCopy) : State :=
  let set (s : State) (x : HubCopy) : State := { s with hubCopies := SMap.set s.hubCopies h x }
  let n := x.step
  let p := s.hubPort x.src.1 (x.src.2 + x.done)
  let q := s.hubPort x.dst.1 (x.dst.2 + x.done)
  if x.ask = .lost then set s { x with done := x.len }
  else
  match s.reachAll p false false (s.extents x.src.1 (x.src.2 + x.done) n) with
  | (s, .ok) =>
    if x.reads s ≠ [] ∧ x.ask = .none then set (s.sendPeer (.hub h) (x.reads s)) { x with ask := .sent }
    else
    match s.reachAll q true false (s.extents x.dst.1 (x.dst.2 + x.done) n) with
    | (s, .ok) =>
      let (bs, bad) := s.readVia p x.src.1 (x.src.2 + x.done) n
      let cells := atAddr (x.dst.2 + x.done) bs
      let write (s : State) : State :=
        match x.writes s with
        | [] => s.writeVia q x.dst.1 cells
        | fl => s.postPeer hubSlot h ⟨x.kind.tid / 2 ^ 28, BitVec.ofNat 32 x.kind.tid, 0, 0, 0, 0, 0⟩ (8 * q) kPeer x.dst.1 cells fl
      if bad then s.copyFault h x.kind.tid 2 .data
      else set ((write s).charge (x.kind.tid / 2 ^ 28) (n * perByte))
        { x with done := x.done + n, moved := x.moved + n, held := false, ask := .none }
    | (s, .absent _ _) => set s { x with held := true }
    | (s, .gone) => set s { x with done := x.len }
    | (s, .error) => s.copyFault h x.kind.tid 2 .data
  | (s, .absent _ _) => set s { x with held := true }
  | (s, .gone) => set s { x with done := x.len }
  | (s, .error) => s.copyFault h x.kind.tid 2 .data

/-- The next part of a run of core k's engine. -/
def State.corePart (s : State) (k : Nat) (c : CopyCmd) : State :=
  let banks := s.partBanks k c
  match s.performPart (.core k) c false with
  | (s, .performed n fl idx) =>
    let c' := c.moved n fl idx
    let s := ((s.modCmd k c.id fun _ => c').modCore k fun x =>
      { x with engineBanks := x.engineBanks ||| banks, served := some c.owner }).modOwner c.owner fun st =>
        st.withCp fun r => { r with flags := r.flags ||| fl }
    if c'.stop ∧ c'.part = 0 then s.stopCommand c' else s
  | (s, .waits) => s.modCmd k c.id fun c => { c with held := true, stalls := false }
  | (s, .stalls) => s.modCmd k c.id fun c => { c with held := false, stalls := true }
  | (s, .asks) => s.modCmd k c.id fun c => { c with held := false, stalls := true, ask := .sent }
  | (s, r) =>
    if !s.isOldest c then s.modCmd k c.id fun c => { c with failing := true }
    else
      match r with
      | .outside => s.endCommand c .cpgbad c.done
      | .revoked o => s.endCommand c .revoked o
      | .lost a => s.endCommand c .data a
      | _ => s.endCommand c .cpderr c.done

/-- The next part of a copy's run is made (R182-R192, R204-R208). -/
def execCopyRun (eng : Engine) (s : State) : Host.Outcome State Fault Refusal :=
  .next <|
    match eng with
    | .core k =>
      let (i, s) := s.draw
      match (match (s.runnable k)[i]? with | some c => some c | none => (s.runnable k).head?) with
      | none => s
      | some c => s.corePart k c
    | .hub h =>
      match SMap.get none (s.hubCopies.map fun p => (p.1, some p.2)) h with
      | none => s
      | some x =>
        match x.cmd with
        | none => s.plainCopy h x
        | some c =>
          let put (s : State) (c : CopyCmd) (n : Nat) : State :=
            { s with hubCopies := SMap.set s.hubCopies h { x with cmd := some c, moved := x.moved + n } }
          match s.performPart eng c x.clamp with
          | (s, .performed n fl idx) => (put s (c.moved n fl idx) n).charge c.owner.ctx (n * perByte)
          | (s, .waits) => put s { c with held := true, stalls := false } 0
          | (s, .stalls) => put s { c with held := false, stalls := true } 0
          | (s, .asks) => put s { c with held := false, stalls := true, ask := .sent } 0
          | (s, .bad) => s.copyFault h x.kind.tid 3 .data
          | (s, .lost _) => s.copyFault h x.kind.tid 3 .data
          | (s, _) => s.copyFault h x.kind.tid 3 .copycap

/-- A command of core k's engine whose runs and held writes are all made (R190). -/
def State.completable (s : State) (k : Nat) : List CopyCmd :=
  (s.core k).cmds.filter fun c =>
    c.started && c.done == c.runs
      && !(s.remotes.any fun r => r.slot == engineSlot && r.num == c.id && !r.performed)

/-- Completion, in the order of R190: CPI, the byte update, the signal; then the fault of an enabled flag.
A hub engine's command completes with HUB_COPY_COMPLETE. -/
def execCopyCommandComplete (eng : Engine) (s : State) : Host.Outcome State Fault Refusal :=
  .next <|
    match eng with
    | .core k =>
      match s.completable k with
      | [] => s
      | c :: _ =>
        let s := (s.dropCommands fun x => x.id == c.id).setLast c.owner c.runs
        let s := if c.o.cellEn then
            { s with updates := s.updates ++ [⟨some c.o.cell.toNat, k, c.owner,
                .bytes c.bytes, 12, 0, false, 0, c.origin⟩] }
          else s
        let s := (s.signalOf c.owner c.signal c.origin).passAborts c.owner c.aborts
        let te := ((s.strandOf c.owner).map fun st => st.cp.te).getD 0
        let s := if c.flags &&& te ≠ 0 then s.copyLate c .cpfp c.flags.toNat else s
        s.freeDeparted c.owner
    | .hub _ => s

/-- The starvation guard's freeze cycle (R188). -/
def execStarvationGuard (core : Nat) (s : State) : Host.Outcome State Fault Refusal :=
  .next ((s.modCore core fun c => { c with starve := [] }).modStrand core fun st => st.withCp fun c =>
    { c with guardCount := if c.guardCount = 0xFFFF then c.guardCount else c.guardCount + 1 })

end Sys2Proof.Machine
end

