-- ==== Sys2Proof/Machine/Vector.lean ====
section
/-!
DEFINITION. Vector and predicate instructions (09 R209-R241): what each lane receives, the lane-indexed
operands, and the landing of exposed results.
-/

namespace Sys2Proof.Machine

/-! ### Elements (R211) -/

/-- Element width of a type. -/
def typeWidth (t : Nat) : Nat := 32 / typeCount t
/-- A signed integer type. -/
def typeSigned (t : Nat) : Bool := t == 0 || t == 3 || t == 7
/-- The floating format of a type. -/
def typeFloat (t : Nat) : Option FloatFmt := if t = 2 then some f32 else if t = 5 then some f16 else if t = 6 then some bf16 else none
/-- Element e of a lane. -/
def elem (w e : Nat) (x : W32) : Nat := x.toNat / 2 ^ (w * e) % 2 ^ w
/-- An element as an integer of its type. -/
def elemInt (t x : Nat) : Int := if typeSigned t then signedOf x (typeWidth t) else x
/-- The lane whose elements are `f e`, with the flags of all. -/
def lane_of (t : Nat) (f : Nat → Nat × Flags) : W32 × Flags :=
  let w := typeWidth t
  (List.range (typeCount t)).foldl (fun a e =>
    let r := f e
    (a.1 ||| BitVec.ofNat 32 (r.1 % 2 ^ w * 2 ^ (w * e)), a.2 ||| r.2)) (0, fNone)

/-- Integer lanes: the exact result, saturated or wrapped (R225). -/
def intLane (t : Nat) (sat : Bool) (r : Int → Int → Int → Int) (a b c : W32) : W32 × Flags :=
  let w := typeWidth t
  lane_of t fun e =>
    let x := r (elemInt t (elem w e a)) (elemInt t (elem w e b)) (elemInt t (elem w e c))
    (wrapI (if sat then satI (typeSigned t) w x else x) w, fNone)

/-- Integer lanes formed from the bit patterns of two elements of width w. -/
def patLane (t : Nat) (r : Nat → Nat → Nat → Nat) (a b : W32) : W32 × Flags :=
  let w := typeWidth t
  lane_of t fun e => (r w (elem w e a) (elem w e b), fNone)

/-- Floating lanes from the codes of the elements. -/
def codeLane (t : Nat) (r : FloatFmt → Nat → Nat → Nat → Nat × Flags) (a b c : W32) : W32 × Flags :=
  let w := typeWidth t
  let ff := (typeFloat t).getD f32
  lane_of t fun e => r ff (elem w e a) (elem w e b) (elem w e c)

/-- Floating lanes: one exact operation, rounded once (R226). -/
def fpLane (t mode : Nat) (sat : Bool) (r : Val → Val → Val → Val × Flags) (a b c : W32) : W32 × Flags :=
  codeLane t (fun ff x y z =>
    let v := r (ff.val x) (ff.val y) (ff.val z)
    let c := roundF ff mode sat v.1
    (c.1, v.2 ||| c.2)) a b c

/-- x - y, exactly. -/
def subV (mode : Nat) (x y : Val) : Val × Flags := addV mode x y.neg
/-- x * y + z, exactly. -/
def fmaV (mode : Nat) (x y z : Val) : Val × Flags :=
  let p := mulV x y
  let s := addV mode p.1 z
  (s.1, p.2 ||| s.2)
/-- 1 / x. -/
def rcpV (x : Val) : Val × Flags := divV (.fin false 1 0) x

/-- A code is a NaN. -/
def isNaN (ff : FloatFmt) (x : Nat) : Bool := match ff.val x with | .nan _ => true | _ => false
/-- A key that orders the codes of a format, -0 below +0, by totalOrder (R228, R239). -/
def orderKey (ff : FloatFmt) (x : Nat) : Int :=
  let m : Nat := x % 2 ^ (ff.eb + ff.fb)
  if x / 2 ^ (ff.eb + ff.fb) % 2 = 1 then -(m : Int) - 1 else m
/-- VFMIN, or VFMAX with `top` (R228). -/
def minmaxF (top : Bool) (ff : FloatFmt) (x y : Nat) : Nat × Flags :=
  let fl := (ff.val x).sigFlag ||| (ff.val y).sigFlag
  if isNaN ff x then (if isNaN ff y then ff.nanCode else y, fl)
  else if isNaN ff y then (x, fl)
  else (if decide (orderKey ff x < orderKey ff y) != top then x else y, fl)
/-- VFABS and VFNEG (R226). -/
def signF (neg : Bool) (ff : FloatFmt) (x : Nat) : Nat × Flags :=
  let sb := 2 ^ (ff.eb + ff.fb)
  if isNaN ff x then (ff.nanCode, (ff.val x).sigFlag)
  else (if neg then (x + sb) % (2 * sb) else x % sb, fNone)

/-- The order of the VCMP conditions 0 to 5. -/
def ordered (c : Nat) (x y : Int) : Bool :=
  match c with
  | 0 => x == y
  | 1 => x != y
  | 2 => x < y
  | 3 => x ≤ y
  | 4 => y < x
  | _ => y ≤ x
/-- VCMP (R229). -/
def cmpInt (t c : Nat) (x y : W32) : Bool :=
  match c with
  | 6 => x &&& y != 0
  | 7 => x &&& y == 0
  | _ => ordered c (elemInt t x.toNat) (elemInt t y.toNat)
/-- VFCMP with its flags (R229). -/
def cmpF (c : Nat) (x y : W32) : Bool × Flags :=
  let n := isNaN f32 x.toNat || isNaN f32 y.toNat
  let key (v : W32) : Int := if v.toNat % 2 ^ 31 = 0 then 0 else orderKey f32 v.toNat
  let fl := if n && 2 ≤ c && c ≤ 5 then fIV else (f32.val x.toNat).sigFlag ||| (f32.val y.toNat).sigFlag
  match c with
  | 6 => (n, fl)
  | 7 => (!n, fl)
  | _ => (if n then c == 1 else ordered c (key x) (key y), fl)

/-! ### Lane-indexed operands (R216) -/

/-- x(l) of R216. -/
def Strand.laneIx (st : Strand) (l : Nat) : Nat := (lane (st.v st.vec.vixr.toNat) l).toNat % 512
/-- The register lane l reads as operand a. -/
def Strand.aReg (st : Strand) (o : VOp) (l : Nat) : Nat := if o.lia then o.a.toNat + st.laneIx l else o.a.toNat
/-- The register lane l writes. -/
def Strand.dReg (st : Strand) (o : VOp) (l : Nat) : Nat := if o.lid then o.d.toNat + st.laneIx l else o.d.toNat
/-- Lane l of operand a. -/
def Strand.aLane (st : Strand) (o : VOp) (l : Nat) : W32 := lane (st.v (st.aReg o l)) l
/-- Lane l names a register beyond v383. -/
def Strand.suppressed (st : Strand) (o : VOp) (l : Nat) : Bool :=
  (o.lia && 383 < st.aReg o l) || (o.lid && 383 < st.dReg o l)
/-- A lane-indexed instruction needs an existing index register. -/
def Strand.checkIndexed (st : Strand) (o : VOp) : Trap :=
  if (o.lia || o.lid) && 384 ≤ st.vec.vixr.toNat then some (.illopnd, 0) else none

/-- Queue the results of the lanes of `act` in their registers; the flags land with the first. -/
def Strand.landLanes (st : Strand) (o : VOp) (act : PReg) (lat : Nat) (r : Nat → W32 × Flags) : Strand :=
  let live := ofBits fun l => act.getLsbD l && !st.suppressed o l
  let bad := (lanesOf act).any fun l => st.suppressed o l
  let fl := vbits (flagsOf (fun l => (r l).2) (lanesOf live)) ||| (if bad then vBADIX else 0)
  let v := ofLanes fun l => if live.getLsbD l then (r l).1 else 0
  if !o.lid then
    if live = 0 ∧ fl = 0 then st else st.expose (.v o.d.toNat) live v lat fl 0
  else
    match ((lanesOf live).map (st.dReg o)).eraseDups with
    | [] => if fl = 0 then st else st.expose (.v o.d.toNat) 0 0 lat fl 0
    | d :: ds =>
      let part (d : Nat) : PReg := ofBits fun l => live.getLsbD l && st.dReg o l == d
      ds.foldl (fun st d => st.expose (.v d) (part d) v lat 0 0) (st.expose (.v d) (part d) v lat fl 0)

/-- A lane-by-lane instruction under its guard. -/
def laneOp (s : State) (o : VOp) (lat : Nat) (r : Strand → Nat → W32 × Flags) : Host.Outcome State Fault Refusal :=
  counted s 1 lat (fun k => (s.strand k).checkIndexed o) fun k s =>
    s.modStrand k fun st => st.landLanes o (st.active o.g) lat (r st)

/-- Lane l of b and of c. -/
def Strand.bLane (st : Strand) (o : VOp) (l : Nat) : W32 := lane (st.v o.b.toNat) l
def Strand.cLane (st : Strand) (o : VOp) (l : Nat) : W32 := lane (st.v o.c.toNat) l

/-- A lane-by-lane function of a, b and c. -/
def abcOp (s : State) (o : VOp) (lat : Nat) (f : W32 → W32 → W32 → W32 × Flags) : Host.Outcome State Fault Refusal :=
  laneOp s o lat fun st l => f (st.aLane o l) (st.bLane o l) (st.cLane o l)

/-! ### Residue checks (R222) -/

/-- A value with bits flipped, as the unit forms it under an upset. -/
def flipI (v : Int) (f : Nat) : Int := v - v % 2 ^ 64 + Nat.xor (v % 2 ^ 64).toNat f
/-- The residues modulo 255 of the exact value and of the one formed differ. -/
def residueFails (v : Int) (f : Nat) : Bool := flipI v f % 255 != v % 255

/-- Upsets of the slot that issues on core k. -/
def State.upsetsOf (s : State) (k : Nat) : List Upset :=
  s.upsets.filter fun u => u.cycle == s.now && u.core == k && u.slot == (s.strand k).slot
/-- The bits that flip in an element of a lane, in a tree node or in a step. -/
def flipsAt (us : List Upset) (l e : Nat) : Nat :=
  us.foldl (fun a u => if u.lane = l ∧ u.part = e then Nat.xor a u.flip else a) 0

/-- The elements of a lane with what flips, and how many fail their check. -/
def upsetLane (t : Nat) (f : Nat → Nat) (val : Nat → Int) (put : Nat → Int → Nat × Flags) : (W32 × Flags) × Nat :=
  (lane_of t fun e => put e (flipI (val e) (f e)),
   ((List.range (typeCount t)).filter fun e => residueFails (val e) (f e)).length)

/-- Integer lanes under upsets of the value before it wraps or saturates; `post` follows the check. -/
def intLaneUpset (t : Nat) (sat : Bool) (r : Int → Int → Int → Int) (post : Int → Int) (f : Nat → Nat) (a b c : W32) :
    (W32 × Flags) × Nat :=
  let w := typeWidth t
  upsetLane t f (fun e => r (elemInt t (elem w e a)) (elemInt t (elem w e b)) (elemInt t (elem w e c)))
    fun _ x => (wrapI (if sat then satI (typeSigned t) w (post x) else post x) w, fNone)

/-- The integer product of two significands; 0 where a factor has none. -/
def significands (x y : Val) : Nat :=
  match (mulV x y).1 with
  | .fin _ m _ => m
  | _ => 0
/-- x * y with another product of significands. -/
def mulAs (m : Nat) (x y : Val) : Val × Flags :=
  match mulV x y with
  | (.fin n _ e, fl) => (.fin n m e, fl)
  | r => r
/-- x * y + z with another product of significands. -/
def fmaAs (mode m : Nat) (x y z : Val) : Val × Flags :=
  let p := mulAs m x y
  let s := addV mode p.1 z
  (s.1, p.2 ||| s.2)

/-- Floating products under upsets of the product of significands, and the sum with z where `add`. -/
def fpLaneUpset (t mode : Nat) (sat add : Bool) (f : Nat → Nat) (a b c : W32) : (W32 × Flags) × Nat :=
  let w := typeWidth t
  let ff := (typeFloat t).getD f32
  let x (e : Nat) : Val := ff.val (elem w e a)
  let y (e : Nat) : Val := ff.val (elem w e b)
  upsetLane t f (fun e => significands (x e) (y e)) fun e m =>
    let v := if add then fmaAs mode m.toNat (x e) (y e) (ff.val (elem w e c)) else mulAs m.toNat (x e) (y e)
    let r := roundF ff mode sat v.1
    (r.1, v.2 ||| r.2)

/-- Failed checks of class S or D go with the first result queued by the present slot; class N makes none. -/
def Strand.noteResid (st : Strand) (n : Nat) : Strand :=
  if n = 0 ∨ st.id.cls = 0 then st
  else
    match st.exposed.find? fun x => x.seq == st.fl.seq && x.slot == st.slot with
    | none => st
    | some x => { st with exposed := st.exposed.replace x { x with flags := x.flags ||| vRESID, resn := n } }

/-- A lane-by-lane operation whose unit suffers upsets. -/
def upsetOp (s : State) (o : VOp) (lat : Nat) (r : Strand → Nat → (W32 × Flags) × Nat) : Host.Outcome State Fault Refusal :=
  counted s 1 lat (fun k => (s.strand k).checkIndexed o) fun k s =>
    s.modStrand k fun st =>
      let act := st.active o.g
      (st.landLanes o act lat fun l => (r st l).1).noteResid
        (((lanesOf act).filter fun l => !st.suppressed o l).map fun l => (r st l).2).sum

/-- A residue-checked operation: as it stands where no upset meets its slot. -/
def checkedOp (s : State) (calm : Host.Outcome State Fault Refusal)
    (upset : List Upset → Host.Outcome State Fault Refusal) : Host.Outcome State Fault Refusal :=
  match s.turn with
  | .core k _ => if s.upsetsOf k = [] then calm else upset (s.upsetsOf k)
  | _ => calm

/-- Integer form of R225. -/
def intOp (s : State) (o : VOp) (lat : Nat) (sat : Bool) (r : Int → Int → Int → Int) : Host.Outcome State Fault Refusal :=
  abcOp s o lat (intLane o.typ.toNat sat r)
/-- A checked integer form: r, then `post`, after which the result wraps or saturates. -/
def checkedInt (s : State) (o : VOp) (lat : Nat) (sat : Bool) (r : Int → Int → Int → Int) (post : Int → Int) :
    Host.Outcome State Fault Refusal :=
  checkedOp s (intOp s o lat sat fun x y z => post (r x y z)) fun us =>
    upsetOp s o lat fun st l =>
      intLaneUpset o.typ.toNat sat r post (flipsAt us l) (st.aLane o l) (st.bLane o l) (st.cLane o l)
/-- A form over bit patterns. -/
def patOp (s : State) (o : VOp) (lat : Nat) (r : Nat → Nat → Nat → Nat) : Host.Outcome State Fault Refusal :=
  abcOp s o lat fun a b _ => patLane o.typ.toNat r a b
/-- A bitwise form. -/
def bitOp (s : State) (o : VOp) (f : W32 → W32 → W32) : Host.Outcome State Fault Refusal :=
  abcOp s o 2 fun a b _ => (f a b, fNone)
/-- Floating form of R226. -/
def fpOp (s : State) (o : VOp) (lat : Nat) (r : Val → Val → Val → Val × Flags) : Host.Outcome State Fault Refusal :=
  abcOp s o lat (fpLane o.typ.toNat o.rnd.toNat o.sat r)
/-- Floating form over codes. -/
def codeOp (s : State) (o : VOp) (r : FloatFmt → Nat → Nat → Nat → Nat × Flags) : Host.Outcome State Fault Refusal :=
  abcOp s o 4 (codeLane o.typ.toNat r)

/-! ### Arithmetic (R225-R228) -/

/-- Integer arithmetic (R225). -/
def execVadd (o : VOp) (s : State) : Host.Outcome State Fault Refusal :=
  checkedInt s o 2 false (fun x y _ => x + y) id
def execVsub (o : VOp) (s : State) : Host.Outcome State Fault Refusal :=
  checkedInt s o 2 false (fun x y _ => x - y) id
def execVadds (o : VOp) (s : State) : Host.Outcome State Fault Refusal :=
  checkedInt s o 2 true (fun x y _ => x + y) id
def execVsubs (o : VOp) (s : State) : Host.Outcome State Fault Refusal :=
  checkedInt s o 2 true (fun x y _ => x - y) id
def execVmul (o : VOp) (s : State) : Host.Outcome State Fault Refusal :=
  checkedInt s o 3 o.sat (fun x y _ => x * y) id
def execVmulh (o : VOp) (s : State) : Host.Outcome State Fault Refusal :=
  checkedInt s o 3 false (fun x y _ => x * y) fun p => p / 2 ^ typeWidth o.typ.toNat
def execVmac (o : VOp) (s : State) : Host.Outcome State Fault Refusal :=
  checkedInt s o 3 o.sat (fun x y z => x * y + z) id
def execVand (o : VOp) (s : State) : Host.Outcome State Fault Refusal :=
  bitOp s o fun a b => a &&& b
def execVor (o : VOp) (s : State) : Host.Outcome State Fault Refusal :=
  bitOp s o fun a b => a ||| b
def execVxor (o : VOp) (s : State) : Host.Outcome State Fault Refusal :=
  bitOp s o fun a b => a ^^^ b
def execVandn (o : VOp) (s : State) : Host.Outcome State Fault Refusal :=
  bitOp s o fun a b => a &&& ~~~b
/-- The shift count is read unsigned; a count of w and every larger one give the same result (R225). -/
def execVshl (o : VOp) (s : State) : Host.Outcome State Fault Refusal :=
  intOp s o 2 o.sat fun x y _ =>
    x * 2 ^ min (typeWidth o.typ.toNat) (y % 2 ^ typeWidth o.typ.toNat).toNat
def execVshr (o : VOp) (s : State) : Host.Outcome State Fault Refusal :=
  patOp s o 2 fun w x y => x / 2 ^ min w y
def execVsar (o : VOp) (s : State) : Host.Outcome State Fault Refusal :=
  patOp s o 2 fun w x y => wrapI (signedOf x w / 2 ^ min w y) w
def execVmin (o : VOp) (s : State) : Host.Outcome State Fault Refusal :=
  intOp s o 2 false fun x y _ => min x y
def execVmax (o : VOp) (s : State) : Host.Outcome State Fault Refusal :=
  intOp s o 2 false fun x y _ => max x y
def execVabs (o : VOp) (s : State) : Host.Outcome State Fault Refusal :=
  intOp s o 2 o.sat fun x _ _ => x.natAbs
def execVneg (o : VOp) (s : State) : Host.Outcome State Fault Refusal :=
  intOp s o 2 o.sat fun x _ _ => -x
def execVclz (o : VOp) (s : State) : Host.Outcome State Fault Refusal :=
  patOp s o 2 fun w x _ => leadZeros w x
def execVpopc (o : VOp) (s : State) : Host.Outcome State Fault Refusal :=
  patOp s o 2 fun w x _ => onesBelow x w
def execVaddi (o : VOp) (s : State) : Host.Outcome State Fault Refusal :=
  checkedInt s o 2 false (fun x _ _ => x + o.c.toInt) id
/-- Floating point (R226, R227). -/
def execVfadd (o : VOp) (s : State) : Host.Outcome State Fault Refusal :=
  fpOp s o 4 fun x y _ => addV o.rnd.toNat x y
def execVfsub (o : VOp) (s : State) : Host.Outcome State Fault Refusal :=
  fpOp s o 4 fun x y _ => subV o.rnd.toNat x y
def execVfmul (o : VOp) (s : State) : Host.Outcome State Fault Refusal :=
  checkedOp s (fpOp s o 4 fun x y _ => mulV x y) fun us =>
    upsetOp s o 4 fun st l =>
      fpLaneUpset o.typ.toNat o.rnd.toNat o.sat false (flipsAt us l) (st.aLane o l) (st.bLane o l) 0
def execVfma (o : VOp) (s : State) : Host.Outcome State Fault Refusal :=
  checkedOp s (fpOp s o 4 fun x y z => fmaV o.rnd.toNat x y z) fun us =>
    upsetOp s o 4 fun st l =>
      fpLaneUpset o.typ.toNat o.rnd.toNat o.sat true (flipsAt us l) (st.aLane o l) (st.bLane o l) (st.cLane o l)
def execVfmin (o : VOp) (s : State) : Host.Outcome State Fault Refusal :=
  codeOp s o fun ff x y _ => minmaxF false ff x y
def execVfmax (o : VOp) (s : State) : Host.Outcome State Fault Refusal :=
  codeOp s o fun ff x y _ => minmaxF true ff x y
def execVfabs (o : VOp) (s : State) : Host.Outcome State Fault Refusal :=
  codeOp s o fun ff x _ _ => signF false ff x
def execVfneg (o : VOp) (s : State) : Host.Outcome State Fault Refusal :=
  codeOp s o fun ff x _ _ => signF true ff x
def execVrcp (o : VOp) (s : State) : Host.Outcome State Fault Refusal :=
  fpOp s o 6 fun x _ _ => rcpV x
def execVrsq (o : VOp) (s : State) : Host.Outcome State Fault Refusal :=
  fpOp s o 6 fun x _ _ => rsqV x
def execVexp2 (o : VOp) (s : State) : Host.Outcome State Fault Refusal :=
  fpOp s o 6 fun x _ _ => exp2V x
def execVlog2 (o : VOp) (s : State) : Host.Outcome State Fault Refusal :=
  fpOp s o 6 fun x _ _ => log2V x
def execVfdiv (o : VOp) (s : State) : Host.Outcome State Fault Refusal :=
  fpOp s o 12 fun x y _ => divV x y
/-- min(max(x, y), k) (R228). -/
def execVclamp (o : VOp) (s : State) : Host.Outcome State Fault Refusal :=
  if (typeFloat o.typ.toNat).isSome then
    codeOp s o fun ff x y z =>
      let m := minmaxF true ff x y
      let r := minmaxF false ff m.1 z
      (r.1, m.2 ||| r.2)
  else intOp s o 2 false fun x y z => min (max x y) z

/-! ### Compares and moves (R229, R230) -/

/-- A write of predicate p, discarded for p0. -/
def Strand.landPred (st : Strand) (p : Nat) (mask v : PReg) (lat : Nat) (fl : BitVec 8) : Strand :=
  if p = 0 ∧ fl = 0 then st else if mask = 0 ∧ fl = 0 then st
  else st.expose (.p p) mask (v.setWidth 4096) lat fl 0

/-- The two predicates of a compare. -/
def compareOp (s : State) (o : VOp) (f : W32 → W32 → Bool × Flags) : Host.Outcome State Fault Refusal :=
  counted s 2 2 (fun k => (s.strand k).checkIndexed o) fun k s =>
    s.modStrand k fun st =>
      let act := st.active o.g
      let live := ofBits fun l => act.getLsbD l && !st.suppressed o l
      let bad := (lanesOf act).any fun l => st.suppressed o l
      let r (l : Nat) : Bool × Flags := f (st.aLane o l) (st.bLane o l)
      let fl := vbits (flagsOf (fun l => (r l).2) (lanesOf live)) ||| (if bad then vBADIX else 0)
      let clr := o.d.getLsbD 8
      let mask := if clr then ofBits fun l => !st.suppressed o l else live
      let t := ofBits fun l => live.getLsbD l && (r l).1
      let u := ofBits fun l => live.getLsbD l && !(r l).1
      (st.landPred (o.d.toNat % 16) mask t 2 fl).landPred (o.d.toNat / 16 % 16) mask u 2 0

def execVcmp (o : VOp) (s : State) : Host.Outcome State Fault Refusal :=
  compareOp s o fun x y => (cmpInt o.typ.toNat o.fn.toNat x y, fNone)
def execVfcmp (o : VOp) (s : State) : Host.Outcome State Fault Refusal := compareOp s o (cmpF o.fn.toNat)

/-- VSEL writes every lane: its guard selects. -/
def execVsel (o : VOp) (s : State) : Host.Outcome State Fault Refusal :=
  counted s 1 2 (fun k => (s.strand k).checkIndexed o) fun k s =>
    s.modStrand k fun st => st.landLanes o (BitVec.allOnes 128) 2 fun l =>
      (if (st.active o.g).getLsbD l then st.aLane o l else st.bLane o l, fNone)
def execVmov (o : VOp) (s : State) : Host.Outcome State Fault Refusal := abcOp s o 2 fun a _ _ => (a, fNone)

/-- The lane that VBCAST repeats. -/
def bcast (t : Nat) (x : W64) : W32 :=
  match typeCount t with
  | 1 => x.setWidth 32
  | 2 => BitVec.ofNat 32 (x.toNat % 2 ^ 16 * 0x10001)
  | _ => BitVec.ofNat 32 (x.toNat % 2 ^ 8 * 0x1010101)
def execVbcast (o : VOp) (s : State) : Host.Outcome State Fault Refusal :=
  laneOp s o 2 fun st _ => (bcast o.typ.toNat (st.s o.a.toNat), fNone)
def execVget (o : VOp) (s : State) : Host.Outcome State Fault Refusal :=
  counted s 1 3 noCheck fun k s =>
    s.modStrand k fun st =>
      let x := lane (st.v o.a.toNat) o.b.toNat
      if (st.active o.g).getLsbD o.b.toNat then
        st.pushS o.d.toNat (if o.typ = 0 then x.signExtend 64 else x.setWidth 64) 3 false
      else st
def execVput (o : VOp) (s : State) : Host.Outcome State Fault Refusal :=
  counted s 1 2 noCheck fun k s =>
    s.modStrand k fun st =>
      st.landLanes o (ofBits fun l => l == o.b.toNat && (st.active o.g).getLsbD l) 2 fun _ =>
        ((st.s o.a.toNat).setWidth 32, fNone)
def execViota (o : VOp) (s : State) : Host.Outcome State Fault Refusal :=
  laneOp s o 2 fun _ l => (BitVec.ofNat 32 l, fNone)

/-! ### Conversion and narrow formats (R231-R235) -/

/-- The value of an element of a type. -/
def typeVal (t x : Nat) : Val :=
  match typeFloat t with
  | some ff => ff.val x
  | none => Val.ofInt (elemInt t x)

/-- One element of VCVT. -/
def cvt (ts td mode : Nat) (sat : Bool) (x : Nat) : Nat × Flags :=
  let v := typeVal ts x
  match typeFloat td with
  | some ff =>
    let r := roundF ff mode sat v
    (r.1, r.2 ||| v.sigFlag)
  | none => convInt (typeSigned td) (typeWidth td) mode sat (typeFloat ts).isSome v

def execVcvt (o : VOp) (s : State) : Host.Outcome State Fault Refusal :=
  abcOp s o 3 fun a b _ =>
    let ts := o.fn.toNat % 16
    let td := o.typ.toNat
    let ns := typeCount ts
    let nd := typeCount td
    let w := typeWidth ts
    lane_of td fun e =>
      cvt ts td o.rnd.toNat o.sat
        (if nd = ns then elem w e a
         else if nd = 2 * ns then (if e < ns then elem w e a else elem w (e - ns) b)
         else elem w (o.fn.toNat / 16 * nd + e) a)

/-- Element j of w bits of a register's byte stream (R232). -/
def streamElem (v : VReg) (w j : Nat) : Nat := v.toNat / 2 ^ (w * j) % 2 ^ w

/-- Unpack chunk k of elements of w bits as integers. -/
def unpackOp (s : State) (o : VOp) (lat w k : Nat) (val : Nat → Int) : Host.Outcome State Fault Refusal :=
  laneOp s o lat fun st l => (BitVec.ofInt 32 (val (streamElem (st.v o.a.toNat) w (128 * k + l))), fNone)

def execVunp4 (o : VOp) (s : State) : Host.Outcome State Fault Refusal :=
  unpackOp s o 3 4 (o.fn.toNat % 8) (if o.fn.getLsbD 3 then p4Val else i4Val)
def execVunp6 (o : VOp) (s : State) : Host.Outcome State Fault Refusal := unpackOp s o 3 6 o.fn.toNat dp6Val
def execVdpx (o : VOp) (s : State) : Host.Outcome State Fault Refusal := unpackOp s o 2 8 o.fn.toNat dp8Val

/-- Pack chunk k: the whole of d is written at the landing cycle (R233). -/
def packOp (s : State) (o : VOp) (w k fmt : Nat) (sat : Bool) : Host.Outcome State Fault Refusal :=
  counted s 1 3 noCheck fun k' s =>
    s.modStrand k' fun st =>
      let act := st.active o.g
      let code (l : Nat) : Nat × Flags := conv (typeVal o.typ.toNat (lane (st.v o.a.toNat) l).toNat) fmt 0 o.rnd.toNat sat (o.typ == 2)
      let chunk := 2 ^ (w * 128 * k)
      let old := (st.v o.d.toNat).toNat
      let part := old / chunk % 2 ^ (w * 128)
      let new := putElems part w (fun l => (code l).1) (lanesOf act)
      st.expose (.v o.d.toNat) (BitVec.allOnes 128) (BitVec.ofNat 4096 (old - part * chunk + new * chunk)) 3
        (vbits (flagsOf (fun l => (code l).2) (lanesOf act))) 0

def execVpack4 (o : VOp) (s : State) : Host.Outcome State Fault Refusal :=
  packOp s o 4 (o.fn.toNat % 8) (if o.fn.getLsbD 3 then 0x0A else 0x09) o.sat
def execVpack6 (o : VOp) (s : State) : Host.Outcome State Fault Refusal := packOp s o 6 o.fn.toNat 0x0B false
def execVdpq (o : VOp) (s : State) : Host.Outcome State Fault Refusal := packOp s o 8 o.fn.toNat 0x0C false

/-- VUNPT5: weight i of each lane's byte to register d + i (R234). -/
def execVunpt5 (o : VOp) (s : State) : Host.Outcome State Fault Refusal :=
  counted s 5 3 noCheck fun k s =>
    s.modStrand k fun st =>
      let act := st.active o.g
      let dec (l : Nat) : List Int × Bool := tritDecode ((lane (st.v o.a.toNat) l).toNat % 256)
      let fl := if (lanesOf act).any fun l => (dec l).2 then vBADPK else 0
      (List.range 5).foldl (fun st i =>
        if act = 0 then st
        else st.expose (.v (o.d.toNat + i)) act (ofLanes fun l => BitVec.ofInt 32 ((dec l).1.getD i 0)) 3
          (if i = 0 then fl else 0) 0) st

def execVtacc (o : VOp) (s : State) : Host.Outcome State Fault Refusal :=
  let r (t x k : Int) : Int := k + if 0 < t then x else if t < 0 then -x else 0
  checkedOp s (abcOp s o 2 (intLane 0 o.sat r)) fun us =>
    upsetOp s o 2 fun st l => intLaneUpset 0 o.sat r id (flipsAt us l) (st.aLane o l) (st.bLane o l) (st.cLane o l)

/-! ### Permutes (R236) -/

def execVperm (o : VOp) (s : State) : Host.Outcome State Fault Refusal :=
  laneOp s o 4 fun st l =>
    let i := (st.bLane o l).toNat % 256
    (if i < 128 then lane (st.v o.a.toNat) i else lane (st.v o.c.toNat) (i - 128), fNone)
def execVrot (o : VOp) (s : State) : Host.Outcome State Fault Refusal :=
  laneOp s o 2 fun st l => (lane (st.v o.a.toNat) ((l + o.b.toNat) % 128), fNone)
def execVzip (o : VOp) (s : State) : Host.Outcome State Fault Refusal :=
  laneOp s o 2 fun st l =>
    (lane (st.v (if l % 2 = 0 then o.a.toNat else o.b.toNat)) (64 * o.fn.toNat + l / 2), fNone)
def execVunzip (o : VOp) (s : State) : Host.Outcome State Fault Refusal :=
  laneOp s o 2 fun st l =>
    (if l < 64 then lane (st.v o.a.toNat) (2 * l + o.fn.toNat) else lane (st.v o.b.toNat) (2 * (l - 64) + o.fn.toNat), fNone)

/-! ### Reductions and scans (R237, R239-R241, 04 R104) -/

/-- One step of an add, max or min over a 32-bit type: 0 add, 1 max, 2 min. -/
def redStep (op t : Nat) (sat : Bool) (x y : W32 × Flags) : W32 × Flags :=
  let fl := x.2 ||| y.2
  match op, typeFloat t with
  | 0, some _ =>
    let v := addV 0 (f32.val x.1.toNat) (f32.val y.1.toNat)
    let r := roundF f32 0 false v.1
    (BitVec.ofNat 32 r.1, fl ||| v.2 ||| r.2)
  | 0, none => ((intLane t sat (fun a b _ => a + b) x.1 y.1 0).1, fl)
  | n, some _ =>
    let r := minmaxF (n == 1) f32 x.1.toNat y.1.toNat
    (BitVec.ofNat 32 r.1, fl ||| r.2)
  | n, none => ((intLane t false (fun a b _ => if n = 1 then max a b else min a b) x.1 y.1 0).1, fl)

/-- The identity of a reduction (R237). -/
def redIdent (op t : Nat) : W32 :=
  match op, t with
  | 0, 2 => 0x80000000
  | 0, _ => 0
  | 1, 0 => 0x80000000
  | 1, 1 => 0
  | 1, _ => 0xFF800000
  | _, 0 => 0x7FFFFFFF
  | _, 1 => 0xFFFFFFFF
  | _, _ => 0x7F800000

/-- A reduction: lane 0, or every lane with `.all`, whatever the guard. -/
def reduceOp (s : State) (o : VOp) (op : Nat) : Host.Outcome State Fault Refusal :=
  counted s 1 7 noCheck fun k s =>
    s.modStrand k fun st =>
      let act := st.active o.g
      let t := o.typ.toNat
      let xs := (List.range 128).map fun l =>
        ((if act.getLsbD l then lane (st.v o.a.toNat) l else redIdent op t), fNone)
      let r := (tree (redStep op t o.sat) 7 xs).headD (0, fNone)
      st.expose (.v o.d.toNat) (if o.fn = 0 then 1 else BitVec.allOnes 128) (ofLanes fun _ => r.1) 7 (vbits r.2) 0

/-- A tree of 32-bit sums whose nodes, numbered from `base` level by level, suffer upsets; and the failed checks. -/
def upsetTree (t : Nat) (sat : Bool) (us : List Upset) : Nat → Nat → List W32 → Nat → List W32 × Nat
  | 0, _, l, n => (l, n)
  | d + 1, base, l, n =>
    let pairs := (List.range (l.length / 2)).map fun i => (i, l.getD (2 * i) 0, l.getD (2 * i + 1) 0)
    let rs := pairs.map fun p => intLaneUpset t sat (fun x y _ => x + y) id (flipsAt us (base + p.1)) p.2.1 p.2.2 0
    upsetTree t sat us d (base + pairs.length) (rs.map fun r => r.1.1) (n + (rs.map (·.2)).sum)

def execVredadd (o : VOp) (s : State) : Host.Outcome State Fault Refusal :=
  checkedOp s (reduceOp s o 0) fun us =>
    counted s 1 7 noCheck fun k s =>
      s.modStrand k fun st =>
        let act := st.active o.g
        let r := upsetTree o.typ.toNat o.sat us 7 0
          ((List.range 128).map fun l => if act.getLsbD l then lane (st.v o.a.toNat) l else 0) 0
        (st.expose (.v o.d.toNat) (if o.fn = 0 then 1 else BitVec.allOnes 128) (ofLanes fun _ => r.1.headD 0) 7 0 0).noteResid r.2
def execVredfadd (o : VOp) (s : State) : Host.Outcome State Fault Refusal := reduceOp s { o with sat := false } 0
def execVredmax (o : VOp) (s : State) : Host.Outcome State Fault Refusal := reduceOp s o 1
def execVredmin (o : VOp) (s : State) : Host.Outcome State Fault Refusal := reduceOp s o 2

/-- The key of a lane for VSORT. -/
def sortKey (t : Nat) (x : W32) : Int := if t = 2 then orderKey f32 x.toNat else elemInt t x.toNat

/-- Insert a lane before the lanes that come strictly after it. -/
def insertLane (before : Nat → Nat → Bool) (l : Nat) : List Nat → List Nat
  | [] => [l]
  | m :: r => if before m l then m :: insertLane before l r else l :: m :: r

/-- Lanes in stable order. -/
def sortLanes (before : Nat → Nat → Bool) : List Nat → List Nat
  | [] => []
  | l :: r => insertLane before l (sortLanes before r)

/-- Position x goes before y in the order of VSORT: active lanes by key, then lane (R239). -/
def LongOp.before (o : LongOp) (x y : Nat) : Bool :=
  let l := o.order.getD x 0
  let m := o.order.getD y 0
  let a := sortKey o.typ (lane o.img0 x)
  let b := sortKey o.typ (lane o.img0 y)
  match o.act.getLsbD l, o.act.getLsbD m with
  | true, false => true
  | false, true => false
  | false, false => decide (l < m)
  | true, true => (if o.rev then decide (b < a) else decide (a < b)) || (a == b && decide (l < m))

/-- The images with the positions of a list, in its order. -/
def LongOp.moved (o : LongOp) (ps : List Nat) : LongOp :=
  { o with img0 := ofLanes fun j => lane o.img0 (ps.getD j 0)
           img1 := ofLanes fun j => lane o.img1 (ps.getD j 0)
           order := ps.map fun p => o.order.getD p 0 }

/-- Block size and distance of bitonic stage n of 28: distances halve within a block, and blocks double
(log 20, DESIGN CHOICE). -/
def bitonic (n : Nat) : Nat × Nat :=
  ((List.range 7).flatMap fun p => (List.range (p + 1)).map fun j => (2 ^ (p + 1), 2 ^ (p - j))).getD n (128, 1)

/-- One bitonic stage of VSORT. -/
def LongOp.stage (o : LongOp) : LongOp :=
  let (b, d) := bitonic o.done
  o.moved <| (List.range 128).map fun i =>
    let j := Nat.xor i d
    let low := decide (i < j) == (i / b % 2 == 0)
    if o.before i j == low then i else j

/-- The lanes of a serial scan, from the first of `ls`. -/
def scanFrom (step : W32 × Flags → W32 × Flags → W32 × Flags) (act : PReg) (a : VReg) (excl : Bool) :
    List Nat → W32 × Flags → List W32 × Flags
  | [], t => ([], t.2)
  | l :: r, t =>
    let t' := if act.getLsbD l then step t (lane a l, fNone) else t
    let rest := scanFrom step act a excl r t'
    ((if excl then t.1 else t'.1) :: rest.1, rest.2)

/-- One lane of VSCAN, under the upsets of an i32 sum. -/
def LongOp.scanLane (o : LongOp) (l : Nat) : LongOp :=
  if !o.act.getLsbD l then o
  else
    let us := o.flips.filter (·.1 == l)
    let t : (W32 × Flags) × Nat :=
      if us = [] then (redStep o.op o.typ o.sat (o.acc, o.flags) (lane o.img0 l, fNone), 0)
      else
        let r := intLaneUpset o.typ o.sat (fun x y _ => x + y) id (fun _ => us.foldl (fun a u => Nat.xor a u.2) 0) o.acc
          (lane o.img0 l) 0
        ((r.1.1, o.flags), r.2)
    { o with acc := t.1.1, flags := t.1.2, resn := o.resn + t.2,
             img1 := mergeLanes ((1 : PReg) <<< l) o.img1 (ofLanes fun _ => if o.rev then o.acc else t.1.1) }

/-- The lanes of VSCAN from n on. -/
def LongOp.scan (o : LongOp) (n count : Nat) : LongOp := ((List.range' n count).foldl LongOp.scanLane) o

/-- Steps of a long operation: 28 stages or 4 blocks. -/
def LongOp.steps (o : LongOp) : Nat := if o.sort then 28 else 4

/-- The next step. -/
def LongOp.step (o : LongOp) : LongOp :=
  { (if o.sort then o.stage else o.scan (32 * o.done) 32) with done := o.done + 1 }

/-- The order of the positions when the steps that are left have been made: it does not depend on the network (R239). -/
def LongOp.final (o : LongOp) : List Nat :=
  sortLanes (fun m l => o.before m l) (List.range 128)

/-- What lands at the end: VSORT writes d and d + 1 whole, VSCAN the active lanes of d; failed checks count in class S
and D. -/
def LongOp.results (o : LongOp) (checked : Bool) : List Exposed :=
  let e (d : Nat) (mask : PReg) (v : VReg) (flags : BitVec 8) (n : Nat) : Exposed :=
    ⟨.v d, mask, v, o.left, o.seq, o.slot, o.addr, flags, 0, n⟩
  if o.sort then
    let r := o.moved o.final
    [e o.dst (BitVec.allOnes 128) r.img0 0 0, e (o.dst + 1) (BitVec.allOnes 128) r.img1 0 0]
  else
    let r := o.scan (32 * o.done) (128 - 32 * o.done)
    let n := if checked then r.resn else 0
    [e o.dst o.act r.img1 (vbits r.flags ||| (if n = 0 then 0 else vRESID)) n]

/-- A long operation starts. -/
def Strand.startLong (st : Strand) (o : LongOp) : Strand := { st with longs := st.longs ++ [o] }

def execVsort (o : VOp) (s : State) : Host.Outcome State Fault Refusal :=
  counted s 2 32 noCheck fun k s =>
    s.modStrand k fun st => st.startLong
      ⟨true, o.typ.toNat, o.fn != 0, 0, false, st.active o.g, o.d.toNat, st.v o.a.toNat, st.v o.b.toNat, List.range 128,
       0, fNone, 0, [], 32, 0, 0, st.fl.seq, st.slot, st.bundleAddr, false, false⟩

/-- VSCAN; the steps of an i32 sum in class S or D are checked (R222, R240). -/
def execVscan (o : VOp) (s : State) : Host.Outcome State Fault Refusal :=
  counted s 1 16 noCheck fun k s =>
    s.modStrand k fun st =>
      let op := o.fn.toNat / 2
      let flips : List (Nat × Nat) := if op = 0 ∧ o.typ = 0 then (s.upsetsOf k).map fun u => (u.lane, u.flip) else []
      st.startLong
        ⟨false, o.typ.toNat, o.fn.getLsbD 0, op, o.sat, st.active o.g, o.d.toNat, st.v o.a.toNat, 0, [],
         redIdent op o.typ.toNat, fNone, 0, flips, 16, 0, 0, st.fl.seq, st.slot, st.bundleAddr, false, false⟩

/-! ### Predicates (R238) -/

/-- A predicate result for the active lanes. -/
def predOp (s : State) (o : VOp) (f : Strand → PReg) : Host.Outcome State Fault Refusal :=
  counted s 1 2 noCheck fun k s =>
    s.modStrand k fun st => st.landPred (o.d.toNat % 16) (st.active o.g) (f st) 2 0

def execPlog (o : VOp) (s : State) : Host.Outcome State Fault Refusal :=
  predOp s o fun st =>
    let a := st.p o.a.toNat
    let b := st.p o.b.toNat
    match o.fn.toNat with
    | 0 => a &&& b
    | 1 => a ||| b
    | 2 => a ^^^ b
    | _ => a &&& ~~~b
def execPnot (o : VOp) (s : State) : Host.Outcome State Fault Refusal := predOp s o fun st => ~~~(st.p o.a.toNat)
def execPset (o : VOp) (s : State) : Host.Outcome State Fault Refusal :=
  predOp s o fun _ => ofBits fun l => decide (l < o.b.toNat) != o.fn.getLsbD 0
def execPcnt (o : VOp) (s : State) : Host.Outcome State Fault Refusal :=
  counted s 1 2 noCheck fun k s =>
    s.modStrand k fun st =>
      st.pushS o.d.toNat (BitVec.ofNat 64 (lanesOf (st.p o.a.toNat &&& st.active o.g)).length) 2 false
def execPfirst (o : VOp) (s : State) : Host.Outcome State Fault Refusal :=
  counted s 1 2 noCheck fun k s =>
    s.modStrand k fun st =>
      st.pushS o.d.toNat (BitVec.ofNat 64 ((lanesOf (st.p o.a.toNat &&& st.active o.g)).headD 128)) 2 false

/-! ### Landing (R212, R213, 18 R357) -/

/-- An exposed result reaches its register: only the lanes of its mask change, and flags are raised. -/
def State.landExposed (s : State) (k : Nat) (e : Exposed) : State :=
  let later (i : Nat) : Bool := (s.core k).now.written.any fun w => w.1 == i && e.seq < w.2
  let s := s.modStrand k fun st =>
    match e.dst with
    | .v i => st.withVec fun x => { x with v := SMap.set x.v i (mergeLanes e.mask (SMap.get 0 x.v i) e.value) }
    | .p i =>
      if i = 0 then st
      else st.withVec fun x =>
        { x with p := SMap.set x.p i ((SMap.get 0 x.p i &&& ~~~e.mask) ||| (e.value.setWidth 128 &&& e.mask)) }
    | .s i => if later i then st else { st with sc := st.sc.put (.s i) (e.value.setWidth 128) }
  s.raiseV k e.flags e.resn e.addr e.slot

/-- The oldest due exposed result lands. -/
def execResultLanding (core : Nat) (s : State) : Host.Outcome State Fault Refusal :=
  .next <|
    match (s.strand core).exposed.find? (·.due == 0) with
    | none => s
    | some e => (s.modStrand core fun st => { st with exposed := st.exposed.erase e }).landExposed core e

/-- The oldest due entry of the in-flight queue lands (18 R357). -/
def execInflightEntryLand (core : Nat) (s : State) : Host.Outcome State Fault Refusal :=
  .next <|
    match (s.strand core).tr.released.find? (·.due == 0) with
    | none => s
    | some e =>
      (s.modStrand core fun st => st.withTr fun r => { r with released := r.released.erase e }).landExposed core e

/-- The cycle, from issue, in which a step of a long operation completes (log 20, DESIGN CHOICE). -/
def LongOp.stepCycle (o : LongOp) (n : Nat) : Nat := if o.sort then n else 4 * n

/-- A step of a long operation is due. -/
def LongOp.stepDue (o : LongOp) : Bool := o.done < o.steps && o.stepCycle (o.done + 1) ≤ o.age && !o.stopped


/-- A stopped operation goes on when the code that started it does. -/
def Strand.goesOn (st : Strand) (seq : Nat) : Bool := !st.id.hndl || st.tr.ret.any fun r => r.seq < seq

/-- The oldest due step of a long operation completes (R241, 18 R358).  Where a stop waits for it, VPI records the
steps; the last block of VSCAN ends the operation, whose result then waits in the in-flight queue (log 20,
DESIGN CHOICE). -/
def execLongOpStep (core : Nat) (s : State) : Host.Outcome State Fault Refusal :=
  .next (s.modStrand core fun st =>
    match st.longs.find? LongOp.stepDue with
    | none => st
    | some o =>
      let p := o.step
      if !o.stopping then { st with longs := st.longs.replace o p }
      else if p.sort || p.done < p.steps then
        { st with longs := st.longs.replace o { p with stopped := true }
                  vec := { st.vec with vpi := BitVec.ofNat 6 p.done } }
      else
        let others := st.longs.erase o
        { st with longs := others
                  vec := if others.any (·.stopped) then st.vec else { st.vec with vpi := 0 }
                  tr := if st.goesOn o.seq then { st.tr with waiting := st.tr.waiting ++ p.results (st.id.cls != 0) }
                    else { st.tr with held := st.tr.held ++ p.results (st.id.cls != 0) } })

end Sys2Proof.Machine
end

