-- ==== Sys2Proof/Machine/Matrix.lean ====
section
/-!
DEFINITION. Matrix instructions (10): the element trees over the planes, the loader, the array and the
tile-transfer unit, and the events of their rows.  An operation's age counts the core cycles since its issue;
its rows are read and land at the ages of R249.
-/

namespace Sys2Proof.Machine

/-! ### Tiles -/

def MatrixRegs.row (x : MatrixRegs) (t i : Nat) : BitVec 16384 := SMap.get 0 x.tile (512 * t + i)
/-- Column n of a tile row. -/
def tcol (r : BitVec 16384) (n : Nat) : W32 := r.extractLsb' (32 * n) 32
/-- The tile row whose column n is `f n`. -/
def ofCols (f : Nat → W32) : BitVec 16384 := BitVec.ofNat 16384 (lanesFrom f 0 512)
def MatrixRegs.setRow (x : MatrixRegs) (t i : Nat) (r : BitVec 16384) : MatrixRegs :=
  { x with tile := SMap.set x.tile (512 * t + i) r }
def MatrixRegs.setCC (x : MatrixRegs) (t i : Nat) (v : W32) : MatrixRegs := { x with cc := SMap.set x.cc (512 * t + i) v }
def MatrixRegs.setCRV (x : MatrixRegs) (t : Nat) (b : Bool) : MatrixRegs := { x with crv := setQ x.crv t b }

/-! ### Values -/

/-- A plane element or an activation with its scale. -/
abbrev Scaled := Val × Int
def Scaled.val (x : Scaled) : Val := x.1.scale x.2
/-- The exact sum of values, with its flags; a sum of zeros of negative sign alone is +0 (log 131, DESIGN CHOICE). -/
def sumV (l : List Val) : Val × Flags :=
  l.foldl (fun a v => let r := addV 0 a.1 v; (r.1, a.2 ||| r.2)) (.fin false 0 0, fNone)
/-- A sum rounded to f32 once, with the flags of both (04 R80, R103). -/
def roundSum (x : Val × Flags) : Val × Flags := let r := roundNe x.1; (r.1, x.2 ||| r.2)
/-- The f32 code of a value. -/
def codeOf (v : Val) : W32 := BitVec.ofNat 32 (roundF f32 0 false v).1

/-- `elem` of R255: an old value, an activation row and a column of weights, g groups (04 R100). -/
def element (prof g : Nat) (t : W32) (a w : List Scaled) : W32 × Flags :=
  match prof with
  | 0 => (BitVec.ofInt 32 (t.toInt + (a.zip w).foldl (fun s p => s + p.1.1.units 0 * p.2.1.units 0) 0), fNone)
  | 3 => let r := chainSplit g a w (accVal t.toNat); (codeOf r.1, r.2)
  | p => let r := chainGroups p g (a.map Scaled.val) (w.map Scaled.val) (accVal t.toNat); (codeOf r.1, r.2)

/-- Weight class of a profile (10 R242). -/
def weightClass (prof : Nat) : Nat :=
  match prof with
  | 0 => 0
  | 1 => 1
  | 2 => 1
  | 3 => 2
  | _ => 3

/-- Formats a profile accepts for weights and for activations (04 R99). -/
def weightFmts (prof : Nat) : List Nat :=
  match prof with
  | 0 => [0x01, 0x02, 0x03, 0x04, 0x09, 0x0A, 0x0B, 0x0C, 0x0D]
  | 1 => [0x06, 0x07]
  | 2 => [0x06, 0x07]
  | 3 => [0x08]
  | _ => [0x09, 0x0A, 0x0B, 0x0C, 0x0D]
def actFmts (prof : Nat) : List Nat :=
  match prof with
  | 0 => [0x01, 0x02, 0x03]
  | 1 => [0x06, 0x07]
  | 2 => [0x06, 0x07]
  | 3 => [0x08]
  | _ => [0x07]

/-- Cycles per row for one slice's weight format (10 R248). -/
def rowCycles (prof wf af : Nat) : Nat :=
  match prof with
  | 0 =>
    let b := if 0x09 ≤ wf then 1 else if wf ≤ 0x02 then 2 else 4
    if af = 0x03 then 2 * b else b
  | 1 => 4
  | 2 => 4
  | 3 => 24
  | _ => 2

/-- Bytes of a row of n packed elements (04 R91). -/
def rowBytes (f n : Nat) : Nat := if f = 0x0D then (n + 4) / 5 else (n * fmtWidth f + 7) / 8

/-- The n element codes of a row of bytes; a t5 row gives its bytes. -/
def rowCodes (f n : Nat) (bs : List Byte) : List Nat :=
  if f = 0x0D then bs.map (·.toNat)
  else
    let w := fmtWidth f
    let x := ofLE bs
    (List.range n).map fun j => x / 2 ^ (w * j) % 2 ^ w

/-- Codes of row j of an operand at `base` with a pitch. -/
def State.readRow (s : State) (k base pitch f n j : Nat) : List Nat :=
  rowCodes f n (s.spadBytes k (base + j * pitch) (rowBytes f n))

/-- A source element of a load: the value and the scale kept beside it (10 R253). -/
def decodeWeight (cls f : Nat) (e : Int) (c : Nat) : Scaled :=
  match cls with
  | 0 => (fmtVal f c, 0)
  | 2 => (fmtVal f c, e)
  | _ => ((fmtVal f c).scale e, 0)

/-- The plane row of a row of source codes: the row, a bad T5 code met, and the flags of its sum and of signalling NaNs
(log 28, DEDUCED). -/
def planeRow (cls f n : Nat) (e : Int) (codes : List Nat) : PlaneRow × Bool × Flags :=
  let t5 := f = 0x0D
  let vs : List Scaled :=
    if t5 then ((codes.flatMap fun c => (tritDecode c).1).take n).map fun x =>
      ((Val.ofInt x).scale (if cls = 0 then 0 else e), 0)
    else codes.map (decodeWeight cls f e)
  let rs := sumV (vs.map Scaled.val)
  let sum := if cls = 0 ∨ cls = 3 then rs else roundSum rs
  (⟨vs.map (·.1), sum.1, if cls = 2 then e else 0⟩, t5 && codes.any (fun c => (tritDecode c).2), sum.2)

/-- A plane row, all zero where none is held. -/
def Plane.row (p : Plane) (k : Nat) : PlaneRow := SMap.get ⟨[], .fin false 0 0, 0⟩ p.rows k
/-- Column n of the first K rows of a plane. -/
def Plane.col (p : Plane) (k n : Nat) : List Scaled :=
  (List.range k).map fun i => let r := p.row i; (r.w.getD n (.fin false 0 0), r.scale)
/-- The check-column weights of the first K rows. -/
def Plane.rsCol (p : Plane) (k : Nat) : List Scaled := (List.range k).map fun i => ((p.row i).rs, 0)
/-- The record of a slice. -/
def Plane.rec? (p : Plane) (i : Nat) : Option SliceRec := SMap.get none (p.recs.map fun r => (r.1, some r.2)) i

/-! ### Busy units (10 R249, R250, R263) -/

/-- Check rows streamed. -/
def MatOp.h (o : MatOp) : Nat := if o.check then 1 else 0
/-- Age of the last effect. -/
def MatOp.lastAge (o : MatOp) : Nat :=
  match o.kind with
  | .ldw => if o.o.t then o.o.extent + 8 else o.rows + 7 - o.first
  | .str => 39 + o.c * (o.rows + o.h - o.first)
  | .strv => 39 + o.c * (o.rows + o.h - o.first)
  | .zero => (o.rows + 63) / 64 - 1
  | .ldz => o.rows + 5
  | .out => o.rows + 3
  | .outv => 0
  | .chk => o.rows + 7
def MKind.streams : MKind → Bool
  | .str => true
  | .strv => true
  | _ => false
def MatrixRegs.loaderBusy (x : MatrixRegs) : Bool :=
  x.ops.any fun o => o.kind == .ldw && (!o.o.t || decide (o.age < o.o.extent + 8))
def MatrixRegs.arrayBusy (x : MatrixRegs) : Bool :=
  x.ops.any fun o => o.kind.streams && (o.stopping || decide (o.age < o.c * (o.rows + o.h - o.first)))
def MatrixRegs.xferBusy (x : MatrixRegs) : Bool :=
  x.ops.any fun o => !o.kind.streams && o.kind != .ldw
def MatrixRegs.tileBusy (x : MatrixRegs) (t : Nat) : Bool :=
  x.ops.any fun o => o.kind != .ldw && o.o.tile.toNat == t
/-- Only streams busy the tile: a further stream chains. -/
def MatrixRegs.chained (x : MatrixRegs) (t : Nat) : Bool :=
  x.ops.all fun o => o.kind == .ldw || o.o.tile.toNat != t || o.kind.streams

/-- A matrix instruction must wait (10 R250). -/
def MatrixRegs.hold (x : MatrixRegs) (i : Instr) : Bool :=
  let xfer (o : MOp) : Bool := x.xferBusy || x.tileBusy o.tile.toNat
  let stream (o : MOp) : Bool := x.arrayBusy || !x.chained o.tile.toNat
  match i with
  | .mldw _ => x.loaderBusy
  | .mswap _ => x.loaderBusy || x.arrayBusy
  | .mstr o => stream o
  | .mstrv o => stream o
  | .mzero o => xfer o
  | .mldz o => xfer o
  | .mout o => xfer o
  | .moutv o => xfer o
  | .mchk o => xfer o
  | .mshape _ => x.loaderBusy || x.arrayBusy
  | _ => false

/-! ### Checks (10 R245, R246, R255, R258) -/

def checkProfile (o : MOp) : Trap :=
  if o.prof.toNat ≤ 5 then none else some (.profile, BitVec.ofNat 64 o.prof.toNat)
def illIf (b : Bool) : Trap := if b then some (.illopnd, 0) else none

/-- The row operand's checks; `n` rows of `m` elements in one of the formats `fmts`. -/
def Strand.checkRows (st : Strand) (o : MOp) (right n m : Nat) (fmts : List Nat) : Trap :=
  let c := o.cap.toNat
  let x := st.c c
  let off := (st.s o.off.toNat).toNat
  let p := (st.s o.scale.toNat).toNat
  let a := capBase x + off
  let r := st.fmtReg a
  let f := fmtCode r
  let b := rowBytes f m
  let rows := if p = 0 then [0] else List.range n
  firstTrap
    [st.checkCap c [right] [kScratch], checkBounds x off ((n - 1) * p + b),
     firstTrap (rows.map fun j =>
       if bankOf (a + j * p) = bankOf (a + j * p + b - 1) then none else some (.align, BitVec.ofNat 64 (a + j * p))),
     if a % 16 = 0 ∧ p % 16 = 0 then none else some (.align, BitVec.ofNat 64 a),
     illIf (!fmts.contains f),
     illIf (rows.any fun j =>
       let r' := st.fmtReg (a + j * p)
       fmtCode r' != f || fmtScale r' != fmtScale r)]

/-- Every enabled slice holds a record of the profile's class, or none (10 R255). -/
def Strand.checkSlices (st : Strand) (prof : Nat) : Trap :=
  illIf ((List.range (2 * bandCount st.mx.ashape)).any fun i =>
    match st.mx.active.rec? i with
    | some r => r.cls != weightClass prof
    | none => false)

/-- Cycles per row with the records of the active plane (10 R248). -/
def Strand.streamCycles (st : Strand) (prof af : Nat) : Nat :=
  (List.range (2 * bandCount st.mx.ashape)).foldl (fun c i =>
    match st.mx.active.rec? i with
    | some r => max c (rowCycles prof r.fmt af)
    | none => c) 1

/-- An M slot: its checks, then its effect. -/
def matrixSlot (s : State) (check : Strand → Trap) (f : Nat → State → State) : Host.Outcome State Fault Refusal :=
  onCore s fun k =>
    match check (s.strand k) with
    | some (c, v) => s.issueTrap k c v
    | none => f k s

/-- A fresh operation. -/
def Strand.newOp (st : Strand) (kind : MKind) (o : MOp) (rows c : Nat) (check : Bool) : MatOp :=
  let a := capBase (st.c o.cap.toNat) + (st.s o.off.toNat).toNat
  { kind := kind, o := o, age := 0, seq := st.fl.seq, addr := st.bundleAddr, rows := rows, c := c, check := check,
    base := a, pitch := (st.s o.scale.toNat).toNat, shift := 0,
    fmts := st.fmtb, tol := st.mx.chktol, bands := bandCount st.mx.ashape, inFlight := [], read := 0, landed := 0, colsum := [],
    sumFlags := fNone, unflip := [], first := 0,
    stopping := false, noted := false, plane := Plane.zero }

/-! ### Reading rows -/

/-- The bank that holds row j of the operand, and its format register as read at issue: the rows share FMT and SCALE, and
each has its own bank's RND, SAT and TRAP (04 R92, 10 R246). -/
def MatOp.bank (o : MatOp) (j : Nat) : Nat := bankOf (o.base + j * o.pitch)
def MatOp.rowFmtb (o : MatOp) (j : Nat) : W64 := SMap.get 0 o.fmts (o.bank j)
def MatOp.fmtb (o : MatOp) : W64 := o.rowFmtb 0
/-- A tile row as the operation reads it. -/
def MatOp.tileRow (o : MatOp) (x : MatrixRegs) (i : Nat) : BitVec 16384 :=
  x.row o.o.tile.toNat i ^^^ SMap.get 0 o.unflip i

/-- Source rows that an operation reads in all. -/
def MatOp.reads (o : MatOp) : Nat :=
  match o.kind with
  | .ldw => if o.o.t then o.o.extent else o.rows
  | .str => o.rows
  | .strv => o.rows
  | .ldz => o.rows
  | _ => 0
/-- Rows of a stated step (10 R252). -/
def MatOp.step (o : MatOp) : Nat := if o.kind.streams then 16 else if o.kind = .ldw ∧ !o.o.t then 64 else 0
/-- A stop holds the next row back: at a step boundary with rows left.  An operation that has no boundary left runs on to
its end (R252). -/
def MatOp.held (o : MatOp) : Bool :=
  o.stopping && o.step != 0 && o.read % o.step == 0 && decide (0 < o.read) && decide (o.read < o.reads)
/-- Its next row is due to be read. -/
def MatOp.readDue (o : MatOp) : Bool :=
  decide (o.read < o.reads) && !o.held &&
    decide ((if o.kind.streams then o.c * (o.read - o.first) else o.read - o.first) ≤ o.age)

/-- The codes of the next row of an operation. -/
def State.nextRow (s : State) (k : Nat) (o : MatOp) : List Nat :=
  let f := fmtCode o.fmtb
  match o.kind with
  | .strv => (List.range (128 * o.bands)).map fun j => streamElem ((s.strand k).v (o.o.size.toNat + o.read)) 8 j
  | .ldw => s.readRow k o.base o.pitch f (if o.o.t then o.rows else o.o.extent) o.read
  | _ => s.readRow k o.base o.pitch f o.o.extent o.read

/-- Activations of a row of codes, zero beyond K (10 R255). -/
def MatOp.acts (o : MatOp) (codes : List Nat) : List Scaled :=
  let f := if o.kind = .strv then 0x01 else fmtCode o.fmtb
  let e := if o.kind = .strv ∨ o.o.prof = 0 then 0 else fmtScale o.fmtb
  (codes.map fun c => (fmtVal f c, e)) ++ List.replicate (128 * o.bands - codes.length) (.fin false 0 0, 0)

/-- Column sums with one more row, and the flags they raise. -/
def MatOp.addSums (o : MatOp) (a : List Scaled) : List Val × Flags :=
  if o.colsum = [] then (a.map Scaled.val, a.foldl (fun f v => f ||| v.val.sigFlag) fNone)
  else
    let l := (o.colsum.zip a).map fun p => addV 0 p.1 p.2.val
    (l.map (·.1), l.foldl (fun f r => f ||| r.2) o.sumFlags)

/-- One operation reads its next row when it is due. -/
def State.readOp (s : State) (k : Nat) (o : MatOp) : MatOp :=
  if o.readDue then
    let r := s.nextRow k o
    let c := if o.check then o.addSums (o.acts r) else (o.colsum, o.sumFlags)
    { o with inFlight := o.inFlight ++ [r], read := o.read + 1, colsum := c.1, sumFlags := c.2 }
  else o

/-- The operations of core k read what is due in this cycle: from the scratchpad, or with `vec` from vector registers, once
the results of the cycle have landed (R255, 09 R212). -/
def State.matrixReads (s : State) (k : Nat) (vec : Bool) : State :=
  s.modStrand k fun st => st.withMx fun x =>
    { x with ops := x.ops.map fun o => if (o.kind == .strv) == vec then s.readOp k o else o }

/-- Add an operation, whose first row is read in its issue cycle. -/
def State.startOp (s : State) (k : Nat) (o : MatOp) : State :=
  s.modStrand k fun st => st.withMx fun x => { x with ops := x.ops ++ [s.readOp k o] }

/-! ### Instructions -/

/-- MLDW (10 R253). -/
def execMldw (o : MOp) (s : State) : Host.Outcome State Fault Refusal :=
  matrixSlot s
    (fun st =>
      let f := fmtCode (st.fmtReg (capBase (st.c o.cap.toNat) + (st.s o.off.toNat).toNat))
      firstTrap [illIf (128 * bandCount st.mx.ashape < o.row0.toNat + o.rows), checkProfile o,
        st.checkRows o rRead (if o.t then o.extent else o.rows) (if o.t then o.rows else o.extent)
          (weightFmts o.prof.toNat),
        illIf (o.t && [0x09, 0x0A, 0x0B, 0x0D].contains f)])
    fun k s => s.startOp k ((s.strand k).newOp .ldw o o.rows 1 false)

/-- MSWAP (10 R254). -/
def execMswap (_o : MOp) (s : State) : Host.Outcome State Fault Refusal :=
  matrixSlot s (fun _ => none) fun k s =>
    s.modStrand k fun st => st.withMx fun x => { x with active := x.shadow, shadow := x.active }

/-- A stream into tile rows: MSTR and MSTRV (10 R255).  CRV is cleared at issue (log 130, DESIGN CHOICE). -/
def State.startStream (s : State) (k : Nat) (kind : MKind) (o : MOp) (prof af : Nat) : State :=
  let st := s.strand k
  let check := st.id.cls != 0 || o.t
  let op := st.newOp kind o o.rows (st.streamCycles prof af) check
  let s := s.startOp k { op with plane := st.mx.active }
  if check then s else s.modStrand k fun st => st.withMx fun x => x.setCRV o.tile.toNat false

/-- MSTR (10 R255).  The slices' weight class is checked after every check of the capability (log 102, DESIGN CHOICE). -/
def execMstr (o : MOp) (s : State) : Host.Outcome State Fault Refusal :=
  matrixSlot s
    (fun st => firstTrap [illIf (128 * bandCount st.mx.ashape < o.extent), checkProfile o,
      st.checkRows o rRead o.rows o.extent (actFmts o.prof.toNat), st.checkSlices o.prof.toNat])
    fun k s =>
      let st := s.strand k
      s.startStream k .str o o.prof.toNat (fmtCode (st.fmtReg (capBase (st.c o.cap.toNat) + (st.s o.off.toNat).toNat)))

def execMstrv (o : MOp) (s : State) : Host.Outcome State Fault Refusal :=
  matrixSlot s (fun st => firstTrap [illIf (383 < o.size.toNat + o.rows - 1), st.checkSlices 0])
    fun k s => s.startStream k .strv o 0 0x01

/-- MZERO (10 R256): the rows are cleared while the tile is busy. -/
def execMzero (o : MOp) (s : State) : Host.Outcome State Fault Refusal :=
  matrixSlot s (fun _ => none) fun k s =>
    let t := o.tile.toNat
    let whole := o.row0 = 0 ∧ o.rows = 512
    let inRange (q : Nat) : Bool := decide (512 * t + o.row0.toNat ≤ q) && decide (q < 512 * t + o.row0.toNat + o.rows)
    let s := s.startOp k ((s.strand k).newOp .zero o o.rows 1 false)
    s.modStrand k fun st => st.withMx fun x =>
      { x with tile := x.tile.filter fun p => !inRange p.1
               cc := x.cc.filter fun p => !inRange p.1
               cr := if whole then x.cr.filter fun p => p.1 / 512 != t else x.cr
               crv := setQ x.crv t (decide whole) }

/-- MLDZ (10 R257).  CRV is cleared at issue (log 130, DESIGN CHOICE). -/
def execMldz (o : MOp) (s : State) : Host.Outcome State Fault Refusal :=
  matrixSlot s
    (fun st => firstTrap [checkProfile o,
      st.checkRows o rRead o.rows o.extent (if o.prof = 0 then [0x05, 0x00] else [0x08, 0x00])])
    fun k s =>
      (s.startOp k ((s.strand k).newOp .ldz o o.rows 1 false)).modStrand k fun st =>
        st.withMx fun x => x.setCRV o.tile.toNat false

/-- The shift of MOUT. -/
def Strand.outShift (st : Strand) (o : MOp) : Int := (st.s (o.scale.toNat + 1)).toInt

/-- MOUT (10 R258). -/
def execMout (o : MOp) (s : State) : Host.Outcome State Fault Refusal :=
  matrixSlot s
    (fun st =>
      let h := st.outShift o
      let f := fmtCode (st.fmtReg (capBase (st.c o.cap.toNat) + (st.s o.off.toNat).toNat))
      firstTrap [illIf (h < -64 || 63 < h), checkProfile o,
        st.checkRows o rWrite o.rows o.extent [0x00, 0x01, 0x02, 0x03, 0x04, 0x05, 0x06, 0x07, 0x08, 0x09, 0x0A, 0x0B, 0x0C],
        illIf (f == 0 && h != 0)])
    fun k s =>
      let st := s.strand k
      s.startOp k { st.newOp .out o o.rows 1 false with shift := st.outShift o }

/-- MOUTV: four registers at issue + 6 (10 R259). -/
def execMoutv (o : MOp) (s : State) : Host.Outcome State Fault Refusal :=
  counted s 4 6 noCheck fun k s =>
    s.modStrand k fun st =>
      let r := st.mx.row o.tile.toNat o.row0.toNat
      (List.range 4).foldl (fun st q =>
        st.expose (.v (o.size.toNat + q)) (BitVec.allOnes 128) (r.extractLsb' (4096 * q) 4096) 6 0 0) st

/-- MCHK: the outcome comes with its last row (10 R260). -/
def execMchk (o : MOp) (s : State) : Host.Outcome State Fault Refusal :=
  matrixSlot s (fun _ => checkProfile o) fun k s => s.startOp k ((s.strand k).newOp .chk o o.rows 1 false)

/-- Checks of a new ASHAPE mask (10 R245, R261). -/
def Strand.checkShape (st : Strand) (m : Nat) : Trap :=
  if m ≠ 1 ∧ m ≠ 3 ∧ m ≠ 7 ∧ m ≠ 15 then some (.ashape, BitVec.ofNat 64 m)
  else illIf (BitVec.ofNat 4 m &&& ~~~st.kn.bands != 0)

def execMshape (o : MOp) (s : State) : Host.Outcome State Fault Refusal :=
  matrixSlot s (fun st => st.checkShape (o.size.toNat % 16)) fun k s =>
    s.modStrand k fun st => st.setBands (o.size.setWidth 4)

/-! ### Events of the rows -/

/-- Replace the first operation that meets a test. -/
def MatrixRegs.update (x : MatrixRegs) (p : MatOp → Bool) (f : MatOp → MatOp) : MatrixRegs :=
  match x.ops.find? p with
  | none => x
  | some o => { x with ops := x.ops.replace o (f o) }

/-- A plane row of a load is due (10 R249). -/
def MatOp.planeDue (o : MatOp) : Bool :=
  o.kind == .ldw &&
    (if o.o.t then decide (o.o.extent + 8 ≤ o.age) && decide (o.landed < o.rows)
     else decide (o.landed < o.read) && decide (o.landed - o.first + 8 ≤ o.age))

/-- The source codes of plane row `r` of a load. -/
def MatOp.planeCodes (o : MatOp) : List Nat :=
  if o.o.t then o.inFlight.map fun c => c.getD o.landed 0 else o.inFlight.headD []

/-- PLANE_ROW_WRITE (10 R249, R253) (log 34, DEDUCED). -/
def execPlaneRowWrite (core : Nat) (s : State) : Host.Outcome State Fault Refusal :=
  .next <|
    match (s.strand core).mx.ops.find? MatOp.planeDue with
    | none => s
    | some o =>
      let prof := o.o.prof.toNat
      let f := fmtCode o.fmtb
      let n := o.o.extent
      let (row, bad, fl) := planeRow (weightClass prof) f n (fmtScale o.fmtb) o.planeCodes
      let bank := o.bank o.landed
      let k := o.o.row0.toNat + o.landed
      let last := o.landed + 1 = o.rows
      let slice := k / 64
      let r : SliceRec :=
        { cls := weightClass prof, bank := bankOf o.base, off := o.base % Config.bankBytes, pitch := o.pitch,
          fmt := f, scale := (o.fmtb >>> 8).setWidth 8, trans := o.o.t, n := n, row0 := o.o.row0.toNat,
          count := o.rows, prof := prof }
      let put (p : Plane) : Plane :=
        let rows := SMap.set p.rows k row
        let rows := if last then rows.filter fun q => !(decide (k < q.1) && q.1 / 64 == slice) else rows
        ⟨rows, if last ∨ k % 64 = 63 then SMap.set p.recs slice r else p.recs⟩
      let s := s.modStrand core fun st => st.withMx fun x =>
        { x.update MatOp.planeDue fun o =>
            { o with landed := o.landed + 1, inFlight := if o.o.t then o.inFlight else o.inFlight.tail } with
          shadow := put x.shadow }
      let s := if bad && fmtTrap (o.rowFmtb o.landed) then
          s.late core ⟨.mbadpk, BitVec.ofNat 64 bank, some (o.addr, 6), 6⟩ else s
      s.raiseM core ((if bad then mBADPK else 0) ||| mbits fl) o.addr

/-- A row of a stream is due to land, or its check row. -/
def MatOp.landDue (o : MatOp) : Bool :=
  o.kind.streams &&
    (if o.landed < o.rows then decide (o.landed < o.read) && decide (39 + o.c * (o.landed - o.first + 1) ≤ o.age)
     else o.check && o.landed == o.rows && decide (39 + o.c * (o.rows - o.first + 1) ≤ o.age))

/-- TILE_ROW_LAND (10 R255): a row of a stream, or the check row after the last. -/
def execTileRowLand (core : Nat) (s : State) : Host.Outcome State Fault Refusal :=
  .next <|
    match (s.strand core).mx.ops.find? MatOp.landDue with
    | none => s
    | some o =>
      let x := (s.strand core).mx
      let t := o.o.tile.toNat
      let prof := if o.kind = .strv then 0 else o.o.prof.toNat
      let kk := 128 * o.bands
      let g := 8 * o.bands
      if o.landed < o.rows then
        let i := o.o.row0.toNat + o.landed
        let a := o.acts (o.inFlight.headD [])
        let old := o.tileRow x i
        let r := (List.range 512).map fun n => element prof g (tcol old n) a (o.plane.col kk n)
        let cc := element prof g (SMap.get 0 x.cc (512 * t + i)) a (o.plane.rsCol kk)
        let s := s.modStrand core fun st => st.withMx fun x =>
          ((x.update MatOp.landDue fun o => { o with landed := o.landed + 1, inFlight := o.inFlight.tail }).setRow t i
            (ofCols fun n => (r.getD n (0, 0)).1)).setCC t i cc.1
        s.raiseM core (mbits (r.foldl (fun f p => f ||| p.2) cc.2)) o.addr
      else
        let sums := o.colsum.map fun v =>
          if prof = 0 then (Val.ofInt (BitVec.ofInt 32 (v.units 0)).toInt, fNone) else roundNe v
        let a : List Scaled := sums.map fun v => (v.1, 0)
        let r := (List.range 512).map fun n => element prof g (SMap.get 0 x.cr (512 * t + n)) a (o.plane.col kk n)
        let cr := (List.range 512).foldl (fun m n => SMap.set m (512 * t + n) (r.getD n (0, 0)).1) x.cr
        let s := s.modStrand core fun st => st.withMx fun x =>
          { x.update MatOp.landDue fun o => { o with landed := o.landed + 1 } with cr := cr }
        s.raiseM core (mbits (r.foldl (fun f p => f ||| p.2) (sums.foldl (fun f v => f ||| v.2) o.sumFlags))) o.addr

/-- A row of MLDZ is due. -/
def MatOp.loadDue (o : MatOp) : Bool :=
  o.kind == .ldz && decide (o.landed < o.read) && decide (o.landed + 6 ≤ o.age)

/-- TILE_ROW_LOAD (10 R257): the bits move with no scale, in float profiles too (log 96, DEDUCED). -/
def execTileRowLoad (core : Nat) (s : State) : Host.Outcome State Fault Refusal :=
  .next <|
    match (s.strand core).mx.ops.find? MatOp.loadDue with
    | none => s
    | some o =>
      let t := o.o.tile.toNat
      let i := o.o.row0.toNat + o.landed
      let codes := o.inFlight.headD []
      let sum := roundSum (sumV (codes.map f32.val))
      let cc : W32 := if o.o.prof = 0 then BitVec.ofNat 32 (codes.foldl (· + ·) 0) else codeOf sum.1
      let s := s.modStrand core fun st => st.withMx fun x =>
        ((x.update MatOp.loadDue fun o => { o with landed := o.landed + 1, inFlight := o.inFlight.tail }).setRow t i
          (ofCols fun n => BitVec.ofNat 32 (codes.getD n 0))).setCC t i cc
      s.raiseM core (if o.o.prof = 0 then 0 else mbits sum.2) o.addr

/-- A row of MOUT is due. -/
def MatOp.storeDue (o : MatOp) : Bool :=
  o.kind == .out && decide (o.landed < o.rows) && decide (o.landed + 4 ≤ o.age)

/-- TILE_ROW_STORE (10 R258): the bytes join the matrix writes of the cycle (R247). -/
def execTileRowStore (core : Nat) (s : State) : Host.Outcome State Fault Refusal :=
  .next <|
    match (s.strand core).mx.ops.find? MatOp.storeDue with
    | none => s
    | some o =>
      let x := (s.strand core).mx
      let row := o.tileRow x (o.o.row0.toNat + o.landed)
      let r := o.rowFmtb o.landed
      let f := fmtCode r
      let n := o.o.extent
      let w := fmtWidth f
      let a := o.base + o.landed * o.pitch
      let out (c : W32) : Nat × Flags :=
        if f = 0 then (c.toNat, fNone)
        else
          let v := if o.o.prof = 0 then Val.ofInt c.toInt else f32.val c.toNat
          conv (v.scale o.shift) f (fmtScale r) (fmtRnd r) (fmtSat r) (o.o.prof != 0)
      let old := ofLE (s.spadBytes core a (rowBytes f n))
      let new := putElems old w (fun j => (out (tcol row j)).1) (List.range n)
      let fl := flagsOf (fun j => (out (tcol row j)).2) (List.range n)
      let s := s.modStrand core fun st => st.withMx fun x =>
        x.update MatOp.storeDue fun o => { o with landed := o.landed + 1 }
      let s := s.modNow core fun m => { m with mbuf := m.mbuf ++ atAddr a (leBytes (rowBytes f n) new) }
      s.raiseM core (mbits fl) o.addr

/-- An MCHK's outcome is due. -/
def MatOp.chkDue (o : MatOp) : Bool := o.kind == .chk && o.landed == 0 && decide (o.rows + 7 ≤ o.age)

/-- The outcome of one comparison: skipped, or the syndrome when it fails (10 R260). -/
inductive Check where
  | pass
  | skip
  | fail (syn : W32)
  deriving DecidableEq, Repr

def isFinite : Val → Bool
  | .fin _ _ _ => true
  | _ => false

/-- Compare terms with check values: S against C (10 R260).  Rounding the syndrome raises no flag (log 121, DEDUCED). -/
def compareSums (prof e : Nat) (terms cs : List W32) : Check :=
  if prof = 0 then
    let s := terms.foldl (· + ·) (0 : W32)
    let c := cs.foldl (· + ·) (0 : W32)
    if s = c then .pass else .fail (s - c)
  else
    let tv := terms.map fun x => f32.val x.toNat
    let cv := cs.map fun x => f32.val x.toNat
    if !(tv ++ cv).all isFinite then .skip
    else
      let u (v : Val) : Int := v.units (-149)
      let s := tv.foldl (fun a v => a + u v) 0
      let c := cv.foldl (fun a v => a + u v) 0
      let bound := tv.foldl (fun a v => a + (u v).natAbs) 0 + c.natAbs
      if (s - c).natAbs * 2 ^ e ≤ bound then .pass
      else .fail (codeOf (.fin (s - c < 0) (s - c).natAbs (-149)))

/-- The first failure of a list of comparisons, counted from `i`. -/
def firstFail : List Check → Nat → Option (Nat × W32)
  | [], _ => none
  | .fail w :: _, i => some (i, w)
  | _ :: r, i => firstFail r (i + 1)

/-- MCHK_OUTCOME (10 R260, R264): CHKLOC takes the record when the cycle ends, so that MFSR of this cycle reads the old one
(06 R146). -/
def execMchkOutcome (core : Nat) (s : State) : Host.Outcome State Fault Refusal :=
  .next <|
    match (s.strand core).mx.ops.find? MatOp.chkDue with
    | none => s
    | some o =>
      let st := s.strand core
      let x := st.mx
      let t := o.o.tile.toNat
      let prof := o.o.prof.toNat
      let tol := o.tol.toNat
      let e := if prof = 1 ∨ prof = 4 then tol % 256 else if prof = 3 then tol / 2 ^ 16 else tol / 2 ^ 8 % 256
      let cc (i : Nat) : W32 := SMap.get 0 x.cc (512 * t + i)
      let cr (n : Nat) : W32 := SMap.get 0 x.cr (512 * t + n)
      let all := List.range 512
      let rows := (List.range o.rows).map fun j =>
        let i := o.o.row0.toNat + j
        compareSums prof e (all.map (tcol (o.tileRow x i))) [cc i]
      let full := x.crv.getLsbD t
      let cols := if full then all.map fun n => compareSums prof e (all.map fun i => tcol (o.tileRow x i) n) [cr n] else []
      let corner := if full then [compareSums prof e (all.map cc) (all.map cr)] else []
      let fr := firstFail rows 0
      let fc := firstFail cols 0
      let fk := firstFail corner 0
      let skip := (rows ++ cols ++ corner).contains .skip
      let failed := fr.isSome || fc.isSome || fk.isSome
      let syn : W32 := match fr, fc, fk with
        | some (_, w), _, _ => w
        | _, some (_, w), _ => w
        | _, _, some (_, w) => w
        | _, _, _ => 0
      let b (c : Bool) (n : Nat) : Nat := if c then 2 ^ n else 0
      let loc : W64 := BitVec.ofNat 64 (syn.toNat * 2 ^ 32 + b fc.isSome 31 + b fr.isSome 30 + b fk.isSome 29
        + t * 2 ^ 24 + (fc.map (·.1)).getD 0 * 2 ^ 12 + (fr.map fun p => p.1 + o.o.row0.toNat).getD 0)
      let held := x.chkloc.toNat / 2 ^ 29 % 8 = 0
      let s := s.modStrand core fun st => st.withMx fun x => x.update MatOp.chkDue fun o => { o with landed := 1 }
      let s := if failed ∧ held then s.modNow core fun n => { n with chkloc := some loc } else s
      let s := s.raiseM core ((if failed then mCHK else 0) ||| (if skip then mCSKIP else 0)) o.addr
      if failed then
        let s := s.modStrand core fun st =>
          st.addSig 1 1
        if st.id.cls != 0 || x.mstat.getLsbD 10 then
          s.late core ⟨.mchk, if held then loc else x.chkloc, some (o.addr, 6), 6⟩
        else s
      else s

/-- BAND_POWER_UP_END (10 R261). -/
def execBandPowerUpEnd (core : Nat) (s : State) : Host.Outcome State Fault Refusal :=
  .next (s.modStrand core fun st => st.withMx fun x => { x with powerUp := 0 })

/-! ### Stops and rebuilds (10 R244, R252) -/

/-- A stop reaches the matrix engine: streams and loads halt at their next step. -/
def MatrixRegs.stop (x : MatrixRegs) : MatrixRegs :=
  { x with ops := x.ops.map fun o => if o.step ≠ 0 ∧ o.read < o.reads then { o with stopping := true } else o }

/-- The engine has come to its stated steps: what is left is stopped operations. -/
def MatrixRegs.stopped (x : MatrixRegs) : Bool := x.ops.all fun o => o.held && o.landed == o.read

/-- MPI takes the steps of operations that have stopped since it last did (10 R252, R266); else it stays as it was written. -/
def MatrixRegs.index (x : MatrixRegs) : MatrixRegs :=
  let new := x.ops.filter (!·.noted)
  { x with
    ldidx := ((new.find? fun o => o.kind == .ldw).map fun o => BitVec.ofNat 4 (o.read / 64)).getD x.ldidx
    stidx := ((new.find? fun o => o.kind.streams).map fun o => BitVec.ofNat 6 (o.read / 16)).getD x.stidx
    ops := x.ops.map fun o => { o with noted := true } }

/-- The end of a core cycle: operations age, and finished ones leave; the completion of one that was stopped resets its
index (R252). -/
def MatrixRegs.tick (x : MatrixRegs) : MatrixRegs :=
  let gone (o : MatOp) : Bool := decide (o.lastAge ≤ o.age) && !(o.stopping && decide (o.read < o.reads))
  { x with
    ldidx := if x.ops.any fun o => gone o && o.first != 0 && o.kind == .ldw then 0 else x.ldidx
    stidx := if x.ops.any fun o => gone o && o.first != 0 && o.kind.streams then 0 else x.stidx
    ops := (x.ops.filter fun o => !gone o).map fun o => { o with age := o.age + 1 }
    powerUp := if 1 < x.powerUp then x.powerUp - 1 else x.powerUp }

/-- A row of a recorded slice, read again from the scratchpad. -/
def State.reloadRow (s : State) (k : Nat) (r : SliceRec) (i : Nat) : PlaneRow :=
  let base := r.bank * Config.bankBytes + r.off
  let j := i - r.row0
  let codes := if r.trans then
      (List.range r.n).map fun c => (s.readRow k base r.pitch r.fmt r.count c).getD j 0
    else s.readRow k base r.pitch r.fmt r.n j
  (planeRow r.cls r.fmt r.n (signedOf r.scale.toNat 8) codes).1

/-- Rows of a slice that its load covered. -/
def SliceRec.covers (r : SliceRec) (slice : Nat) : List Nat :=
  (List.range 64).map (64 * slice + ·) |>.filter fun i => decide (r.row0 ≤ i) && decide (i < r.row0 + r.count)

/-- Rebuild a plane from its records; every other row is zero. -/
def State.rebuild (s : State) (k : Nat) (p : Plane) : Plane :=
  ⟨p.recs.foldl (fun m q => (q.2.covers q.1).foldl (fun m i => SMap.set m i (s.reloadRow k q.2 i)) m) [], p.recs⟩

/-- Cycles of the loads that a rebuild runs one after another (10 R244, R249). -/
def Plane.rebuildCycles (p : Plane) : Nat :=
  p.recs.foldl (fun c q => c + (if q.2.trans then q.2.n else (q.2.covers q.1).length) + 8) 0

end Sys2Proof.Machine
end

