-- ==== Sys2Proof/Machine/Views.lean ====
section
/-!
DEFINITION. Operands of window entries: where a segment lies, the view objects of a run and the capabilities its
strands start with (05 R109-R112, 11 R292, 15 R327).
-/

namespace Sys2Proof

def OpdWord.isExt (w : OpdWord) : Bool := w.mode == 3
/-- Start and length of an operand's range; the EXT form keeps them in 32 bits (03 R61). -/
def OpdWord.first (w : OpdWord) : Nat := if w.isExt then w.len.toNat % 2 ^ 32 else w.start.toNat
def OpdWord.size (w : OpdWord) : Nat := if w.isExt then w.len.toNat / 2 ^ 32 else w.len.toNat
def OpdWord.extObj (w : OpdWord) : Nat := w.start.toNat % 2 ^ 28

end Sys2Proof

namespace Sys2Proof.Machine

/-- The protection class of an entry. -/
def Entry.cls (e : Entry) : Nat :=
  match e.kind with
  | .task w _ => w.cls.toNat
  | _ => 0

/-- The mapping value that stands for the home (05 R108). -/
def homeMap : Nat := 0x1000

/-- Object and offset of segment j of an operand under mapping m. -/
def State.segPlace (s : State) (p : ROperand) (j m : Nat) : Nat × Nat :=
  if m = homeMap then (p.obj, p.base + j * 2 ^ p.seglog)
  else
    match SMap.get none (s.shadows.map fun x => (x.1, some x.2)) m with
    | some sh => (sh.obj, sh.heapOff)
    | none => (p.obj, p.base + j * 2 ^ p.seglog)

/-- The mapping a run uses for a segment: what IN resolved, the primary's shadow, or the twin's for the twin and
the third run (05 R109, 15 R327, R329). -/
def ROperand.used (p : ROperand) (role : Nat) (g : Nat × Nat × Nat) : Nat :=
  if p.w.mode = 0 then g.1 else if role = 0 then g.2.1 else g.2.2

def State.viewSegs (s : State) (p : ROperand) (role : Nat) : List (Nat × Nat) :=
  p.segs.mapIdx fun i g => s.segPlace p (p.seg0 + i) (p.used role g)

/-- The lowest view number not in use. -/
def freeKey (used : List Nat) : Nat → Nat → Nat
  | n, 0 => n
  | n, f + 1 => if used.contains n then freeKey used (n + 1) f else n

/-- Build an operand of a run: a view object over the resolved segments, whose ID is the lowest that is not in use (log 104,
DESIGN CHOICE), or the EXT range itself (R112). -/
def State.buildOperand (s : State) (tid role : Nat) (p : ROperand) : State × Operand :=
  if p.w.isExt then
    let rights := 3 + if p.atomic then 8 else 0
    (s, ⟨3, p.w.cap.toNat, p.w.first, p.w.size, mkCap p.obj rights (s.objKind p.obj) p.base p.w.size⟩)
  else
    let id := freeKey (s.views.map fun v => v.1) 0xFFF0000 s.views.length
    let s' := { s with views := SMap.set s.views id ⟨tid, p.seglog, s.viewSegs p role⟩ }
    (s', ⟨p.w.mode, p.w.cap.toNat, p.w.first, p.w.size,
      mkCap id (if p.w.mode = 0 then 1 else 3) kObject (p.w.first % 2 ^ p.seglog) p.w.size⟩)

def State.buildOperands (s : State) (tid role : Nat) : List ROperand → State × List Operand
  | [] => (s, [])
  | p :: r =>
    let (s, o) := s.buildOperand tid role p
    let (s, os) := s.buildOperands tid role r
    (s, o :: os)

/-- c0-c7 of a strand as its operands name them; the others null (R112). -/
def operandCaps (os : List Operand) : SMap CapBits := os.foldl (fun m o => SMap.set m o.cap o.view) []

/-- The view objects of an entry go (R112). -/
def State.dropViews (s : State) (tid : Nat) : State := { s with views := s.views.filter fun v => v.2.tid != tid }

end Sys2Proof.Machine
end

