-- ==== Sys2Proof/Machine/Order.lean ====
section
/-!
DEFINITION. Order between window entries: producers, home uses and home writes, EXT operands, dependent entries
(05 R109-R116, R123, 15 R333).
-/

namespace Sys2Proof.Machine

/-! ### Producers and order between entries (R109-R114) -/

def Entry.live (e : Entry) : Bool := e.state != .squash
def EntryKind.isCkpt : EntryKind → Bool | .ckpt _ => true | _ => false
/-- An entry counts as done from the cycle in which it first entered DONE, also while a third run or a copy's re-execution
goes on (R116, 15 R327). -/
def Entry.isDone (e : Entry) : Bool := e.done.isSome && e.state != .fault
/-- A producer is done, as its consumers see it from the next cycle on (R119). -/
def State.prodDone (s : State) (tid : Nat) : Bool :=
  match s.entry tid with
  | none => true
  | some e => !e.live || (e.isDone && e.done.any (· < s.now))

/-- Entries of the context decoded before one. -/
def State.olderThan (s : State) (e : Entry) : List Entry :=
  (s.window.takeWhile (·.tid != e.tid)).filter fun p => p.ctx == e.ctx && p.live

/-- Byte ranges of homes that an entry reads (R114). -/
def Entry.homeUses (e : Entry) : List (Nat × Nat × Nat) :=
  e.ops.flatMap fun p =>
    if p.w.isExt || p.w.mode == 1 then []
    else (p.segs.mapIdx fun i g => (i, g)).filterMap fun x =>
      if x.2.1 = homeMap then some (p.obj, p.base + (p.seg0 + x.1) * 2 ^ p.seglog, 2 ^ p.seglog) else none
/-- Byte ranges of homes that an UNBIND writes. -/
def Entry.homeWrites (e : Entry) : List (Nat × Nat × Nat) :=
  match e.kind with
  | .unbind _ false b =>
    (b.map.filter fun m => m.2 != homeMap).map fun m => (b.obj, b.start + m.1 * 2 ^ b.seglog, 2 ^ b.seglog)
  | _ => []
def rangesMeet (a b : List (Nat × Nat × Nat)) : Bool :=
  a.any fun x => b.any fun y => x.1 == y.1 && x.2.1 < y.2.1 + y.2.2 && y.2.1 < x.2.1 + x.2.2
/-- A home use waits for an older home write. -/
def State.homeBlocked (s : State) (e : Entry) : Bool := (s.olderThan e).any fun p => rangesMeet p.homeWrites e.homeUses
/-- A home write waits for older home uses of other buffers, until their entry stands at DONE with its fills complete, and for
older home writes. -/
def State.writebackBlocked (s : State) (e : Entry) : Bool :=
  (s.olderThan e).any fun p =>
    let settled := (p.state == .done || p.state == .verified) && p.fills == 0
    rangesMeet p.homeWrites e.homeWrites || (!settled && rangesMeet p.homeUses e.homeWrites)

/-- EXT ranges of an entry, and whether each is a write (R111). -/
def Entry.exts (e : Entry) : List (Nat × Nat × Nat × Bool) :=
  let task := match e.kind with
    | .task _ _ => true
    | _ => false
  (e.ops.mapIdx fun i p => (i, p)).filterMap fun x =>
    if x.2.w.isExt then some (x.2.obj, x.2.base, x.2.w.size, task || x.1 != 0) else none
def State.extBlocked (s : State) (e : Entry) : Bool :=
  (s.olderThan e).any fun p => p.exts.any fun a => e.exts.any fun b =>
    (a.2.2.2 || b.2.2.2) && a.1 == b.1 && a.2.1 < b.2.1 + b.2.2.1 && b.2.1 < a.2.1 + a.2.2.1
/-- A COPY into EXT runs only as the oldest entry (R125). -/
def State.copyBlocked (s : State) (e : Entry) : Bool :=
  match e.kind with
  | .copy _ _ => (e.exts.any fun x => x.2.2.2) && !(s.olderThan e).isEmpty
  | _ => false

/-! ### Dependent entries (15 R333) -/

def State.dependent (s : State) (e : Entry) : Bool :=
  e.prods.any fun t => match s.entry t with
    | some p => p.live && (p.state != .verified || p.dep)
    | none => false

/-- Nothing older keeps an entry from being dispatched (R111, R114, R125, R137). -/
def State.unordered (s : State) (e : Entry) : Bool :=
  e.fills == 0 && !s.extBlocked e && !s.homeBlocked e && !s.copyBlocked e && !((s.olderThan e).any (·.kind.isCkpt))

end Sys2Proof.Machine
end

