-- ==== Sys2Proof/Machine/Sync.lean ====
section
/-!
DEFINITION. Synchronisation and work instructions (11): semaphores, barriers and cells, spawn trees, persistent
tasks, YIELD and circuits, with the events that act on them.
-/

namespace Sys2Proof.Machine

/-! ### Semaphores (R268-R272, R284, R285) -/

def execNopE (e : ESync) (s : State) : Host.Outcome State Fault Refusal := engine s e true noCheck fun _ s => s

/-- SEMSIG signals once the accesses before it have performed at core scope (R270, R284). -/
def execSemsig (e : ESync) (s : State) : Host.Outcome State Fault Refusal :=
  engine s e false noCheck fun k s =>
    let st := s.strand k
    if s.unperformed st.owner st.fl.accesses then
      s.modStrand k fun st => st.withSy fun y =>
        { y with sigs := y.sigs ++ [⟨e.sigSem.toNat, engineInc e, st.fl.accesses, (st.bundleAddr, st.slot)⟩] }
    else s.modStrand k fun st => st.signal (engineSignal e)

/-- One semaphore takes the increments of a cycle (R271). -/
def State.addSem (s : State) (k n i : Nat) : State :=
  let v := (s.strand k).semaphore n + i
  let s := s.modStrand k fun st => st.withSy fun y => { y with sem := SMap.set y.sem n (min 65535 v) }
  if 65535 < v then s.late k ((s.strand k).semFault n) else s

/-- SEMSIGs of a strand whose accesses have performed. -/
def State.readySigs (s : State) (st : Strand) : List SigWait := st.sy.sigs.filter fun w => !s.unperformed st.owner w.before
/-- Their signals act. -/
def Strand.passSigs (st : Strand) (ready : List SigWait) : Strand :=
  ready.foldl (fun st w => (st.signalFrom (some (w.sem, w.inc)) w.origin).addSignal (some (w.sem, w.inc)))
    (st.withSy fun y => { y with sigs := y.sigs.filter fun w => !ready.contains w })

/-- The increments of the last cycle join the semaphores, those of SEMSIGs whose accesses performed in it among them. -/
def execSemaphoreSignal (core : Nat) (s : State) : Host.Outcome State Fault Refusal :=
  let s := s.modStrand core fun st => st.passSigs (s.readySigs st)
  .next <| ((s.strand core).sy.semAdd.foldl (fun s p => s.addSem core p.1 p.2) s).modStrand core fun st =>
    st.withSy fun y => { y with semAdd := [] }

/-- Semaphores that this cycle's increments bring above 65535, with `use n` of each consumed in it (R271). -/
def State.overflowing (s : State) (k : Nat) (use : Nat → Nat) : List (Nat × Nat) :=
  (s.strand k).sy.semAdd.filter fun p => 65535 < (s.strand k).semaphore p.1 - use p.1 + p.2
/-- Their overflow is a fault of this cycle, whose bundle does not issue (18 R355) (log 38, DEDUCED). -/
def State.overflow (s : State) (k : Nat) : State :=
  (s.overflowing k fun _ => 0).foldl (fun s p =>
    (s.addSem k p.1 p.2).modStrand k fun st => st.withSy fun y => { y with semAdd := SMap.erase y.semAdd p.1 }) s

/-- SEMSIGs of absent strands whose accesses have performed: their increments go to the semaphore image (18 R370). -/
def State.divertSigs (s : State) : State :=
  s.absent.foldl (fun s a =>
    let ready := s.readySigs a.st
    ready.foldl (fun s w => s.signalOf a.st.owner (some (w.sem, w.inc)) w.origin)
      (s.modAbsent a.st.owner fun a => { a with st := a.st.withSy fun y =>
        { y with sigs := y.sigs.filter fun w => !ready.contains w } })) s

/-- SEMWAIT at its issue: the wait is satisfied (R285). -/
def execSemwait (n : BitVec 8) (t : BitVec 16) (d : BitVec 6) (nc : Bool) (e : ESync) (s : State) :
    Host.Outcome State Fault Refusal :=
  engine s e true noCheck fun k s => s.modStrand k fun st =>
    let st := if nc then st else st.consume n.toNat t.toNat
    if d = 0 then st else st.pushS d.toNat (BitVec.ofNat 64 (st.semaphore n.toNat)) 1 false

/-! ### Barriers: instructions (R273-R288) -/

/-- The cell a barrier field names; none for the gang barrier. -/
def barCell (b : BitVec 9) : Option Nat := if b = 0 then none else some (b.toNat - 0x100)
def State.gangOf (s : State) (o : Owner) : Option GangBar := s.gangs.find? (·.gang == o.gang)
/-- The barrier is a wired-AND line (R274). -/
def State.onLine (s : State) (o : Owner) (b : BitVec 9) : Bool :=
  b == 0 && (((s.gangOf o).map fun g => g.line.isSome).getD true)
/-- BUNT.PHASE and BUNT.GDELTA, and the phase of an arrival under a cell's mode (R275, R281). -/
def cellPhase (mode rank bunt : Nat) : Nat := if mode = 0 then 0 else if mode = 1 then rank % 8 else bunt

/-- Send an update toward a barrier (log 41, DEDUCED). -/
def State.sendUpdate (s : State) (k : Nat) (b : BitVec 9) (kind : UpdKind) (waits : Bool) : State :=
  let st := s.strand k
  { s with updates := s.updates ++
      [⟨barCell b, k, st.owner, kind, if s.onLine st.owner b then 2 else 12, st.fl.accesses, waits, st.fl.seq,
        (st.bundleAddr, st.slot)⟩] }

def execBarinit (bar : BitVec 9) (t : BitVec 6) (delta : BitVec 8) (mode : BitVec 2) (free : Bool) (e : ESync) (s : State) :
    Host.Outcome State Fault Refusal :=
  engine s e false
    (fun k => let n := ((s.strand k).s t.toNat).toNat
      if 1 ≤ n ∧ n ≤ 64 then none else some (.illopnd, 0))
    fun k s =>
      let n := ((s.strand k).s t.toNat).toNat
      (s.sendUpdate k bar (.barinit n delta.toNat mode.toNat free) false).modStrand k fun st =>
        (st.signalFrom (engineSignal e) (st.bundleAddr, st.slot)).withSy fun y =>
          { y with barinit := some ((barCell bar).getD 0, engineSignal e) }

def Strand.record (st : Strand) (b : BitVec 9) : Option ArrivalRec := st.sy.recs.find? (·.bar == b.toNat)

/-- BARARR at its issue: an older record of the barrier has completed and is replaced (R279). -/
def execBararr (bar : BitVec 9) (e : ESync) (s : State) : Host.Outcome State Fault Refusal :=
  engine s e true
    (fun k => let st := s.strand k
      if (st.record bar).isNone ∧ 4 ≤ st.sy.recs.length then some (.illopnd, 0) else none)
    fun k s =>
      (s.sendUpdate k bar (.arrive (s.strand k).sy.phase.toNat) true).modStrand k fun st => st.withSy fun y =>
        { y with recs := (y.recs.filter (·.bar != bar.toNat)) ++
            [⟨bar.toNat, false, y.phase.toNat, y.gdelta.toNat, false, none⟩] }

/-- BARPHASE after a release (R282). -/
def barphaseOf (r : ArrivalRec) (rg : Nat) : W64 :=
  BitVec.ofNat 64 (rg % 2 ^ 32 * 2 ^ 32 + (if r.phase then 0 else 2 ^ 31) + r.k * r.delta % 2 ^ 11 * 2 ^ 16
    + r.delta * 2 ^ 8 + r.k)

/-- BARWAIT at its issue: the record's phase has completed (R279). -/
def execBarwait (bar : BitVec 9) (e : ESync) (s : State) : Host.Outcome State Fault Refusal :=
  engine s e true noCheck fun k s => s.modStrand k fun st =>
    match st.record bar with
    | none => st
    | some r =>
      st.withSy fun y =>
        { y with recs := y.recs.filter (·.bar != bar.toNat), barphase := (r.rg.map (barphaseOf r)).getD y.barphase }

def execBarexp (bar : BitVec 9) (b : BitVec 6) (e : ESync) (s : State) : Host.Outcome State Fault Refusal :=
  engine s e true
    (fun k => let n := ((s.strand k).s b.toNat).toNat
      if 1 ≤ n ∧ n < 2 ^ 48 then none else some (.illopnd, 0))
    fun k s => s.sendUpdate k bar (.exp ((s.strand k).s b.toNat).toNat) false

/-- BARQRY: the destination is interlocked from issue, and takes its value when the query meets the barrier (R288). -/
def execBarqry (bar : BitVec 9) (d : BitVec 6) (e : ESync) (s : State) : Host.Outcome State Fault Refusal :=
  engine s e true noCheck fun k s =>
    let st := s.strand k
    if d = 0 then s
    else
      (s.sendUpdate k bar (.query (.s (rotIndex st.sc.rotb d.toNat))) false).modStrand k fun st =>
        st.pushS d.toNat 0 (if s.onLine st.owner bar then 4 else 24) false

/-! ### Barriers: cells and lines (R276-R278) -/

def State.cell (s : State) (n : Nat) : Cell := SMap.get Cell.free s.cells n
def State.setCell (s : State) (n : Nat) (c : Cell) : State := { s with cells := SMap.set s.cells n c }

/-- The barrier an update goes to: a cell below 256, or 256 + the gang's number. -/
def BarUpdate.target (u : BarUpdate) : Nat := u.cell.getD (256 + u.owner.gang)

/-- An update has arrived: its delay has passed, and an arrival's accesses have performed (R280). -/
def State.arrived (s : State) (u : BarUpdate) : Bool := u.left == 0 && !(u.waits && s.unperformed u.owner u.before)

/-- The order of kinds within a cycle: BARINIT, BAREXP, arrivals, bytes, queries. -/
def UpdKind.rank : UpdKind → Nat
  | .barinit _ _ _ _ => 0
  | .exp _ => 1
  | .arrive _ => 2
  | .bytes _ => 3
  | .query _ => 4

/-- Updates that reach barrier `t` in this cycle.  Those of one core keep their order: one that is due waits for an older
one, and for the next cycle where the order of kinds would put it first (R277).  A copy's byte update and a query wait for
none (R288).  `seen`: cores with an update before, the rank it takes in this cycle, 5 while it is still on its way. -/
def State.dueUpdates (s : State) (t : Nat) : List BarUpdate → SMap Nat → List BarUpdate
  | [], _ => []
  | u :: r, seen =>
    let r' := u.kind.rank
    if u.target ≠ t then s.dueUpdates t r seen
    else if 3 ≤ r' then (if s.arrived u then [u] else []) ++ s.dueUpdates t r seen
    else if s.arrived u && SMap.get 0 seen u.core ≤ r' then u :: s.dueUpdates t r (SMap.set seen u.core r')
    else s.dueUpdates t r (SMap.set seen u.core 5)

/-- Updates by ascending core, the order of one core kept. -/
def insertUpd (u : BarUpdate) : List BarUpdate → List BarUpdate
  | [] => [u]
  | v :: r => if u.core ≤ v.core then u :: v :: r else v :: insertUpd u r
def sortUpds (l : List BarUpdate) : List BarUpdate := l.foldr insertUpd []

/-- Mark an arrival counted in the strand's record. -/
def State.countRecord (s : State) (o : Owner) (bar : Nat) (phase : Bool) (k : Nat) : State :=
  s.modOwner o fun st => st.withSy fun y =>
    { y with recs := y.recs.map fun r =>
        if r.bar = bar ∧ !r.counted then { r with counted := true, phase := phase, k := if bar = 0 then r.k else k } else r }

/-- Send an event toward a core. -/
def State.sendEvent (s : State) (core : Nat) (o : Owner) (a : Arrival) (left : Nat) : State :=
  { s with events := s.events ++ [⟨core, o, a, left⟩] }

/-- Answer a query with a barrier's fields (R288). -/
def State.answerQuery (s : State) (u : BarUpdate) (own pb : Bool) (a at_ rest : Nat) : State :=
  match u.kind with
  | .query d =>
    let v := (if own then 2 ^ 63 else 0) + (if pb then 2 ^ 62 else 0) + a % 128 * 2 ^ 55 + at_ % 128 * 2 ^ 48 + rest % 2 ^ 48
    s.modOwner u.owner fun st =>
      { st with pend := st.pend.map fun p =>
          if p.dst = d ∧ p.seq = u.num ∧ p.slot = 7 then { p with value := BitVec.ofNat 128 v } else p }
  | _ => s

/-- A parked cell counts what it is given (18 R376). -/
def State.countParked (s : State) (n : Nat) : State :=
  let c := s.cell n
  match c.own with
  | some x => if c.parked then s.modPeri x fun p => { p with parkupd := p.parkupd + 1 } else s
  | none => s

/-- A cell is not owned (R276): TRAPSLOT names the slot of the command, but for the byte update of an absent strand's copy
(18 R352). -/
def State.notOwned (s : State) (o : Owner) (n : Nat) (origin : Nat × Nat) (copy : Bool) : State :=
  s.raiseTo o ⟨.barnown, BitVec.ofNat 64 n, if copy && (s.away o).isSome then none else some origin, 7⟩

/-- Apply one update to a cell, before completion is judged (log 82, DEDUCED). -/
def State.applyUpdate (s : State) (n : Nat) (u : BarUpdate) : State :=
  let c := s.cell n
  let mine := c.own = some u.owner.ctx
  match u.kind with
  | .barinit at_ delta mode free =>
    let refused := if free then !mine else c.own.isSome && !mine
    let s := if refused then s
      else
        let base : Cell := if mine then c else Cell.free
        (s.setCell n { base with own := some u.owner.ctx, at_ := at_, delta := delta,
                                 mode := mode }).countParked n
    s.sendEvent u.core u.owner (.answer n refused free u.origin) 12
  | .query _ => s
  | k =>
    if !mine then s.notOwned u.owner n u.origin (u.kind.rank == 3)
    else
      let s := match k with
        | .exp x => s.setCell n { c with bt := min (c.bt + x) (2 ^ 48 - 1) }
        | .bytes x => s.setCell n { c with b := min (c.b + x) (2 ^ 48 - 1) }
        | .arrive bunt =>
          let ph := cellPhase c.mode u.owner.rank bunt
          let early := c.a < c.at_
          (s.setCell n { c with a := if early then c.a + 1 else c.a, carried := if early then c.carried else c.carried + 1,
                                ph := SMap.set c.ph u.core ph }).countRecord u.owner (0x100 + n) (c.pb == early) ph
        | _ => s
      s.countParked n

/-- The strands, wherever they are, that hold a counted record of a barrier in a phase, with their cores. -/
def State.holders (s : State) (bar : Nat) (phase : Bool) (gang : Option Nat) : List (Nat × Owner) :=
  let hit (st : Strand) : Bool :=
    gang.all (· == st.node.gang) && st.sy.recs.any fun r => r.bar == bar && r.counted && r.phase == phase && r.rg.isNone
  (s.cores.filterMap fun p => if p.2.holds && (s.away p.2.st.owner).isNone && hit p.2.st then some (p.1, p.2.st.owner) else none)
    ++ s.absent.filterMap fun a => if hit a.st then some (a.oldCore, a.st.owner) else none

def State.releaseAll (s : State) (bar : Nat) (phase : Bool) (gang delta : Option Nat) (left : Nat) : State :=
  (s.holders bar phase gang).foldl (fun s p => s.sendEvent p.1 p.2 (.release bar phase delta (s.now + left)) left) s

/-- Judge completion of a cell (R277). -/
def State.judgeCell (s : State) (n : Nat) : State :=
  let c := s.cell n
  if c.own.isSome ∧ !c.parked ∧ c.at_ ≤ c.a ∧ c.bt ≤ c.b then
    (s.setCell n { c with pb := !c.pb, a := c.carried, carried := 0, b := c.b - c.bt, bt := 0 }).releaseAll (0x100 + n) c.pb
      none (some c.delta) 12
  else s

/-- The gang barrier takes its arrivals and completes (R274) (log 57, DEDUCED). -/
def State.gangCycle (s : State) (g : GangBar) (us : List BarUpdate) : State :=
  let arrive (x : GangBar × State) (u : BarUpdate) : GangBar × State :=
    match u.kind with
    | .arrive _ =>
      let early := x.1.a < g.size
      ({ x.1 with a := if early then x.1.a + 1 else x.1.a, carried := if early then x.1.carried else x.1.carried + 1 },
       x.2.countRecord u.owner 0 (x.1.pb == early) 0)
    | _ => x
  let (g', s) := us.foldl arrive (g, s)
  let full := g.size ≤ g'.a
  let g2 := if full then { g' with pb := !g'.pb, a := g'.carried, carried := 0 } else g'
  let s := { s with gangs := s.gangs.map fun x => if x.gang = g.gang then g2 else x }
  let s := if full then s.releaseAll 0 g'.pb (some g.gang) none (if g.line.isSome then 2 else 12) else s
  us.foldl (fun s u => s.answerQuery u true g2.pb g2.a g2.size 0) s

/-- Strands that hold an arrival record on a cell: whether each is absent. -/
def State.recordHolders (s : State) (n : Nat) : List Bool :=
  let hit (st : Strand) : Bool := st.sy.recs.any fun r => r.bar == 0x100 + n
  (s.cores.filterMap fun p => if p.2.holds && (s.away p.2.st.owner).isNone && hit p.2.st then some false else none)
    ++ s.absent.filterMap fun a => if hit a.st then some (decide (2 ≤ a.state)) else none

/-- A cell is parked when every strand that holds a record on it is absent (18 R371). -/
def State.parkCell (s : State) (n : Nat) : State :=
  let hs := s.recordHolders n
  let c := s.cell n
  if n < 224 ∧ c.own.isSome ∧ !c.parked ∧ hs ≠ [] ∧ hs.all (·) then s.setCell n { c with parked := true } else s
def State.parkCells (s : State) : State := s.cells.foldl (fun s p => s.parkCell p.1) s

/-- One cycle of a barrier: its updates in the order of R277, completion judged once, then the queries. -/
def execCellUpdateCycle (cell : Nat) (s : State) : Host.Outcome State Fault Refusal :=
  let us := s.dueUpdates cell s.updates []
  let s := { s with updates := s.updates.filter fun u => !us.contains u }
  let of (i : Nat) := sortUpds (us.filter (·.kind.rank == i))
  .next <|
    if cell < 256 then
      let s := s.parkCell cell
      let s := (of 0 ++ of 1 ++ of 2 ++ of 3).foldl (fun s u => s.applyUpdate cell u) s
      let s := s.judgeCell cell
      let c := s.cell cell
      (of 4).foldl (fun s u => s.answerQuery u (c.own == some u.owner.ctx) c.pb c.a c.at_ (c.bt - c.b)) s
    else
      match s.gangs.find? (·.gang == cell - 256) with
      | some g => s.gangCycle g (of 2 ++ of 4)
      | none => s

/-! ### Events that reach a core -/

/-- The first event of a sort that is due at a core. -/
def State.dueEvent (s : State) (core : Nat) (p : Arrival → Bool) : Option InFlightEvent :=
  s.events.find? fun e => e.core == core && e.left == 0 && p e.what
def Arrival.isRelease : Arrival → Bool | .release _ _ _ _ => true | _ => false
def Arrival.isAnswer : Arrival → Bool | .answer _ _ _ _ => true | _ => false
def Arrival.isTransfer : Arrival → Bool | .transfer _ _ _ => true | _ => false
def Arrival.isCredit : Arrival → Bool | .credit _ => true | _ => false

/-- A release reaches a strand with its RG (R278); an absent strand's goes to its frame (18 R370). -/
def execBarrierRelease (core : Nat) (s : State) : Host.Outcome State Fault Refusal :=
  .next <|
    match s.dueEvent core Arrival.isRelease with
    | none => s
    | some e =>
      let s := { s with events := s.events.erase e }
      match e.what with
      | .release bar phase delta rg =>
        s.modOwner e.owner fun st => st.withSy fun y =>
          { y with recs := y.recs.map fun r =>
              if r.bar = bar ∧ r.counted ∧ r.phase = phase ∧ r.rg = none then
                { r with rg := some rg, delta := delta.getD r.delta } else r }
      | _ => s

/-- BARINIT's answer: the freeze ends, the signal acts, and a freed cell becomes free (R270, R276, R286). -/
def execBarinitAnswer (core : Nat) (s : State) : Host.Outcome State Fault Refusal :=
  .next <|
    match s.dueEvent core Arrival.isAnswer with
    | none => s
    | some e =>
      let s := { s with events := s.events.erase e }
      match e.what with
      | .answer cell refused free origin =>
        let s := if !refused ∧ free ∧ (s.cell cell).own = some e.owner.ctx then s.setCell cell Cell.free else s
        let sig := ((s.strandOf e.owner).bind fun st => st.sy.barinit).bind (·.2)
        let s := s.modOwner e.owner fun st => st.withSy fun y => { y with barinit := none }
        if refused then s.notOwned e.owner cell origin false else s.signalTo e.owner sig
      | _ => s

/-! ### Spawn trees (R289-R294) -/

/-- A spawn descriptor: kernel offset, argument, entries (root operand, target, write, offset, length), and
whether every field is legal. -/
structure SpawnDesc where
  off : Nat
  arg : W64
  ents : List (Nat × Nat × Bool × Nat × Nat)
  legal : Bool
  deriving DecidableEq, Repr

def readDesc (bs : List Byte) : SpawnDesc :=
  let q (i : Nat) : Nat := ofLE ((bs.drop (8 * i)).take 8)
  let n := q 0 / 2 ^ 36 % 8
  let ents := (List.range n).map fun i =>
    let w := q (2 + 2 * i)
    (w % 8, w / 8 % 8, w / 64 % 2 == 1, w / 256 % 2 ^ 40, q (3 + 2 * i) % 2 ^ 40)
  ⟨q 0 % 2 ^ 36, BitVec.ofNat 64 (q 1), ents,
   q 0 / 2 ^ 39 == 0 && (List.range n).all fun i => let w := q (2 + 2 * i)
     w / 128 % 2 == 0 && w / 2 ^ 48 == 0 && q (3 + 2 * i) / 2 ^ 40 == 0⟩

/-- The faults of a descriptor, in order (R289) (log 83, DEDUCED). -/
def Strand.checkDesc (st : Strand) (d : SpawnDesc) : Trap :=
  let root (i : Nat) : Operand := st.ops[i]?.getD ⟨0, 0, 0, 0, 0⟩
  let within (e : Nat × Nat × Bool × Nat × Nat) : Bool :=
    st.node.depth == 0 || !e.2.2.1
      || st.node.writes.any fun w => w.1 == e.1 && w.2.1 ≤ e.2.2.2.1 && e.2.2.2.1 + e.2.2.2.2 ≤ w.2.1 + w.2.2
  let bad := d.ents.find? fun e => (root e.1).len < e.2.2.2.1 + e.2.2.2.2 || !within e
  let ro := d.ents.find? fun e => e.2.2.1 && (root e.1).mode == 0
  if !d.legal ∨ d.off % 64 ≠ 0 ∨ d.ents.any (fun e => st.ops.length ≤ e.1 || e.2.2.2.2 == 0)
      ∨ !decide ((d.ents.map (·.2.1)).Nodup) then some (.illopnd, 0)
  else
    match bad, ro with
    | some e, _ => some (.capbounds, BitVec.ofNat 64 e.2.2.2.1)
    | none, some e => some (.caprights, BitVec.ofNat 64 e.2.1)
    | none, none => none

/-- Nodes of a task run's tree that are pending or running. -/
def State.treeNodes (s : State) (tid : W32) (role : Nat) : List SpawnNode :=
  let mine (st : Strand) : Bool := st.id.tid == tid && st.id.role.toNat == role
  (s.cores.filterMap fun p => if p.2.holds && mine p.2.st then some p.2.st.node else none)
    ++ (s.absent.filterMap fun a => if mine a.st then some a.st.node else none)
    ++ s.ctxs.flatMap fun c => c.2.pool.filterMap fun e =>
        if e.tid == tid.toNat && e.role == role then some e.node else none

/-- Two ranges of root operands share a byte (log 42, DEDUCED). -/
def overlaps (x y : Nat × Nat × Nat) : Bool :=
  x.1 == y.1 && x.2.1 < y.2.1 + y.2.2 && y.2.1 < x.2.1 + x.2.2

/-- Status of a SPAWN that passed its checks: 0 success (R290). -/
def State.spawnStatus (s : State) (st : Strand) (writes : List (Nat × Nat × Nat)) (after : Bool) : Nat :=
  if st.node.limit < st.node.depth + 1 then 2
  else if 1024 ≤ (s.ctx st.id.ctx).pool.length then 1
  else
    let free (n : SpawnNode) : Bool :=
      n.node == st.node.node || st.node.ancestors.contains n.node || (after && st.node.children.contains n.node)
    if (s.treeNodes st.id.tid st.id.role.toNat).any fun n =>
        !free n && n.writes.any fun w => writes.any (overlaps w) then 3
    else 0

/-- A strand's throttle ends while its context's pool holds fewer than 768 entries (R294). -/
def State.relax (s : State) (st : Strand) : Strand :=
  if (s.ctx st.id.ctx).pool.length < 768 then { st with node := { st.node with throttled := false } } else st
/-- The throttles that end now. -/
def State.unthrottle (s : State) : State :=
  if (s.cores.any fun p => p.2.st.node.throttled) || s.absent.any (·.st.node.throttled) then
    { s with cores := s.cores.map fun (p : Nat × Core) => (p.1, { p.2 with st := s.relax p.2.st })
             absent := s.absent.map fun (a : Absent) => { a with st := s.relax a.st } }
  else s

def execSpawn (qd : BitVec 3) (cap : BitVec 4) (off st' : BitVec 6) (after : Bool) (e : ESync) (s : State) :
    Host.Outcome State Fault Refusal :=
  let desc (k : Nat) : SpawnDesc :=
    let st := s.strand k
    readDesc (s.spadBytes k (capAddr (st.c cap.toNat) (st.s off.toNat).toNat) 128)
  engine s e true
    (fun k =>
      let st := s.strand k
      let x := st.c cap.toNat
      let o : Int := (st.s off.toNat).toNat
      firstTrap [st.checkCap cap.toNat [rRead, rSpawn] [kScratch], checkBounds x o 128, checkAlign x o 128 16,
        st.checkDesc (desc k)])
    fun k s =>
      let st := s.strand k
      let d := desc k
      let writes := (d.ents.filter (·.2.2.1)).map fun e => (e.1, e.2.2.2.1, e.2.2.2.2)
      let status := s.spawnStatus st writes after
      let s := s.modStrand k fun st =>
        let st := if 768 ≤ (s.ctx st.id.ctx).pool.length then { st with node := { st.node with throttled := true } } else st
        (st.pushQ qd.toNat (status == 0) 8).pushS st'.toNat (BitVec.ofNat 64 status) 8 false
      if status ≠ 0 then s
      else
        let n := s.nextId + 1
        let node : SpawnNode :=
          ⟨n, st.node.path ++ [st.node.children.length], st.node.node :: st.node.ancestors, n, st.node.depth + 1, st.node.limit, writes, [], false, false⟩
        let p : PoolEntry :=
          { tid := st.id.tid.toNat, role := st.id.role.toNat, node := node, off := d.off, arg := d.arg, ents := d.ents,
            parentCore := k, after := if after then st.node.children else [], number := n, owner := st.owner,
            before := st.fl.accesses, since := s.now }
        let s := s.modStrand k fun st => { st with node := { st.node with children := st.node.children ++ [n] } }
        { (s.unthrottle.modCtx st.id.ctx fun c => { c with pool := c.pool ++ [p] }) with nextId := n }

/-! ### Persistent tasks (R295, R296, 05 R123) -/

/-- A READY entry that a resident persistent task of the same context may take. -/
def Entry.matchesTask (e p : Entry) : Bool :=
  match e.kind, p.kind with
  | .task w _, .task v _ =>
    e.state == .ready && e.ctx == p.ctx && !e.claimed && w.kobj == v.kobj && w.koff == v.koff && w.cls == v.cls
      && w.prof == v.prof && w.gang == v.gang
  | _, _ => false

/-- Operand cursors of a claimed entry. -/
def Entry.cursors (e : Entry) : List W64 := e.ops.map fun p => BitVec.ofNat 64 p.w.first

/-- The runs of a claimed entry: those of the resident task, with its own operands (log 43, DEDUCED). -/
def State.claimRuns (s : State) (tid : Nat) (ops : List ROperand) : List TaskRun → State × List TaskRun
  | [] => (s, [])
  | r :: rs =>
    let (s, os) := s.buildOperands tid r.role ops
    let (s, rs) := s.claimRuns tid ops rs
    (s, { r with att := 0, ended := 0, strands := r.cores.length, sig0 := 0, sig3 := 0, ops := os, born := [] } :: rs)

/-- Claim the oldest matching entry for the task `tid` that nothing older holds: it enters RUN and its views are built (log 43,
DEDUCED). -/
def State.claim (s : State) (tid : Nat) : State × W32 × List W64 :=
  match s.entry tid with
  | none => (s, 0, [])
  | some p =>
    match s.window.find? fun e => e.matchesTask p && s.unordered e with
    | none => (s, 0, [])
    | some e =>
      let dep := s.dependent e
      let (s, rs) := s.claimRuns e.tid e.ops p.runs
      (s.modEntry e.tid fun e => { e with state := .run, claimed := true, runs := rs, dep := dep, stamp := s.now },
       BitVec.ofNat 32 e.tid, e.cursors)

/-- The strand whose claims a member follows: rank 0 of its gang, of the primary for a twin or third run. -/
def State.leader (s : State) (st : Strand) : Option Strand :=
  let hit (x : Strand) : Bool :=
    x.id.rank == 0 && x.id.pers && x.node.node == 0 && x.id.ctx == st.id.ctx && x.id.role == 0
      && (if st.id.role = 0 then x.node.gang == st.node.gang else x.kn.code == st.kn.code && x.kn.hdr == st.kn.hdr)
  match s.absent.find? fun a => hit a.st with
  | some a => some a.st
  | none => ((s.cores.find? fun p => p.2.holds && hit p.2.st).map (·.2.st))
/-- The strand makes the claims itself. -/
def Strand.leads (st : Strand) : Bool := st.id.rank == 0 && st.id.role == 0

/-- Claims of a strand's NEXTs in an iteration. -/
def Strand.claimsIn (st : Strand) (i : Nat) : List (Nat × W32 × List W64) := st.sy.claims.filter (·.1 == i)
/-- The claim of the leader `l` that the next NEXT of a member takes: the one of the same place in the same iteration, or the
last of that iteration, when the leader has gone on to another (R296) (log 99, DEDUCED). -/
def Strand.claimFor (l st : Strand) : Option (W32 × List W64) :=
  let cs := l.claimsIn st.sy.iter
  let mine := (st.claimsIn st.sy.iter).length
  match cs[mine]? with
  | some c => some c.2
  | none => if st.sy.iter < l.sy.iter then some ((cs.getLast?.map (·.2)).getD (0, [])) else none

/-- What a NEXT claims. -/
def State.nextClaim (s : State) (k : Nat) : State × W32 × List W64 :=
  let st := s.strand k
  match st.sy.staged with
  | some r => (s, r)
  | none =>
    if st.leads then s.claim st.id.tid.toNat else (s, ((s.leader st).bind fun l => l.claimFor st).getD (0, []))

def execNext (e : ESync) (s : State) : Host.Outcome State Fault Refusal :=
  engineCounted s e 8 32 (fun k => if (s.strand k).id.pers then none else some (.illopnd, 0)) fun k s =>
    let fresh := (s.strand k).sy.staged.isNone
    let (s, tid, cur) := s.nextClaim k
    let run := ((s.entry tid.toNat).map (·.runs)).getD []
    let ops := ((run.find? (·.role == (s.strand k).id.role.toNat)).map (·.ops)).getD []
    s.modStrand k fun st =>
      let st := st.withSy fun y =>
        { y with claims := y.claims ++ [(y.iter, tid, cur)], staged := if tid = 0 then none else some (tid, cur) }
      let st := if fresh ∧ tid ≠ 0 then st.withScalar fun r => { r with alt := operandCaps ops } else st
      let put (st : Strand) (i : Nat) (v : W64) : Strand :=
        st.expose (.s (rotIndex st.sc.rotb (48 + i))) 1 (v.setWidth 4096) 32 0 0
      ((List.range cur.length).zip cur).foldl (fun st p => put st (p.1 + 1) p.2) (put st 0 (tid.setWidth 64))

/-! ### YIELD (R298) -/

def execYield (n t : BitVec 8) (e : ESync) (s : State) : Host.Outcome State Fault Refusal :=
  engine s e true noCheck fun k s =>
    if t.toNat ≤ (s.strand k).semaphore n.toNat then s.modStrand k fun st => st.consume n.toNat t.toNat
    else
      (s.modStrand k fun st => st.withSy fun y => { y with yielding := some (n.toNat, t.toNat) }).modCore k fun c =>
        { c with req := some ⟨3, .semaphore n.toNat t.toNat, false, 0⟩ }

/-! ### Circuits (R299-R301) -/

/-- The table that governs a slot beginning at GCYC g. -/
def SyncRegs.table (y : SyncRegs) (g : Nat) : SMap Byte :=
  ((y.ctabNext.filter (·.2 ≤ g)).getLast?.map (·.1)).getD y.ctab
/-- The destination a table binds to slot i. -/
def bound (t : SMap Byte) (i : Nat) : Option Nat :=
  let b := SMap.get 0 t i
  if b.getLsbD 7 then some (b.toNat % 64) else none
def SyncRegs.credit (y : SyncRegs) (d : Nat) : Nat := SMap.get 2 y.credits d

def execCsend (v : BitVec 9) (dst : BitVec 6) (e : ESync) (s : State) : Host.Outcome State Fault Refusal :=
  engine s e true
    (fun k =>
      let t := (s.strand k).sy.table s.now
      if dst.toNat = k ∨ !((List.range 64).any fun i => bound t i == some dst.toNat) then some (.illopnd, 0) else none)
    fun k s => s.modStrand k fun st => st.withSy fun y =>
      { y with credits := SMap.set y.credits dst.toNat (y.credit dst.toNat - 1)
               sends := y.sends ++ [(dst.toNat, st.v v.toNat, s.now)] }

/-- The strand a circuit addresses at a core: of the sender's context the one it runs or the one that left it, and where there is
none the one it runs, of whichever context (11 R300, R301, 18 R370) (log 122, DEDUCED). -/
def State.circuitOwner (s : State) (core ctx : Nat) : Option Owner :=
  let c := s.core core
  if c.holds && c.st.id.ctx == ctx then some c.st.owner
  else
    match s.absent.find? fun a => a.oldCore == core && a.st.id.ctx == ctx with
    | some a => some a.st.owner
    | none => if c.holds then some c.st.owner else none
/-- The owner of a transfer to a core that no strand answers for; it takes its links all the same. -/
def nobody : Owner := ⟨16, 0, 0, 0, 0, 0, 0⟩

def execCrecv (v : BitVec 9) (src : BitVec 6) (e : ESync) (s : State) : Host.Outcome State Fault Refusal :=
  engineCounted s e 1 2 noCheck fun k s =>
    let st := s.strand k
    match st.sy.inbox.find? (·.1 == src.toNat) with
    | none => s
    | some x =>
      let s := s.modStrand k fun st =>
        (st.withSy fun y => { y with inbox := y.inbox.erase x }).expose (.v v.toNat) (BitVec.allOnes 128) x.2 2 0 0
      match s.circuitOwner src.toNat st.id.ctx with
      | some o => s.sendEvent src.toNat o (.credit k) (16 + 4 * meshHops (chipOf src.toNat) (chipOf k))
      | none => s

/-- CTAB loads a table that governs from the first revolution at least 16 cycles away (R299). -/
def execCtab (cap : BitVec 4) (off : BitVec 6) (e : ESync) (s : State) : Host.Outcome State Fault Refusal :=
  let bytes (k : Nat) : List Byte :=
    let st := s.strand k
    s.spadBytes k (capAddr (st.c cap.toNat) (st.s off.toNat).toNat) 64
  engine s e true
    (fun k =>
      let st := s.strand k
      let x := st.c cap.toNat
      let o : Int := (st.s off.toNat).toNat
      firstTrap [st.checkPriv 1 0x04A, st.checkCap cap.toNat [rRead] [kScratch], checkBounds x o 64, checkAlign x o 64 1,
        if (bytes k).any fun b => b.getLsbD 6 || (b.getLsbD 7 && b.toNat % 64 == k) then some (.illopnd, 0) else none])
    fun k s =>
      let t : SMap Byte := ((List.range 64).zip (bytes k)).filter (·.2 != 0)
      s.modStrand k fun st => st.withSy fun y =>
        let g := (s.now + 16 + 511) / 512 * 512
        { y with ctab := y.table s.now, ctabNext := (y.ctabNext.filter fun x => s.now < x.2 ∧ x.2 ≠ g) ++ [(t, g)], credits := [] }

/-- Mesh links of the X-then-Y route between two chiplets (01 R8): node left and direction. -/
def links (a b : Nat) : List (Int × Int × Nat) :=
  let (x0, y0) := nodeOf a
  let (x1, y1) := nodeOf b
  let xs := (List.range (x1 - x0).natAbs).map fun (i : Nat) =>
    if x0 < x1 then (x0 + i, y0, 0) else (x0 - i, y0, 1)
  let ys := (List.range (y1 - y0).natAbs).map fun (i : Nat) =>
    if y0 < y1 then (x1, y0 + i, 2) else (x1, y0 - i, 3)
  xs ++ ys

def flightTime (a b : Nat) : Nat := 16 + 4 * meshHops (chipOf a) (chipOf b)

/-- Links taken in this slot by transfers already sent in this cycle. -/
def State.busyLinks (s : State) : List (Int × Int × Nat) :=
  s.events.flatMap fun e =>
    match e.what with
    | .transfer src dest _ => if e.left = flightTime src dest then links (chipOf src) (chipOf dest) else []
    | _ => []

/-- The offer that core k sends in the slot that begins now, if any. -/
def State.offer (s : State) (k : Nat) : Option (Nat × VReg × Nat) :=
  let y := (s.strand k).sy
  if s.now % 8 ≠ 0 then none
  else
    match bound (y.table s.now) (s.now % 512 / 8) with
    | none => none
    | some d =>
      match y.sends.find? fun x => x.1 == d && x.2.2 + 8 ≤ s.now with
      | none => none
      | some x => if (links (chipOf k) (chipOf d)).any s.busyLinks.contains then none else some x

/-- A slot of the circuit table begins: its offer leaves (R300). -/
def execCircuitSlot (core : Nat) (s : State) : Host.Outcome State Fault Refusal :=
  .next <|
    match s.offer core with
    | none => s
    | some x =>
      let ctx := (s.strand core).id.ctx
      let s := s.modStrand core fun st => st.withSy fun y => { y with sends := y.sends.erase x }
      s.sendEvent x.1 ((s.circuitOwner x.1 ctx).getD nobody) (.transfer core x.1 x.2.1) (flightTime core x.1)

/-- A transfer enters the inbox, or the inbox image of an absent strand (18 R370). -/
def execCircuitTransferArrival (core : Nat) (s : State) : Host.Outcome State Fault Refusal :=
  .next <|
    match s.dueEvent core Arrival.isTransfer with
    | none => s
    | some e =>
      let s := { s with events := s.events.erase e }
      match e.what with
      | .transfer src _ d =>
        let s := if (s.away e.owner).isSome then s.modPeri e.owner.ctx fun p => { p with divinb := p.divinb + 1 } else s
        s.modOwner e.owner fun st => st.withSy fun y => { y with inbox := y.inbox ++ [(src, d)] }
      | _ => s

def execCircuitCreditReturn (core : Nat) (s : State) : Host.Outcome State Fault Refusal :=
  .next <|
    match s.dueEvent core Arrival.isCredit with
    | none => s
    | some e =>
      let s := { s with events := s.events.erase e }
      match e.what with
      | .credit d =>
        s.modOwner e.owner fun st => st.withSy fun y => { y with credits := SMap.set y.credits d (y.credit d + 1) }
      | _ => s

end Sys2Proof.Machine
end

