-- ==== Sys2Proof/Machine/Protect.lean ====
section
/-!
DEFINITION. Protection instructions (15 R338-R341): the signature registers and ZINJECT.
-/

namespace Sys2Proof.Machine

/-- SIGRD reads the value the register had when the cycle began, as MFSR does; with .sync also the folds of earlier
slots of its own bundle (R339) (log 39, DEDUCED). -/
def execSigrd (d : BitVec 6) (k : BitVec 2) (sync : Bool) (e : ESync) (s : State) : Host.Outcome State Fault Refusal :=
  engine s e true noCheck fun c s => s.modStrand c fun st =>
    let x := if sync then st.mergeSig else st
    st.pushS d.toNat (SMap.get 0 x.sig k.toNat) 2 false

/-- SIGFOLD adds a term to SIG3 when the cycle ends (R340). -/
def execSigfold (a b : BitVec 6) (e : ESync) (s : State) : Host.Outcome State Fault Refusal :=
  engine s e true noCheck fun c s => s.modStrand c fun st =>
    st.addSig 3 (fmix (st.s a.toNat + (st.s b.toNat + 1) * 0x9E3779B97F4A7C15))

/-- SIGCLR clears a register; what hardware folds in this cycle is added after it; K from 0 to 2 needs supervisor level
(R340). -/
def execSigclr (k : BitVec 2) (e : ESync) (s : State) : Host.Outcome State Fault Refusal :=
  engine s e true (fun c => if k = 3 then none else (s.strand c).checkPriv 1 0x052) fun c s => s.modStrand c fun st =>
    { st with sig := SMap.set st.sig k.toNat 0 }

/-- The attempt and role that ZINJECT names are those of the strand (R341). -/
def Strand.injects (st : Strand) (o : ZinjOp) : Bool :=
  st.id.att.toNat == o.att.toNat && (o.role == 0 || st.id.role.toNat + 1 == o.role.toNat)

/-- A matrix operation of ZINJECT's own bundle goes on reading the old value of the row that a flip changes. -/
def MatOp.keeps (o : MatOp) (seq t i : Nat) (flip : BitVec 16384) : MatOp :=
  if o.seq = seq ∧ o.kind ≠ .ldw ∧ o.o.tile.toNat = t then { o with unflip := SMap.set o.unflip i flip } else o

/-- An MZERO of the same bundle clears the row after the flip (10 R249). -/
def MatOp.clearsLater (o : MatOp) (seq t i : Nat) : Bool :=
  o.seq == seq && o.kind == .zero && o.o.tile.toNat == t && decide (o.o.row0.toNat + 64 ≤ i)
    && decide (i < o.o.row0.toNat + o.rows)

/-- ZINJECT flips one bit: of a tile element, of a vector lane or of a scratchpad granule (R341).  The flip acts at the end
of the cycle: after its landings, and unseen by a matrix operation of its bundle.  Where the attempt or the role does not
match, or the guard is false, it makes no flip and no check of its own (log 97, DEDUCED). -/
def execZinject (o : ZinjOp) (e : ESync) (s : State) : Host.Outcome State Fault Refusal :=
  let c := o.cap.toNat
  let at_ (k : Nat) : Int := ((s.strand k).s o.a.toNat).toNat
  engine s e true
    (fun k =>
      let st := s.strand k
      let x := st.c c
      if !st.guard e.g || !st.injects o then none
      else firstTrap [if capHas x rInject then none else some (.caprights, BitVec.ofNat 64 c),
        if o.kind = 2 then
          firstTrap [st.checkCap c [] [kScratch], checkBounds x (at_ k) 16, checkAlign x (at_ k) 16 1,
            if at_ k % 16 = 0 then none else some (.align, BitVec.ofNat 64 (capAddr x (at_ k)))]
        else none])
    fun k s =>
      let st := s.strand k
      if !st.injects o then s
      else
        match o.kind.toNat with
        | 0 =>
          let t := o.a.toNat
          let i := o.b.toNat
          let flip := (1 : BitVec 16384) <<< (32 * o.c.toNat + o.bit.toNat)
          s.modStrand k fun st => st.withMx fun x =>
            if x.ops.any (·.clearsLater st.fl.seq t i) then x
            else
              let x : MatrixRegs := { x with ops := x.ops.map fun m => m.keeps st.fl.seq t i flip }
              x.setRow t i (x.row t i ^^^ flip)
        | 1 =>
          -- after the results and the row reads of the cycle
          s.modNow k fun n => { n with flips := n.flips ++ [(o.a.toNat, 32 * o.b.toNat + o.bit.toNat)] }
        | _ =>
          let s := (s.flushSpad k false)
          let a := capAddr (st.c c) (at_ k) + o.bit.toNat / 8
          let b := s.spadByte k a ^^^ ((1 : Byte) <<< (o.bit.toNat % 8))
          (s.schedule k (st.bankBit a)).pokeSpad k [(a, b)] []

end Sys2Proof.Machine
end

