-- ==== Sys2Proof/Machine/Sregs.lean ====
section
/-!
DEFINITION. MFSR and MTSR (06 R145-R149, R155): the values special registers read as, and the levels they need.
-/

namespace Sys2Proof.Machine

/-- DEVID of the production stepping (03 R77). -/
def devid : Nat := 0x48E7 * 2 ^ 48 + 0xFF * 2 ^ 32 + 1 * 2 ^ 20 + Config.stepping * 2 ^ 16 + 0x9720

def Ident.cstat (i : Ident) (ldepth : Nat) : Nat :=
  flag i.pers 15 + ldepth * 2 ^ 12 + flag i.hndl 11 + i.sres.toNat * 2 ^ 8 + i.priv.toNat * 2 ^ 6 + flag i.dz 0

/-- MSTAT as MFSR reads it (10 R263): TBUSY in bits 63:56, LBUSY 55, ABUSY 54, XBUSY 53, CRV 52:45, the enables and the sticky bits
below. -/
def MatrixRegs.mstatValue (x : MatrixRegs) : Nat :=
  x.mstat.toNat + x.crv.toNat * 2 ^ 45 + flag x.xferBusy 53 + flag x.arrayBusy 54 + flag x.loaderBusy 55
    + ((List.range 8).map fun t => flag (x.tileBusy t) (56 + t)).sum

/-- CPSTAT (08 R195); `q` is the strand's queue. -/
def CopyRegs.cpstat (c : CopyRegs) (q : List CopyCmd) : Nat :=
  c.guardCount.toNat * 2 ^ 48 + min 15 q.length * 2 ^ 36 + flag (q.any fun x => x.done < x.runs) 35 + flag c.abort 34
    + flag c.gbad 33 + flag c.derr 32 + c.te.toNat * 2 ^ 8 + c.flags.toNat

/-- CIRCST: bit k set while the inbox for source k holds an entry (11 R302). -/
def circst (inbox : List (Nat × VReg)) : Nat := ((List.range 64).map fun k => flag (inbox.any (·.1 == k)) k).sum

/-- The value of special register n on core k at the start of its cycle. -/
def State.readSR (s : State) (k n : Nat) : Nat :=
  let c := s.core k
  let st := c.st
  match n with
  | 0x000 => st.id.cstat c.now.ldepth
  | 0x001 => st.id.att.toNat
  | 0x002 => st.id.tid.toNat
  | 0x003 => st.id.gangSize * 2 ^ 8 + st.id.rank
  | 0x004 => st.id.ctx
  | 0x008 => st.id.cyc.toNat
  | 0x009 => st.id.frz.toNat
  | 0x00A => s.now * 20 / 21
  | 0x00B => s.now
  | 0x00C => st.id.waitc.toNat
  | 0x014 => devid
  | 0x020 => st.vec.vstat.toNat
  | 0x021 => st.vec.vctl.toNat
  | 0x022 => st.vec.vixr.toNat
  | 0x030 => st.mx.ashapeValue
  | 0x031 => st.mx.mstatValue
  | 0x032 => st.mx.chkloc.toNat
  | 0x033 => st.mx.chktol.toNat
  | 0x040 => st.cp.cpstat (s.commands st.owner)
  | 0x041 => (((s.commands st.owner).head?.map (·.done)).getD st.cp.lastRuns.toNat) % 2 ^ 48
  | 0x042 => st.vec.vpi.toNat
  | 0x043 => st.mx.mpiValue
  | 0x050 => st.sy.gdelta.toNat * 2 ^ 8 + st.sy.phase.toNat
  | 0x051 => st.sy.barphase.toNat
  | 0x052 => circst c.now.inbox
  | 0x060 => (SMap.get 0 st.sig 0).toNat
  | 0x061 => (SMap.get 0 st.sig 1).toNat
  | 0x062 => (SMap.get 0 st.sig 2).toNat
  | 0x063 => (SMap.get 0 st.sig 3).toNat
  | 0x064 => flag st.id.dep 5 + flag st.id.head 4 + st.id.role.toNat * 4 + st.id.cls.toNat
  | 0x070 => st.tr.trapc.toNat
  | 0x071 => st.tr.trapv.toNat
  | 0x072 => st.tr.held.length
  | 0x073 => st.tr.trapslot.toNat
  | 0x074 => st.tr.emuslot.toNat
  | 0x080 => c.limw.toNat
  | 0x081 => (SMap.get 0x10C s.hub.drpthr (domainOf (chipOf k))).toNat
  | 0x082 => st.energy / energyUnit
  | 0x090 => st.sc.rotb.toNat
  | _ => if 0x100 ≤ n ∧ n < 0x140 then (SMap.get 0 st.fmtb (n - 0x100)).toNat else 0

/-- The lowest level that may read a register (R145). -/
def readLevel (n : Nat) : Nat := if 0x070 ≤ n ∧ n ≤ 0x081 then 1 else 0

/-- The lowest level that may write a register; an ignored write needs none (R145). -/
def writeLevel (n : Nat) : Nat :=
  if n = 0x082 then 2
  else if (0x041 ≤ n ∧ n ≤ 0x043) ∨ n = 0x050 ∨ (0x060 ≤ n ∧ n ≤ 0x063) ∨ (0x070 ≤ n ∧ n ≤ 0x081) then 1
  else 0

/-- MFSR at issue + 2 writes the value of the cycle's start; its checks are made whatever the guard holds. -/
def execMfsr (d : BitVec 6) (n : BitVec 12) (g : Guard) (s : State) : Host.Outcome State Fault Refusal :=
  onCore s fun k =>
    match (s.strand k).checkPriv (readLevel n.toNat) 0x28 with
    | some (c, v) => s.issueTrap k c v
    | none =>
      if (s.strand k).guard g then
        s.modStrand k fun st => st.pushS d.toNat (BitVec.ofNat 64 (s.readSR k n.toNat)) 2 false
      else s

/-- The checks of MTSR: level, bank mask of the kernel for FMTB (04 R93), the mask of ASHAPE (10 R261). -/
def Strand.checkMtsr (st : Strand) (n : Nat) (v : W64) : Trap :=
  firstTrap [
    if 0x100 ≤ n ∧ n < 0x140 ∧ !st.kn.banks.getLsbD (n - 0x100) then some (.illopnd, 0) else none,
    st.checkPriv (writeLevel n) 0x29,
    if n = 0x030 then st.checkShape (v.toNat % 16) else none]

/-- MTSR acts for bundles issued after its own (R146). -/
def execMtsr (d : BitVec 6) (n : BitVec 12) (g : Guard) (s : State) : Host.Outcome State Fault Refusal :=
  onCore s fun k =>
    let st := s.strand k
    match st.checkMtsr n.toNat (st.s d.toNat) with
    | some (c, v) => s.issueTrap k c v
    | none =>
      if st.guard g then
        s.modStrand k fun st => st.withFlow fun f => { f with deferred := f.deferred ++ [(some n.toNat, st.s d.toNat)] }
      else s

end Sys2Proof.Machine
end

