-- ==== Sys2Proof/Machine/System.lean ====
section
/-!
DEFINITION. System instructions (18 R381-R387): TRAP, ERET, CTXSAVE and CTXLOAD with the frame layout of R362,
HALT, WDOG and HOIST.
-/

namespace Sys2Proof.Machine

/-- TRAP raises SWTRAP in the cycle after its issue (R382). -/
def execTrap (code : BitVec 16) (e : ESync) (s : State) : Host.Outcome State Fault Refusal :=
  engine s e true noCheck fun k s => s.modStrand k fun st => st.withFlow fun f =>
    { f with swtrap := some (code.setWidth 64, st.bundleAddr) }

/-- ERET: outside a handler an illegal operand, then the level; its bundle's register writes act first (R383) (log 85, DEDUCED). -/
def execEret (next : Bool) (e : ESync) (s : State) : Host.Outcome State Fault Refusal :=
  engine s e false
    (fun k => let st := s.strand k
      if !st.id.hndl then some (.illopnd, 0) else st.checkPriv 1 0x061)
    fun k s => (s.applyDeferred k).modStrand k fun st => (st.signal (engineSignal e)).returnFrom next

/-! ### Frames in memory (R356, R362, R384; inner layouts: log 10, DESIGN CHOICE) -/

/-- The special registers kept in a frame, 8 bytes each, ascending. -/
def frameSRs : List Nat :=
  [0x000, 0x001, 0x002, 0x003, 0x004, 0x008, 0x009, 0x00A, 0x00B, 0x00C, 0x010, 0x011, 0x012, 0x013, 0x014,
   0x020, 0x021, 0x022, 0x030, 0x031, 0x032, 0x033, 0x040, 0x041, 0x042, 0x043, 0x050, 0x051, 0x052,
   0x060, 0x061, 0x062, 0x063, 0x064, 0x070, 0x071, 0x072, 0x073, 0x074, 0x082]

/-- Offset and length of the regions of a set of parts. -/
def frameSpans (parts : BitVec 8) (tiles : BitVec 8) (banks : BitVec 64) : List (Nat × Nat) :=
  let on (i : Nat) (l : List (Nat × Nat)) : List (Nat × Nat) := if parts.getLsbD i then l else []
  on 0 [(0x40, 512), (0x240, 64), (0x280, 64)] ++ on 1 [(0x340, 384)] ++ on 2 [(0x4C0, 512), (0x6C0, 320)]
    ++ on 3 [(0x800, 512)] ++ on 4 [(0x8A00, 256), (0x10000, 196608)]
    ++ on 5 ((0x8B00, 8) :: (bitsOf tiles).flatMap fun t => [(0x40000 + 0x1000 * t, 4096), (0x100000 + 0x100000 * t, 0x100000)])
    ++ on 6 [(0x3000, 17408)]
    ++ on 7 ((bitsOf banks).flatMap fun b => [(0x900000 + 0x60000 * b, 0x60000), (0x2100000 + 0xC00 * b, 0xC00)])

/-- An in-flight entry of 544 bytes (R356). -/
def Exposed.bytes (x : Exposed) : List Byte :=
  let (kind, reg) := match x.dst with
    | .v i => (0, i)
    | .s i => (1, i)
    | .p i => (2, i)
  leBytes 8 (reg % 512 + kind * 2 ^ 9 + x.slot * 2 ^ 11 + x.due % 64 * 2 ^ 16 + x.seq % 2 ^ 16 * 2 ^ 32
      + x.flags.toNat % 32 * 2 ^ 48)
    ++ leBytes 16 x.mask.toNat ++ leBytes 8 0 ++ leBytes 512 x.value.toNat

/-- A loop entry: start, how far its end lies beyond, at most 16383 (06 R158), and the remaining count. -/
def LoopEntry.words (l : LoopEntry) : List Nat := [l.start + (l.stop - l.start) * 2 ^ 36, l.rem.toNat]
def LoopEntry.ofWords (a b : Nat) : LoopEntry := ⟨a % 2 ^ 36, a % 2 ^ 36 + a / 2 ^ 36, BitVec.ofNat 64 b⟩

/-- The bytes of a frame region by its offset. -/
def State.frameRegion (s : State) (k off len : Nat) (frame : Bool) : List Byte :=
  let st := s.strand k
  if off = 0x40 then items 64 8 fun i => (SMap.get 0 st.sc.s i).toNat
  else if off = 0x240 then
    items 8 8 fun i => if i = 0 then st.sc.q.toNat else if i = 1 then st.sc.rotb.toNat
      else if i = 2 then st.sc.loops.length else 0
  else if off = 0x280 then
    padTo 64 (wordBytes (st.sc.loops.flatMap LoopEntry.words))
  else if off = 0x340 then
    items 24 16 fun i => if !frame then 0 else if i < 16 then (st.c i).toNat else (SMap.get 0 st.sc.alt (i - 16)).toNat
  else if off = 0x4C0 then items 64 8 fun i => (SMap.get 0 st.fmtb i).toNat
  else if off = 0x6C0 then items 40 8 fun i => s.readSR k (frameSRs[i]?.getD 0)
  else if off = 0x800 then items 256 2 fun i => st.semaphore i
  else if off = 0x8A00 then items 16 16 fun i => (st.p i).toNat
  else if off = 0x10000 then items 384 512 fun i => (st.v i).toNat
  else if off = 0x8B00 then leBytes 8 st.mx.crv.toNat
  else if off = 0x3000 then
    padTo len (st.queue.flatMap Exposed.bytes)
  else if off < 0x100000 then
    let t := (off - 0x40000) / 0x1000
    (items 512 4 fun i => (SMap.get 0 st.mx.cc (512 * t + i)).toNat) ++ items 512 4 fun i => (SMap.get 0 st.mx.cr (512 * t + i)).toNat
  else if off < 0x900000 then
    let t := (off - 0x100000) / 0x100000
    items 512 2048 fun i => (st.mx.row t i).toNat
  else if off < 0x2100000 then s.spadBytes k (off - 0x900000) 0x60000
  else
    let b := (off - 0x2100000) / 0xC00
    items 0xC00 1 fun i => ((List.range 8).map fun j => flag (s.isFull k (0x60000 * b + 16 * (8 * i + j))) j).sum

/-! ### The blocks that only a save writes (R362) -/

/-- The trap return state of 128 bytes. -/
def TrapReturn.bytes (r : TrapReturn) : List Byte :=
  padTo 128 (wordBytes
    ([r.f + r.sres.toNat * 2 ^ 36 + flag r.split 39 + flag r.part 40 + flag r.transfer.isSome 41 + flag r.skip 42
        + flag r.ending.isSome 43 + flag (r.ending.getD false) 44 + r.priv.toNat * 2 ^ 45 + r.loops.length * 2 ^ 48,
      (r.transfer.getD 0).toNat, r.nopw + r.seq % 2 ^ 32 * 2 ^ 32, r.kn.code.toNat % 2 ^ 64, r.kn.code.toNat / 2 ^ 64, r.kn.hdr]
      ++ r.loops.flatMap LoopEntry.words))

/-- A partial network, its images apart: 1024 bytes hold the two images (09 R241). -/
def LongOp.bytes (o : LongOp) : List Byte := leBytes 512 o.img0.toNat ++ leBytes 512 o.img1.toNat

/-- A column sum as 64 bits: sign, exponent and fraction. -/
def Val.bits : Val → Nat
  | .fin n m e => flag n 63 + (e % 2 ^ 11).toNat * 2 ^ 52 + m % 2 ^ 52
  | .inf n => flag n 63 + 2 ^ 62
  | .nan _ => 2 ^ 62 + 1
/-- The column sums of a stopped stream. -/
def MatOp.bytes (o : MatOp) : List Byte := padTo 4096 (wordBytes (o.colsum.map Val.bits))

/-- A slice record of 32 bytes. -/
def SliceRec.bytes (r : SliceRec) : List Byte :=
  padTo 32 (wordBytes [1 + r.cls * 2 ^ 1 + r.bank * 2 ^ 4 + r.fmt * 2 ^ 10 + flag r.trans 15 + r.scale.toNat * 2 ^ 16 + r.n * 2 ^ 24
    + r.row0 * 2 ^ 36 + r.count * 2 ^ 48, r.off, r.pitch, r.prof])
def MatrixRegs.recordBytes (x : MatrixRegs) : List Byte :=
  let of (p : Plane) : List Byte := (List.range 8).flatMap fun i =>
    (SMap.get none (p.recs.map fun q => (q.1, some q.2)) i).map SliceRec.bytes |>.getD (List.replicate 32 0)
  padTo 512 (of x.active ++ of x.shadow)

/-- The blocks that step 3 of a save writes (R366). -/
def State.savedParts (s : State) (k : Nat) : List FramePart :=
  let st := s.strand k
  let region (p : Nat × Nat) : FramePart := .ofBytes p.1 (s.frameRegion k p.1 p.2 true)
  [(0x40, 512), (0x240, 64), (0x280, 64), (0x340, 384), (0x4C0, 512), (0x6C0, 320), (0x3000, 17408), (0x8A00, 256), (0x8B00, 8)].map region
    ++ [.ofBytes 0x2C0 ((st.tr.ret.map TrapReturn.bytes).getD (List.replicate 128 0)),
        .ofBytes 0x1840 (s.copyImage st),
        .ofBytes 0x7400 ((st.longs.head?.map LongOp.bytes).getD (List.replicate 1024 0)),
        .ofBytes 0x7800 (((st.mx.ops.find? fun o => o.kind.streams).map MatOp.bytes).getD (List.replicate 4096 0)),
        .ofBytes 0x8800 st.mx.recordBytes,
        .ofMap 0x10000 196608 512 st.vec.v]
    ++ (bitsOf st.kn.tiles).flatMap fun t =>
        [.ofMap (0x100000 + 0x100000 * t) 0x100000 2048 ((st.mx.tile.filter fun p => p.1 / 512 == t).map fun p => (p.1 % 512, p.2)),
         region (0x40000 + 0x1000 * t, 4096)]

/-- Port of a strand's own access to an object. -/
def State.corePort (s : State) (k : Nat) (x : CapBits) (off : Nat) : Nat := s.entryPort (chipOf k) (capKind x) (capObj x) off

/-- The checks of CTXSAVE and CTXLOAD, in the order of R384. -/
def State.checkFrame (s : State) (k op : Nat) (right : Nat) (cap : BitVec 4) (off : BitVec 6) (parts : BitVec 8) (b : BitVec 6) :
    Trap :=
  let st := s.strand k
  let x := st.c cap.toNat
  let o := (st.s off.toNat).toNat
  firstTrap [st.checkPriv 1 op,
    if capGrants x [right] ∧ capKind x ≠ kScratch then none else some (.caprights, cap.setWidth 64),
    if o % 2 ^ 20 = 0 then none else some (.align, BitVec.ofNat 64 (capBase x + o)),
    if (frameSpans parts st.kn.tiles (st.s b.toNat)).all fun p => o + p.1 + p.2 ≤ capLen x then none
      else some (.capbounds, BitVec.ofNat 64 o)]

/-- The extents of an image. -/
def State.frameExtents (s : State) (x : CapBits) (o : Nat) (spans : List (Nat × Nat)) : List (Nat × Nat) :=
  (spans.flatMap fun p => s.extents (capObj x) (capBase x + o + p.1) p.2).dedup

/-- Cycles in which an image is moved, 512 bytes a cycle (log 20, DESIGN CHOICE). -/
def frameCycles (spans : List (Nat × Nat)) : Nat := (spans.map (·.2)).sum / 512 + 1
/-- The core freezes until the image has been moved. -/
def Strand.busyFor (st : Strand) (spans : List (Nat × Nat)) : Strand := st.withFlow fun f => { f with busy := frameCycles spans }
/-- The registers under the scalar interlock that parts of an image name. -/
def frameRegs (parts : BitVec 8) : List SDest :=
  (if parts.getLsbD 0 then ((List.range 64).drop 1).map SDest.s ++ ((List.range 8).drop 1).map SDest.q else [])
    ++ if parts.getLsbD 1 then (List.range 16).map SDest.c else []
/-- Pending writes of registers that CTXLOAD writes later are lost to it (06 R143). -/
def Strand.overwrite (st : Strand) (l : List SDest) : Strand :=
  { st with pend := st.pend.map fun p => if l.contains p.dst then { p with dst := .s 0 } else p }

/-- CTXSAVE writes parts of the strand in the frame layout; capabilities only into a FRAME object (R384, 19 R399). -/
def execCtxsave (cap : BitVec 4) (off : BitVec 6) (parts : BitVec 8) (b : BitVec 6) (e : ESync) (s : State) :
    Host.Outcome State Fault Refusal :=
  engine s e true (fun k => s.checkFrame k 0x062 rWrite cap off parts b) fun k s =>
    let s := s.flushSpad k false
    let st := s.strand k
    let x := st.c cap.toNat
    let o := (st.s off.toNat).toNat
    let spans := frameSpans parts st.kn.tiles (st.s b.toNat)
    let frame := ((s.obj (capObj x)).map (·.frame)).getD false
    match s.reachAll (s.corePort k x (capBase x + o)) true true (s.frameExtents x o spans) with
    | (s, .ok) =>
      (spans.foldl (fun t p => t.writeVia (s.corePort k x (capBase x + o + p.1)) (capObj x)
        (atAddr (capBase x + o + p.1) (s.frameRegion k p.1 p.2 frame))) s).modStrand k (Strand.busyFor · spans)
    | (s, .error) => s.slotLate k .data (capBase x + o)
    | (s, _) => s.slotLate k .revoked (capObj x)

/-- Item i of w bytes. -/
def itemAt (bs : List Byte) (w i : Nat) : Nat := ofLE ((bs.drop (w * i)).take w)
def mapItems {α : Type} (n : Nat) (f : Nat → α) : SMap α := (List.range n).map fun i => (i, f i)

/-- Registers that CTXLOAD reads back as MTSR of its level writes them, ENACC at trusted level; it leaves those that name the strand,
the device or the time (log 45, DEDUCED). -/
def Strand.loadable (st : Strand) (n : Nat) : Bool :=
  (n == 0x082 && 2 ≤ st.id.priv.toNat)
    || [0x000, 0x020, 0x021, 0x022, 0x030, 0x031, 0x032, 0x033, 0x040, 0x042, 0x043, 0x050, 0x060, 0x061, 0x062, 0x063,
        0x070, 0x071, 0x073, 0x074].contains n

/-- Registers whose value CTXLOAD reads back although MTSR cannot: the counters, the runs that CPI reads, and BARPHASE (log 45,
DEDUCED). -/
def Strand.readBack (st : Strand) (n v : Nat) : Strand :=
  let w : W64 := BitVec.ofNat 64 v
  match n with
  | 0x008 => st.withId fun i => { i with cyc := w }
  | 0x009 => st.withId fun i => { i with frz := w }
  | 0x00C => st.withId fun i => { i with waitc := w }
  | 0x041 => st.withCp fun c => { c with lastRuns := w.setWidth 48 }
  | 0x051 => st.withSy fun y => { y with barphase := w }
  | _ => st

/-- Sticky bits set, so that a register write gives them the written value. -/
def Strand.sticky (st : Strand) : Strand :=
  { st with id := { st.id with dz := true }
            vec := { st.vec with vstat := 0xFF }
            mx := { st.mx with mstat := st.mx.mstat ||| 0x1F }
            cp := { st.cp with abort := true, gbad := true, derr := true, flags := 0x1F } }

def exposedOf (bs : List Byte) : Exposed :=
  let w := itemAt bs 8 0
  let reg := w % 512
  let kind := w / 2 ^ 9 % 4
  ⟨if kind = 0 then .v reg else if kind = 1 then .s reg else .p reg, BitVec.ofNat 128 (ofLE ((bs.drop 8).take 16)),
   BitVec.ofNat 4096 (ofLE (bs.drop 32)), w / 2 ^ 16 % 64, w / 2 ^ 32 % 2 ^ 16, w / 2 ^ 11 % 8, 0,
   BitVec.ofNat 8 (w / 2 ^ 48 % 32), 0, 0⟩

/-- Load one frame region. -/
def State.loadRegion (s : State) (k off : Nat) (frame : Bool) (bs : List Byte) : State :=
  let at_ (w i : Nat) : Nat := itemAt bs w i
  let md (f : Strand → Strand) : State := s.modStrand k f
  if off = 0x40 then
    md fun st => st.withScalar fun r => { r with s := (mapItems 64 fun i => BitVec.ofNat 64 (at_ 8 i)).drop 1 }
  else if off = 0x240 then
    md fun st => st.withScalar fun r =>
      { r with q := BitVec.ofNat 8 (at_ 8 0), rotb := BitVec.ofNat 4 (at_ 8 1),
               loops := List.replicate (min 4 (at_ 8 2)) ⟨0, 0, 0⟩ }
  else if off = 0x280 then
    md fun st => st.withScalar fun r => { r with loops := r.loops.mapIdx fun i _ => .ofWords (at_ 8 (2 * i)) (at_ 8 (2 * i + 1)) }
  else if off = 0x340 then
    let c (i : Nat) : CapBits := if frame then BitVec.ofNat 128 (at_ 16 i) else 0
    md fun st => st.withScalar fun r => { r with c := mapItems 16 c, alt := mapItems 8 fun i => c (16 + i) }
  else if off = 0x4C0 then (List.range 64).foldl (fun s i => s.writeSR k (0x100 + i) (BitVec.ofNat 64 (at_ 8 i))) s
  else if off = 0x6C0 then
    ((List.range 40).zip frameSRs).foldl (fun s p =>
      if (s.strand k).loadable p.2 && (p.2 != 0x030 || ((s.strand k).checkShape (at_ 8 p.1 % 16)).isNone) then
        s.writeSR k p.2 (BitVec.ofNat 64 (at_ 8 p.1)) else s.modStrand k fun st => st.readBack p.2 (at_ 8 p.1)) (md Strand.sticky)
  else if off = 0x800 then md fun st => st.withSy fun y => { y with sem := mapItems 256 (at_ 2) }
  else if off = 0x8A00 then
    md fun st => st.withVec fun v => { v with p := (mapItems 16 fun i => BitVec.ofNat 128 (at_ 16 i)).drop 1 }
  else if off = 0x10000 then md fun st => st.withVec fun v => { v with v := mapItems 384 fun i => BitVec.ofNat 4096 (at_ 512 i) }
  else if off = 0x8B00 then md fun st => st.withMx fun m => { m with crv := BitVec.ofNat 8 (at_ 8 0) }
  else if off = 0x3000 then
    md fun st => st.withTr fun t =>
      { t with held := ((List.range 32).map fun i => exposedOf ((bs.drop (544 * i)).take 544)).filter fun x => x.due != 0 }
  else if off < 0x100000 then
    let t := (off - 0x40000) / 0x1000
    md fun st => st.withMx fun m => (List.range 512).foldl (fun m i =>
      { m with cc := SMap.set m.cc (512 * t + i) (BitVec.ofNat 32 (at_ 4 i)),
               cr := SMap.set m.cr (512 * t + i) (BitVec.ofNat 32 (at_ 4 (512 + i))) }) m
  else if off < 0x900000 then
    let t := (off - 0x100000) / 0x100000
    md fun st => st.withMx fun m => (List.range 512).foldl (fun m i => m.setRow t i (BitVec.ofNat 16384 (at_ 2048 i))) m
  else if off < 0x2100000 then s.pokeSpad k (atAddr (off - 0x900000) bs) []
  else
    let b := (off - 0x2100000) / 0xC00
    (List.range 0x6000).foldl (fun s g => s.setFull k (0x60000 * b + 16 * g) (at_ 1 (g / 8) / 2 ^ (g % 8) % 2 == 1)) s

/-- CTXLOAD reads parts back; what it loads acts from the next bundle (R384). -/
def execCtxload (cap : BitVec 4) (off : BitVec 6) (parts : BitVec 8) (b : BitVec 6) (e : ESync) (s : State) :
    Host.Outcome State Fault Refusal :=
  engine s e true (fun k => s.checkFrame k 0x063 rRead cap off parts b) fun k s =>
    let s := s.flushSpad k false
    let st := s.strand k
    let x := st.c cap.toNat
    let o := (st.s off.toNat).toNat
    let spans := frameSpans parts st.kn.tiles (st.s b.toNat)
    let frame := ((s.obj (capObj x)).map (·.frame)).getD false
    match s.reachAll (s.corePort k x (capBase x + o)) false true (s.frameExtents x o spans) with
    | (s, .ok) =>
      (spans.foldl (fun t p => t.loadRegion k p.1 frame
        (s.readVia (s.corePort k x (capBase x + o + p.1)) (capObj x) (capBase x + o + p.1) p.2).1) s).modStrand k fun st =>
          (st.overwrite (frameRegs parts)).busyFor spans
    | (s, .error) => s.slotLate k .data (capBase x + o)
    | (s, _) => s.slotLate k .revoked (capObj x)

/-! ### HALT, WDOG and HOIST -/

/-- HALT ends the strand in a task fault (R385). -/
def execHalt (code : BitVec 16) (e : ESync) (s : State) : Host.Outcome State Fault Refusal :=
  engine s e true (fun k => (s.strand k).checkPriv 1 0x064) fun k s =>
    let st := s.strand k
    if st.id.hndl then s.taskFault k .coretrap st.tr.trapc (st.tr.trapslot.toNat % 8) st.tr.trapv
    else s.taskFault k .coretrap 0 7 (code.setWidth 64)

/-- WDCTL's fields and a strand's deadline (R378). -/
def State.wdMult (s : State) : Nat := s.hub.wdctl.toNat % 256
def State.wdMax (s : State) : Nat := s.hub.wdctl.toNat / 256
def State.deadline (s : State) (st : Strand) : Nat := st.kn.cycles.toNat * s.wdMult

/-- WDOG restarts the count, at most WDKMAX times, and may read what is left (R386). -/
def execWdog (rd : Bool) (d : BitVec 6) (e : ESync) (s : State) : Host.Outcome State Fault Refusal :=
  engine s e true noCheck fun k s => s.modStrand k fun st =>
    let off := s.wdMult == 0
    let st := if !off && st.tr.wdUsed < s.wdMax then
        st.withTr fun t => { t with wdCount := 0, wdUsed := t.wdUsed + 1 } else st
    if !rd then st
    else st.pushS d.toNat (if off then BitVec.allOnes 64 else BitVec.ofNat 64 (s.deadline st - st.tr.wdCount)) 2 false

/-- HOIST fires the Hoist where the context is permitted (R387, 21 R423). -/
def execHoist (tag : BitVec 8) (e : ESync) (s : State) : Host.Outcome State Fault Refusal :=
  engine s e true noCheck fun k s =>
    let c := (s.strand k).id.ctx
    if (s.ctx c).hoistok then s.fireHoist 1 tag.toNat c else s

end Sys2Proof.Machine
end

