-- ==== Sys2Proof/Machine/Remote.lean ====
section
/-!
DEFINITION. Remote accesses on their way (07 R166, R170, R175-R179, 12 R305, R306, 19 R395-R398) and the Loupe's
acceptance of held writes (15 R331, R332).
-/

namespace Sys2Proof.Machine

def State.remote (s : State) (id : Nat) : Option Remote := s.remotes.find? (·.id == id)
def State.modRemote (s : State) (id : Nat) (f : Remote → Remote) : State :=
  { s with remotes := s.remotes.map fun r => if r.id = id then f r else r }
def State.stageTo (s : State) (id : Nat) (g : RStage) : State := s.modRemote id fun r => { r with stage := g }
/-- The access leaves its queue entry, and an acquire on it ends. -/
def State.dropRemote (s : State) (r : Remote) : State :=
  { s with remotes := s.remotes.filter (·.id != r.id) }.modOwner r.owner fun st => st.withFlow fun f =>
    { f with acquire := f.acquire.filter (· != 2 * r.id) }

def State.remotePort (s : State) (r : Remote) : Nat := s.entryPort (chipOf r.core) r.ckind r.obj r.off
def State.remoteExtents (s : State) (r : Remote) : List (Nat × Nat) := s.extents r.obj r.off r.size

/-! ### Sending (R166, R176) -/

/-- An access may leave its core: from issue + 1 on, and a release once the accesses before it have performed. -/
def State.sendable (s : State) (r : Remote) : Bool :=
  r.stage == .queued && r.issued < s.now && !(r.rel && s.unperformed r.owner r.num)

def execRemoteAccessSend (id : Nat) (s : State) : Host.Outcome State Fault Refusal :=
  .next <|
    match s.remote id with
    | none => s
    | some r =>
      if !s.sendable r then s
      else if r.held then s.modRemote id fun r => { r with stage := .loupe, issued := s.now }
      else s.stageTo id .port

/-! ### Translation (19 R396, R397) -/

/-- The access is not performed: its object is gone. -/
def State.revoke (s : State) (r : Remote) : State :=
  (s.dropRemote r).raiseTo r.owner (r.fault .revoked (s.resolve r.obj r.off).1)
/-- The access ends with uncorrectable data, or its translation did. -/
def State.dataFault (s : State) (r : Remote) : State := (s.dropRemote r).raiseTo r.owner (r.fault .data r.off)

/-- Walk the extents of a list that the port does not hold. -/
def State.walkAll (s : State) (port : Nat) : List (Nat × Nat) → State × Finding
  | [] => (s, .ok)
  | (o, e) :: l =>
    if (s.cached port o e).isSome then s.walkAll port l
    else
      match s.walk port o e with
      | (s, .ok) => s.walkAll port l
      | x => x

/-- The port needs a walk for the access. -/
def State.walkable (s : State) (r : Remote) : Bool :=
  r.stage == .port && r.ckind != kScratch && (s.remoteExtents r).any fun x => (s.cached (s.remotePort r) x.1 x.2).isNone

def execTranslationWalk (id : Nat) (s : State) : Host.Outcome State Fault Refusal :=
  .next <|
    match s.remote id with
    | none => s
    | some r =>
      if !s.walkable r then s
      else
        match s.walkAll (s.remotePort r) (s.remoteExtents r) with
        | (s, .ok) => s
        | (s, .absent _ _) => s.stageTo id .absent
        | (s, .gone) => s.revoke r
        | (s, .error) => s.dataFault r

/-! ### Performing (R170, R175, 12 R305) -/

/-- Locations of an access's footprint; those of a local atomic are addresses of the scratchpad. -/
def State.footprintOf (s : State) (r : Remote) : List ((Nat × Nat) × Nat) :=
  let runs := if r.bytes = [] then [(r.off, r.size)] else byteRuns r.bytes
  if r.ckind = kScratch then runs.map fun x => ((0, spadKey r.core x.1), x.2)
  else runs.flatMap fun x => s.spans r.obj x.1 x.2
/-- Locations of a held write. -/
def State.heldFootprint (s : State) (h : HeldWrite) : List ((Nat × Nat) × Nat) :=
  (if h.bytes = [] then [(h.off, h.size)] else byteRuns h.bytes).flatMap fun x => s.spans h.obj x.1 x.2
/-- Footprints of two accesses meet, whatever names them (12 R303). -/
def State.meets (s : State) (a b : Remote) : Bool := spansMeet (s.footprintOf a) (s.footprintOf b)

/-- The alias classes order two accesses (R170). -/
def classOrder (a b : Remote) : Bool := a.cls == 0 || b.cls == 0 || a.cls == b.cls

/-- Kinds that change memory, and kinds that return a value. -/
def RKind.writes (k : RKind) : Bool := k != .load
def Remote.returns (r : Remote) : Bool := r.dst.isSome

/-- Writes that the Loupe still holds for a class N strand, their homes absent, go before its later ones (15 R333). -/
def State.behindHeld (s : State) (r : Remote) : Bool :=
  r.kind.writes && (s.entry r.owner.tid.toNat).any (·.cls == 0)
    && s.held.any fun h => h.owner == r.owner && spansMeet (s.heldFootprint h) (s.footprintOf r)

/-- The flits of an access to a peer home. -/
def State.flitsOf (s : State) (r : Remote) : List (Nat × PeerAccess) :=
  s.peerFlits r.kind r.fn r.obj r.off r.size r.data r.comparand r.bytes

/-- An access is at its port, translated, nothing older of its strand must go first, and its link has room. -/
def State.performable (s : State) (r : Remote) : Bool :=
  r.stage == .port && !s.walkable r && !s.behindHeld r && s.linkRoom (s.flitsOf r)
    && !(r.kind != .store && r.ckind != kScratch && s.freshVia (s.remotePort r) r.obj r.off r.size)
    && (r.ckind != kScratch || (s.present r.owner).all fun k =>
      (s.core k).engineBanks &&& (s.strand k).bankBit r.off == 0)
    && !(s.remotes.any fun q => q.owner == r.owner && q.id < r.id && !q.performed && classOrder q r && s.meets q r)
    && !(r.slot == sstSlot && s.remotes.any fun q => q.slot == sstSlot && q.owner.ctx == r.owner.ctx && q.id < r.id && !q.performed)

/-- A local atomic of a strand waits for the accesses of its bundle. -/
def State.atomicWaits (s : State) (o : Owner) : Bool := s.remotes.any fun r => r.owner == o && r.ckind == kScratch && r.slot == 7

/-- A local atomic that waited for its bundle's accesses performs, in a bank-cycle of its bank.  The cycle's turn of its core
is over, so that 5 more cycles bring its return 6 cycles later (R177). -/
def State.performSpad (s : State) (r : Remote) : State :=
  match s.present r.owner with
  | none => s
  | some k =>
    let (s, old) := (s.schedule k ((s.strand k).bankBit r.off)).atomSpad k r.kind r.fn r.off r.size r.data.toNat r.comparand.toNat
    let s := s.dropRemote r
    s.modStrand k fun st =>
      let st := match r.dst with
        | some d => { st with pend := st.pend ++ [⟨d, BitVec.ofNat 128 old, 5, r.seq, 7, false⟩] }
        | none => st
      if r.acq then st.withFlow fun f => { f with acquire := (2 * r.seq + 1) :: f.acquire } else st

/-- The home applies or reads an access, as one step. -/
def State.applyAt (s : State) (r : Remote) : State :=
  let port := s.remotePort r
  match r.kind with
  | .store => (s.writeVia port r.obj r.bytes).stageTo r.id .stored
  | .load =>
    let (bs, bad) := s.readHeld port r.owner r.obj r.off r.size (some r.id)
    if bad then s.dataFault r
    else s.stageTo r.id (.performed (extendLoad r.sx r.size (ofLE bs)))
  | kind =>
    let (bs, bad) := s.readVia port r.obj r.off r.size
    if bad then s.dataFault r
    else
      let old := ofLE bs
      let new := atomNew kind r.fn r.size old r.data.toNat r.comparand.toNat
      (s.writeVia port r.obj (atAddr r.off (leBytes r.size new))).stageTo r.id
        (if r.returns then .performed (BitVec.ofNat 64 old) else .stored)

/-- An access is made at its home; one to a peer's home leaves by its link, and performs as the link acknowledges it (12 R306). -/
def State.performAt (s : State) (r : Remote) : State :=
  match s.reachAll (s.remotePort r) r.kind.writes false (s.remoteExtents r) with
  | (s, .gone) => s.revoke r
  | (s, .error) => s.dataFault r
  | (s, .absent _ _) => s.stageTo r.id .absent
  | (s, .ok) =>
    match s.flitsOf r with
    | [] => s.applyAt r
    | fl => (s.sendPeer (.access r.id) fl).stageTo r.id .sent

def execRemoteAccessPerform (id : Nat) (s : State) : Host.Outcome State Fault Refusal :=
  .next <|
    match s.remote id with
    | none => s
    | some r => if !s.performable r then s else if r.ckind = kScratch then s.performSpad r else s.performAt r

/-! ### Returns (R166, 18 R370) -/

/-- The value of a performed access. -/
def Remote.value (r : Remote) : Option W64 :=
  match r.stage with
  | .performed v => some v
  | _ => none

def execRemoteReturn (id : Nat) (s : State) : Host.Outcome State Fault Refusal :=
  .next <|
    match s.remote id with
    | none => s
    | some r =>
      match r.value, r.dst with
      | some v, some d =>
        let s := s.dropRemote r
        if (s.away r.owner).isSome then
          (s.modAbsent r.owner fun a => { a with returns := a.returns ++ [(d, v, r.seq)] }).modPeri r.owner.ctx fun p =>
            { p with divret := p.divret + 1 }
        else s.modOwner r.owner fun st => st.withScalar fun x => x.put d (v.setWidth 128)
      | _, _ => s

/-- A posted access was accepted at its home: its queue entry frees. -/
def execRemoteStoreAccept (id : Nat) (s : State) : Host.Outcome State Fault Refusal :=
  .next <|
    match s.remote id with
    | none => s
    | some r => if r.stage = .stored then s.dropRemote r else s

/-! ### The Loupe's buffer (15 R331, R332) -/

/-- Bytes of the containment buffer that a write takes: 32 for each granule it touches. -/
def heldBytes (size : Nat) (off : Nat) (bytes : List (Nat × Byte)) : Nat :=
  32 * (match bytes with
    | [] => (off + size - 1) / 16 - off / 16 + 1
    | _ => (bytes.map fun p => p.1 / 16).dedup.length)
def State.occupied (s : State) : Nat := s.held.foldl (fun n h => n + heldBytes h.size h.off h.bytes) 0

/-- Writes of an entry no longer stay in the buffer: head-only mode, or class N and no longer dependent. -/
def Entry.bypasses (e : Entry) : Bool :=
  e.headOnly || (match e.kind with
    | .task w _ => w.cls == 0 && !e.dep
    | _ => false)
/-- A held write has reached the Loupe, its flight of h mesh hops over, in its place, with room or a bypass. -/
def State.acceptable (s : State) (r : Remote) : Bool :=
  r.stage == .loupe && decide (r.issued + meshHops (chipOf r.core) 8 ≤ s.now)
    && !(s.remotes.any fun q => q.owner == r.owner && q.held && (q.stage == .loupe || q.stage == .queued) && q.id < r.id)
    && (((s.entry r.owner.tid.toNat).map Entry.bypasses).getD false
      || (!(s.entry r.owner.tid.toNat).any (·.heading) && s.occupied + heldBytes r.size r.off r.bytes ≤ Config.loupeBytes))

/-- Put a write among the held ones, in issue order. -/
def insertHeld (h : HeldWrite) : List HeldWrite → List HeldWrite
  | [] => [h]
  | x :: r => if h.order < x.order then h :: x :: r else x :: insertHeld h r

/-- A held write as the buffer keeps it. -/
def Remote.asHeld (r : Remote) : HeldWrite :=
  { tid := r.owner.tid.toNat, role := r.owner.role, owner := r.owner, order := r.id, ckind := r.ckind, obj := r.obj,
    off := r.off, size := r.size, bytes := r.bytes,
    atom := match r.kind with
      | .store => none
      | .load => none
      | k => some (k, r.fn, r.data), core := r.core }

def execLoupeAccept (id : Nat) (s : State) : Host.Outcome State Fault Refusal :=
  .next <|
    match s.remote id with
    | none => s
    | some r =>
      if !s.acceptable r then s
      else
        match s.entry r.owner.tid.toNat with
        | none => s.dropRemote r
        | some e =>
          if e.bypasses then
            -- in class D only the primary's writes go through (R332)
            if e.cls = 2 ∧ r.owner.role ≠ 0 then s.stageTo id .stored
            else (s.modRemote id fun r => { r with stage := .port, held := false }).modEntry e.tid fun e => { e with escaped := true }
          else { s with held := insertHeld r.asHeld s.held }.stageTo id .stored

/-- The flits of a held write to a peer home. -/
def HeldWrite.flits (h : HeldWrite) (s : State) : List (Nat × PeerAccess) :=
  match h.atom with
  | none => s.peerStore h.obj h.bytes
  | some (k, fn, v) => s.peerFlits k fn h.obj h.off h.size v 0 []

/-- A held write on its way to its home, as a store of its context that the system scope waits for (05 R133). -/
def HeldWrite.asRemote (h : HeldWrite) : Remote :=
  let (kind, fn, v) := h.atom.getD (.store, 0, 0)
  { id := h.order, owner := h.owner, core := h.core, num := 0, slot := sstSlot, addr := 0, kind := kind, ckind := h.ckind, obj := h.obj,
    off := h.off, size := h.size, data := v, bytes := h.bytes, comparand := 0, fn := fn, dst := none, seq := 0, sx := false,
    cls := 0, rel := false, acq := false, scope := 0, stage := .port, held := false, issued := 0 }

/-- A held write performs at its home, as retirement or a bypass releases it; one to a peer's home leaves by its link. -/
def State.releaseHeld (s : State) (h : HeldWrite) : State :=
  let port := s.entryPort (chipOf h.core) h.ckind h.obj h.off
  match s.reachAll port true false (s.extents h.obj h.off h.size) with
  | (s, .ok) =>
    match h.flits s, h.atom with
    | f :: fl, _ =>
      let r : Remote := { h.asRemote with id := s.nextId, stage := .sent }
      ({ s with remotes := s.remotes ++ [r], nextId := s.nextId + 1 }).sendPeer (.access s.nextId) (f :: fl)
    | [], none => s.writeVia port h.obj h.bytes
    | [], some (kind, fn, v) =>
      -- the atomics of one release see one another
      let old := ofLE ((s.keysVia port h.obj h.off h.size).map fun k => (k.map s.mem.read).getD 0)
      s.writeVia port h.obj (atAddr h.off (leBytes h.size (atomNew kind fn h.size old v.toNat 0)))
  | (s, .gone) => s.raiseTo h.owner (looseFault .revoked (s.resolve h.obj h.off).1)
  | (s, .error) => s.raiseTo h.owner (looseFault .data h.off)
  | (s, .absent _ _) => s

/-- A held write has a present home, and its link has room. -/
def State.releasable (s : State) (h : HeldWrite) : Bool :=
  ((s.extents h.obj h.off h.size).all fun x => ((s.tableEntry x.1 x.2).map fun e => e.p && !e.cw).getD true)
    && s.linkRoom (h.flits s)

/-- Release the writes that the Loupe holds for an entry and a run, in issue order (log 51, DEDUCED). -/
def State.releaseAllHeld (s : State) (tid : Nat) (role : Nat) : State :=
  let hs := s.held.filter fun h => h.tid == tid && h.role == role
  let s := hs.foldl (fun s h => s.releaseHeld h) s
  { s with held := s.held.filter fun h => !(h.tid == tid && h.role == role) }

/-- Perform one held write of an entry, which is escaped by it (R332, R333). -/
def State.releaseFirst (s : State) (tid : Nat) (h : HeldWrite) : State :=
  let s := (s.releaseHeld h).modEntry tid fun e => { e with escaped := true }
  { s with held := s.held.filter (·.order != h.order) }

end Sys2Proof.Machine
end

