-- ==== Sys2Proof/Machine/Stream.lean ====
section
/-!
DEFINITION. Stream instructions at decode (05 R105-R118, R131-R137): control, stream scalars, stream memory,
buffers, work and its extension words, and the S-ops that act when older entries have retired.
-/

namespace Sys2Proof.Machine

/-! ### The window as decode sees it -/

/-- Entries of a context that have neither retired nor been squashed. -/
def State.alive (s : State) (x : Nat) : List Entry := s.window.filter fun e => e.ctx == x && e.live
/-- Every older entry of the context has retired. -/
def State.drainedCtx (s : State) (x : Nat) : Bool := (s.alive x).isEmpty
def State.wuse (s : State) (x : Nat) : Nat := s.window.countP (·.ctx == x)
def State.puse (s : State) (x : Nat) : Nat := s.shadows.countP (·.2.ctx == x)
def EntryKind.isShalt : EntryKind → Bool | .shalt _ => true | _ => false
/-- Fetch stands behind a decoded SHALT (R131). -/
def State.halted (s : State) (x : Nat) : Bool := (s.alive x).any (·.kind.isShalt)

/-- Task ID of a context's next entry (R115). -/
def nextTid (x count : Nat) : Nat := x * 2 ^ 28 + count % 2 ^ 28
/-- The window entry a hub copy works for. -/
def HubKind.task : HubKind → Option Nat
  | .copy t => some t
  | .fill t => some t
  | .writeback t => some t
/-- Operations tagged with a task ID that have not performed (R115, R127). -/
def State.outstanding (s : State) (tid : Nat) : Bool :=
  (s.remotes.any (·.owner.tid.toNat == tid)) || (s.cores.any fun c => c.2.cmds.any (·.owner.tid.toNat == tid))
    || (s.hubCopies.any fun h => h.2.kind.task == some tid)

/-! ### Decode faults (R118, R127) -/

/-- A decode fault waits at the stream PC until the older entries have retired.  Word 4 of its record takes the extension-word
index, the buffer and the byte offset that the S-op names (log 125, DESIGN CHOICE). -/
def State.decodeFault (s : State) (x : Nat) (r : Reason) (ext buf off : Nat) : State :=
  s.modCtx x fun c =>
    { c with fault := some ⟨1, r, c.fe.spc, 0, 0, 0, 0, 0, ext, buf, off, s.hub.funcmode.getLsbD 4⟩, pending := none }

/-- Extension words of a TASK or COPY seen so far. -/
def PendingSop.seen (p : PendingSop) : Nat := p.opds.length + p.cdims.length
def Context.words (c : Context) : Nat := (c.pending.map fun p => 1 + p.seen).getD 0
/-- The stream offset of the next word to be decoded. -/
def Context.fetchAt (c : Context) : Nat := c.fe.spc + 16 * c.words

/-- An S-op that is no extension word: in an extension position it is ORPHAN (R64). -/
def sop (s : State) (f : Nat → State) : Host.Outcome State Fault Refusal :=
  onCtx s fun x =>
    match (s.ctx x).pending with
    | some p => s.decodeFault x .orphan (p.seen + 1) 0 0
    | none => f x

/-- The S-op ends at decode with a new front-end state. -/
def State.commitFe (s : State) (x : Nat) (fe : FrontEnd) : State :=
  s.modCtx x fun c => { c with fe := fe, stats := { c.stats with sopf := c.stats.sopf + 1 } }
/-- The S-op ends at decode and the next follows (log 52, DEDUCED). -/
def State.commit (s : State) (x : Nat) (f : FrontEnd → FrontEnd) : State :=
  let fe := f (s.ctx x).fe
  s.commitFe x { fe with spc := fe.spc + 16 }

/-- A control S-op: a fault or the new front-end state. -/
def control (s : State) (f : Nat → FrontEnd → Reason ⊕ FrontEnd) : Host.Outcome State Fault Refusal :=
  sop s fun x =>
    match f x (s.ctx x).fe with
    | .inl r => s.decodeFault x r 0 0 0
    | .inr fe => s.commitFe x fe

def FrontEnd.reg (f : FrontEnd) (i : BitVec 4) : W64 := SMap.get 0 f.g i.toNat
def FrontEnd.setReg (f : FrontEnd) (i : BitVec 4) (v : W64) : FrontEnd := { f with g := SMap.set f.g i.toNat v }
def FrontEnd.goto (f : FrontEnd) (t : Nat) : FrontEnd := { f with spc := t }
def FrontEnd.after (f : FrontEnd) : FrontEnd := f.goto (f.spc + 16)

/-- Bytes of a context's stream object. -/
def State.streamSize (s : State) (x : Nat) : Nat := ((s.obj (s.ctx x).sobj).map (·.size)).getD 0
/-- A legal target (R129, TARGET). -/
def State.target (s : State) (x t : Nat) : Bool := t % 16 == 0 && t + 16 ≤ s.streamSize x

/-! ### Control (R131) -/

def execSnop (s : State) : Host.Outcome State Fault Refusal := control s fun _ f => .inr f.after

def execSjmp (target : BitVec 64) (s : State) : Host.Outcome State Fault Refusal :=
  control s fun x f => if s.target x target.toNat then .inr (f.goto target.toNat) else .inl .target

/-- The condition of SBR (03 R59). -/
def streamCond (c : BitVec 4) (a b : W64) : Bool :=
  match c.toNat with
  | 0 => true
  | 1 => a == b
  | 2 => a != b
  | 3 => decide (a.toInt < b.toInt)
  | 4 => decide (b.toInt ≤ a.toInt)
  | 5 => decide (a.toNat < b.toNat)
  | 6 => decide (b.toNat ≤ a.toNat)
  | 7 => a == 0
  | _ => a != 0

def execSbr (cond a b : BitVec 4) (target : BitVec 64) (s : State) : Host.Outcome State Fault Refusal :=
  control s fun x f =>
    if !s.target x target.toNat then .inl .target
    else if streamCond cond (f.reg a) (f.reg b) then .inr (f.goto target.toNat)
    else .inr f.after

/-- SCALL: an illegal target is reported before a full stack, by SLOOP too (log 105, DESIGN CHOICE). -/
def execScall (target : BitVec 64) (s : State) : Host.Outcome State Fault Refusal :=
  control s fun x f =>
    if !s.target x target.toNat then .inl .target
    else if 16 ≤ f.calls.length then .inl .stack
    else .inr { f with calls := (f.spc + 16, false) :: f.calls, spc := target.toNat }

/-- Extension words that follow an S-op in a stream: those its NOPD or NCDIM field names, also where another field makes
the word illegal (03 R60, R62; log 25, DEDUCED). -/
def State.extWords (s : State) (x off : Nat) : Nat :=
  let w := s.objLE (s.ctx x).sobj off 16
  if w % 2 ^ 8 = 0x40 then w / 2 ^ 19 % 8 else if w % 2 ^ 8 = 0x42 then 2 + w / 2 ^ 8 % 16 else 0

def execSret (next : Bool) (s : State) : Host.Outcome State Fault Refusal :=
  control s fun x f =>
    if f.loops.any fun l => l.2.2 == f.calls.length then .inl .stack
    else
      match f.calls with
      | [] => .inl .stack
      | (pc, true) :: r =>
        .inr { f with calls := r, handler := false, spc := if next then pc + 16 * (1 + s.extWords x pc) else pc }
      | (pc, false) :: r => if next then .inl .illegal else .inr { f with calls := r, spc := pc }

def execSloop (a : BitVec 4) (exit : BitVec 64) (s : State) : Host.Outcome State Fault Refusal :=
  control s fun x f =>
    if !s.target x exit.toNat then .inl .target
    else if f.reg a = 0 then .inr (f.goto exit.toNat)
    else if 4 ≤ f.loops.length then .inl .stack
    else .inr { f with loops := (f.spc + 16, f.reg a, f.calls.length) :: f.loops, spc := f.spc + 16 }

def execSendl (s : State) : Host.Outcome State Fault Refusal :=
  control s fun _ f =>
    match f.loops with
    | [] => .inl .stack
    | (start, n, d) :: r =>
      if d ≠ f.calls.length then .inl .stack
      else if n - 1 ≠ 0 then .inr { f with loops := (start, n - 1, d) :: r, spc := start }
      else .inr { f.after with loops := r }

/-! ### Stream scalars (R132) -/

def setG (s : State) (a : BitVec 4) (v : FrontEnd → W64) : Host.Outcome State Fault Refusal :=
  control s fun _ f => .inr (f.after.setReg a (v f))

def execSli (a : BitVec 4) (imm : BitVec 64) (s : State) : Host.Outcome State Fault Refusal := setG s a fun _ => imm
def execSadd (a b c : BitVec 4) (s : State) : Host.Outcome State Fault Refusal := setG s a fun f => f.reg b + f.reg c
def execSaddi (a b : BitVec 4) (imm : BitVec 32) (s : State) : Host.Outcome State Fault Refusal :=
  setG s a fun f => f.reg b + imm.signExtend 64
def execSmul (a b c : BitVec 4) (s : State) : Host.Outcome State Fault Refusal := setG s a fun f => f.reg b * f.reg c
def execSshl (a b : BitVec 4) (imm : BitVec 32) (s : State) : Host.Outcome State Fault Refusal :=
  setG s a fun f => if 0 ≤ imm.toInt then f.reg b <<< imm.toInt.toNat else f.reg b >>> imm.toInt.natAbs
def execSand (a b c : BitVec 4) (s : State) : Host.Outcome State Fault Refusal := setG s a fun f => f.reg b &&& f.reg c
def execSmov (a b : BitVec 4) (s : State) : Host.Outcome State Fault Refusal := setG s a fun f => f.reg b

/-! ### The status block (R107) -/

/-- Word i of a context's status block. -/
def State.statusWord (s : State) (x i : Nat) : W64 :=
  let c := s.ctx x
  let n (v : Nat) : W64 := BitVec.ofNat 64 v
  let b (v : Bool) (k : Nat) : Nat := if v then 2 ^ k else 0
  match i with
  | 0 => n (b c.det 15 + c.budget.toNat * 2 ^ 12 + b c.fe.handler 11 + c.run * 2 ^ 8 + c.fe.prio * 2 ^ 4 + x)
  | 1 => n (c.fe.spc % 2 ^ 48)
  | 2 => n c.sobj
  | 3 => n (s.wuse x * 2 ^ 16 + c.fe.wquota)
  | 4 => n (s.puse x * 2 ^ 16 + c.fe.pquota)
  | 5 => n c.fe.fvec
  | 6 => c.donecode.setWidth 64
  | 7 => n (c.fcount.toNat * 2 ^ 32 + c.fhead.toNat)
  | 8 => c.stats.sopf
  | 9 => c.stats.tret
  | 10 => c.stats.cret
  | 11 => c.stats.wfstall
  | 12 => c.stats.rnstall
  | 13 => c.stats.dfault
  | 14 => c.stats.tfault
  | 15 => c.stats.squash
  | 16 => c.stats.parkc
  | 17 => c.stats.aged
  | 18 => c.stats.renames
  | 19 => c.stats.freed
  | _ =>
    if 32 ≤ i ∧ i < 160 then ((SMap.get [] c.frec ((i - 32) / 8))[(i - 32) % 8]?).getD 0
    else if 256 ≤ i ∧ i < 512 then
      let k := (i - 256) / 4
      let f := SMap.get Buf.unbound c.fe.btab k
      let p := SMap.get Published.zero c.pub k
      match (i - 256) % 4 with
      | 0 => n (f.seglog * 2 ^ 32 + b f.bound 31 + b f.r 30 + b f.w 29 + f.obj)
      | 1 => n (f.start % 2 ^ 48)
      | 2 => n f.len
      | _ => if f.bid = 0 then 0 else if p.bid = f.bid then n (p.gen.toNat * 2 ^ 16 + SMap.get homeMap p.map 0) else n homeMap
    else 0

/-- n bytes of the status block at a, which does not leave a word. -/
def State.statusRead (s : State) (x a n : Nat) : Nat :=
  (s.statusWord x (a / 8)).toNat / 2 ^ (8 * (a % 8)) % 2 ^ (8 * n)

/-! ### Stream memory (R133) -/

/-- Entry n of the context's capability table (19 R390). -/
def Context.cap (c : Context) (n : Nat) : CapBits := SMap.get 0 c.caps n

/-- Address and capability checks of a stream access of n bytes. -/
def checkStream (x : CapBits) (right a n : Nat) : Option Reason :=
  if !capGrants x [right] || capKind x == kScratch || capLen x < a + n then some .rights
  else if a % n ≠ 0 then some .align
  else none

/-- A reading of the Prism at an object's home: the value, or what it found instead (logs 49 and 116, DESIGN CHOICE).  It
waits, as for an absent extent, where the mesh port has written the bytes in this cycle (07 R165); one that reads at once does not. -/
def State.prismRead (s : State) (now : Bool) (obj off n : Nat) : State × Option Nat × Finding :=
  let port := s.hubPort obj off
  match s.reachAll port false false (s.extents obj off n) with
  | (s, .ok) =>
    let (bs, bad) := s.readVia port obj off n
    if bad then (s, none, .error)
    else if s.freshVia port obj off n && !now then (s, none, .absent obj 0)
    else (s, some (ofLE bs), .ok)
  | (s, r) => (s, none, r)

/-- The object and offset of an SLD's access. -/
def Context.streamAddr (c : Context) (n : BitVec 12) (i : BitVec 4) (imm : BitVec 64) : CapBits × Nat :=
  (c.cap n.toNat, (imm + c.fe.reg i).toNat)

/-- GCYC of the decoding of a context's oldest unretired entry. -/
def State.oldestDecoded (s : State) (x : Nat) : Nat :=
  match s.alive x with
  | e :: _ => e.decoded
  | [] => s.now

/-- What SLD answers where v is in memory.  Early, it may be any value that the location held since the oldest unretired
entry decoded (05 R133): which of them, the oracle says (log 13, DESIGN CHOICE). -/
def State.sldValue (s : State) (x : Nat) (o : SmemOp) (obj off v : Nat) : Nat × State :=
  if o.early then
    let n := 2 ^ o.size.toNat
    let port := s.hubPort obj off
    let vs := s.valuesSince ((List.range n).map fun i => s.keyVia port obj (off + i)) (s.oldestDecoded x)
    let (i, s) := s.draw
    ((vs[i]?).getD v, s)
  else (v, s)

/-- SLD.  Uncorrectable data give the decode fault DATA, as for PARK and SVAR (log 116, DESIGN CHOICE). -/
def execSld (o : SmemOp) (s : State) : Host.Outcome State Fault Refusal :=
  sop s fun x =>
    let c := s.ctx x
    let n := 2 ^ o.size.toNat
    let fin (s : State) (v : Nat) : State :=
      s.commit x fun f => f.setReg o.a (if o.sx then BitVec.ofInt 64 (signedOf v (8 * n)) else BitVec.ofNat 64 v)
    let (k, a) := c.streamAddr o.n o.b o.imm
    if o.stat then
      if 0x1000 ≤ a then s.decodeFault x .rights 0 0 0
      else if a % n ≠ 0 then s.decodeFault x .align 0 0 0
      else fin s (s.statusRead x a n)
    else
      match checkStream k rRead a n with
      | some r => s.decodeFault x r 0 0 a
      | none =>
        match s.prismRead o.early (capObj k) (capBase k + a) n with
        | (s, some v, _) => let (v, s) := s.sldValue x o (capObj k) (capBase k + a) v; fin s v
        | (s, none, .gone) => s.decodeFault x .rights 0 0 a
        | (s, none, .error) => s.decodeFault x .data 0 0 a
        | (s, none, _) => s

/-- Stores that retirement has sent for a context have yet to perform. -/
def State.storesOut (s : State) (x : Nat) : Bool := s.remotes.any fun r => r.slot == sstSlot && r.owner.ctx == x && !r.performed

/-- Every older entry has retired and what it released has performed at system scope (R133, R137): retirement performs the Loupe's
writes at once, and its own stores are waited for. -/
def State.quiet (s : State) (x : Nat) : Bool := s.drainedCtx x && !s.storesOut x

/-! ### Entries (R115, R116) -/

/-- A window entry as decode makes it. -/
def freshEntry (s : State) (x : Nat) (kind : EntryKind) (before : FrontEnd) (ops : List ROperand) (prods : List Nat) : Entry :=
  let c := s.ctx x
  { tid := nextTid x c.count, ctx := x, kind := kind, state := .wait, sop := c.fe.spc, before := before, after := before,
    ops := ops, prods := prods, prio := 0, readySince := 0, rises := 0, att := 0, escaped := false, dep := false, headOnly := false,
    fills := 0, filledAt := 0, heading := false, runs := [], fault := none, checks := [], unplaceable := false, claimed := false, stamp := 0, doneAt := 0,
    done := none, waitFrom := 0, timedOut := false, decoded := s.now }

/-- Take an entry; its count is used up. -/
def State.take (s : State) (x : Nat) (e : Entry) : State :=
  { (s.modCtx x fun c => { c with count := c.count + 1 }) with window := s.window ++ [e] }

/-- An entry that has no work and waits for nothing passes on at once to VERIFIED (R116). -/
def EntryKind.passes (k : EntryKind) : Bool :=
  match k with
  | .sst _ _ _ _ _ => true
  | .notify _ _ _ => true
  | .shalt _ => true
  | _ => false
def Entry.passed (e : Entry) (now : Nat) : Entry :=
  if e.kind.passes then { e with state := .verified, doneAt := now, done := some now } else e

/-- An S-op whose entry is complete at decode. -/
def State.simpleEntry (s : State) (x : Nat) (kind : EntryKind) (prods : List Nat) (f : FrontEnd → FrontEnd) : State :=
  let e := (freshEntry s x kind (s.ctx x).fe [] prods).passed s.now
  let s := (s.take x e).commit x f
  s.modEntry e.tid fun e => { e with after := (s.ctx x).fe }

/-- SHALT takes an entry, and fetch has passed it (log 89, DEDUCED). -/
def execShalt (code : BitVec 32) (s : State) : Host.Outcome State Fault Refusal :=
  sop s fun x => s.simpleEntry x (.shalt code) [] id

def execSst (o : SmemOp) (s : State) : Host.Outcome State Fault Refusal :=
  sop s fun x =>
    let c := s.ctx x
    let n := 2 ^ o.size.toNat
    let (k, a) := c.streamAddr o.n o.b o.imm
    match checkStream k rWrite a n with
    | some r => s.decodeFault x r 0 0 a
    | none => s.simpleEntry x (.sst (capObj k) (capBase k + a) n (capKind k) (c.fe.reg o.a)) [] id

/-- PARK ends: the word is in g[b] and fetch goes on. -/
def State.unpark (s : State) (x : Nat) (b : BitVec 4) (v : Nat) : State :=
  s.modCtx x fun c => { c with fe := c.fe.after.setReg b (BitVec.ofNat 64 v), run := 1, park := none }

/-- A parked context's word was written by its pane's mesh port in this cycle: it is read in the next (07 R165). -/
def State.freshWord (s : State) (obj off : Nat) : Bool := s.freshVia (s.hubPort obj off) obj off 8

def execPark (a b cc : BitVec 4) (n : BitVec 12) (imm : BitVec 64) (s : State) : Host.Outcome State Fault Refusal :=
  sop s fun x =>
    let c := s.ctx x
    let (k, o) := c.streamAddr n cc imm
    match checkStream k rRead o 8 with
    | some r => s.decodeFault x r 0 0 o
    | none =>
      match s.prismRead false (capObj k) (capBase k + o) 8 with
      | (s, v, r) =>
        if r = .gone then s.decodeFault x .rights 0 0 o
        else if r = .error then s.decodeFault x .data 0 0 o
        else
          let s := s.modCtx x fun c => { c with stats := { c.stats with sopf := c.stats.sopf + 1 } }
          if v.any fun v => BitVec.ofNat 64 v != c.fe.reg a then s.unpark x b (v.getD 0)
          else s.modCtx x fun c =>
            { c with run := 2, park := some ⟨a, b, capObj k, capBase k + o, o, s.now, s.freshWord (capObj k) (capBase k + o)⟩ }

/-- A parked context reads its word again (R133); an object that is gone is a decode fault RIGHTS, uncorrectable data one of DATA
(logs 49 and 116, DESIGN CHOICE). -/
def execParkPoll (ctx : Nat) (s : State) : Host.Outcome State Fault Refusal :=
  .next <|
    match (s.ctx ctx).park with
    | none => s
    | some p =>
      let stop (s : State) (r : Reason) : State :=
        (s.modCtx ctx fun c => { c with run := 1, park := none }).decodeFault ctx r 0 0 p.woff
      let again (s : State) : State :=
        s.modCtx ctx fun c => { c with park := some { p with last := s.now, hit := s.freshWord p.obj p.off } }
      match s.prismRead false p.obj p.off 8 with
      | (s, some v, _) => if BitVec.ofNat 64 v ≠ (s.ctx ctx).fe.reg p.a then s.unpark ctx p.b v else again s
      | (s, none, .gone) => stop s .rights
      | (s, none, .error) => stop s .data
      | (s, none, _) => again s

/-! ### Buffers (R134) -/

/-- BIND.  Of several checks that fail, BOUND is reported first (log 105, DESIGN CHOICE), then those of log 78, DEDUCED. -/
def execBind (buf : BitVec 6) (a b : BitVec 4) (n : BitVec 12) (seg : BitVec 5) (imm : BitVec 64) (s : State) :
    Host.Outcome State Fault Refusal :=
  sop s fun x =>
    let c := s.ctx x
    let k := c.cap n.toNat
    let o := (imm + c.fe.reg a).toNat
    let len := (c.fe.reg b).toNat
    let size := 2 ^ seg.toNat
    let bad (r : Reason) : State := s.decodeFault x r 0 buf.toNat o
    if (SMap.get Buf.unbound c.fe.btab buf.toNat).bound then bad .bound
    else if !capGrants k [rRead] || capKind k == kScratch || capLen k < o + len then bad .rights
    else if o % size ≠ 0 ∨ len = 0 ∨ len % size ≠ 0 then bad .segment
    else
      let r : Buf :=
        { bound := true, r := true, w := capHas k rWrite, obj := capObj k, seglog := seg.toNat, start := capBase k + o,
          len := len, map := [], prod := [], bid := s.nextId + 1 }
      ({ s with nextId := s.nextId + 1 }).commit x fun f => { f with btab := SMap.set f.btab buf.toNat r }

/-- UNBIND: the buffer is unbound at decode, and an entry writes it back (log 88, DEDUCED).  Without discard, a buffer that was bound
without write takes RIGHTS at decode (log 117, DESIGN CHOICE). -/
def execUnbind (buf : BitVec 6) (discard : Bool) (s : State) : Host.Outcome State Fault Refusal :=
  sop s fun x =>
    let c := s.ctx x
    let r := SMap.get Buf.unbound c.fe.btab buf.toNat
    if !r.bound then s.decodeFault x .unbound 0 buf.toNat 0
    else if !discard && !r.w then s.decodeFault x .rights 0 buf.toNat 0
    else
      s.simpleEntry x (.unbind buf.toNat discard r) ((r.prod.filter fun p => p.2 != 0).map fun p => p.2 - 1) fun f =>
        { f with btab := SMap.set f.btab buf.toNat { r with bound := false, map := [], prod := [] } }

/-! ### Work: operands (R109-R112, R118) -/

/-- The lowest-numbered entry of the table that meets a condition (log 77, DEDUCED). -/
def Context.findCap (c : Context) (p : CapBits → Bool) : Option CapBits := (c.caps.find? fun q => p q.2).map (·.2)

/-- A capability covers bytes of an object. -/
def covers (x : CapBits) (obj off n : Nat) : Bool :=
  capKind x != kScratch && capObj x == obj && capBase x ≤ off && off + n ≤ capBase x + capLen x

def opdSegments (w : OpdWord) (seglog : Nat) : List Nat :=
  let lo := w.first / 2 ^ seglog
  (List.range ((w.first + w.size - 1) / 2 ^ seglog + 1 - lo)).map (lo + ·)

/-- Resolve an operand against the table and the buffers as they stood before its S-op, or fault.  Of several checks that fail,
the first of UNBOUND, RANGE, SEGMENT, RIGHTS and CONFLICT is reported (log 105, DESIGN CHOICE). -/
def resolveOpd (c : Context) (w : OpdWord) (older : List ROperand) : Reason ⊕ ROperand :=
  if w.isExt then
    match c.findCap fun k => capGrants k [rRead, rWrite] && covers k w.extObj w.first w.size with
    | none => .inl .rights
    | some k =>
      .inr { w := w, segs := [], seglog := 0, seg0 := 0, atomic := capHas k rAtomic, bid := 0, prods := [],
             obj := w.extObj, base := w.first }
  else
    let b := SMap.get Buf.unbound c.fe.btab w.buf.toNat
    let size := 2 ^ b.seglog
    let js := opdSegments w b.seglog
    let clash (p : ROperand) : Bool :=
      !p.w.isExt && p.w.buf == w.buf
        && (js.any fun j => p.seg0 ≤ j && j < p.seg0 + p.segs.length)
        && !(p.w.mode == 0 && w.mode == 0) && !(p.w.mode == 0 && w.mode == 1) && !(p.w.mode == 1 && w.mode == 0)
    if !b.bound then .inl .unbound
    else if b.len < w.first + w.size then .inl .range
    else if w.mode = 1 ∧ (w.first % size ≠ 0 ∨ w.size % size ≠ 0) then .inl .segment
    else if w.mode ≠ 0 ∧ !b.w then .inl .rights
    else if older.any clash then .inl .conflict
    else
      let prods := if w.mode = 1 then [] else (js.map fun j => SMap.get 0 b.prod j).filter (· != 0)
      .inr { w := w, segs := js.map fun j => (SMap.get homeMap b.map j, homeMap, homeMap), seglog := b.seglog,
             seg0 := w.first / size, atomic := false, bid := b.bid, prods := prods.map (· - 1), obj := b.obj,
             base := b.start }

/-- Copies a renamed segment takes: a class D task has two (15 R327). -/
def PendingSop.copies (p : PendingSop) : Nat := if p.task.any fun w => w.cls == 2 then 2 else 1
def ROperand.renames (p : ROperand) : Bool := p.w.mode == 1 || p.w.mode == 2

/-- The quota check of R118. -/
def State.overQuotas (s : State) (x : Nat) (p : PendingSop) : Bool :=
  let c := s.ctx x
  let new := p.ops.filter (·.renames)
  let segs := p.copies * (new.map fun o => o.segs.length).foldl (· + ·) 0
  let bytes := p.copies * (new.map fun o => o.segs.length * 2 ^ o.seglog).foldl (· + ·) 0
  c.fe.pquota < segs || (segs != 0 && capLen c.fe.heap < bytes)

/-- Places of an operand list that rename. -/
def renameList : Nat → List ROperand → List (Nat × Nat)
  | _, [] => []
  | i, o :: r => (if o.renames then (List.range o.segs.length).map fun j => (i, j) else []) ++ renameList (i + 1) r

/-- Every extension word is there: the entry is taken, and renaming begins (R118 steps 4 and 5). -/
def State.takeWork (s : State) (x : Nat) (p : PendingSop) : State :=
  if s.overQuotas x p then s.decodeFault x .quota 0 0 0
  else
    let kind : EntryKind := match p.copy with
      | some w => .copy w p.cdims
      | none => .task (p.task.getD ⟨0, 0, 0, 0, 0, false, 0, 0⟩) p.code
    let e := freshEntry s x kind (s.ctx x).fe p.ops (p.ops.flatMap (·.prods)).dedup
    (s.take x e).modCtx x fun c =>
      { c with pending := some { p with tid := some e.tid, todo := renameList 0 p.ops }
               stats := { c.stats with sopf := c.stats.sopf + 1 } }

/-- Words still expected. -/
def PendingSop.wantsOpd (p : PendingSop) : Bool :=
  match p.task, p.copy with
  | some w, _ => p.opds.length < w.nopd.toNat
  | none, some _ => p.opds.length < 2
  | none, none => false
def PendingSop.wantsCdim (p : PendingSop) : Bool :=
  p.copy.any fun w => p.opds.length == 2 && p.cdims.length < w.ncdim.toNat
def PendingSop.whole (p : PendingSop) : Bool := !p.wantsOpd && !p.wantsCdim

/-- The S-op goes on with a further word. -/
def State.withWord (s : State) (x : Nat) (p : PendingSop) : State :=
  let s := s.modCtx x fun c => { c with pending := some p }
  if p.whole then s.takeWork x p else s

def execTask (w : TaskWord) (s : State) : Host.Outcome State Fault Refusal :=
  sop s fun x =>
    match (s.ctx x).findCap fun k => capHas k rExec && covers k w.kobj.toNat w.koff.toNat 1 with
    | none => s.decodeFault x .rights 0 0 w.koff.toNat
    | some k => s.withWord x ⟨some w, none, [], [], k, [], none, []⟩

def execCopy (w : CopyWord) (s : State) : Host.Outcome State Fault Refusal :=
  sop s fun x =>
    if w.clamp && x != 0 then s.decodeFault x .priv 0 0 0 else s.withWord x ⟨none, some w, [], [], 0, [], none, []⟩

/-- Modes that the operand positions of a COPY take (03 R62). -/
def PendingSop.modeOk (p : PendingSop) (w : OpdWord) : Bool :=
  p.copy.isNone || (if p.opds.isEmpty then w.mode == 0 || w.mode == 3 else w.mode != 0)

/-- An extension word: outside its position it is ORPHAN. -/
def extension (s : State) (want : PendingSop → Bool) (f : Nat → PendingSop → State) : Host.Outcome State Fault Refusal :=
  onCtx s fun x =>
    match (s.ctx x).pending with
    | none => s.decodeFault x .orphan 0 0 0
    | some p => if want p then f x p else s.decodeFault x .orphan (p.seen + 1) 0 0

def execOpd (w : OpdWord) (s : State) : Host.Outcome State Fault Refusal :=
  extension s PendingSop.wantsOpd fun x p =>
    if !p.modeOk w then s.decodeFault x .illegal (p.seen + 1) 0 0
    else
      match resolveOpd (s.ctx x) w p.ops with
      | .inl r => s.decodeFault x r (p.seen + 1) (if w.isExt then 0 else w.buf.toNat) w.first
      | .inr o => s.withWord x { p with opds := p.opds ++ [w], ops := p.ops ++ [o] }

/-- A CDIM word is legal: its level is new and among those counted, level 0 has no stride, a clamp extent is not 0. -/
def PendingSop.cdimOk (p : PendingSop) (w : CdimWord) : Bool :=
  p.copy.any fun c =>
    w.level.toNat < c.ncdim.toNat && p.cdims.all (·.level != w.level)
      && (if c.clamp then w.sstride.setWidth 20 != 0 else w.level != 0 || (w.sstride == 0 && w.dstride == 0))

def execCdim (w : CdimWord) (s : State) : Host.Outcome State Fault Refusal :=
  extension s PendingSop.wantsCdim fun x p =>
    if p.cdimOk w then s.withWord x { p with cdims := p.cdims ++ [w] }
    else s.decodeFault x .illegal (p.seen + 1) 0 0

/-! ### Renaming (R108, R113, R118) -/

/-- The lowest heap offset, a multiple of 64 KiB, at which `size` bytes are free. -/
def firstFit (used : List (Nat × Nat)) (size limit : Nat) : Nat → Nat → Option Nat
  | _, 0 => none
  | a, n + 1 =>
    if limit < a + size then none
    else
      match used.find? fun u => u.1 < a + size && a < u.1 + u.2 with
      | none => some a
      | some u => firstFit used size limit (max (a + 1) ((u.1 + u.2 + 0xFFFF) / 0x10000 * 0x10000)) n

/-- Take a shadow for a segment: the lowest free descriptor (log 104, DESIGN CHOICE) and heap bytes by first fit. -/
def State.takeShadow (s : State) (x seglog tid : Nat) : Option (Nat × State) :=
  let c := s.ctx x
  let heap := c.fe.heap
  let mine := s.shadows.filter fun p => p.2.obj == capObj heap
  -- the bytes of the heap that live shadows of its object take, those of an earlier heap among them
  let used := (mine.filter fun p => decide (capBase heap < p.2.heapOff + 2 ^ p.2.seglog)).map fun p =>
    (p.2.heapOff - capBase heap, p.2.heapOff + 2 ^ p.2.seglog - max (capBase heap) p.2.heapOff)
  match firstFit used (2 ^ seglog) (capLen heap) 0 (used.length + 1) with
  | none => none
  | some a =>
    let n := freeKey (s.shadows.map (·.1)) 0 s.shadows.length
    if 4096 ≤ n then none
    else
      let sh : Shadow :=
        { ctx := x, seglog := seglog, heapOff := capBase heap + a, obj := capObj heap, writer := some tid, dead := false,
          replacer := 0, readers := [], copying := false }
      some (n, { s with shadows := SMap.set s.shadows n sh })

/-- Set the place (i, j) of an operand list. -/
def setSeg (ops : List ROperand) (i j : Nat) (f : Nat × Nat × Nat → Nat × Nat × Nat) : List ROperand :=
  ops.mapIdx fun a p => if a = i then { p with segs := p.segs.mapIdx fun b g => if b = j then f g else g } else p

/-- Queue the fill of a MOD segment's shadow from its previous mapping (08 R208) (log 55, DEDUCED). -/
def State.queueFill (s : State) (tid : Nat) (p : ROperand) (j from_ to_ : Nat) : State :=
  let h : HubCopy :=
    { kind := .fill tid, src := s.segPlace p j from_, dst := s.segPlace p j to_, len := 2 ^ p.seglog, cmd := none,
      clamp := false, done := 0, moved := 0, after := SMap.get none (s.shadows.map fun x => (x.1, x.2.writer)) from_, held := false,
      ask := .none }
  { (s.modEntry tid fun e => { e with fills := e.fills + 1 }) with hubQueue := s.hubQueue ++ [h] }

/-- Rename one segment of the S-op that context x decodes; none when no descriptor or heap range is free. -/
def State.renameOne (s : State) (x : Nat) : Option State :=
  let c := s.ctx x
  match c.pending with
  | none => none
  | some p =>
    match p.tid, p.todo with
    | some tid, (i, j) :: rest =>
      match p.ops[i]? with
      | none => none
      | some o =>
        if c.fe.pquota < s.puse x + p.copies then none
        else
          match s.takeShadow x o.seglog tid with
          | none => none
          | some (n, s1) =>
            let twin := if p.copies = 2 then s1.takeShadow x o.seglog tid else some (homeMap, s1)
            match twin with
            | none => none
            | some (m, s2) =>
              let seg := o.seg0 + j
              let from_ := ((o.segs[j]?).map (·.1)).getD homeMap
              let ops := setSeg p.ops i j fun g => (g.1, n, m)
              let s3 := (s2.modEntry tid fun e => { e with ops := ops }).modCtx x fun c =>
                let b := SMap.get Buf.unbound c.fe.btab o.w.buf.toNat
                let b := { b with map := SMap.set b.map seg n, prod := SMap.set b.prod seg (tid + 1) }
                { c with pending := some { p with ops := ops, todo := rest }
                         fe := { c.fe with btab := SMap.set c.fe.btab o.w.buf.toNat b }
                         stats := { c.stats with renames := c.stats.renames + 1 } }
              let s4 := if o.w.mode = 2 then
                  let s := s3.queueFill tid o seg from_ n
                  if p.copies = 2 then s.queueFill tid o seg from_ m else s
                else s3
              some s4
    | _, _ => none

/-- A renamed S-op is decoded: fetch goes past its words. -/
def State.finishWork (s : State) (x : Nat) : State :=
  match (s.ctx x).pending with
  | some p =>
    if p.tid.isSome ∧ p.todo = [] then
      let s := s.modCtx x fun c => { c with fe := c.fe.goto (c.fetchAt), pending := none }
      match p.tid with
      | some t => s.modEntry t fun e => { e with after := (s.ctx x).fe }
      | none => s
    else s
  | none => s

/-! ### Effects and state (R137) -/

def execSfence (sys : Bool) (s : State) : Host.Outcome State Fault Refusal :=
  sop s fun x => if sys && !s.quiet x then s else s.commit x id

def execNotify (v : BitVec 6) (a : BitVec 4) (payload : BitVec 32) (s : State) : Host.Outcome State Fault Refusal :=
  sop s fun x => s.simpleEntry x (.notify v.toNat ((s.ctx x).fe.reg a) payload) [] id

def execCkpt (tag : BitVec 32) (s : State) : Host.Outcome State Fault Refusal :=
  sop s fun x => s.simpleEntry x (.ckpt tag) [] id

/-- SVAR.  Its capability must cover the whole table of eight entries, with read, or RIGHTS is taken (log 106, DESIGN CHOICE). -/
def execSvar (n : BitVec 12) (off : BitVec 64) (s : State) : Host.Outcome State Fault Refusal :=
  sop s fun x =>
    let c := s.ctx x
    let k := c.cap n.toNat
    let e (s : State) (i : Nat) : State × Option Nat × Finding := s.prismRead false (capObj k) (capBase k + off.toNat + 8 * i) 8
    if !capGrants k [rRead] || capKind k == kScratch || capLen k < off.toNat + 64 then s.decodeFault x .rights 0 0 off.toNat
    else
      match e s c.budget.toNat with
      | (s, some v, _) =>
        match (if v ≠ 0 then (s, some v, Finding.ok) else e s 0) with
        | (s, some t, _) => if t ≠ 0 ∧ s.target x t then s.commitFe x (c.fe.goto t) else s.decodeFault x .target 0 0 0
        | (s, none, .gone) => s.decodeFault x .rights 0 0 off.toNat
        | (s, none, .error) => s.decodeFault x .data 0 0 off.toNat
        | (s, none, _) => s
      | (s, none, .gone) => s.decodeFault x .rights 0 0 off.toNat
      | (s, none, .error) => s.decodeFault x .data 0 0 off.toNat
      | (s, none, _) => s

/-- Only context 0 executes PRIO and QUOTA (R106). -/
def service (s : State) (f : State → Host.Outcome State Fault Refusal) : Host.Outcome State Fault Refusal :=
  if s.curCtx = 0 then f s else sop s fun x => s.decodeFault x .priv 0 0 0

/-- Set a context's priority; its READY entries keep their aging rises. -/
def State.setPrio (s : State) (x level : Nat) : State :=
  let s := s.modCtx x fun c => { c with fe := { c.fe with prio := level } }
  { s with window := s.window.map fun e =>
      if e.ctx = x ∧ e.state = .ready then { e with prio := min 7 (level + e.rises) } else e }

def execPrio (ctx : BitVec 4) (level : BitVec 3) (s : State) : Host.Outcome State Fault Refusal :=
  service s fun s => sop s fun x => (s.setPrio ctx.toNat level.toNat).commit x id

def execFaultv (off : BitVec 64) (s : State) : Host.Outcome State Fault Refusal :=
  control s fun x f =>
    if off = 0 ∨ s.target x off.toNat then .inr { f.after with fvec := off.toNat } else .inl .target

/-- Sums of the window and pool quotas with those of one context replaced (R117). -/
def State.quotasOk (s : State) (x w p : Nat) : Bool :=
  let sum (f : FrontEnd → Nat) : Nat := (s.ctxs.map fun c => if c.1 = x ∨ !c.2.created then 0 else f c.2.fe).foldl (· + ·) 0
  sum (·.wquota) + w ≤ 256 && sum (·.pquota) + p ≤ 4096

/-- QUOTA: a heap capability that lacks a right is reported before sums that break R117 (log 105, DESIGN CHOICE). -/
def execQuota (ctx : BitVec 4) (window : BitVec 9) (pool : BitVec 13) (n : BitVec 12) (s : State) :
    Host.Outcome State Fault Refusal :=
  service s fun s => sop s fun x =>
    let t := ctx.toNat
    let k := (s.ctx t).cap n.toNat
    if !capGrants k [rRead, rWrite] || capKind k == kScratch then s.decodeFault x .rights 0 0 0
    else if !s.quotasOk t window.toNat pool.toNat then s.decodeFault x .quota 0 0 0
    else
      (s.modCtx t fun c => { c with fe := { c.fe with wquota := window.toNat, pquota := pool.toNat, heap := k } }).commit x id

/-! ### Refused words (R64, R129) -/

/-- A word that decodes to no S-op. -/
def execUnlistedOp (r : Reason) (s : State) : Host.Outcome State Fault Refusal :=
  onCtx s fun x =>
    match (s.ctx x).pending with
    | some p => s.decodeFault x r (p.seen + 1) 0 0
    | none => s.decodeFault x r 0 0 0

/-- No whole S-op at the stream PC; extension words that run past the end are ORPHAN. -/
def execStreamObjectEnd (s : State) : Host.Outcome State Fault Refusal :=
  onCtx s fun x =>
    match (s.ctx x).pending with
    | some p => s.decodeFault x .orphan (p.seen + 1) 0 0
    | none => s.decodeFault x .target 0 0 0

/-! ### Holds of decode (R118, R131-R137) -/

/-- What keeps a context from decoding the word at its stream PC. -/
inductive Stall where
  | go | window | rename | other
  deriving DecidableEq, Repr

/-- The S-op takes a window entry, and step 1 of R118 has found no fault in it. -/
def takesEntry (x : Nat) (i : Instr) : Bool :=
  match i with
  | .task _ => true
  | .copy w => !w.clamp || x == 0
  | .unbind _ _ => true
  | .sst _ => true
  | .notify _ _ _ => true
  | .ckpt _ => true
  | .shalt _ => true
  | _ => false

/-- The S-op waits until every older entry has retired. -/
def waitsOlder (x : Nat) (i : Instr) : Bool :=
  match i with
  | .sld o => !o.early
  | .sfence _ => true
  | .svar _ _ => true
  | .prio _ _ => x == 0
  | .quota _ _ _ _ => x == 0
  | .faultv _ => true
  | _ => false

/-- The S-op waits for the stores of retired entries too. -/
def waitsStores (i : Instr) : Bool :=
  match i with
  | .sld o => !o.early
  | .sfence sys => sys
  | _ => false

/-- Extension words that an S-op in progress still expects. -/
def PendingSop.left (p : PendingSop) : Nat :=
  match p.task, p.copy with
  | some w, _ => w.nopd.toNat - p.opds.length
  | none, some w => (2 - p.opds.length) + (w.ncdim.toNat - p.cdims.length)
  | none, none => 0
/-- The word is the last that an S-op in progress expects: with it the S-op takes its entry. -/
def PendingSop.lastWord (p : PendingSop) (i : Instr) : Bool :=
  p.left == 1 && (match i with
    | .opd _ => p.wantsOpd
    | .cdim _ => p.wantsCdim
    | _ => false)

/-- Whether decode waits before a word that may take a window entry.  A quota that has fallen below the use since the first word
of a TASK or COPY holds its last word (R118, R137). -/
def State.stall (s : State) (x : Nat) (i : Instr) : Stall :=
  let c := s.ctx x
  let room : Stall :=
    if c.fe.wquota ≤ s.wuse x then .window
    else if s.outstanding (nextTid x c.count) || s.window.any (·.tid == nextTid x c.count) then .rename
    else .go
  match c.pending with
  | some p => if p.lastWord i then room else .go
  | none =>
  if takesEntry x i then room
  else if waitsOlder x i && !s.drainedCtx x || waitsStores i && s.storesOut x then .other
  else .go

end Sys2Proof.Machine
end

