-- ==== Sys2Proof/Machine/Prism.lean ====
section
/-!
DEFINITION. The Prism: placement and dispatch (05 R121-R125, 11 R293), readiness, retirement, squash and fault
delivery (05 R126-R130), and the ends of strands and hub copies.
-/

namespace Sys2Proof.Machine

/-! ### Dependent entries (15 R333) -/

/-- Strands of a task, wherever they are. -/
def State.modTask (s : State) (tid : Nat) (f : Strand → Strand) : State :=
  { s with
    cores := s.cores.map fun p => if p.2.holds && p.2.st.id.tid.toNat == tid then (p.1, { p.2 with st := f p.2.st }) else p
    absent := s.absent.map fun a => if a.st.id.tid.toNat = tid then { a with st := f a.st } else a }

/-- Entries that stop being dependent: in class N their held writes perform from now on. -/
def State.updateDeps (s : State) : State :=
  s.window.foldl (fun s e =>
    if e.dep && !s.dependent e then
      (s.modEntry e.tid fun e => { e with dep := false }).modTask e.tid fun st => st.withId fun i => { i with dep := false }
    else s) s

/-- The next held write of a class N entry that does not depend performs: those of an entry in issue order, each in a step of its own
(15 R333, 12 R313); none while their homes are absent. -/
def State.releaseFree (s : State) : Option State :=
  s.window.findSome? fun e =>
    match e.kind, s.held.find? fun h => h.tid == e.tid with
    | .task _ _, some h => if e.live && e.cls == 0 && !e.dep && s.releasable h then some (s.releaseFirst e.tid h) else none
    | _, _ => none

/-- An entry is verified: it may retire, and its dependents may be free. -/
def State.verify (s : State) (tid : Nat) : State :=
  (s.modEntry tid fun e => { e with state := .verified, doneAt := s.now, done := some (e.done.getD s.now) }).updateDeps

/-! ### Placement (R122, 15 R322, R327, R329) -/

def State.retired (s : State) (chip : Nat) : Bool := s.hub.ccret.getLsbD chip
/-- A core may take a strand. -/
def State.coreFree (s : State) (k : Nat) : Bool := (s.core k).mode == .free
/-- Cores of a chiplet that placement may use; `all` counts busy ones too. -/
def State.roomOn (s : State) (all : Bool) (chip : Nat) : List Nat :=
  if s.retired chip then [] else ((List.range 8).map (8 * chip + ·)).filter fun k => all || s.coreFree k

def insertNat (a : Nat) : List Nat → List Nat
  | [] => [a]
  | b :: r => if a ≤ b then a :: b :: r else b :: insertNat a r
def sortNat (l : List Nat) : List Nat := l.foldr insertNat []

/-- Free cells among 224-255. -/
def State.freeCells (s : State) : List Nat :=
  ((List.range 32).map (224 + ·)).filter fun n => !(s.gangs.any (·.cell == some n))
def State.freeCell (s : State) : Option Nat := s.freeCells.head?
/-- Cores lie on more than one chiplet. -/
def spanning (ks : List Nat) : Bool := ks.any fun k => chipOf k != chipOf (ks.headD 0)

/-- Cores for a gang of g, ranks ascending, on chiplets in preference order. -/
def State.placeGang (s : State) (all : Bool) (g : Nat) (prefs : List Nat) : Option (List Nat) :=
  match (if g ≤ 8 then prefs.find? fun c => g ≤ (s.roomOn all c).length else none) with
  | some c => some ((s.roomOn all c).take g)
  | none =>
    let ks := prefs.flatMap (s.roomOn all)
    if g ≤ ks.length ∧ (all ∨ s.freeCell.isSome) then some (sortNat (ks.take g)) else none

/-- Pieces of a range of an object by extent: extent and bytes. -/
def State.pieces (s : State) (obj off n : Nat) : List (Nat × Nat) :=
  if n = 0 then []
  else
    let page := 2 ^ pageLog (((s.obj obj).map (·.pcode)).getD 0)
    (List.range ((off + n - 1) / page - off / page + 1)).map fun i =>
      let e := off / page + i
      (e, min (off + n) ((e + 1) * page) - max off (e * page))

/-- Bytes of an entry's IN operands in the pane of a chiplet. -/
def State.paneBytesOf (s : State) (e : Entry) (chip : Nat) : Nat :=
  (e.ops.map fun p =>
    if p.w.mode ≠ 0 then 0
    else ((p.segs.mapIdx fun i g =>
      let j := p.seg0 + i
      let size := 2 ^ p.seglog
      let lo := max p.w.first (j * size)
      let hi := min (p.w.first + p.w.size) ((j + 1) * size)
      let (o, b) := s.segPlace p j g.1
      ((s.pieces o (b + (lo - j * size)) (hi - lo)).map fun x =>
        match s.tableEntry o x.1 with
        | some t => if t.p ∧ t.home = 1 ∧ t.unit = chip then x.2 else 0
        | none => 0).foldl (· + ·) 0).foldl (· + ·) 0)).foldl (· + ·) 0

/-- Chiplets in preference order for an entry. -/
def State.prefs (s : State) (e : Entry) : List Nat :=
  let best := (List.range 8).foldl (fun b c => if s.paneBytesOf e b < s.paneBytesOf e c then c else b) 0
  best :: (List.range 8).filter (· != best)

/-- Supply domains of a set of cores. -/
def domainsOf (ks : List Nat) : List Nat := ks.map fun k => domainOf (chipOf k)
/-- Preference without the domains named. -/
def offDomains (ps ds : List Nat) : List Nat := ps.filter fun c => !ds.contains (domainOf c)
/-- A re-execution avoids a chiplet and prefers other domains. -/
def avoiding (ps : List Nat) (avoid : Option Nat) : List Nat :=
  match avoid with
  | none => ps
  | some a =>
    ps.filter (fun c => domainOf c != domainOf a) ++ ps.filter fun c => domainOf c == domainOf a && c != a

/-- Cores for each run that starts now: the whole entry, or the run of one role (R122, R322, R329, R330). -/
def State.placeEntry (s : State) (all : Bool) (e : Entry) (g : Nat) (role : Option Nat) : Option (List (List Nat)) :=
  let ps := s.prefs e
  match role with
  | some r =>
    let others := (e.runs.filter (·.role != r)).flatMap (·.cores)
    let avoid := (e.runs.find? (·.role == r)).bind (·.avoid)
    (s.placeGang all g (offDomains (avoiding ps avoid) (domainsOf others))).map fun k => [k]
  | none =>
    let avoid := (e.runs.find? (·.role == 0)).bind (·.avoid)
    match s.placeGang all g (avoiding ps avoid) with
    | none => none
    | some k =>
      if e.cls = 2 then
        let ps' := offDomains ps (domainsOf k)
        -- the primary's cores lie in other domains, so they stay out of the twin's set
        match s.placeGang all g ps' with
        | none => none
        | some t =>
          -- each set that spans chiplets takes a cell of its own
          if !all && spanning k && spanning t && decide (s.freeCells.length < 2) then none else some [k, t]
      else some [k]

/-! ### Starting strands (R124, 06 R139) -/

/-- A strand as dispatch sends it to a core (log 50, DEDUCED). -/
def newStrand (s : State) (e : Entry) (w : TaskWord) (role att rank size : Nat) (node : SpawnNode) (ops : List Operand)
    (caps : SMap CapBits) (code : CapBits) (hdr : Nat) (arg : W64) : Strand :=
  let z := Strand.zero
  { z with
    sc := { z.sc with c := caps, s := if arg = 0 then [] else [(1, arg)] }
    id := { z.id with att := BitVec.ofNat 32 att, tid := BitVec.ofNat 32 e.tid, gangSize := size, rank := rank, ctx := e.ctx,
                      pers := w.persist, priv := if e.ctx = 0 then 1 else 0, cls := w.cls, role := BitVec.ofNat 2 role,
                      dep := e.dep, head := e.headOnly }
    kn := { z.kn with code := code, hdr := hdr }
    ops := ops
    node := node
    sy := { z.sy with phase := BitVec.ofNat 3 (rank % 8), headerWait := true }
    stamp := s.now }

/-- Send a strand to a core: its first bundle may issue 9 cycles after this step. -/
def State.sendTo (s : State) (k : Nat) (st : Strand) : State :=
  s.modCore k fun c => { c with mode := .starting 9, st := st, req := none, seq := none, now := Now.zero }

/-- A gang barrier on a line of the one chiplet, or in a cell (11 R274). -/
def State.newGang (s : State) (tid role size : Nat) (ks : List Nat) : GangBar :=
  let chip := chipOf (ks.headD 0)
  let one := ks.all fun k => chipOf k == chip
  let used := s.gangs.filterMap fun g => g.line.bind fun l => if l.1 = chip then some l.2 else none
  { gang := s.nextId + 1, tid := tid, role := role, size := size,
    line := if one then some (chip, freeKey used 0 used.length) else none,
    cell := if one then none else s.freeCell, a := 0, carried := 0, pb := false }

/-- Place a run of an entry on cores. -/
def State.startRun (s : State) (e : Entry) (w : TaskWord) (code : CapBits) (role att : Nat) (ks : List Nat) : State :=
  let (s, ops) := s.buildOperands e.tid role e.ops
  let g := s.newGang e.tid role ks.length ks
  let s := { s with gangs := s.gangs ++ [g], nextId := s.nextId + 1 }
  let node : SpawnNode := { SpawnNode.zero with gang := g.gang, limit := w.depth.toNat }
  let at_ (rank : Nat) : SpawnNode := { node with path := [rank] }
  let s := ((List.range ks.length).zip ks).foldl (fun s p =>
    s.sendTo p.2 (newStrand s e w role att p.1 ks.length (at_ p.1) ops (operandCaps ops) code w.koff.toNat 0)) s
  let run : TaskRun := ⟨role, att, ks, ks.length, 0, 0, 0, false, none, ops, []⟩
  s.modEntry e.tid fun e => { e with runs := e.runs.filter (·.role != role) ++ [run] }

/-! ### Stream COPY (08 R204-R206) -/

/-- The command of a stream COPY over its two operands. -/
def copyCommand (s : State) (e : Entry) (w : CopyWord) (dims : List CdimWord) (ops : List Operand) : CopyCmd :=
  let level (k : Nat) : Nat × Int × Int :=
    match dims.find? fun d => d.level.toNat == k with
    | some d => (d.count.toNat, if w.clamp then (d.sstride.toNat : Int) else d.sstride.toInt, d.dstride.toInt)
    | none => (1, 0, 0)
  let view (i : Nat) : CapBits := ((ops[i]?).map (·.view)).getD 0
  let o : CpgoOp := ⟨w.esize, w.ncdim, w.sfmt, w.dfmt, w.trans, false, false, 0, 0, 0, false, 0⟩
  let c : CopyCmd :=
    { id := s.nextId, owner := ⟨e.ctx, BitVec.ofNat 32 e.tid, 0, 0, 0, 0, e.att⟩, o := o,
      levels := (List.range dims.length).map level, src := ⟨view 0, 0, w.sfmt.toNat, 0⟩, dst := ⟨view 1, 0, w.dfmt.toNat, 0⟩,
      idx := 0, idxOff := 0, modes := [], signal := none, runs := 0, done := 0, started := false, held := false, stalls := false, ask := .none,
      failing := false, flags := 0, bytes := 0, issued := s.now, origin := (0, 0), part := 0, index := 0, stop := false, stopLast := false,
      aborts := [] }
  { c with runs := c.total }

/-- The checks of R186 on a stream COPY's operands. -/
def checkCopy (c : CopyCmd) (clamp : Bool) : Bool :=
  let exts := (c.levels.map fun l => l.2.1.toNat % 2 ^ 20)
  let srcOk := if clamp then decide (exts.foldl (· * ·) c.ws ≤ 8 * capLen c.src.cap) else inBox c.src.cap c.srcBox
  decide (c.total < 2 ^ 48) && c.dstride 0 == 0 && (clamp || c.sstride 0 == 0) && srcOk && inBox c.dst.cap c.dstBox
    && (!c.transposes || (2 ≤ c.levels.length && c.moves && c.o.esize.toNat + 1 == c.o.trans.toNat
          && decide (c.count 0 ≤ 64 / (c.ws / 8)) && decide (c.count 1 ≤ 64 / (c.ws / 8))))
    && (c.moves || (c.src.fmt != t5 && c.dst.fmt != t5 && c.o.esize == 0))
    && (aligned c.src.cap c.src.off c.ws (if clamp then [] else c.srcSteps)).isNone
    && (aligned c.dst.cap c.dst.off c.wd c.dstSteps).isNone

/-- A free hub engine for a copy (log 74, DESIGN CHOICE). -/
def State.freeEngine (s : State) (clamp : Bool) : Option Nat :=
  (if clamp then [0, 1] else (List.range 14).map (2 + ·)).find? fun h =>
    !(s.hubCopies.any (·.1 == h)) && !(s.moves.any (·.engine == some h))

/-- Put a COPY on a hub engine, or fault it. -/
def State.startCopy (s : State) (e : Entry) (w : CopyWord) (dims : List CdimWord) (h : Nat) : State :=
  let (s, ops) := s.buildOperands e.tid 0 e.ops
  let c := copyCommand s e w dims ops
  if !checkCopy c w.clamp then s.entryFault e.tid 3 .copycap 0 0 0 0
  else
    let x : HubCopy :=
      { kind := .copy e.tid, src := (0, 0), dst := (0, 0), len := c.runs * c.dstBytes, cmd := some c, clamp := w.clamp,
        done := 0, moved := 0, after := none, held := false, ask := .none }
    { s with hubCopies := SMap.set s.hubCopies h x, nextId := s.nextId + 1 }

/-- Give waiting fills and write-backs the free engines, oldest first. -/
def State.assignEngines (s : State) : List HubCopy → State
  | [] => s
  | x :: r =>
    let ready : Bool := match x.kind with
      | .fill t => x.after.all s.prodDone && (s.entry t).all fun e =>
          x.after.isSome || !(s.olderThan e).any fun p => rangesMeet p.homeWrites [(x.src.1, x.src.2, x.len)]
      | _ => true
    match (if ready then s.freeEngine false else none) with
    | some h => ({ s with hubCopies := SMap.set s.hubCopies h x, hubQueue := s.hubQueue.erase x }).assignEngines r
    | none => s.assignEngines r

/-! ### Placing records (18 R373) -/

/-- The members of a record's suspension that resume with it. -/
def State.group (s : State) (a : Absent) : List Absent :=
  if a.req.whole then s.absent.filter fun b => b.st.node.gang == a.st.node.gang && b.req.whole else [a]

/-- A chiplet that a strand may resume on: a class D strand stays in its supply domain (15 R330). -/
def Absent.mayUse (a : Absent) (chip : Nat) : Bool := !a.locked || domainOf chip == domainOf (chipOf a.oldCore)

/-- Preference of chiplets for a strand: that of its task's entry. -/
def State.prefsOf (s : State) (a : Absent) : List Nat :=
  match s.entry a.st.id.tid.toNat with
  | some e => s.prefs e
  | none => List.range 8

/-- The core a single record takes; `all` counts busy ones too. -/
def State.placeOne (s : State) (all : Bool) (a : Absent) : Option Nat :=
  let k := a.oldCore
  let chip := chipOf k
  if (s.roomOn all chip).contains k then some k
  else
    match (s.roomOn all chip).head? with
    | some j => some j
    | none => (((s.prefsOf a).filter a.mayUse).flatMap (s.roomOn all)).head?

/-- Insert by rank. -/
def insertRank (a : Absent) : List Absent → List Absent
  | [] => [a]
  | b :: r => if a.st.id.rank ≤ b.st.id.rank then a :: b :: r else b :: insertRank a r

/-- The gang's barrier has a place for members on these cores. -/
def State.barrierRoom (s : State) (gang : Nat) (ks : List Nat) : Bool :=
  match s.gangs.find? (·.gang == gang) with
  | none => true
  | some g =>
    g.cell.isSome || (match g.line with
      | some l => ks.all fun k => chipOf k == l.1
      | none => ks.all fun k => chipOf k == chipOf (ks.headD 0)) || s.freeCell.isSome

/-- The members behind rank 0, in rank order, each on the first core left that it may use. -/
def placeRest : List Absent → List Nat → Option (List Nat)
  | [], _ => some []
  | a :: r, ks =>
    match ks.find? fun k => a.mayUse (chipOf k) with
    | none => none
    | some k => (placeRest r (ks.erase k)).map (k :: ·)

/-- Cores for every member of a record's group; none where they cannot be placed.  The lower rank takes the lower core
(05 R122). -/
def State.placeGroup (s : State) (all : Bool) (a : Absent) : Option (List (Absent × Nat)) :=
  match (s.group a).foldr insertRank [] with
  | [] => none
  | r0 :: rest =>
    match s.placeOne all r0 with
    | none => none
    | some k0 =>
      let chips := chipOf k0 :: (s.prefsOf r0).filter (· != chipOf k0)
      let ks := (chips.flatMap (s.roomOn all)).filter (· != k0)
      match placeRest rest ks with
      | none => none
      | some l =>
        if all || s.barrierRoom r0.st.node.gang (k0 :: l) then some ((r0 :: rest).zip (k0 :: sortNat l)) else none

/-! ### Choosing (R121, R123, 11 R293, 18 R373) -/

/-- What the dispatcher may serve. -/
inductive Cand where
  | entry (tid : Nat)
  | run (tid role : Nat)
  | pool (ctx number : Nat)
  | record (o : Owner)
  deriving DecidableEq, Repr

/-- An effective priority with the rises since a GCYC. -/
def aged (prio since now : Nat) : Nat := min 7 (prio + (now - since) / 2 ^ 20)

def Entry.gangOf (e : Entry) : Nat :=
  match e.kind with
  | .task w _ => 2 ^ w.gang.toNat
  | _ => 0

/-- A READY entry waits for a NEXT of a resident persistent task, which a claimed one goes on as (R123, 11 R297). -/
def State.handedOver (s : State) (e : Entry) : Bool :=
  !e.timedOut && s.window.any fun p =>
    p.state == .run && e.matchesTask p && (match p.kind with
      | .task w _ => w.persist || p.claimed
      | _ => false)

/-- A READY entry takes part in dispatch. -/
def State.entryCand (s : State) (e : Entry) : Bool :=
  e.state == .ready && !e.claimed && s.unordered e
    && (match e.kind with
      | .task _ _ => !s.handedOver e
      | .copy w _ => (s.freeEngine w.clamp).isSome
      | _ => false)

/-- Writes of a strand to pane memory, sent as remote accesses, have yet to perform: where the strand resumes on that pane's chiplet,
its local accesses may not overtake them (07 R170, 12 R315). -/
def State.paneWritesDue (s : State) (o : Owner) : Bool :=
  s.remotes.any fun r => r.owner == o && r.slot < 8 && r.ckind == kPane && r.kind.writes && !r.performed
/-- Returns of a strand's remote accesses are outstanding (18 R361 word 5). -/
def State.returnsDue (s : State) (o : Owner) : Bool := s.remotes.any fun r => r.owner == o && r.slot < 8 && r.dst.isSome
/-- A record's wake condition holds (18 R361). -/
def State.awake (s : State) (a : Absent) : Bool :=
  a.state == 2 && !s.returnsDue a.st.owner && !s.paneWritesDue a.st.owner
    && (match a.req.wake with
      | .core => true
      | .extent o e => (s.tableEntry o e).all fun t => t.p && !t.cw
      | .semaphore n t => t ≤ a.st.semaphore n
      | .grant => !(s.ctx a.st.id.ctx).energy.overq
      | .gang => s.absent.all fun b => b.st.node.gang != a.st.node.gang || (b.state == 2 && !s.returnsDue b.st.owner))

/-- Nodes of a tree are done: none of them is pending or running. -/
def State.nodesDone (s : State) (tid role : Nat) (ns : List Nat) : Bool :=
  (s.treeNodes (BitVec.ofNat 32 tid) role).all fun n => !ns.contains n.node

/-- A pool entry may start: its release holds, and for .after its elder siblings are done (11 R291). -/
def State.eligible (s : State) (p : PoolEntry) : Bool :=
  !s.unperformed p.owner p.before && s.nodesDone p.tid p.role p.after

/-- Every strand of a run has ended, and its tree has nothing pending. -/
def State.runEnded (s : State) (e : Entry) (role : Nat) : Bool :=
  (e.runs.any fun r => r.role == role && !r.waiting && r.strands ≤ r.ended)
    && !((s.ctx e.ctx).pool.any fun p => p.tid == e.tid && p.role == role)

/-- The pool entry of the other copy of a class D task at the same place of the tree. -/
def State.twinChild (s : State) (p : PoolEntry) : Option PoolEntry :=
  if p.role ≤ 1 ∧ (s.entry p.tid).any (·.cls == 2) then
    (s.ctx ((s.entry p.tid).map (·.ctx) |>.getD 0)).pool.find? fun q => q.tid == p.tid && q.role + p.role == 1 && q.node.path == p.node.path
  else none
/-- The other copy may still spawn the child's twin: it runs, and has not dispatched it. -/
def State.twinToCome (s : State) (p : PoolEntry) : Bool :=
  p.role ≤ 1 && (s.entry p.tid).any fun e =>
    e.cls == 2 && e.runs.any fun r => r.role + p.role == 1 && !s.runEnded e r.role && !r.born.contains p.node.path

/-- A pool entry takes part in dispatch; a class D child once its twin is there too, or cannot come (log 53, DEDUCED). -/
def State.poolCand (s : State) (p : PoolEntry) : Bool :=
  s.eligible p && (match s.twinChild p with
    | some q => s.eligible q
    | none => !s.twinToCome p)

/-- Insert a record by the time from which it is absent. -/
def insertSince (a : Absent) : List Absent → List Absent
  | [] => [a]
  | b :: r => if a.since ≤ b.since then a :: b :: r else b :: insertSince a r

/-- Candidates of a context with their effective priorities, in the order of service: records, the one absent longest first. -/
def State.candsOf (s : State) (x : Nat) : List (Nat × Cand) :=
  let recs := ((s.absent.filter fun a => a.st.id.ctx == x && s.awake a).foldr insertSince []).map fun a =>
    (aged a.prio a.since s.now, Cand.record a.st.owner)
  let c := s.ctx x
  let pool := (c.pool.filter s.poolCand).map fun p =>
    (aged (((s.entry p.tid).map (·.prio)).getD c.fe.prio) p.since s.now, Cand.pool x p.number)
  let ents := (s.window.filter fun e => e.ctx == x).flatMap fun e =>
    (if s.entryCand e then [(e.prio, Cand.entry e.tid)] else [])
      ++ (e.runs.filter fun r => r.waiting && e.state != .ready && e.fills == 0 && e.live).map fun r =>
        (e.prio, Cand.run e.tid r.role)
  recs ++ (if c.pool.length < 768 then pool else pool.reverse) ++ ents

/-- A candidate that even an idle module could not place (R121). -/
def State.hopeless (s : State) (c : Cand) : Bool :=
  match c with
  | .entry t => (s.entry t).any fun e => match e.kind with
      | .task _ _ => (s.placeEntry true e e.gangOf none).isNone
      | _ => false
  | .run t r => (s.entry t).any fun e => (s.placeEntry true e e.gangOf (some r)).isNone
  | .pool _ _ => false
  | .record o => (s.away o).any fun a => (s.placeGroup true a).isNone

/-- Contexts in rotation after the one served last at an effective priority. -/
def State.rotation (s : State) (p : Nat) : List Nat := (List.range 16).map fun i => (SMap.get 0 s.rot p + 1 + i) % 16

/-- The highest effective priority among the candidates that could be placed. -/
def State.topPrio (s : State) : Option Nat :=
  (((List.range 16).flatMap s.candsOf).filter fun c => !s.hopeless c.2).foldl
    (fun m c => some (max c.1 (m.getD 0))) none

/-- The candidate of each context at the highest priority, in rotation. -/
def State.served (s : State) : List (Nat × Cand) :=
  match s.topPrio with
  | none => []
  | some p => (s.rotation p).filterMap fun x =>
      ((s.candsOf x).find? fun c => c.1 == p && !s.hopeless c.2).map fun c => (x, c.2)

/-- Context x has been served at the highest priority of `s`. -/
def State.servedBy (s t : State) (x : Nat) : State := { t with rot := SMap.set t.rot (s.topPrio.getD 0) x }

/-! ### Dispatch of entries and runs -/

/-- Dispatch a window entry or a waiting run if it can be placed. -/
def State.tryEntry (s : State) (c : Cand) : Option State :=
  match c with
  | .entry t =>
    match s.entry t with
    | none => none
    | some e =>
      match e.kind with
      | .task w code =>
        match s.placeEntry false e e.gangOf none with
        | none => none
        | some sets =>
          let e := { e with state := .run, dep := s.dependent e, stamp := s.now, runs := [] }
          let s := s.modEntry t fun _ => e
          some (((List.range sets.length).zip sets).foldl (fun s p => s.startRun e w code p.1 e.att p.2) s)
      | .copy w dims =>
        match s.freeEngine w.clamp with
        | none => none
        | some h =>
          let e := { e with state := .run, dep := s.dependent e, stamp := s.now }
          some ((s.modEntry t fun _ => e).startCopy e w dims h)
      | _ => none
  | .run t r =>
    match s.entry t with
    | none => none
    | some e =>
      match e.kind, s.placeEntry false e e.gangOf (some r), e.runs.find? (·.role == r) with
      | .task w code, some [k], some run =>
        let s := if r = 2 then s.modHub fun h => { h with third := h.third + 1 } else s
        some (s.startRun e w code r run.att k)
      | _, _, _ => none
  | _ => none

/-- DISPATCH: the first candidate in order that is an entry and can be placed. -/
def execDispatch (s : State) : Host.Outcome State Fault Refusal :=
  .next ((s.served.findSome? fun c => (s.tryEntry c.2).map fun t => s.servedBy t c.1).getD s)

/-! ### Spawned children (11 R292, R293) -/

/-- The core a child takes: the parent's chiplet first, and for class D no domain of another run, nor of the cores `off`. -/
def State.placeChild (s : State) (p : PoolEntry) (off : List Nat) : Option Nat :=
  let e := s.entry p.tid
  let ps := chipOf p.parentCore :: (List.range 8).filter (· != chipOf p.parentCore)
  let ps := if e.any fun e => e.cls == 2 then
      offDomains ps (domainsOf (off ++ (e.map fun e => (e.runs.filter (·.role != p.role)).flatMap (·.cores)).getD []))
    else ps
  (ps.flatMap (s.roomOn false)).head?

/-- The capabilities of a child: the root's views narrowed to its entries. -/
def childCaps (ops : List Operand) (p : PoolEntry) : SMap CapBits :=
  p.ents.foldl (fun m e =>
    let root := ((ops[e.1]?).map (·.view)).getD 0
    let rights := Nat.land (capRights root) (if e.2.2.1 then 3 else 1)
    SMap.set m e.2.1 (mkCap (capObj root) rights (capKind root) (capBase root + e.2.2.2.1) e.2.2.2.2)) []

/-- Send a child to a core. -/
def State.startChild (s : State) (x : Nat) (p : PoolEntry) (k : Nat) : Option State :=
  match s.entry p.tid with
  | none => none
  | some e =>
    match e.kind, e.runs.find? (·.role == p.role) with
    | .task w code, some run =>
      let g : GangBar := { s.newGang p.tid p.role 1 [k] with gang := p.number }
      let s := { (s.modCtx x fun c => { c with pool := c.pool.filter (·.number != p.number) }) with gangs := s.gangs ++ [g] }
      let st := newStrand s e { w with persist := false } p.role run.att 0 1 p.node run.ops (childCaps run.ops p) code p.off p.arg
      let s := s.sendTo k st
      some (s.modEntry p.tid fun e =>
        { e with runs := e.runs.map fun r =>
            if r.role = p.role then
              { r with strands := r.strands + 1, cores := r.cores ++ [k], born := r.born ++ [p.node.path] }
            else r })
    | _, _ => none

/-- Dispatch a pool entry if a core is free; a class D child goes together with its twin (log 53, DEDUCED). -/
def State.tryPool (s : State) (x n : Nat) : Option State :=
  match (s.ctx x).pool.find? (·.number == n) with
  | none => none
  | some p =>
    match s.placeChild p [], s.twinChild p with
    | none, _ => none
    | some k, none => s.startChild x p k
    | some k, some q =>
      match s.placeChild q [k] with
      | none => none
      | some k' => (s.startChild x p k).bind fun s => s.startChild x q k'

/-- The strand of a task of the control firmware: alone in its gang, at trusted level (18 R350). -/
def FwTask.strand (f : FwTask) (gang now : Nat) : Strand :=
  let z := Strand.zero
  { z with
    sc := { z.sc with c := f.caps }
    id := { z.id with tid := f.tid, ctx := f.ctx, priv := 2 }
    kn := { z.kn with code := f.code, hdr := f.hdr }
    node := { z.node with gang := gang, path := [0] }
    sy := { z.sy with headerWait := true }
    stamp := now }

/-- The first task of the control firmware that may start and whose core is free starts (log 100, DESIGN CHOICE). -/
def State.startFirmware (s : State) : State :=
  match s.fwTasks.find? fun f => decide (f.start ≤ s.now) && decide (f.core < Config.cores) && s.coreFree f.core with
  | none => s
  | some f =>
    let g := s.newGang f.tid.toNat 0 1 [f.core]
    let s := { s with fwTasks := s.fwTasks.erase f, gangs := s.gangs ++ [g], nextId := s.nextId + 1 }
    s.sendTo f.core (f.strand g.gang s.now)

/-- An effective priority that ages since a GCYC rises in this cycle. -/
def rises (prio since now : Nat) : Bool :=
  decide (since < now) && (now - since) % 2 ^ 20 == 0 && decide (prio + (now - since) / 2 ^ 20 ≤ 7)

/-- Rises of pool entries and of records that wait, by aging in this cycle, are counted (R121, 11 R293, 18 R373). -/
def State.agePool (s : State) : State :=
  { s with ctxs := s.ctxs.map fun (p : Nat × Context) =>
      let base (q : PoolEntry) : Nat := ((s.entry q.tid).map (·.prio)).getD p.2.fe.prio
      let rises := (p.2.pool.countP fun q => rises (base q) q.since s.now)
        + s.absent.countP fun a => a.st.id.ctx == p.1 && a.state == 2 && rises a.prio a.since s.now
      if rises = 0 then p
      else (p.1, { p.2 with stats := { p.2.stats with aged := p.2.stats.aged + BitVec.ofNat 64 rises } }) }

def execPoolEntryDispatch (s : State) : Host.Outcome State Fault Refusal :=
  .next ((s.served.findSome? fun c => match c.2 with
    | .pool x n => (s.tryPool x n).map fun t => s.servedBy t c.1
    | _ => none).getD s)

/-! ### Readiness, aging and the hand-over (R116, R121, R123) -/

/-- Renaming of an entry's segments is not finished. -/
def State.renaming (s : State) (e : Entry) : Bool := ((s.ctx e.ctx).pending.bind (·.tid)) == some e.tid

def State.becomeReady (s : State) (tid : Nat) : State :=
  s.modEntry tid fun e => { e with state := .ready, prio := (s.ctx e.ctx).fe.prio, readySince := s.now, rises := 0, waitFrom := s.now }

/-- Queue the write-back of every segment that an UNBIND finds in a shadow (R134). -/
def State.queueWritebacks (s : State) (e : Entry) (b : Buf) : State :=
  let ms := b.map.filter fun m => m.2 != homeMap
  let at_ (m : Nat × Nat) : Nat × Nat :=
    match SMap.get none (s.shadows.map fun x => (x.1, some x.2)) m.2 with
    | some sh => (sh.obj, sh.heapOff)
    | none => (0, 0)
  let hs := ms.map fun m =>
    { kind := .writeback e.tid, src := at_ m, dst := (b.obj, b.start + m.1 * 2 ^ b.seglog), len := 2 ^ b.seglog, cmd := none,
      clamp := false, done := 0, moved := 0, after := none, held := false, ask := .none : HubCopy }
  { (s.modEntry e.tid fun e => { e with state := .run, fills := ms.length }) with hubQueue := s.hubQueue ++ hs }

/-! ### Checkpoints: marking (21 R421) -/

/-- Extents of a context's objects that a marking takes: all with D set, one that is being moved too (19 R405); those of the target
object itself are left out (log 62, DESIGN CHOICE). -/
def State.dirtyExtents (s : State) (x : Nat) : List (Nat × Nat) :=
  s.objs.flatMap fun o =>
    if o.2.owner ≠ x then []
    else (o.2.exts.mapIdx fun i e => (i, e)).filterMap fun p =>
      if p.2.d && p.2.home < 2 && o.1 != (s.ctx x).ckptObj then some (o.1, p.1) else none

/-- Invalidate an extent in every cache; an unwritten access count is kept (19 R398, R401). -/
def State.invalidate (s : State) (obj ext : Nat) : State :=
  let gone := s.caches.flatMap fun p => (p.2.filter fun c => c.obj == obj && c.ext == ext).map fun c => (p.1, c)
  let s := { s with caches := s.caches.map fun p => (p.1, p.2.filter fun c => !(c.obj == obj && c.ext == ext)) }
  gone.foldl (fun s p => s.writeBack p.1 p.2) s

/-- Accesses that waited for an extent at their ports walk again. -/
def State.rewalk (s : State) (obj ext : Nat) : State :=
  { s with remotes := s.remotes.map fun r =>
      if r.stage = .absent ∧ (s.remoteExtents r).contains (obj, ext) then { r with stage := .port } else r }

/-- Set bits m of word 0 of an entry to n, and invalidate it. -/
def State.swap0 (s : State) (obj ext : Nat) (n m : W64) : State :=
  (s.modEntryOf obj ext fun e => { e with w0 := (e.w0 &&& ~~~m) ||| (n &&& m) }).invalidate obj ext

/-- Extents of a context's objects that a marking leaves out because nothing has written them since they were copied or made,
with their bytes: a restart gives them back too (log 62, DESIGN CHOICE). -/
def State.cleanExtents (s : State) (x : Nat) : List (Nat × Nat × List Host.Cell) :=
  s.objs.flatMap fun o =>
    if o.2.owner ≠ x then []
    else (o.2.exts.mapIdx fun i e => (i, e)).filterMap fun p =>
      let page := 2 ^ pageLog o.2.pcode
      let there := p.2.p || s.moves.any fun m => m.obj == o.1 && m.ext == p.1
      if there && !p.2.d && p.2.home < 2 then some (o.1, p.1, s.mem.range (p.2.key page 0) page) else none

/-- A front-end state with the published mappings in its buffer table (21 R421). -/
def FrontEnd.published (f : FrontEnd) (pub : SMap Published) : FrontEnd :=
  { f with btab := f.btab.map fun b =>
      let p := SMap.get Published.zero pub b.1
      (b.1, { b.2 with map := if p.bid = b.2.bid then p.map else [], prod := [] }) }

/-- The schedule state of a context as a marking records it: the front end is that after the CKPT, which the S-ops decoded since have
moved on. -/
def State.schedule_ (s : State) (x : Nat) (tag : W32) (fe : FrontEnd) : CkptRecord :=
  let c := s.ctx x
  let away := s.absent.filter fun a => a.st.id.ctx == x
  { tag := tag, fe := fe.published c.pub, pub := c.pub, cells := s.cells.filter fun (p : Nat × Cell) => p.2.own == some x, absent := away,
    energy := c.energy, budget := c.budget,
    frames := away.map fun a => (a.slot, s.partCells c.frameObj (a.slot * frameStride) 0 frameBytes),
    data := s.cleanExtents x, bufs := [] }

/-- The marking of a CKPT: the record, the copy-on-write marks, CKREC. -/
def State.mark (s : State) (x : Nat) (tag : W32) (fe : FrontEnd) : State :=
  let todo := s.dirtyExtents x
  let r := s.schedule_ x tag fe
  let s := todo.foldl (fun s p => s.swap0 p.1 p.2 8 10) (s.putRecord (s.ctx x).ckptObj r)
  let shadows : List Nat := ((s.ctx x).pub.flatMap fun p => p.2.map.map (·.2)).filter (· != homeMap)
  let s : State := { s with shadows := s.shadows.map fun (p : Nat × Shadow) => if shadows.contains p.1 then (p.1, { p.2 with copying := true }) else p }
  s.modCtx x fun c =>
    if todo = [] ∧ shadows = [] then { c with ckrec := tag, ckbytes := 0, ckpt := none, saved := some r, ckdone := tag }
    else { c with ckrec := tag, ckbytes := 0, ckpt := some ⟨tag, s.hub.funcmode.getLsbD 3, todo, shadows, r.end_, 0, r⟩ }

/-- The schedule state can be written: the target's extents are present, and so are those of the frames (19 R397). -/
def State.markable (s : State) (x : Nat) : Bool :=
  let c := s.ctx x
  let there (o : Nat) : Bool := (s.frameHeld o 0 (((s.obj o).map (·.size)).getD 0) false).isNone
  there c.ckptObj && (s.absent.all (·.st.id.ctx != x) || there c.frameObj)
/-- A checkpoint's copying is given up: its copy marks go, and what waited for them walks again (21 R422). -/
def State.abandonCopy (s : State) (x : Nat) : State :=
  match (s.ctx x).ckpt with
  | none => s
  | some k =>
    let s := k.todo.foldl (fun s p => (s.swap0 p.1 p.2 0 8).rewalk p.1 p.2) s
    ({ s with shadows := s.shadows.map fun (p : Nat × Shadow) => if k.shadows.contains p.1 then (p.1, { p.2 with copying := false }) else p
      }).modCtx x fun c => { c with ckpt := none }

/-- A checkpoint is being copied. -/
def Context.copying (c : Context) : Bool := c.ckpt.isSome

/-- ENTRY_READY would change the entry now. -/
def State.canBeReady (s : State) (e : Entry) : Bool :=
  let prods := !s.renaming e && e.prods.all s.prodDone && e.fills == 0 && decide (e.filledAt < s.now)
  match e.kind, e.state with
  | .task _ _, .wait => prods
  | .copy _ _, .wait => prods
  | .unbind _ _ _, .wait => prods
  | .unbind _ _ _, .ready => !s.writebackBlocked e
  | .ckpt _, .wait => (s.olderThan e).isEmpty
  | .ckpt _, .ready => !(s.ctx e.ctx).copying && s.markable e.ctx
  | _, .wait => true
  | _, _ => false

/-- An entry enters READY; entries without work pass on from there (R116, R134, R137). -/
def execEntryReady (tid : Nat) (s : State) : Host.Outcome State Fault Refusal :=
  .next <|
    match s.entry tid with
    | none => s
    | some e =>
      if !s.canBeReady e then s
      else
        match e.kind, e.state with
        | .unbind _ d b, .ready => if d || e.homeWrites.isEmpty then s.verify tid else s.queueWritebacks e b
        | .ckpt t, .ready => (s.mark e.ctx t e.after).verify tid
        | .sst _ _ _ _ _, _ => s.verify tid
        | .notify _ _ _, _ => s.verify tid
        | .shalt _, _ => s.verify tid
        | _, _ => s.becomeReady tid

/-- A rise after 2^20 cycles READY.  Rises that PRIO makes possible again are caught up at once (log 115, DEDUCED). -/
def execAgingPromotion (tid : Nat) (s : State) : Host.Outcome State Fault Refusal :=
  .next <|
    match s.entry tid with
    | none => s
    | some e =>
      if e.state = .ready ∧ e.prio < 7 ∧ e.readySince + 2 ^ 20 ≤ s.now then
        (s.modEntry tid fun e => { e with prio := e.prio + 1, rises := e.rises + 1, readySince := e.readySince + 2 ^ 20 }).modCtx e.ctx fun c =>
          { c with stats := { c.stats with aged := c.stats.aged + 1 } }
      else s

def execPersistentHandoffTimeout (tid : Nat) (s : State) : Host.Outcome State Fault Refusal :=
  .next (s.modEntry tid fun e =>
    if e.state = .ready ∧ e.waitFrom + 2 ^ 16 ≤ s.now then { e with timedOut := true } else e)

/-- The entry, or a copy of it that waits for cores, can be placed on no idle module (R121). -/
def State.unplaceable (s : State) (e : Entry) : Bool :=
  (e.state == .ready && s.hopeless (.entry e.tid))
    || (e.live && e.state != .ready && e.runs.any fun r => r.waiting && s.hopeless (.run e.tid r.role))

/-- An entry first found unplaceable posts one record, which no later change repeats (R121). -/
def State.postUnplaceable (s : State) : State :=
  s.window.foldl (fun s e =>
    if !e.unplaceable ∧ s.unplaceable e then
      (s.modEntry e.tid fun e => { e with unplaceable := true }).post ⟨7, 0, e.ctx, BitVec.ofNat 64 e.tid, 0⟩
    else s) s

/-! ### Shadows (R113) -/

/-- An entry still reads a shadow: as IN, or as the source of a fill. -/
def State.readsShadow (s : State) (e : Entry) (m : Nat) : Bool :=
  let busy := match e.state with
    | .verified => s.outstanding e.tid
    | .squash => s.outstanding e.tid
    | .done => e.cls == 2 || s.outstanding e.tid
    | _ => true
  busy && e.ops.any fun p => (p.w.mode == 0 || p.w.mode == 2) && p.segs.any (·.1 == m)

/-- Return the shadows that nothing needs any more. -/
def State.releaseShadows (s : State) : State :=
  let free : List (Nat × Shadow) := s.shadows.filter fun (p : Nat × Shadow) =>
    p.2.dead && !p.2.copying && !p.2.writer.any s.outstanding && !(p.2.readers.any s.outstanding) && !(s.window.any fun e => s.readsShadow e p.1)
  let s : State := { s with shadows := s.shadows.filter fun (p : Nat × Shadow) => !free.any (·.1 == p.1) }
  free.foldl (fun s p => s.modCtx p.2.ctx fun c => { c with stats := { c.stats with freed := c.stats.freed + 1 } }) s

/-- A reader with operations outstanding leaves the window: its shadows wait for them (R113). -/
def State.keepReads (s : State) (e : Entry) : State :=
  if !s.outstanding e.tid then s
  else
    let read (m : Nat) : Bool := e.ops.any fun p => (p.w.mode == 0 || p.w.mode == 2) && p.segs.any (·.1 == m)
    { s with shadows := s.shadows.map fun p => if read p.1 then (p.1, { p.2 with readers := e.tid :: p.2.readers }) else p }

/-- Shadows whose mapping has been replaced or discarded. -/
def State.discard (s : State) (ms : List Nat) (by_ : Nat) : State :=
  { s with shadows := s.shadows.map fun p => if ms.contains p.1 then (p.1, { p.2 with dead := true, replacer := by_ }) else p }

/-! ### Squash (R116, R127, 15 R334) -/

/-- Squash entries of a context: their strands, copies and mappings go. -/
def State.squashAll (s : State) (x : Nat) (es : List Entry) : State :=
  let n := es.length
  let s := es.foldl (fun s e =>
    let s := s.abort e.tid none
    let mine := (s.shadows.filter fun p => p.2.writer == some e.tid && p.2.ctx == x).map (·.1)
    let s := s.discard mine e.tid
    { (s.modEntry e.tid fun e => { e with state := .squash, fills := 0, runs := [] }) with
      hubCopies := s.hubCopies.filter fun h => h.2.kind.task != some e.tid
      hubQueue := s.hubQueue.filter fun h => h.kind.task != some e.tid }) s
  s.modCtx x fun c =>
    { c with pending := none, park := none, fault := none, run := if c.run = 2 then 1 else c.run,
             stats := { c.stats with squash := c.stats.squash + BitVec.ofNat 64 n } }

/-- A squashed entry leaves the window when its counter reaches zero. -/
def execSquashRemove (tid : Nat) (s : State) : Host.Outcome State Fault Refusal :=
  .next <|
    match s.entry tid with
    | some e =>
      if e.state = .squash ∧ !s.outstanding tid then { s with window := s.window.filter (·.tid != tid) }.dropViews tid else s
    | none => s

/-! ### Retirement (R126) -/

/-- The four words of an interrupt record that is posted at a GCYC (21 R425). -/
def IntRec.words (r : IntRec) (now : W64) : List W64 :=
  [BitVec.ofNat 64 (r.kind + r.vector * 2 ^ 8 + r.ctx * 2 ^ 16), r.datum, r.payload.setWidth 64, now]
/-- The memory key of a record's place in the ring, in host memory. -/
def HubRegs.ringKey (h : HubRegs) (i : Nat) : Nat := hostKey (h.ringBase.toNat + 32 * i)
/-- Write an interrupt record into the ring (21 R425). -/
def State.writeRecord (s : State) (r : IntRec) : State :=
  let bs := (r.words s.gcyc).flatMap fun w => leBytes 8 w.toNat
  (s.storeCells (atAddr (s.hub.ringKey s.hub.irtail.toNat) bs)).modHub fun h => { h with irtail := h.irtail + 1 }
/-- The interrupt ring takes no further record (log 84, DEDUCED). -/
def State.ringFull (s : State) : Bool := s.hub.irtail + 1 == s.hub.irhead

/-- The oldest entry of a context may retire now. -/
def State.retirable (s : State) (x : Nat) : Option Entry :=
  match s.alive x with
  | [] => none
  | e :: _ =>
    let home := (s.held.filter (·.tid == e.tid)).all s.releasable
    let own := match e.kind with
      | .notify _ _ _ => !s.ringFull && !s.storesOut x
      | _ => true
    -- what retirement releases performs after the stores of earlier ones
    let order := !(s.held.any (·.tid == e.tid) && s.storesOut x)
    if e.state == .verified && e.doneAt < s.now && home && own && order then some e else none

/-- Publish the mappings of an entry's renamed segments. -/
def State.publish (s : State) (e : Entry) : State :=
  e.ops.foldl (fun s p =>
    if !p.renames then s
    else
      let b := p.w.buf.toNat
      let old := SMap.get Published.zero (s.ctx e.ctx).pub b
      let base : Published := if old.bid = p.bid then old else ⟨[], 0, p.bid⟩
      let new := (p.segs.mapIdx fun i g => (p.seg0 + i, g.2.1)).foldl (fun (m : SMap Nat) q => SMap.set m q.1 q.2) base.map
      (s.modCtx e.ctx fun c =>
        { c with pub := SMap.set c.pub b { base with map := new, gen := base.gen + BitVec.ofNat 32 p.segs.length } }).discard
        ((p.segs.map (·.1)).filter (· != homeMap)) e.tid) s

/-- The store of an SST leaves for its home, as a remote access of no strand. -/
def State.sendStore (s : State) (e : Entry) (obj off n : Nat) (v : W64) : State :=
  let r : Remote :=
    { id := s.nextId, owner := ⟨e.ctx, BitVec.ofNat 32 e.tid, 0, 0, 0, 8, 0⟩, core := 8 * s.hubPort obj off, num := 0, slot := sstSlot,
      addr := 0, kind := .store, ckind := s.objKind obj, obj := obj, off := off, size := n, data := 0,
      bytes := atAddr off (leBytes n v.toNat), comparand := 0, fn := 0, dst := none, seq := 0, sx := false, cls := 0, rel := false,
      acq := false, scope := 0, stage := .port, held := false, issued := s.now }
  { s with remotes := s.remotes ++ [r], nextId := s.nextId + 1 }

/-- The own effect of an entry at its retirement. -/
def State.ownEffect (s : State) (e : Entry) : State :=
  match e.kind with
  | .sst o f n _ v => s.sendStore e o f n v
  | .notify v g p => s.writeRecord ⟨1, v, e.ctx, g, p⟩
  | .shalt code => (s.modCtx e.ctx fun c => { c with donecode := code, run := 3 }).post ⟨2, 0, e.ctx, 0, 0⟩
  | .unbind b _ r =>
    let s := s.discard ((r.map.map (·.2)).filter (· != homeMap)) e.tid
    s.modCtx e.ctx fun c =>
      let p := SMap.get Published.zero c.pub b
      if p.bid = r.bid then { c with pub := SMap.set c.pub b { p with map := [] } } else c
  | _ => s

/-- A retired entry is no longer the producer of a mapping nor the writer of a shadow: its task ID may be used again (R115). -/
def State.forget (s : State) (x tid : Nat) : State :=
  { s.modCtx x fun c => { c with fe := c.fe.keepProds (· != tid) } with
    shadows := s.shadows.map fun p => if p.2.writer == some tid then (p.1, { p.2 with writer := none }) else p }

def execRetire (ctx : Nat) (s : State) : Host.Outcome State Fault Refusal :=
  .next <|
    match s.retirable ctx with
    | none => s
    | some e =>
      let s := (s.publish e).keepReads e
      let s := ((s.held.filter (·.tid == e.tid)).map (·.role)).dedup.foldl (fun s r => s.releaseAllHeld e.tid r) s
      let s := s.ownEffect e
      let s := { s with window := s.window.filter (·.tid != e.tid) }.dropViews e.tid
      let s := s.modCtx ctx fun c =>
        match e.kind with
        | .task _ _ => { c with stats := { c.stats with tret := c.stats.tret + 1 } }
        | .copy _ _ => { c with stats := { c.stats with cret := c.stats.cret + 1 } }
        | _ => c
      (s.forget ctx e.tid).updateDeps.prunePast

/-! ### Fault delivery (R127-R130) -/

/-- The fault that may be delivered: of the oldest entry, or of decode when no older entry is left. -/
def State.deliverable (s : State) (x : Nat) : Option (FaultInfo × Option Entry) :=
  match s.alive x with
  | [] => (s.ctx x).fault.map fun f => (f, none)
  | e :: _ => if e.state = .fault then e.fault.map fun f => (f, some e) else none

/-- The eight words of a fault record. -/
def faultRecord (f : FaultInfo) (x tid : Nat) (imprecise : Bool) (esc : List Nat) : List W64 :=
  let n (v : Nat) : W64 := BitVec.ofNat 64 v
  let core := f.reason = .coretrap
  let id (i : Nat) : Nat := (esc[i]?).getD 0
  [n (tid * 2 ^ 32 + min 255 esc.length * 2 ^ 24 + (if imprecise then 2 ^ 20 else 0) + x * 2 ^ 16 + f.reason.num * 2 ^ 8 + f.kind),
   n f.sop,
   n (f.att * 2 ^ 32 + (if core then f.slot * 2 ^ 22 + f.core * 2 ^ 16 + f.trapc.toNat % 2 ^ 16 else 0)),
   if core then f.trapv else 0,
   n (f.ext + f.buf * 2 ^ 8 + f.off % 2 ^ 48 * 2 ^ 16),
   n (id 0 + id 1 * 2 ^ 32), n (id 2 + id 3 * 2 ^ 32), n (id 4 + id 5 * 2 ^ 32)]

/-- Write a fault record; FHEAD, FCOUNT and the counters follow. -/
def State.recordFault (s : State) (x : Nat) (f : FaultInfo) (words : List W64) : State :=
  let s := s.modCtx x fun c =>
    { c with frec := SMap.set c.frec c.fhead.toNat words, fhead := c.fhead + 1, fcount := c.fcount + 1,
             lastFault := some f.sop,
             stats := { c.stats with dfault := c.stats.dfault + (if f.kind = 1 then 1 else 0)
                                     tfault := c.stats.tfault + (if f.kind = 2 ∨ f.kind = 3 then 1 else 0) } }
  if s.hub.hfmask.getLsbD (f.kind - 1) then s.fireHoist 4 0 x else s

/-- The handler is entered, or the context stops (R130), in the mode in which the fault was raised (21 R409).  The context decodes
again from the next cycle on (17 R348). -/
def State.enterFault (s : State) (x : Nat) (f : FaultInfo) : State :=
  let s := s.modCtx x fun c => { c with decodeFrom := s.now + 1 }
  let c := s.ctx x
  let at_ := 0x100 + 64 * (c.fhead - 1).toNat
  if f.hw && c.fe.fvec != 0 && !c.fe.handler && decide (c.fe.calls.length < 16) then
    s.modCtx x fun c =>
      let fe := { c.fe with calls := (f.sop, true) :: c.fe.calls, handler := true, spc := c.fe.fvec }
      { c with fe := fe.setReg 15 (BitVec.ofNat 64 at_), run := 1 }
  else (s.modCtx x fun c => { c with run := 3 }).post ⟨2, 0, x, 0, 0⟩

/-- The front-end state goes back to an earlier one; quotas and heap only where their sums then keep R117 (log 48, DEDUCED). -/
def State.restoreFe (s : State) (x : Nat) (before : FrontEnd) : State :=
  let old := before.keepProds fun t => (s.entry t).isSome
  let fits := s.quotasOk x old.wquota old.pquota
  s.modCtx x fun c =>
    { c with fe := if fits then old else { old with wquota := c.fe.wquota, pquota := c.fe.pquota, heap := c.fe.heap } }

/-- A fault that a lost vote, or a check fault that is not re-executed, gives an entry (15 R332). -/
def FaultInfo.ofCheck (f : FaultInfo) : Bool :=
  f.reason == .undecided
    || (f.reason == .coretrap && (f.trapc.toNat % 2 ^ 16 == TrapCode.mchk.num || f.trapc.toNat % 2 ^ 16 == TrapCode.resid.num))

def execFaultDelivery (ctx : Nat) (s : State) : Host.Outcome State Fault Refusal :=
  .next <|
    match s.deliverable ctx with
    | none => s
    | some (f, e) =>
      let younger := match e with
        | some e => (s.alive ctx).filter (·.tid != e.tid)
        | none => []
      let esc := (younger.filter (·.escaped)).map (·.tid)
      let imprecise := !esc.isEmpty || (f.ofCheck && e.any (·.headOnly))
      let s := s.squashAll ctx younger
      let s := match e with
        | none => s
        | some e =>
          let mine := (s.shadows.filter fun (p : Nat × Shadow) => p.2.writer == some e.tid && p.2.ctx == ctx).map fun (p : Nat × Shadow) => p.1
          let s := ((s.discard mine e.tid).keepReads e).restoreFe ctx e.before
          let s : State := { s with
            window := s.window.filter fun (w : Entry) => w.tid != e.tid
            hubCopies := s.hubCopies.filter fun (h : Nat × HubCopy) => h.2.kind.task != some e.tid
            hubQueue := s.hubQueue.filter fun (h : HubCopy) => h.kind.task != some e.tid }
          s.dropViews e.tid
      let s := s.recordFault ctx f (faultRecord f ctx ((e.map (·.tid)).getD 0) imprecise esc)
      s.enterFault ctx f

/-! ### Ends of strands and of hub copies (R135, R136, 06 R162, 08 R207) -/

/-- A run of an entry is complete. -/
def State.runDone (s : State) (tid role : Nat) : State :=
  match s.entry tid with
  | none => s
  | some e =>
    if !e.live ∨ e.state = .fault ∨ !s.runEnded e role then s
    else if e.cls ≠ 2 then s.verify tid
    else if role = 0 ∧ e.state = .run then s.modEntry tid fun e => { e with state := .done, doneAt := s.now, done := some s.now }
    else s.modEntry tid fun e => { e with doneAt := s.now }

/-- Add an ended strand to its run. -/
def State.countEnd (s : State) (st : Strand) : State :=
  (s.modEntry st.id.tid.toNat fun e =>
    { e with runs := e.runs.map fun r =>
        if r.role = st.id.role.toNat then
          { r with ended := r.ended + 1, sig0 := r.sig0 + SMap.get 0 st.sig 0, sig3 := r.sig3 + SMap.get 0 st.sig 3 }
        else r }).runDone st.id.tid.toNat st.id.role.toNat

/-- Gang barriers of which no member is left. -/
def State.dropGangs (s : State) : State :=
  { s with gangs := s.gangs.filter fun g =>
      (s.cores.any fun p => p.2.holds && p.2.st.node.gang == g.gang) || s.absent.any fun a => a.st.node.gang == g.gang }

/-- The strand on core k ends. -/
def State.endStrand (s : State) (k : Nat) : State :=
  let st := s.strand k
  ((s.modCore k Core.release).countEnd st).dropGangs

/-- A stream COPY or an UNBIND write-back ends on engine h. -/
def execHubCopyComplete (h : Nat) (s : State) : Host.Outcome State Fault Refusal :=
  .next <|
    match SMap.get none (s.hubCopies.map fun p => (p.1, some p.2)) h with
    | none => s
    | some x =>
      let free (s : State) : State := { s with hubCopies := SMap.erase s.hubCopies h }
      match x.kind, x.cmd with
      | .copy t, some c =>
        if c.done < c.runs || s.hubWriting h then s
        else (free s).verify t
      | .writeback t, _ =>
        if x.done < x.len || s.hubWriting h then s
        else
          let s := (free s).modEntry t fun e => { e with fills := e.fills - 1 }
          if (s.entry t).any (·.fills == 0) then s.verify t else s
      | _, _ => s

/-- A MOD fill ends on engine h (08 R208). -/
def execModFillComplete (h : Nat) (s : State) : Host.Outcome State Fault Refusal :=
  .next <|
    match SMap.get none (s.hubCopies.map fun p => (p.1, some p.2)) h with
    | none => s
    | some x =>
      match x.kind with
      | .fill t =>
        if x.done < x.len || s.hubWriting h then s
        else { s with hubCopies := SMap.erase s.hubCopies h }.modEntry t fun e => { e with fills := e.fills - 1, filledAt := s.now }
      | _ => s

end Sys2Proof.Machine
end

