-- ==== Sys2Proof/Machine/Objects.lean ====
section
/-!
DEFINITION. Objects and their table: places, migration, the OT command unit and the notices (19 R392, R400-R405), and
the requests of the host's mailbox (21 R427, R428).
-/

namespace Sys2Proof.Machine

/-! ### Places (19 R392, log 9, DESIGN CHOICE) -/

/-- Bytes of a page of an object. -/
def State.pageOf (s : State) (obj : Nat) : Nat := 2 ^ pageLog (((s.obj obj).map (·.pcode)).getD 0)

/-- Pages in use in a stack or a pane, those that a move will take among them: base and bytes. -/
def State.usedAt (s : State) (home unit : Nat) : List (Nat × Nat) :=
  (s.objs.flatMap fun o => o.2.exts.filterMap fun e =>
    if e.home = home ∧ e.unit = unit then some (e.w1.toNat, 2 ^ pageLog o.2.pcode) else none)
  ++ s.moves.filterMap fun m => if m.home = home ∧ m.unit = unit then some (m.base, s.pageOf m.obj) else none

/-- The lowest multiple of `align` at which `size` bytes are free below `limit`. -/
def fitAt (used : List (Nat × Nat)) (size align limit : Nat) : Nat → Nat → Option Nat
  | _, 0 => none
  | a, n + 1 =>
    if limit < a + size then none
    else
      match used.find? fun u => u.1 < a + size && a < u.1 + u.2 with
      | none => some a
      | some u => fitAt used size align limit ((u.1 + u.2 + align - 1) / align * align) n

def homeBytes (home : Nat) : Nat := if home = 0 then Config.hbmBytes else Config.paneBytes

/-- A free place in a stack or a pane beside the pages already chosen. -/
def State.freeAt (s : State) (home unit size align : Nat) (more : List (Nat × Nat)) : Option Nat :=
  let used := more ++ s.usedAt home unit
  fitAt used size align (homeBytes home) 0 (used.length + 1)

/-- Copy n bytes from one range of memory to another. -/
def Memory.copyRange (m : Memory) (src dst n : Nat) : Memory :=
  (m.filter fun c => src ≤ c.1 && c.1 < src + n).foldl (fun r c => r.write (dst + (c.1 - src)) c.2) (m.clear dst n)

/-- An object table entry: P set and D, PEND, CW and ACC clear. -/
def newExtent (home unit owner : Nat) (w1 : W64) : OtEntry :=
  ⟨BitVec.ofNat 64 (1 + home * 2 ^ 8 + unit * 2 ^ 16 + owner * 2 ^ 28), w1, 0, 0⟩

/-! ### Migration (19 R405) -/

/-- A new place for an extent: within its unit, on a page boundary and free. -/
def State.placeOk (s : State) (home unit base page : Nat) : Bool :=
  base % page == 0 && (match home with
    | 0 => unit < 8 && base + page ≤ Config.hbmBytes
    | 1 => unit < 8 && base + page ≤ Config.paneBytes
    | 2 => unit == 0 && base < 2 ^ 64
    | _ => false)
    && (home == 2 || !((s.usedAt home unit).any fun u => u.1 < base + page && base < u.1 + u.2))

/-- Have an extent moved; one move of an extent runs at a time. -/
def State.moveExtent (s : State) (obj ext home unit base : Nat) : State :=
  if s.moves.any (fun m => m.obj == obj && m.ext == ext) then s
  else { s with moves := s.moves ++ [⟨obj, ext, home, unit, base, 0, 0, none⟩] }

/-- Copy n bytes between places; a byte that is uncorrectable is so at its new place. -/
def State.moveBytes (s : State) (src dst n : Nat) : State :=
  { s.clearCells dst n with
    mem := s.mem.copyRange src dst n
    poison := (s.clearCells dst n).poison ++ (s.poison.filter fun k => src ≤ k && k < src + n).map fun k => dst + (k - src) }

/-- The last steps of a move: the page stands bit for bit at its new place, word 1 and the home are written, P is set, PEND and
ACC are cleared, and what waited at a port walks again.  Nothing has reached the extent since P was cleared. -/
def State.endMove (s : State) (m : Migration) : State :=
  match s.obj m.obj, s.tableEntry m.obj m.ext with
  | some o, some e =>
    let page := 2 ^ pageLog o.pcode
    let new : OtEntry := newExtent m.home m.unit o.owner (BitVec.ofNat 64 m.base)
    let new : OtEntry := { new with w0 := new.w0 ||| (e.w0 &&& 0xA) }
    (((s.moveBytes (e.key page 0) (new.key page 0) page).modEntryOf m.obj m.ext fun _ => new).invalidate m.obj m.ext).rewalk
      m.obj m.ext
  | _, _ => s

/-- One cycle of a move, at place i of the list: OTSWAP clears P; OTSYNC finds no access left that was translated before (log 21,
DEDUCED); a free hub engine copies 256 bytes a cycle (08 R204); the last steps follow.  The steps of the OT command unit wait
while it runs a command. -/
def State.stepMove (s : State) (i : Nat) : State :=
  let busy := s.hub.otBusy
  let put (m : Migration) (s : State) : State := { s with moves := s.moves.set i m }
  match s.moves[i]? with
  | none => s
  | some m =>
    match m.step with
    | 0 =>
      if busy then s
      else put { m with step := 1 } ((s.swap0 m.obj m.ext 0 1).rewalk m.obj m.ext)
    | 1 => if busy then s else put { m with step := 2 } (s.invalidate m.obj m.ext)
    | 2 =>
      match s.freeEngine false with
      | some h => put { m with step := 3, engine := some h, left := s.pageOf m.obj / 256 } s
      | none => s
    | 3 =>
      if 1 < m.left then put { m with left := m.left - 1 } s
      else put { m with step := 4, left := 0, engine := none } s
    | _ => if busy then s else put { m with step := 5 } (s.endMove m)

/-- One cycle of every move of an extent; those that are done leave the list. -/
def State.stepMoves (s : State) : State :=
  let s := (List.range s.moves.length).foldl State.stepMove s
  { s with moves := s.moves.filter (·.step < 5) }

/-- The migration engine, or the firmware for the host, begins to move one extent; a pane object moves only when its chiplet
retires (R392). -/
def execExtentMigration (obj ext home unit place : Nat) (s : State) : Host.Outcome State Fault Refusal :=
  .next <|
    match s.obj obj, s.tableEntry obj ext with
    | some o, some e =>
      if e.p ∧ e.home < 3 ∧ o.kind ≠ kPane ∧ s.placeOk home unit place (2 ^ pageLog o.pcode) then s.moveExtent obj ext home unit place
      else s
    | _, _ => s

/-! ### The OT command unit (R400-R402) -/

def HubRegs.otEnd (h : HubRegs) (status : BitVec 3) : HubRegs := { h with otBusy := false, otStatus := status }

/-- Word n of an entry replaced. -/
def OtEntry.swap (e : OtEntry) (n : Nat) (new mask : W64) : OtEntry :=
  let f (w : W64) : W64 := (w &&& ~~~mask) ||| (new &&& mask)
  match n with
  | 0 => { e with w0 := f e.w0 }
  | 1 => { e with w1 := f e.w1 }
  | 2 => { e with w2 := f e.w2 }
  | _ => { e with w3 := f e.w3 }
def OtEntry.word (e : OtEntry) (n : Nat) : W64 :=
  match n with
  | 0 => e.w0
  | 1 => e.w1
  | 2 => e.w2
  | _ => e.w3

/-- A command is busy, has not begun, and its OP is `op`. -/
def State.otWaits (s : State) (op : BitVec 3) : Bool := s.hub.otBusy && s.ot.isNone && s.hub.otOp == op
def HubRegs.otObj (h : HubRegs) : Nat := h.otObjExt.toNat % 2 ^ 28
def HubRegs.otExt (h : HubRegs) : Nat := h.otObjExt.toNat / 2 ^ 32
def HubRegs.otWord (h : HubRegs) : Nat := h.otObjExt.toNat / 2 ^ 28 % 4

/-- OTSWAP, steps 1 and 2: the word at its home, then the caches; what waited at a port walks again. -/
def execOtswap (s : State) : Host.Outcome State Fault Refusal :=
  .next <|
    let h := s.hub
    if !s.otWaits 1 then s
    else
      match s.tableEntry h.otObj h.otExt with
      | none => s.modHub fun h => h.otEnd 1
      | some e =>
        let s := s.modEntryOf h.otObj h.otExt fun e => e.swap h.otWord h.otNew h.otMask
        let s := { s with badEntries := s.badEntries.erase (h.otObj, some h.otExt) }
        let s := (s.invalidate h.otObj h.otExt).rewalk h.otObj h.otExt
        { s with ot := some ⟨1, h.otObj, h.otExt, 1, e.word h.otWord⟩ }

/-- OTSWAP, step 3. -/
def execOtswapDone (s : State) : Host.Outcome State Fault Refusal :=
  .next <|
    match s.ot with
    | some r => if r.op = 1 then { s with ot := none }.modHub fun h => { h.otEnd 0 with otOld := r.old } else s
    | none => s

/-- OTSYNC invalidates the extents it names in every cache. -/
def execOtsync (s : State) : Host.Outcome State Fault Refusal :=
  .next <|
    let h := s.hub
    if !s.otWaits 2 then s
    else
      match s.obj h.otObj with
      | none => s.modHub fun h => h.otEnd 1
      | some o =>
        let first := if h.otCount = 0 then 0 else h.otExt
        let n := if h.otCount = 0 then o.exts.length else h.otCount.toNat
        if o.exts.length < first + n then s.modHub fun h => h.otEnd 1
        else
          let s := (List.range n).foldl (fun s i => (s.invalidate h.otObj (first + i)).rewalk h.otObj (first + i)) s
          { s with ot := some ⟨2, h.otObj, first, n, 0⟩ }

/-- OTSYNC ends: an access translates and performs in one step of the model, so none that was translated before the
invalidation is left (log 21, DEDUCED). -/
def execOtsyncDone (s : State) : Host.Outcome State Fault Refusal :=
  .next <|
    match s.ot with
    | some r => if r.op = 2 then { s with ot := none }.modHub fun h => h.otEnd 0 else s
    | none => s

/-- A GO with another OP (R400). -/
def execOtBadOp (op : BitVec 3) (s : State) : Host.Outcome State Fault Refusal :=
  .next (if s.otWaits op ∧ op ≠ 1 ∧ op ≠ 2 then s.modHub fun h => h.otEnd 3 else s)

/-! ### Migration notices (R403, R404) -/

/-- The consumer advances MNQHEAD: the migration engine in hardware mode, the host in host-assisted mode. -/
def execMnqheadWrite (v : BitVec 10) (s : State) : Host.Outcome State Fault Refusal :=
  .next (s.modHub fun h => { h with mnqhead := v })

/-- The consumer of the next notice is the migration engine: the notice was raised in hardware mode, or with none waiting that
mode stands (21 R409). -/
def HubRegs.noticeHw (h : HubRegs) : Bool :=
  if h.mnqhead = h.mnqtail then h.funcmode.getLsbD 0 else SMap.get false h.mnqHw h.mnqhead.toNat

/-- The migration engine may take a notice of hardware mode in a cycle; when it does, the oracle says (log 2, DESIGN CHOICE). -/
def State.takeNotice (s : State) : State :=
  if s.hub.noticeHw ∧ s.hub.mnqhead ≠ s.hub.mnqtail then
    let (i, s) := s.draw
    if i = 0 then s else s.modHub fun h => { h with mnqhead := h.mnqhead + 1 }
  else s

/-- The oldest owed notice is posted as a slot frees, with the OVF count of its posting. -/
def execOwedNoticePost (s : State) : Host.Outcome State Fault Refusal :=
  .next <|
    match s.owed with
    | [] => s
    | (obj, ext, hw) :: r =>
      if s.hub.mnqtail + 1 = s.hub.mnqhead then s
      else
        let acc := match s.cached 8 obj ext with
          | some c => c.entry.acc
          | none => ((s.tableEntry obj ext).map OtEntry.acc).getD 0
        { s.notice obj ext acc hw with
          owed := r
          caches := SMap.set s.caches 8 ((SMap.get [] s.caches 8).map fun c =>
            if c.obj = obj ∧ c.ext = ext then { c with pinned := false } else c) }

/-! ### Host requests (21 R427) -/

/-- A request ends: STATUS, RESULT and a record of kind 8; one that ends with 2, 3 or 4 leaves RESULT (log 22, DEDUCED). -/
def State.answer (s : State) (status : BitVec 8) (result : W64) : State :=
  let r := if status = 0 then result else s.hub.mbResult
  (s.modHub fun h => { h with mbStatus := status, mbResult := r }).post ⟨8, 0, 0, r, 0⟩

def HubRegs.arg (h : HubRegs) (i : Nat) : Nat := (SMap.get 0 h.mbArg i).toNat

/-- Carry out a request that was started with OP `op`. -/
def State.request (s : State) (op : BitVec 8) (f : State → State) : State :=
  if s.hub.mbStatus = 1 ∧ s.hub.mbRun = op then f s else s

/-- The trusted firmware's policy answers, and the request is carried out or refused (log 12, DESIGN CHOICE). -/
def State.policy (s : State) (f : State → State) : State :=
  let t := { s with freeCtr := s.freeCtr + 1 }
  if Config.policyAllows s.freeCtr then f t else t.answer 2 0

/-- The arguments of a create-object request. -/
structure ObjReq where
  size : Nat
  kind : Nat
  owner : Nat
  home : Nat
  unit : Option Nat
  pcode : Nat
  frame : Bool
  migthr : Nat
  /-- host physical base, or the peer's object ID -/
  at_ : Nat
  deriving DecidableEq, Repr

def objReq (h : HubRegs) : ObjReq :=
  let a := h.arg 1
  let f (lo n : Nat) : Nat := a / 2 ^ lo % 2 ^ n
  { size := h.arg 0, kind := f 0 3, owner := f 4 4, home := f 8 3,
    unit := if f 17 1 = 1 then some (f 11 6) else none,
    pcode := if f 20 1 = 1 then f 18 2 else if h.arg 0 < 2 ^ 21 then 0 else 1,
    frame := f 21 1 == 1, migthr := f 32 16, at_ := h.arg 2 }

def ObjReq.page (r : ObjReq) : Nat := 2 ^ pageLog r.pcode
def ObjReq.count (r : ObjReq) : Nat := (r.size + r.page - 1) / r.page

/-- The ranges of the request (R427, R388, R393; log 9, DESIGN CHOICE). -/
def ObjReq.ok (r : ObjReq) : Bool :=
  1 ≤ r.size && r.size < 2 ^ 48 && r.count < 2 ^ 32 && (r.kind == 0 || r.kind == 2 || r.kind == 3 || r.kind == 4)
    && r.home < 4 && (r.kind != kPane || r.home == 1) && (r.kind != kHost || r.home == 2) && (r.kind != kPeer || r.home == 3)
    && (3 ≤ r.home || r.home == 2 || r.unit.all (· < 8)) && (r.home != 2 || r.at_ % r.page == 0)

/-- Deal n extents across the stacks in turn, from `next` on, each on the first with room. -/
def State.deal (s : State) (owner page : Nat) : Nat → Nat → List (Nat × Nat) → Option (List OtEntry)
  | 0, _, _ => some []
  | n + 1, next, chosen =>
    let units := (List.range 8).map fun i => (next + i) % 8
    match units.findSome? fun u =>
        (s.freeAt 0 u page page ((chosen.filter (·.1 == u)).map fun c => (c.2, page))).map fun a => (u, a) with
    | none => none
    | some (u, a) => (s.deal owner page n (u + 1) ((u, a) :: chosen)).map fun l => newExtent 0 u owner (BitVec.ofNat 64 a) :: l

/-- Extents that lie one after another in a unit. -/
def run (home unit owner page base n : Nat) : List OtEntry :=
  (List.range n).map fun i => newExtent home unit owner (BitVec.ofNat 64 (base + i * page))

/-- Extents of a new object at its home; none where no memory remains (R392). -/
def State.newExtents (s : State) (r : ObjReq) : Option (List OtEntry) :=
  match r.home with
  | 0 =>
    match r.unit with
    | none => s.deal r.owner r.page r.count 0 []
    | some u =>
      -- every extent in the one stack named
      (List.range r.count).foldl (fun (l : Option (List OtEntry)) _ => l.bind fun l =>
        (s.freeAt 0 u r.page r.page (l.map fun e => (e.w1.toNat, r.page))).map fun a =>
          l ++ [newExtent 0 u r.owner (BitVec.ofNat 64 a)]) (some [])
  | 1 =>
    let panes := match r.unit with
      | some u => [u]
      | none => (List.range 8).filter fun c => !s.retired c
    panes.findSome? fun u => (s.freeAt 1 u (r.count * r.page) r.page []).map fun a => run 1 u r.owner r.page a r.count
  | 2 => some (run 2 0 r.owner r.page r.at_ r.count)
  | _ => some ((List.range r.count).map fun i =>
      newExtent 3 (r.unit.getD 0) r.owner (BitVec.ofNat 64 (r.at_ % 2 ^ 28 + i * 2 ^ 32)))

/-- Zero the places of a new object; host memory keeps the host's bytes (R392). -/
def State.clearExtents (s : State) (page : Nat) (es : List OtEntry) : State :=
  es.foldl (fun s e => if e.home ≠ 2 then s.clearCells (e.key page 0) page else s) s

/-- Enter an object into the table.  The firmware's place for its extent array is a free value (log 14, DESIGN CHOICE). -/
def State.putObject (s : State) (id : Nat) (r : ObjReq) (es : List OtEntry) : State :=
  let o : Obj :=
    { frame := r.frame, pcode := r.pcode, owner := r.owner, migthr := r.migthr, kind := r.kind, size := r.size,
      array := (Config.freeValue s.freeCtr).setWidth 48, exts := es }
  { s with objs := SMap.set s.objs id o, freeCtr := s.freeCtr + 1, badEntries := s.badEntries.filter (·.1 != id) }

/-- OP 1: create an object. -/
def execCreateObject (s : State) : Host.Outcome State Fault Refusal :=
  .next <| s.request 1 fun s =>
    let r := objReq s.hub
    if !r.ok then s.answer 3 0
    else s.policy fun s =>
      let id := freeKey (s.objs.map (·.1)) 1 s.objs.length
      match s.newExtents r with
      | none => s.answer 4 0
      | some es =>
        if 0xFFDFFFF < id then s.answer 4 0
        else
          ((s.clearExtents r.page es).putObject id r es).answer 0 (BitVec.ofNat 64 id)

/-- Operations of a context that have not performed (18 R377 step 5). -/
def State.ctxOutstanding (s : State) (x : Nat) : Bool :=
  (s.remotes.any fun r => r.owner.ctx == x && !r.performed) || (s.cores.any fun c => c.2.cmds.any (·.owner.ctx == x))
    || (s.hubCopies.any fun h => h.2.kind.tid / 2 ^ 28 == x) || (s.hubQueue.any fun h => h.kind.tid / 2 ^ 28 == x)
    || s.held.any (·.owner.ctx == x)

/-- A free request waits for what its object's owner has outstanding (R392). -/
def State.freeWaits (s : State) : Bool := (s.obj (s.hub.arg 0)).any fun o => s.ctxOutstanding o.owner

/-- An object goes from the tables: its cached translations are invalidated, and accesses that waited for it walk again. -/
def State.dropObject (s : State) (id : Nat) (o : Obj) : State :=
  let es := List.range o.exts.length
  let s := es.foldl (fun s i => s.invalidate id i) s
  let s := { s with objs := s.objs.filter (·.1 != id), owed := s.owed.filter (·.1 != id), moves := s.moves.filter (·.obj != id) }
  es.foldl (fun s i => s.rewalk id i) s

/-- OP 2: free an object, once its owner has nothing outstanding; accesses that waited for it find it gone. -/
def execFreeObject (s : State) : Host.Outcome State Fault Refusal :=
  .next <| s.request 2 fun s =>
    let id := s.hub.arg 0
    if id = 0 ∨ 0xFFDFFFF < id then s.answer 3 0
    else
      match s.obj id with
      | none => s.answer 2 0
      | some o =>
        if s.freeWaits then s
        else s.policy fun s =>
          (s.dropObject id o).answer 0 0

/-- A context descriptor (03 R44). -/
structure Desc where
  prio : Nat
  det : Bool
  budget : Nat
  window : Nat
  pool : Nat
  fvec : Nat
  deriving DecidableEq, Repr

/-- Read a descriptor; none where a field breaks its range.  The S-op of a fault vector lies whole within the stream object, and
bytes past the descriptor object read as 0 (log 124, DESIGN CHOICE). -/
def State.desc (s : State) (obj off sobj : Nat) : Option Desc :=
  let rd (a n : Nat) : Nat := s.objLE obj (off + a) n
  let b := rd 3 1
  let size := ((s.obj sobj).map (·.size)).getD 0
  let d : Desc := ⟨b % 8, b / 8 % 2 == 1, b / 16 % 8, rd 4 2, rd 6 2, rd 8 8⟩
  if rd 0 2 = 0x5843 ∧ rd 2 1 = 1 ∧ b < 128 ∧ 1 ≤ d.window ∧ d.window ≤ 256 ∧ d.pool ≤ 4096 ∧ d.fvec % 16 = 0
      ∧ (d.fvec = 0 ∨ d.fvec + 16 ≤ size) ∧ rd 16 16 = 0 then some d else none

/-- The context number is free: never created, or killed and its kill complete. -/
def State.ctxFree (s : State) (x : Nat) : Bool := !(s.ctx x).created || ((s.ctx x).killed && (s.ctx x).run == 3)

/-- The state of a created context: RUN = 3, stream PC 0, an empty table, counters 0.  The hub's checkpoint registers and
HOISTOK are not of the context's status and stay. -/
def newContext (old : Context) (sobj frame heap ckpt heapLen : Nat) (d : Desc) : Context :=
  { Context.none with
    created := true, sobj := sobj, det := d.det, budget := BitVec.ofNat 3 d.budget, run := 3,
    fe := { FrontEnd.zero with prio := d.prio, wquota := d.window, pquota := d.pool, fvec := d.fvec,
                               heap := if heap = 0 then 0 else mkCap heap 3 kObject 0 heapLen },
    frameObj := frame, deadSlots := [], heapObj := heap, ckptObj := ckpt,
    hoistok := old.hoistok, ckrec := old.ckrec, ckdone := old.ckdone, ckbytes := old.ckbytes, saved := old.saved }

/-- An object that a context may be given: its own, or none named (log 61, DEDUCED). -/
def State.ownObj (s : State) (o x : Nat) : Bool := o == 0 || (s.obj o).any fun y => y.owner == x

/-- Create context x over its objects (R427, R44). -/
def State.makeContext (s : State) (x sobj frame heap ckpt : Nat) (d : Desc) : State :=
  s.setCtx x (newContext (s.ctx x) sobj frame heap ckpt (((s.obj heap).map (·.size)).getD 0) d)

/-- The number of the service stream's object, and the request that makes it (log 12, DESIGN CHOICE). -/
def serviceObj (n : Nat) : Nat := 1 + (Config.serviceStream n).toNat % 0xFFDFFFF
def serviceReq (n : Nat) : ObjReq :=
  let size := max 1 (Config.serviceImage n).length
  { size := size, kind := kObject, owner := 0, home := 0, unit := none, pcode := if size < 2 ^ 21 then 0 else 1, frame := false,
    migthr := 0, at_ := 0 }
/-- Build an object for the service stream and place its image in it. -/
def State.loadService (s : State) (id n : Nat) : State :=
  match s.newExtents (serviceReq n) with
  | none => s
  | some es => (s.putObject id (serviceReq n) es).writeObj id 0 (Config.serviceImage n)

/-- The trusted firmware loads a new image for the service firmware, in place of the one that the killed context 0 ran, and creates
context 0 again (R433) (log 12, DESIGN CHOICE).  The new object takes the number of the old one; no context has it in its window. -/
def State.renewService (s : State) : State :=
  let n := s.freeCtr
  let id := (s.ctx 0).sobj
  let d : Desc := ⟨0, false, 0, (s.ctx 0).fe.wquota, (s.ctx 0).fe.pquota, 0⟩
  let s : State := { s with freeCtr := n + 1 }
  let s := match s.obj id with
    | some o => s.dropObject id o
    | none => s
  ((s.loadService id n).makeContext 0 id 0 0 0 d).modCtx 0 fun c => { c with run := 1 }

/-- OP 3: create a context.  With no such request, the firmware loads a new image and creates context 0 again after its kill
(R433). -/
def execCreateContext (s : State) : Host.Outcome State Fault Refusal :=
  .next <|
    if s.hub.mbStatus = 1 ∧ s.hub.mbRun = 3 then
      let h := s.hub
      let x := h.arg 0 % 16
      let sobj := h.arg 1
      let dobj := h.arg 2 % 2 ^ 28
      let frame := h.arg 3
      let heap := h.arg 4
      let ckpt := h.arg 5
      if x = 0 then s.answer 3 0
      else if (s.obj sobj).isNone ∨ (s.obj dobj).isNone then s.answer 2 0
      else
        match s.desc dobj (h.arg 2 / 2 ^ 32) sobj with
        | none => s.answer 3 0
        | some d =>
          if !s.ctxFree x || !s.quotasOk x d.window d.pool || !s.ownObj sobj x || !s.ownObj frame x || !s.ownObj heap x
              || !s.ownObj ckpt x || (frame != 0 && !((s.obj frame).any (·.frame))) then s.answer 2 0
          else if frame != 0 && (s.obj frame).any (·.size < frameStride) then s.answer 4 0
          else s.policy fun s => (s.makeContext x sobj frame heap ckpt d).answer 0 0
    else if (s.ctx 0).killed ∧ (s.ctx 0).run = 3 then
      s.renewService
    else s

/-- Fetch of a context resumes at an offset; modes 0 and 1 leave the fault handler (R428). -/
def Context.restart (c : Context) (mode at_ : Nat) : Context :=
  let fe := { c.fe with spc := at_ }
  let fe := if mode = 2 then fe
    else { fe with handler := false, calls := match fe.calls with
      | (_, true) :: r => r
      | l => l }
  { c with fe := fe, run := 1, lastFault := Option.none }

/-- OP 4: restart a context (R428) (log 86, DEDUCED). -/
def execRestartContext (s : State) : Host.Outcome State Fault Refusal :=
  .next <| s.request 4 fun s =>
    let h := s.hub
    let x := h.arg 0 % 16
    let a := h.arg 1 % 2 ^ 48
    let mode := h.arg 2 % 4
    let c := s.ctx x
    if mode = 3 then s.answer 3 0
    else if !c.created || c.killed || c.run != 3 then s.answer 2 0
    else if mode = 2 then
      if s.target x a then s.policy fun s => (s.modCtx x (·.restart 2 a)).answer 0 0 else s.answer 3 0
    else
      match c.lastFault with
      | none => s.answer 2 0
      | some f =>
        let dest := if mode = 0 then f else f + 16 * (1 + s.extWords x f)
        s.policy fun s => (s.modCtx x (·.restart mode dest)).answer 0 0

/-- A capability that the firmware may enter into a table (R388). -/
def capOk (c : CapBits) : Bool :=
  capKind c < 5 && (capKind c != kScratch || (capObj c == 0 && capBase c + capLen c ≤ Config.spadBytes))

/-- OP 5: write a capability-table entry. -/
def execWriteCapabilityEntry (s : State) : Host.Outcome State Fault Refusal :=
  .next <| s.request 5 fun s =>
    let h := s.hub
    let x := h.arg 0 % 16
    let n := h.arg 1 % 4096
    let c : CapBits := BitVec.ofNat 128 (h.arg 2 + h.arg 3 * 2 ^ 64)
    if !capOk c then s.answer 3 0
    else if !(s.ctx x).created then s.answer 2 0
    else if c ≠ 0 ∧ capKind c ≠ kScratch ∧ !(s.obj (capObj c)).any (fun o => o.owner == x && o.kind == capKind c) then
      s.answer 2 0
    else s.policy fun s => (s.modCtx x fun k => { k with caps := SMap.set k.caps n c }).answer 0 0

/-- A GO with an unlisted OP ends with STATUS 3. -/
def execBadRequest (op : BitVec 8) (s : State) : Host.Outcome State Fault Refusal :=
  .next (if op = 0 ∨ 5 < op.toNat then s.request op fun s => s.answer 3 0 else s)

end Sys2Proof.Machine
end

