-- ==== Sys2Proof/Machine/Verify.lean ====
section
/-!
DEFINITION. Protection by the Prism, the Loupe and the hub: re-execution, votes, head-only mode, suspicion and chiplet
retirement (15 R322-R334, R342, R343, R347).
-/

namespace Sys2Proof.Machine

/-! ### Suspicion and retirement (R342, R343) -/

/-- Ask for the strand of a core to be taken off it, where nothing has asked yet. -/
def Core.ask (c : Core) (r : StopReq) : Core :=
  if c.holds && c.req.isNone && c.mode != .saving then { c with req := some r } else c

/-- Move the pane objects of a chiplet: a pane object whole to the lowest other pane with room, any other extent, and a
pane object that no pane can take, to HBM (log 23, DESIGN CHOICE). -/
def State.emptyPane (s : State) (chip : Nat) : State :=
  s.objs.foldl (fun s p =>
    let (id, o) := p
    let here := ((List.range o.exts.length).zip o.exts).filter fun x => x.2.home == 1 && x.2.unit == chip
    if here = [] then s
    else
      let page := 2 ^ pageLog o.pcode
      let panes := (List.range 8).filter fun c => !s.retired c && c != chip
      let whole := panes.findSome? fun u => (s.freeAt 1 u (o.exts.length * page) page []).map fun a => (u, a)
      match (if o.kind = kPane then whole else none) with
      | some (u, a) => here.foldl (fun s x => s.moveExtent id x.1 1 u (a + x.1 * page)) s
      | none =>
        here.foldl (fun s x =>
          match (List.range 8).findSome? fun u => (s.freeAt 0 u page page []).map fun a => (u, a) with
          | some (u, a) => s.moveExtent id x.1 0 u a
          | none => s) s) s

/-- Retire a chiplet: CCRET, its strands pre-empted with reason 5, its pane emptied, the host told. -/
def State.retireChip (s : State) (chip : Nat) : State :=
  let s := s.modHub fun h => { h with ccret := h.ccret ||| ((1 : BitVec 8) <<< chip) }
  let cs := s.cores.map fun p => if chipOf p.1 = chip then (p.1, p.2.ask ⟨5, .core, false, 0⟩) else p
  let s := { s with cores := cs }
  (s.emptyPane chip).post ⟨3, 0, 0, BitVec.ofNat 64 chip, 0⟩

/-- A score that has reached SUSPLIM: the chiplet retires, or the host is told (log 59, DESIGN CHOICE). -/
def State.judge (s : State) (chip : Nat) : State :=
  let score := SMap.get 0 s.hub.susp chip
  if s.hub.susplim = 0 ∨ score < s.hub.susplim.toNat ∨ s.retired chip then s
  else if s.hub.funcmode.getLsbD 1 then s.retireChip chip
  else s.post ⟨3, 0, 0, BitVec.ofNat 64 chip, 0⟩

/-- Charge a chiplet. -/
def State.suspect (s : State) (chip n : Nat) : State :=
  (s.modHub fun h => { h with susp := SMap.set h.susp chip (min 65535 (SMap.get 0 h.susp chip + n)) }).judge chip

/-- Every score of a chiplet in service falls by one (R342). -/
def execSuspicionDecay (s : State) : Host.Outcome State Fault Refusal :=
  .next <|
    let s := s.modHub fun h => { h with susp := h.susp.map fun p => if h.ccret.getLsbD p.1 then p else (p.1, p.2 - 1) }
    (List.range Config.chiplets).foldl State.judge s

/-- Strands that still hold a core of a retired chiplet, one just restored there among them, are taken off it (R343). -/
def State.leaveRetired (s : State) : State :=
  if s.hub.ccret = 0 then s
  else { s with cores := s.cores.map fun p => if s.retired (chipOf p.1) then (p.1, p.2.ask ⟨5, .core, false, 0⟩) else p }

/-- An uncorrectable error in a chiplet's SRAM: charged and logged; the log's address is a free value (log 14, DESIGN CHOICE). -/
def execSramUncorrectableError (chip : Nat) (s : State) : Host.Outcome State Fault Refusal :=
  .next <|
    if Config.chiplets ≤ chip then s
    else
      let a := Config.freeValue s.freeCtr
      { (s.suspect chip 8).logError (errorEntry s.gcyc 2 chip 0 0 0 0 0 0 0 a) with freeCtr := s.freeCtr + 1 }

/-- The trusted firmware readmits a tested chiplet (R343). -/
def execChipletReadmission (chip : Nat) (s : State) : Host.Outcome State Fault Refusal :=
  .next <|
    if Config.chiplets ≤ chip then s
    else s.modHub fun h =>
      { h with ccret := h.ccret &&& ~~~((1 : BitVec 8) <<< chip), susp := SMap.set h.susp chip 0 }

/-- In host-assisted mode the firmware retires a chiplet at the host's request (R343). -/
def execChipletRetirementRequest (chip : Nat) (s : State) : Host.Outcome State Fault Refusal :=
  .next (if Config.chiplets ≤ chip ∨ s.hub.funcmode.getLsbD 1 ∨ s.retired chip then s else s.retireChip chip)

/-! ### Re-execution (R322, R323, R330, R347) -/

/-- Fill the MOD segments of an entry again into the shadows of a role (R322, R329; 08 R208). -/
def State.refill (s : State) (e : Entry) (role : Nat) : State :=
  e.ops.foldl (fun s p =>
    if p.w.mode ≠ 2 then s
    else ((List.range p.segs.length).zip p.segs).foldl (fun s g =>
      s.queueFill e.tid p (p.seg0 + g.1) g.2.1 (if role = 0 then g.2.2.1 else g.2.2.2)) s) s

/-- A run that waits for cores. -/
def waitingRun (role att : Nat) (avoid : Option Nat) : TaskRun := ⟨role, att, [], 0, 0, 0, 0, true, avoid, [], []⟩

/-- Abort a class S task and make its entry READY for its next attempt. -/
def State.rerunTask (s : State) (e : Entry) (avoid : Option Nat) : State :=
  let s := (s.abort e.tid none).dropViews e.tid
  let s := s.modEntry e.tid fun e =>
    { e with state := .ready, att := e.att + 1, fills := 0, heading := false, claimed := false,
             prio := (s.ctx e.ctx).fe.prio, readySince := s.now, rises := 0, waitFrom := s.now, timedOut := false,
             runs := [{ waitingRun 0 (e.att + 1) avoid with waiting := false }] }
  s.refill e 0

/-- Abort one copy of a class D task; it waits for cores while the entry keeps its state.  Its attempt is the entry's new one, or
the one after the copy's own where a third run has passed that (R329, 06 R139) (log 112, DEDUCED). -/
def State.rerunCopy (s : State) (e : Entry) (role : Nat) (avoid : Option Nat) : State :=
  let s := s.abort e.tid (some role)
  let own := ((e.runs.find? (·.role == role)).map (·.att)).getD e.att
  let s := s.modEntry e.tid fun e =>
    { e with att := e.att + 1, runs := e.runs.filter (·.role != role) ++ [waitingRun role (max e.att own + 1) avoid] }
  s.refill e role

/-- Suspicion of the chiplet whose strand raised a check fault (R342). -/
def State.chargeCheck (s : State) (c : CheckFault) : State := s.suspect (chipOf c.core) (if c.code = .mchk then 32 else 16)

/-- The re-execution that a check fault starts, with its record, or the task fault in its place (R323, R332). -/
def State.reexecute (s : State) (tid : Nat) (c : CheckFault) : State :=
  match s.entry tid with
  | none => s
  | some e =>
    if e.state ≠ .run ∧ e.state ≠ .done then s
    else if 4 ≤ e.att ∨ e.escaped then s.entryFault tid 2 .coretrap c.trapc c.core c.slot c.value
    else
      let chip := chipOf c.core
      let s := s.modHub fun h => { h with rxcnt := h.rxcnt + 1 }
      let s := s.logError (errorEntry s.gcyc 1 chip e.ctx tid c.att c.core c.trapc c.mstat c.chkloc 0)
      if e.cls = 1 then s.rerunTask e (some chip) else s.rerunCopy e c.role (some chip)

/-- The first check fault of each run. -/
def firstOfRuns (cs : List CheckFault) : List CheckFault :=
  ((cs.map (·.role)).dedup).filterMap fun r => cs.find? fun c => c.role == r

/-- The Prism takes the check faults of a class S or D task: each is charged, and each copy they struck runs again. -/
def execCheckFaultReexecution (tid : Nat) (s : State) : Host.Outcome State Fault Refusal :=
  .next <|
    match s.entry tid with
    | none => s
    | some e =>
      let s := e.checks.foldl State.chargeCheck (s.modEntry tid fun e => { e with checks := [] })
      (firstOfRuns e.checks).foldl (fun s c => s.reexecute tid c) s

/-- A class D strand away from its core, of whose domain every chiplet is retired: its copy is re-run (R330). -/
def State.rerunStranded (s : State) : State :=
  s.absent.foldl (fun s a =>
    let d := domainOf (chipOf a.oldCore)
    if a.locked ∧ a.state = 2 ∧ s.retired (2 * d) ∧ s.retired (2 * d + 1) then
      match s.entry a.st.id.tid.toNat with
      | some e => if (s.away a.st.owner).isSome then s.rerunCopy e a.st.id.role.toNat none else s
      | none => s
    else s) s

/-! ### Votes (R328-R330, R334) -/

/-- The signature of a run that has ended. -/
def TaskRun.signature (r : TaskRun) : W64 × W64 := (r.sig0, r.sig3)
def Entry.run (e : Entry) (role : Nat) : Option TaskRun := e.runs.find? (·.role == role)
/-- Chiplets that held a strand of a run. -/
def TaskRun.chips (r : TaskRun) : List Nat := (r.cores.map chipOf).dedup

def State.discardHeld (s : State) (tid role : Nat) : State :=
  { s with held := s.held.filter fun h => !(h.tid == tid && h.role == role) }
/-- The shadows of the primary, or of the twin and the third run. -/
def Entry.shadowsOf (e : Entry) (role : Nat) : List Nat :=
  (e.ops.filter (·.renames)).flatMap fun p => p.segs.map fun g => if role = 0 then g.2.1 else g.2.2

def State.countVote (s : State) : State := s.modHub fun h => { h with votes := h.votes + 1 }
def State.undecided (s : State) (tid : Nat) : State :=
  (s.modHub fun h => { h with undec := h.undec + 1 }).entryFault tid 2 .undecided 0 0 0 0

/-- Both copies have ended, and the Loupe has not compared them. -/
def State.comparable (s : State) (e : Entry) : Bool :=
  e.cls == 2 && e.state == .done && e.doneAt < s.now && s.runEnded e 0 && s.runEnded e 1 && (e.run 2).isNone
    && e.checks == []

/-- VOTE_COMPARE (R328). -/
def execVoteCompare (tid : Nat) (s : State) : Host.Outcome State Fault Refusal :=
  .next <|
    match s.entry tid with
    | none => s
    | some e =>
      if !s.comparable e then s
      else
        let s := s.countVote
        if (e.run 0).map TaskRun.signature = (e.run 1).map TaskRun.signature then
          ((s.discard (e.shadowsOf 1) tid).discardHeld tid 1).verify tid
        else if (s.placeEntry true e e.gangOf (some 2)).isNone then s.undecided tid
        else
          let att := (e.runs.map (·.att)).foldl max 0 + 1
          let s := (s.discardHeld tid 1).modEntry tid fun e =>
            { e with state := .run, runs := e.runs ++ [waitingRun 2 att none] }
          s.refill e 1

/-- The third run has ended. -/
def State.decidable (s : State) (e : Entry) : Bool :=
  e.cls == 2 && e.state == .run && e.doneAt < s.now && s.runEnded e 2 && e.checks == []

/-- The mappings of a lost primary give way to the twin's, in the entry and in a front-end state. -/
def ROperand.swapTwin (p : ROperand) : ROperand :=
  if p.renames then { p with segs := p.segs.map fun g => (g.1, g.2.2, g.2.1) } else p
def FrontEnd.swapTwin (f : FrontEnd) (e : Entry) : FrontEnd :=
  (e.ops.filter (·.renames)).foldl (fun f p =>
    let b := SMap.get Buf.unbound f.btab p.w.buf.toNat
    let b := { b with map := ((List.range p.segs.length).zip p.segs).foldl (fun m g => SMap.set m (p.seg0 + g.1) g.2.2.2) b.map }
    { f with btab := SMap.set f.btab p.w.buf.toNat b }) f

/-- The primary has lost: every younger entry is squashed and decode restarts after the TASK (R334). -/
def State.primaryLost (s : State) (e : Entry) : State :=
  let younger := (s.alive e.ctx).filter fun y => !((s.olderThan e).any (·.tid == y.tid)) && y.tid != e.tid
  let s := s.squashAll e.ctx younger
  let s := (s.discard (e.shadowsOf 0) e.tid).discardHeld e.tid 0
  let s := s.modEntry e.tid fun e => { e with ops := e.ops.map ROperand.swapTwin, after := e.after.swapTwin e }
  s.restoreFe e.ctx (e.after.swapTwin e)

/-- THIRD_RUN_COMPARE (R329). -/
def execThirdRunCompare (tid : Nat) (s : State) : Host.Outcome State Fault Refusal :=
  .next <|
    match s.entry tid with
    | none => s
    | some e =>
      if !s.decidable e then s
      else
        let s := s.countVote
        let sig (r : Nat) := (e.run r).map TaskRun.signature
        let losers (r : Nat) (s : State) := (((e.run r).map TaskRun.chips).getD []).foldl (fun s c => s.suspect c 64) s
        if sig 2 = sig 0 then
          losers 1 (((s.discard (e.shadowsOf 1) tid).discardHeld tid 2).verify tid)
        else if sig 2 = sig 1 ∧ !e.escaped then losers 0 ((s.primaryLost e).verify tid)
        else s.undecided tid

/-! ### Head-only mode (R332) -/

/-- A write of an entry has reached a full buffer. -/
def State.blockedWrite (s : State) (tid : Nat) : Bool :=
  s.remotes.any fun r =>
    r.owner.tid.toNat == tid && r.stage == .loupe && decide (r.issued + meshHops (chipOf r.core) 8 ≤ s.now)
      && Config.loupeBytes < s.occupied + heldBytes r.size r.off r.bytes

/-- The oldest write that the Loupe holds for an entry's primary. -/
def State.nextHeld (s : State) (tid : Nat) : Option HeldWrite := s.held.find? fun h => h.tid == tid && h.role == 0
/-- The oldest entry of its context stands before a full buffer, or has begun to write through, and its next held write can be
performed. -/
def State.canWriteThrough (s : State) (tid : Nat) : Bool :=
  match s.entry tid with
  | none => false
  | some e =>
    (s.alive e.ctx).head?.any (·.tid == tid) && !e.bypasses && (e.heading || s.blockedWrite tid)
      && (s.nextHeld tid).all s.releasable

/-- The entry's held writes perform, one in a step (12 R313), and then its later ones go through; it is escaped.  In class D only the
primary's. -/
def execHeadOnlyMode (tid : Nat) (s : State) : Host.Outcome State Fault Refusal :=
  .next <|
    if !s.canWriteThrough tid then s
    else
      match s.nextHeld tid with
      | some h => (s.releaseFirst tid h).modEntry tid fun e => { e with heading := true }
      | none =>
        let s := (s.discardHeld tid 1).discardHeld tid 2
        let s := s.modEntry tid fun e => { e with headOnly := true, escaped := true, heading := false }
        let s := s.modTask tid fun st => st.withId fun i => { i with head := true }
        s.modHub fun h => { h with lphead := h.lphead + 1 }

end Sys2Proof.Machine
end

