-- ==== Sys2Proof/Machine/Stops.lean ====
section
/-!
DEFINITION. Stops of a strand: the capture of results on their way, the stated steps, late faults and the absent-fault
queue (18 R353, R355-R358, R375), and the traps of words and bundles that are no instruction (03 R46, R47, R49).
-/

namespace Sys2Proof.Machine

/-! ### Capture (R354-R358) -/

/-- Remaining counts without those of captured entries. -/
def dropCounts (counts : List Nat) (xs : List Exposed) : List Nat := xs.foldl (fun l x => l.erase (x.due + x.extra)) counts

/-- Capture every result due later: for ERET after a late fault, for the next bundle after a suspension. -/
def Strand.capture (st : Strand) (forEret : Bool) : Strand :=
  let xs := st.tr.released ++ st.exposed
  { st with
    exposed := []
    counts := dropCounts st.counts xs
    tr := { st.tr with released := [],
                       held := if forEret then st.tr.held ++ st.tr.waiting ++ xs else st.tr.held,
                       waiting := if forEret then [] else st.tr.waiting ++ xs } }

/-- A long operation stops at once when it stands at a step, and at its next one otherwise (R358). -/
def LongOp.stop (o : LongOp) : LongOp :=
  if o.stopped || o.stopping then o
  else if o.steps ≤ o.done || o.age ≤ o.stepCycle o.done then { o with stopped := true } else { o with stopping := true }
/-- A VSCAN that goes on and has made its four blocks: no step is left at which it could stop (R358). -/
def LongOp.spent (o : LongOp) : Bool := !o.sort && o.steps ≤ o.done && !o.stopped && !o.stopping

/-- Counts without those of the destinations of a long operation that a stop takes off its way. -/
def LongOp.uncount (counts : List Nat) (o : LongOp) : List Nat :=
  if o.stopped || o.stopping then counts
  else (List.replicate o.dests o.left).foldl (fun l x => l.erase x) counts

/-- The stop of R355 on a strand.  VPI takes the steps of the oldest operation that stands stopped; where the stop ends a VSCAN
and none stands stopped, it is 0 (09 R220, R241; log 20, DESIGN CHOICE). -/
def Strand.stop (st : Strand) (forEret : Bool) : Strand :=
  let st := (st.capture forEret).withMx MatrixRegs.stop
  let ls := (st.longs.filter (!·.spent)).map LongOp.stop
  let ended := (st.longs.filter (·.spent)).flatMap fun o => o.results (st.id.cls != 0)
  let vpi := match ls.find? (·.stopped) with
    | some o => BitVec.ofNat 6 o.done
    | none => if ended = [] then st.vec.vpi else 0
  { st with
    longs := ls
    counts := st.longs.foldl LongOp.uncount st.counts
    vec := { st.vec with vpi := vpi }
    tr := if forEret then { st.tr with held := st.tr.held ++ ended } else { st.tr with waiting := st.tr.waiting ++ ended } }

/-- Interlocked results have landed, remote returns too where they are waited for, and the engines stand at stated
steps. -/
def State.steady (s : State) (k : Nat) (returns : Bool) : Bool :=
  let st := s.strand k
  st.pend.isEmpty && st.mx.stopped && st.longs.all (·.stopped)
    && !(returns && s.remotes.any fun r => r.owner == st.owner && r.slot < 8 && r.dst.isSome)

/-- Stopped matrix operations go on from the step their index names (10 R252). -/
def MatOp.resume (o : MatOp) (x : MatrixRegs) : MatOp :=
  if o.held then
    let n := if o.kind.streams then 16 * x.stidx.toNat else 64 * x.ldidx.toNat
    { o with stopping := false, noted := false, first := n, read := n, landed := n, age := 0, inFlight := [],
             plane := if o.kind.streams then x.active else o.plane }
  else { o with stopping := false, noted := false }

/-- A stopped long operation continues from the step it stands at (R358). -/
def LongOp.resume (o : LongOp) : LongOp :=
  let n := min o.steps o.done
  { o with stopped := false, stopping := false, done := n, age := max o.age (o.stepCycle n) }

/-- A result comes before another of the same cycle: by bundle, then by slot (R357, 09 R213). -/
def Exposed.before (x y : Exposed) : Bool := decide (x.seq < y.seq) || (x.seq == y.seq && decide (x.slot < y.slot))
/-- Put an entry into its place in that order. -/
def insertEntry (x : Exposed) : List Exposed → List Exposed
  | [] => [x]
  | y :: r => if x.before y then x :: y :: r else y :: insertEntry x r

/-- What the next bundle, idle cycle of NOPW or drain cycle of ENDT sets going again: entries that waited for it count
from this cycle (R357, 06 R159), and stopped operations continue. -/
def Strand.restart (st : Strand) : Strand :=
  let xs := st.tr.waiting
  let up (o : LongOp) : Bool := (o.stopped || o.stopping) && st.goesOn o.seq
  { st with
    counts := st.counts ++ (xs.map fun x => x.due + x.extra)
      ++ (st.longs.filter up).flatMap fun o => List.replicate o.dests o.left
    tr := { st.tr with waiting := [], released := xs.foldl (fun l x => insertEntry x l) st.tr.released }
    longs := st.longs.map fun o => if up o then o.resume else o
    mx := { st.mx with ops := st.mx.ops.map fun o => if o.stopping && st.goesOn o.seq then o.resume st.mx else o } }

/-- The strand of core k goes on, and resumed matrix operations read the rows that are due (10 R252). -/
def State.restart (s : State) (k : Nat) : State :=
  let st := s.strand k
  if st.mx.ops.any fun o => o.held && st.goesOn o.seq then (s.modStrand k Strand.restart).matrixReads k false
  else s.modStrand k Strand.restart

/-! ### Late faults (R355, R360, R375) -/

/-- The fault of the lowest slot, the first found among equals. -/
def pickLate : List LateFault → Option LateFault
  | [] => none
  | f :: r =>
    match pickLate r with
    | some g => if g.slot < f.slot then some g else some f
    | none => some f

/-- A fault that class S or D sends to re-execution. -/
def Strand.isCheck (st : Strand) (f : LateFault) : Bool := st.id.cls != 0 && (f.code == .mchk || f.code == .resid)

/-- The Prism learns of a check fault, with MSTAT and CHKLOC of its cycle, and takes it in this cycle (16 R347) (log 31,
DEDUCED). -/
def State.checkFault (s : State) (k : Nat) (f : LateFault) (abs mult : Bool) : State :=
  let c := s.core k
  let x := c.st.mx
  let mstat : W64 := BitVec.ofNat 64 { x with mstat := x.mstat ||| c.now.mstat }.mstatValue
  let chk : CheckFault :=
    ⟨f.code, trapcBits f.code true abs mult, f.value, k, f.slot, c.st.id.role.toNat, c.st.id.att.toNat, mstat,
     if f.code = .mchk then f.value else c.now.chkloc.getD x.chkloc⟩
  s.modEntry c.st.id.tid.toNat fun e => { e with checks := e.checks ++ [chk] }

/-- Check faults, that of the lowest slot first. -/
def checksFirst (fs : List LateFault) : List LateFault :=
  match pickLate fs with
  | none => []
  | some f => f :: fs.erase f

/-- Where the strand goes on after a handler that a late fault enters: F, or the rest of F. -/
def Strand.lateReturn (st : Strand) : TrapReturn :=
  ⟨(st.fl.resume.map (·.1)).getD st.sc.pc, BitVec.ofNat 3 ((st.fl.resume.map (·.2)).getD 0), false, st.fl.resume.isSome, st.fl.seq,
   st.fl.transfer, st.fl.skip, st.fl.nopw, st.fl.ending, st.id.priv, st.sc.loops, st.kn⟩

/-- Take the late faults of a cycle, or one of the absent-fault queue. -/
def State.takeLate (s : State) (k : Nat) (fs : List LateFault) (abs : Bool) : State :=
  let st := s.strand k
  let s := if s.hub.hfmask.getLsbD 5 && fs.any (fun f => f.code == .mchk || f.code == .resid) then s.fireHoist 4 0 st.id.ctx
    else s
  match pickLate fs, checksFirst (fs.filter st.isCheck) with
  | none, _ => s
  | some _, c :: cs =>
    -- a check fault discards what is queued
    ((c :: cs).foldl (fun s c => s.checkFault k c abs (decide (1 < fs.length))) s).modStrand k fun st =>
      st.withTr fun t => { t with absent := [] }
  | some f, [] =>
    let s := s.modStrand k fun st => (st.stop true).withFlow fun f => { f with settling := true }
    s.trapTo k st.lateReturn (trapcBits f.code true abs (decide (1 < fs.length))) f.value f.place none

/-- Deliver the oldest absent fault where a resume or an ERET lets it in. -/
def State.deliverAbsent (s : State) (k : Nat) : State :=
  match (s.strand k).tr.absent with
  | [] => s.modStrand k fun st => st.withTr fun t => { t with absDue := false }
  | f :: r => (s.modStrand k fun st => st.withTr fun t => { t with absent := r, absDue := false }).takeLate k [f] true

/-- TRAP's software trap, in the cycle after its issue (R382). -/
def State.softwareTrap (s : State) (k : Nat) (code : W64) (addr : Nat) : State :=
  let st := s.strand k
  let s := s.modStrand k fun st => st.withFlow fun f => { f with swtrap := none }
  s.trapTo k st.lateReturn (trapcBits .swtrap false false false) code (some (addr, 7)) none

/-! ### Words and bundles that are no instruction (03 R46, R47, R49) -/

/-- A slot that decodes to no instruction raises the trap its decoder names. -/
def execIllegalOpcode (code : TrapCode) (v : BitVec 64) (s : State) : Host.Outcome State Fault Refusal :=
  onCore s fun k => s.issueTrap k code v

/-- A bundle that cannot be fetched raises a trap with no slot committed. -/
def execFetchFault (code : TrapCode) (v : BitVec 64) (s : State) : Host.Outcome State Fault Refusal :=
  onCore s fun k => s.issueTrap k code v

end Sys2Proof.Machine
end

