-- ==== Sys2Proof/Machine/Suspend.lean ====
section
/-!
DEFINITION. Strands that leave their cores and come back: pre-emption, the save and the restore with the Periscope, kills,
the watchdog and lost windows (18 R361-R380, 21 R419).
-/

namespace Sys2Proof.Machine

/-! ### Frames (R362) -/

def State.frameSlots (s : State) (x : Nat) : Nat :=
  ((((s.obj (s.ctx x).frameObj).map (·.size)).getD 0) + frameStride - frameBytes) / frameStride
/-- Slots of a context's frame object that records hold. -/
def State.usedSlots (s : State) (x : Nat) : List Nat := (s.absent.filter (·.st.id.ctx == x)).map (·.slot) ++ (s.ctx x).deadSlots
def State.freeSlots (s : State) (x : Nat) : Nat := s.frameSlots x - (s.usedSlots x).length
def State.freeSlot (s : State) (x : Nat) : Option Nat :=
  let n := freeKey (s.usedSlots x) 0 (s.usedSlots x).length
  if n < s.frameSlots x then some n else none

/-! ### The stop (R363, R365) -/

/-- A request has reached the core, the strand stands at a bundle boundary, no own atomic waits (07 R177; log 113, DEDUCED), and a
frame slot is free. -/
def State.canStop (s : State) (k : Nat) : Bool :=
  let c := s.core k
  c.mode == .running && c.req.any (·.left == 0) && c.st.fl.bundle.isNone && c.st.fl.busy == 0
    && (s.freeSlot c.st.id.ctx).isSome && c.now.late.isEmpty && !s.atomicWaits c.st.owner

def execPreemptStop (core : Nat) (s : State) : Host.Outcome State Fault Refusal :=
  .next (if s.canStop core then s.modCore core fun c => { c with mode := .saving, st := c.st.stop false } else s)

/-- The extent that keeps a strand's access waiting at its port. -/
def State.waitsFor (s : State) (o : Owner) : Option (Nat × Nat) :=
  match s.remotes.find? fun r => r.owner == o && r.stage == .absent with
  | none => none
  | some r => (s.remoteExtents r).find? fun x => (s.tableEntry x.1 x.2).any fun t => !t.p || t.cw

/-- A strand whose access waits for an absent extent asks to leave at its next bundle boundary (R363). -/
def execPageAbsentSuspend (core : Nat) (s : State) : Host.Outcome State Fault Refusal :=
  .next <|
    let c := s.core core
    match s.waitsFor c.st.owner with
    | some (o, e) =>
      if c.mode = .running ∧ c.req = none ∧ (s.freeSlot c.st.id.ctx).isSome then
        s.modCore core fun c => { c with req := some ⟨1, .extent o e, false, 0⟩ }
      else s
    | none => s

/-! ### The save (R366-R369) -/

def Strand.tileCount (st : Strand) : Nat := (bitsOf st.kn.tiles).length
/-- Cycles of the register block, vector file, tiles and inbox entries. -/
def Strand.registerCycles (st : Strand) : Nat := 70 + 384 + 2056 * st.tileCount + st.sy.inbox.length

/-- The effective priority of a strand's task. -/
def State.taskPrio (s : State) (st : Strand) : Nat :=
  ((s.entry st.id.tid.toNat).map (·.prio)).getD (s.ctx st.id.ctx).fe.prio

/-- Increments of a semaphore that wait to act join its image; an overflow is queued (R370, R375). -/
def State.joinSem (s : State) (o : Owner) (p : Nat × Nat) : State :=
  match s.away o with
  | none => s
  | some a =>
    let v := a.st.semaphore p.1 + p.2
    let s := s.modOwner o fun st => st.withSy fun y =>
      { y with sem := SMap.set y.sem p.1 (min 65535 v), semAdd := SMap.erase y.semAdd p.1 }
    if 65535 < v then s.raiseTo o (a.st.semFault p.1) else s

/-- Step 1: the record is set to saving, and the strand's semaphores, records and inbox are in the frame (log 58, DEDUCED). -/
def State.beginSave (s : State) (k : Nat) : State :=
  let c := s.core k
  match c.req, s.freeSlot c.st.id.ctx with
  | some req, some slot =>
    let st := c.st.withMx MatrixRegs.index
    let a : Absent :=
      { st := st, state := 1, req := req, slot := slot, oldCore := k, newCore := k, locked := st.id.cls == 2, returns := [], sig := 0, since := s.now,
        prio := s.taskPrio st, stale := false }
    let q : Sequencer := ⟨.registers, 1 + st.registerCycles, bitsOf st.kn.banks, req, s.now, false⟩
    let s := ({ s with absent := s.absent ++ [a] }.mirror a).modCore k fun c =>
      { c with st := st, seq := some q, now := { c.now with late := [] } }
    -- increments that have come and faults of operations that ran on to their steps go with the strand
    let s := st.sy.semAdd.foldl (fun s p => s.joinSem st.owner p) s
    c.now.late.foldl (fun s f => s.raiseTo st.owner f) s
  | _, _ => s

/-- The frame slot that a stopping strand takes has an extent that is absent or being copied: the save waits (19 R397, R405). -/
def State.slotHeld (s : State) (k : Nat) : Bool :=
  let x := (s.strand k).id.ctx
  match s.freeSlot x with
  | some n => (s.frameHeld (s.ctx x).frameObj (n * frameStride) frameBytes true).isSome
  | none => false
/-- The frame of core k's departing or returning strand has such an extent: its sequencer waits. -/
def State.frameWaiting (s : State) (k : Nat) : Bool :=
  match s.away (s.strand k).owner with
  | some a => (s.frameHeld (s.frameOf a).1 (s.frameOf a).2 frameBytes true).isSome
  | none => false

/-- Step 3 ends: the registers and what goes with them are in the frame (R366). -/
def State.saveRegisters (s : State) (k : Nat) : State :=
  let c := s.core k
  match c.seq, s.away c.st.owner with
  | some q, some a =>
    let ps := s.savedParts k
    ((s.countParts a ps).putParts (s.frameOf a).1 (s.frameOf a).2 ps).modCore k fun c => { c with seq := some { q with wrote := true } }
  | _, _ => s

/-- The sequencer of a core stands at the end of a part. -/
def Core.partDone (c : Core) : Option Sequencer := c.seq.bind fun q => if q.left = 0 then some q else none

/-- The strand has a command on the engine of core k. -/
def Core.engineHas (c : Core) (o : Owner) : Bool := c.cmds.any (·.owner == o)

/-- A bank whose save may start: its entry has room for one more departed strand (R367). -/
def Core.bankReady (c : Core) (b : Nat) : Bool :=
  !c.engineHas c.st.owner || (SMap.get [] c.periscope b).countP (·.owner != c.st.owner) < 2

/-- Set the state of a strand's Periscope entries of a bank on the cores that hold one in state `old`. -/
def State.turnDeparted (s : State) (o : Owner) (b : Nat) (old new : PState) (core : Nat) : State :=
  let cs := s.cores.map fun p =>
      let l := (SMap.get [] p.2.periscope b).map fun d => if d.owner = o ∧ d.state = old then { d with state := new, newCore := core } else d
      if (SMap.get [] p.2.periscope b).any fun d => d.owner == o && d.state == old then
        (p.1, { p.2 with periscope := SMap.set p.2.periscope b l })
      else p
  { s with cores := cs }

/-- Full granules of a bank of core k as the bytes of its image that are not 0: eight granules in each. -/
def State.fullBytes (s : State) (k b : Nat) : SMap Byte :=
  let lo := (s.strand k).fullKey k (b * Config.bankBytes)
  (s.full.filter fun c => lo ≤ c.1 && c.1 < lo + Config.bankBytes / 16 && c.2).foldl (fun m c =>
    SMap.set m ((c.1 - lo) / 8) (SMap.get 0 m ((c.1 - lo) / 8) ||| BitVec.ofNat 8 (2 ^ ((c.1 - lo) % 8)))) []
/-- The image of a bank of core k with its full bits (R362). -/
def State.bankParts (s : State) (k b : Nat) : List FramePart :=
  let lo := spadKey k ((s.strand k).phys (b * Config.bankBytes))
  let at_ := imageOff (b * Config.bankBytes)
  let full := imageFullOff (b * Config.bankBytes)
  [⟨at_, Config.bankBytes, (s.mem.filter fun c => lo ≤ c.1 && c.1 < lo + Config.bankBytes).map fun c => (at_ + (c.1 - lo), c.2)⟩,
   ⟨full, 0xC00, (s.fullBytes k b).map fun p => (full + p.1, p.2)⟩]
/-- Granules whose full bits a byte of a bank's image sets. -/
def fullGranules (b : Nat) (p : Nat × Byte) : List Nat :=
  ((List.range 8).filter fun i => p.2.getLsbD i).map fun i => b * Config.bankBytes + 16 * (8 * p.1 + i)

/-- A bank's save starts: its entry names the strand, and the image receives the bank. -/
def execSaveBankStart (core : Nat) (s : State) : Host.Outcome State Fault Refusal :=
  .next <|
    let c := s.core core
    match c.partDone with
    | none => s
    | some q =>
      match (if c.mode = .saving ∧ q.part = .registers ∧ !s.frameWaiting core then q.banks.find? c.bankReady else none) with
      | none => s
      | some b =>
        let o := c.st.owner
        let s := s.turnDeparted o b .forward .restore core
        let s := s.modCore core fun c =>
          { c with
            seq := some { q with part := .bank b, left := 774, banks := q.banks.erase b }
            periscope := if c.engineHas o then SMap.set c.periscope b ((SMap.get [] c.periscope b).filter (·.owner != o) ++ [⟨o, .saving, core⟩])
              else c.periscope }
        match s.away o with
        | none => s
        | some a =>
          let ps := s.bankParts core b
          (s.countParts a ps).putParts (s.frameOf a).1 (s.frameOf a).2 ps

/-- A bank's save finishes: later writes go to the image alone. -/
def execSaveBankEnd (core : Nat) (s : State) : Host.Outcome State Fault Refusal :=
  .next <|
    let c := s.core core
    match c.partDone with
    | none => s
    | some q =>
      match q.part with
      | .bank b =>
        if c.mode ≠ .saving then s
        else
          let o := c.st.owner
          let s := (s.turnDeparted o b .saving .divert core).turnDeparted o b .restore .divert core
          s.modCore core fun c => { c with seq := some { q with part := .registers } }
      | _ => s

/-- Step 5 starts once the departing commands find free command slots (R369). -/
def State.beginImage (s : State) (k : Nat) : State :=
  let c := s.core k
  match c.partDone with
  | some q =>
    if c.mode = .saving ∧ q.part = .registers ∧ q.banks = [] ∧ c.cmds.length ≤ 8 then
      s.modCore k fun c => { c with seq := some { q with part := .image, left := 12 } }
    else s
  | none => s

/-- The whole gang of a whole-gang suspension is away: its line or cell is free (R372). -/
def State.unplaceGang (s : State) (g : Nat) : State :=
  let here := s.cores.any fun p => p.2.holds && p.2.st.node.gang == g && (s.away p.2.st.owner).isNone
  if here then s
  else { s with gangs := s.gangs.map fun x => if x.gang = g then { x with line := none, cell := none } else x }

/-- The save ends: the record is absent, the core is free, cells park. -/
def execSaveEnd (core : Nat) (s : State) : Host.Outcome State Fault Refusal :=
  .next <|
    let c := s.core core
    match c.partDone with
    | none => s
    | some q =>
      if c.mode ≠ .saving ∨ q.part ≠ .image ∨ s.frameWaiting core then s
      else
        let st := c.st
        let s := match s.away st.owner with
          | some a =>
            let p := FramePart.ofBytes 0x1840 (s.copyImage st)
            (s.countParts a [p]).putPart (s.frameOf a).1 (s.frameOf a).2 p
          | none => s
        let s := s.modAbsent st.owner fun a => { a with state := 2, since := s.now }
        let s := (s.modCore core Core.release).modPeri st.id.ctx fun p => { p with saves := p.saves + 1 }
        let s := if q.req.whole then s.unplaceGang st.node.gang else s
        s.parkCells

/-! ### Victims of pre-emption (R364) -/

/-- A running gang: its number, context and its priority, live banks, stamp, core of rank 0, and its cores. -/
structure Victim where
  gang : Nat
  ctx : Nat
  prio : Nat
  banks : Nat
  stamp : Nat
  core0 : Nat
  cores : List Nat
  deriving DecidableEq, Repr

/-- Gangs that may be victims of a task of priority p. -/
def State.victims (s : State) (p : Nat) : List Victim :=
  let on := s.cores.filter fun c => c.2.holds
  let gangs := (on.map fun c => c.2.st.node.gang).dedup
  gangs.filterMap fun g =>
    let ms := on.filter fun c => c.2.st.node.gang == g
    let ctx := ((ms.head?.map fun c => c.2.st.id.ctx)).getD 0
    let prio := (s.ctx ctx).fe.prio
    if prio < p && ms.all (fun c => c.2.mode == .running && c.2.req.isNone)
        && ms.length ≤ s.freeSlots ctx then
      some ⟨g, ctx, prio, (ms.map fun c => (bitsOf c.2.st.kn.banks).length).sum,
        (ms.map fun c => c.2.st.stamp).foldl max 0,
        ((ms.find? fun c => c.2.st.id.rank == 0).map (·.1)).getD ((ms.head?.map (·.1)).getD 0), ms.map (·.1)⟩
    else none

/-- The order of victims: priority, live banks, latest stamp, lowest core of rank 0. -/
def Victim.le (a b : Victim) : Bool :=
  if a.prio ≠ b.prio then a.prio < b.prio
  else if a.banks ≠ b.banks then a.banks < b.banks
  else if a.stamp ≠ b.stamp then b.stamp < a.stamp
  else a.core0 ≤ b.core0
def insertVictim (a : Victim) : List Victim → List Victim
  | [] => [a]
  | b :: r => if a.le b then a :: b :: r else b :: insertVictim a r

/-- The machine with some cores free, for a trial placement. -/
def State.withFree (s : State) (ks : List Nat) : State := ks.foldl (fun s k => s.modCore k Core.release) s

/-- Cores that a stop or a save in progress will free. -/
def State.leaving (s : State) : List Nat :=
  (s.cores.filter fun c => c.2.mode == .saving || (c.2.mode == .running && c.2.req.isSome)).map (·.1)

/-- The least prefix of victims with which a trial placement succeeds; a victim for whose members its context has no frame
slots left, beside those of its victims before, is passed over (R362). -/
def takeVictims (ok : List Nat → Bool) (slots : Nat → Nat) : List Victim → List Nat → List Victim → Option (List Nat)
  | vs, free, chosen =>
    if ok free then some (chosen.flatMap (·.cores))
    else
      match vs with
      | [] => none
      | v :: r =>
        let used := ((chosen.filter (·.ctx == v.ctx)).map fun u => u.cores.length).sum
        if slots v.ctx < used + v.cores.length then takeVictims ok slots r free chosen
        else takeVictims ok slots r (free ++ v.cores) (chosen ++ [v])

/-! ### Resuming records (R373) -/

/-- Send the members of a record to their cores; each restore begins 8 cycles later. -/
def State.tryRecord (s : State) (o : Owner) : Option State :=
  match s.away o with
  | none => none
  | some a =>
    (s.placeGroup false a).map fun l => l.foldl (fun s p =>
      let req := { p.1.req with left := 8 }
      ((s.modAbsent p.1.st.owner fun b => { b with state := 3 }).modCore p.2 fun c =>
        { c with mode := .restoring, st := p.1.st, req := some req, seq := none, now := Now.zero })) s

/-- Pre-empt for a candidate that cannot be placed (R364): an entry's first attempt, or an eligible record. -/
def State.preemptFor (s : State) (p : Nat) (c : Cand) : State :=
  let trial (free : List Nat) : Bool :=
    let t := s.withFree free
    match c with
    | .entry i => (t.tryEntry (.entry i)).isSome
    | .record o => (t.tryRecord o).isSome
    | _ => false
  let may := match c with
    | .entry i => (s.entry i).any fun e => !(e.cls == 1 && e.att != 0) && (match e.kind with
        | .task _ _ => true
        | _ => false)
    | .record _ => true
    | _ => false
  if !may then s
  else
    match takeVictims trial s.freeSlots ((s.victims p).foldr insertVictim []) s.leaving [] with
    | none => s
    | some ks => ks.foldl (fun s k => s.modCore k fun c => { c with req := some ⟨2, .gang, true, 8⟩ }) s

/-! ### The restore (R373, R374) -/

/-- Step 1: the record is restoring, on a core whose scratchpad and tiles it has for its own. -/
def execRestoreStart (core : Nat) (s : State) : Host.Outcome State Fault Refusal :=
  .next <|
    let c := s.core core
    match (if c.mode = .restoring ∧ c.seq = none ∧ !s.frameWaiting core then c.req else none) with
    | none => s
    | some req =>
      let s := s.modAbsent c.st.owner fun a => { a with state := 3, newCore := core }
      let q : Sequencer := ⟨.registers, 1, bitsOf c.st.kn.banks, { req with left := 0 }, s.now, true⟩
      let s := { s.clearCells (spadKey core 0) Config.spadBytes with
        full := s.full.filter fun (f : Nat × Bool) => !(2 ^ 21 * core ≤ f.1 && f.1 < 2 ^ 21 * (core + 1)) }
      s.modCore core fun c => { c with seq := some q, req := none }

/-- A bank's restore starts: the old entries enter RESTORE. -/
def State.beginRestoreBank (s : State) (k : Nat) : State :=
  let c := s.core k
  match c.partDone with
  | none => s
  | some q =>
    if c.mode ≠ .restoring ∨ q.part ≠ .registers then s
    else
      match q.banks with
      | b :: r =>
        (s.turnDeparted c.st.owner b .divert .restore k).modCore k fun c =>
          { c with seq := some { q with part := .bank b, left := 774, banks := r } }
      | [] =>
        -- the registers are read from here on
        let s := match s.away c.st.owner with
          | some a => s.countParts a (s.savedParts k)
          | none => s
        s.modCore k fun c => { c with seq := some { q with part := .image, left := c.st.registerCycles + 12 } }

/-- A bank image is in the new bank, and the old entry forwards. -/
def execRestoreBankEnd (core : Nat) (s : State) : Host.Outcome State Fault Refusal :=
  .next <|
    let c := s.core core
    match c.partDone with
    | none => s
    | some q =>
      match q.part with
      | .bank b =>
        if c.mode ≠ .restoring || s.frameWaiting core then s
        else
          let o := c.st.owner
          match s.away o with
          | none => s
          | some a =>
            let lo := b * Config.bankBytes
            let f := s.frameOf a
            let bytes := (s.partCells f.1 f.2 (imageOff lo) Config.bankBytes).map fun p => (p.1 - imageOff 0, p.2)
            let full := (s.partCells f.1 f.2 (imageFullOff lo) 0xC00).map fun p => (p.1 - imageFullOff lo, p.2)
            let s := (s.countSpan f.1 (f.2 + imageOff lo) Config.bankBytes).countSpan f.1 (f.2 + imageFullOff lo) 0xC00
            let s := s.pokeSpad core bytes (full.flatMap (fullGranules b))
            let s := s.turnDeparted o b .restore .forward core
            s.modCore core fun c => { c with seq := some { q with part := .registers } }
      | _ => s

/-- Place the gang barrier for a strand that is back on core k (R372). -/
def State.placeBarrier (s : State) (k gang : Nat) : Option State :=
  match s.gangs.find? (·.gang == gang) with
  | none => some s
  | some g =>
    let set (f : GangBar → GangBar) : State := { s with gangs := s.gangs.map fun x => if x.gang = gang then f x else x }
    let ks := (s.cores.filter fun c => c.2.holds && c.2.st.node.gang == gang).map (·.1)
    let one := ks.all fun j => chipOf j == chipOf k
    match g.line, g.cell with
    | _, some _ => some s
    | some l, none => if l.1 = chipOf k then some s else s.freeCell.map fun n => set fun x => { x with line := none, cell := some n }
    | none, none =>
      if one then
        let used := s.gangs.filterMap fun x => x.line.bind fun l => if l.1 = chipOf k then some l.2 else none
        some (set fun x => { x with line := some (chipOf k, freeKey used 0 used.length) })
      else s.freeCell.map fun n => set fun x => { x with cell := some n }

/-- Cells on which a strand holds a record, in its record's order. -/
def Strand.recordCells (st : Strand) : List Nat := st.sy.recs.filterMap fun r => if 0x100 ≤ r.bar then some (r.bar - 0x100) else none

/-- A parked cell comes back, and completion is judged once (R371). -/
def State.unparkCell (s : State) (n : Nat) : State :=
  if (s.cell n).parked then (s.setCell n { s.cell n with parked := false }).judgeCell n else s

/-- The tiles that a strand declares; the others read zero. -/
def MatrixRegs.onlyTiles (x : MatrixRegs) (m : BitVec 8) : MatrixRegs :=
  { x with tile := x.tile.filter fun (p : Nat × BitVec 16384) => m.getLsbD (p.1 / 512)
           cc := x.cc.filter fun (p : Nat × W32) => m.getLsbD (p.1 / 512)
           cr := x.cr.filter fun (p : Nat × W32) => m.getLsbD (p.1 / 512) }

/-- What the merge makes of a strand: return values, the signature image, the yield's decrement (R298). -/
def Absent.merged (a : Absent) : Strand :=
  let st := a.returns.foldl (fun st r => st.withScalar fun x => x.put r.1 (r.2.1.setWidth 128)) a.st
  let st := { st with sig := SMap.set st.sig 0 (SMap.get 0 st.sig 0 + a.sig) }
  let st := match st.sy.yielding with
    | some (n, t) => (st.consume n t).withSy fun y => { y with yielding := none }
    | none => st
  (st.withMx (MatrixRegs.onlyTiles · st.kn.tiles)).withTr fun t => { t with absDue := true }

/-- Steps 4 to 7: diverted state is merged, the cells of its records return, the barrier is placed, the planes are read
again. -/
def execResumeMerge (core : Nat) (s : State) : Host.Outcome State Fault Refusal :=
  .next <|
    let c := s.core core
    match c.partDone, s.away c.st.owner with
    | some q, some a =>
      if c.mode ≠ .restoring ∨ q.part ≠ .image ∨ s.returnsDue c.st.owner then s
      else
        match s.placeBarrier core c.st.node.gang with
        | none => s
        | some s =>
          let st := a.merged
          let s := { s with absent := s.absent.filter fun (b : Absent) => b.st.owner != st.owner }
          let cycles := 1 + st.mx.active.rebuildCycles + st.mx.shadow.rebuildCycles
          let s := s.modCore core fun c => { c with st := st, seq := some { q with part := .rebuild, left := cycles } }
          let s := s.modStrand core fun st => st.withMx fun x =>
            { x with active := s.rebuild core x.active, shadow := s.rebuild core x.shadow }
          (st.recordCells.foldl (fun s n => s.unparkCell n) s).parkCells
    | _, _ => s

/-- The restore ends: the strand's first bundle may issue in this cycle. -/
def State.endRestore (s : State) (k : Nat) : State :=
  let c := s.core k
  match c.partDone with
  | some q =>
    if c.mode = .restoring ∧ q.part = .rebuild then
      -- an offer that is still in the send buffer leaves in a slot from 8 cycles after t_R on (R370)
      let s := s.modCore k fun c => { c with mode := .running, seq := none, st := c.st.withSy fun y =>
        { y with sends := y.sends.map fun x => (x.1, x.2.1, s.now) } }
      (s.modEntry c.st.id.tid.toNat fun e =>
        { e with runs := e.runs.map fun r => if r.role = c.st.id.role.toNat then { r with cores := r.cores ++ [k] } else r }).modPeri
          c.st.id.ctx fun p => { p with restores := p.restores + 1 }
    else s
  | none => s

/-! ### The watchdog, timeouts, kills and lost windows (R377-R380) -/

def execWatchdogExpiry (core : Nat) (s : State) : Host.Outcome State Fault Refusal :=
  .next <|
    let st := s.strand core
    if (s.core core).mode = .running ∧ s.wdMult ≠ 0 ∧ s.deadline st ≤ st.tr.wdCount then s.taskFault core .watchdog 0 0 0
    else s

/-- Kill a context (R377): fetch stops, its entries are squashed, its strands, records, copies and writes go, its cells
are free. -/
def State.kill (s : State) (x : Nat) : State :=
  if !(s.ctx x).created ∨ (s.ctx x).killed then s
  else
    let gone := s.absent.filter fun (a : Absent) => a.st.id.ctx == x
    let s := ((gone.foldl State.markDiscarded s).abandonCopy x).modCtx x fun c => { c with deadSlots := c.deadSlots ++ gone.map (·.slot) }
    let s := s.squashAll x (s.alive x)
    let cs := s.cores.map fun p =>
      let c := { p.2 with cmds := p.2.cmds.filter fun (q : CopyCmd) => q.owner.ctx != x
                          periscope := p.2.periscope.map fun q => (q.1, q.2.filter fun (d : Departed) => d.owner.ctx != x) }
      (p.1, if c.holds && c.st.id.ctx == x then c.release else c)
    let s := { s with
      cores := cs
      remotes := s.remotes.filter fun (r : Remote) => r.owner.ctx != x || r.performed
      held := s.held.filter fun (h : HeldWrite) => h.owner.ctx != x
      absent := s.absent.filter fun (a : Absent) => a.st.id.ctx != x
      updates := s.updates.filter fun (u : BarUpdate) => u.owner.ctx != x
      events := s.events.filter fun (e : InFlightEvent) => e.owner.ctx != x
      cells := s.cells.filter fun (c : Nat × Cell) => c.2.own != some x }
    s.dropGangs.modCtx x fun c => { c with run := 4, killed := true, dying := true, pool := [], ckpt := none }

def execCtxkill (ctx : Nat) (s : State) : Host.Outcome State Fault Refusal := .next (s.kill ctx)

/-- Nothing of a dying context is outstanding: RUN becomes 3, its shadows are free and the host is told. -/
def execKillComplete (ctx : Nat) (s : State) : Host.Outcome State Fault Refusal :=
  .next <|
    let c := s.ctx ctx
    if c.run = 4 ∧ !s.ctxOutstanding ctx ∧ s.wuse ctx = 0 then
      let s := { s with shadows := s.shadows.filter fun (p : Nat × Shadow) => p.2.ctx != ctx }
      (s.modCtx ctx fun c => { c with run := 3, dying := false, deadSlots := [] }).post ⟨2, 0, ctx, 0, 0⟩
    else s

/-- A save or a restore has taken 10 ms: a chiplet error, and the context is lost (R379). -/
def execSaveTimeout (core : Nat) (s : State) : Host.Outcome State Fault Refusal :=
  .next <|
    let c := s.core core
    match c.seq with
    | none => s
    | some q =>
      if s.now < q.began + 10500000 then s
      else
        let st := c.st
        let x := st.id.ctx
        let s := s.logError (errorEntry s.gcyc 3 (chipOf core) x st.id.tid.toNat st.id.att.toNat core 0 0 0 0)
        let s := if s.hub.hfmask.getLsbD 4 then s.fireHoist 4 0 x else s
        let f : FaultInfo := ⟨4, .lost, (s.ctx x).fe.spc, 0, 0, 0, 0, 0, 0, 0, 0, s.hub.funcmode.getLsbD 4⟩
        (s.recordFault x f (faultRecord f x st.id.tid.toNat true [])).kill x

/-- An uncorrectable error in a context's window entries (R380). -/
def execWindowLost (ctx : Nat) (s : State) : Host.Outcome State Fault Refusal :=
  .next <|
    match s.alive ctx with
    | [] => s
    | e :: r =>
      let esc := ((e :: r).filter (·.escaped)).map (·.tid)
      let s := s.squashAll ctx (e :: r)
      let s := s.restoreFe ctx e.before
      if esc = [] then s
      else
        let f : FaultInfo := ⟨4, .lost, e.sop, 0, 0, 0, 0, 0, 0, 0, 0, s.hub.funcmode.getLsbD 4⟩
        (s.recordFault ctx f (faultRecord f ctx e.tid true esc)).enterFault ctx f

/-! ### Over quota (21 R419) -/

/-- Every strand of an over-quota context is asked to leave. -/
def execOverQuota (ctx : Nat) (s : State) : Host.Outcome State Fault Refusal :=
  .next <|
    if !(s.ctx ctx).energy.overq then s
    else
      let cs := s.cores.map fun p => if p.2.st.id.ctx = ctx then (p.1, p.2.ask ⟨4, .grant, false, 0⟩) else p
      { s with cores := cs }

end Sys2Proof.Machine
end

