-- ==== Sys2Proof/Machine/Module.lean ====
section
/-!
DEFINITION. The module in its system (21): droop and ballast, the trip and boot, energy grants, the copying of checkpoints,
the Hoist's snapshot, the interrupt ring, the pennant links, host windows and writes of hub registers.
-/

namespace Sys2Proof

/-- The cause bit of a condition. -/
def TripSource.bit : TripSource → Option Nat
  | .external => some 15
  | .coolant => some 14
  | .hubCurrent => some 13
  | .current d => if d < 4 then some (9 + d) else none
  | .temperature c => if c ≤ 8 then some c else none

end Sys2Proof

namespace Sys2Proof.Machine

/-! ### Droop (R415) -/

/-- One core's answer to an alarm: a stretch from the next cycle on, or halving from its first cycle again (log 63, DEDUCED). -/
def Core.alarm (c : Core) : Core :=
  if c.stretch ≠ 0 then c
  else if c.halve ≠ 0 then { c with halve := 65 }
  else { c with stretch := 10 }

/-- An alarm of a supply domain whose detector is enabled. -/
def execDroopAlarm (domain : Nat) (s : State) : Host.Outcome State Fault Refusal :=
  .next <|
    if 4 ≤ domain ∨ !(SMap.get 0x10C s.hub.drpthr domain).getLsbD 8 then s
    else
      let s := s.modHub fun h => { h with drpcnt := SMap.set h.drpcnt domain (SMap.get 0 h.drpcnt domain + 1) }
      (List.range 16).foldl (fun s i => s.modCore (16 * domain + i) Core.alarm) s

/-- The ninth reference cycle of a stretch ends it: 64 halved cycles follow. -/
def execDroopStretchEnd (core : Nat) (s : State) : Host.Outcome State Fault Refusal :=
  .next (s.modCore core fun c => if c.stretch = 1 then { c with stretch := 0, halve := 65, halvePhase := false } else c)

def execDroopHalvingEnd (core : Nat) (s : State) : Host.Outcome State Fault Refusal :=
  .next (s.modCore core fun c => if c.halve = 1 then { c with halve := 0, halvePhase := false } else c)

/-! ### Ballast (R413, R418) -/

/-- H: the sum of the weights of the last 31 cycles. -/
def Core.windowSum (c : Core) : Nat := c.weights.sum
def Core.ballastDue (c : Core) : Bool := c.ballast == 0 && c.windowSum + 1024 < c.lastSum
/-- The ballast weight of the i-th of 32 cycles, from the mean weight of the old window to that of the new (log 46, DESIGN CHOICE). -/
def ballastWeight (from_ to_ i : Nat) : Nat := (from_ - (from_ - to_) * (i + 1) / 32) / 31

/-- The window sum has fallen by more than 1024: 32 ballast cycles follow, charged to the context whose strand holds or last held
the core. -/
def execBallastStart (core : Nat) (s : State) : Host.Outcome State Fault Refusal :=
  .next (s.modCore core fun c =>
    if !c.ballastDue then c
    else { c with ballast := 32, ballastFrom := c.lastSum, ballastTo := c.windowSum
                  ballastCtx := if c.holds then some c.st.id.ctx else c.lastCtx })

/-- The charge of a ballast cycle that leaves n: 0.25 nJ for each unit of its weight. -/
def State.chargeBallast (s : State) (core n : Nat) : State :=
  let c := s.core core
  match c.ballastCtx with
  | some x => s.modCtx x fun y =>
    { y with energy := { y.energy with
        ballast := y.energy.ballast + 25600 * ballastWeight c.ballastFrom c.ballastTo (31 - n) } }
  | none => s

/-- The last ballast cycle. -/
def execBallastEnd (core : Nat) (s : State) : Host.Outcome State Fault Refusal :=
  .next <|
    if (s.core core).ballast ≠ 1 then s
    else (s.chargeBallast core 0).modCore core fun c =>
      { c with ballast := 0, ballastFrom := 0, ballastTo := 0, ballastCtx := none }

/-! ### The trip and boot (R417, R432) -/

/-- The machine after its rails were cut or before they are up.  What comes from outside stays, and so do host memory, with
the interrupt ring in it, and the memory of peer modules. -/
def State.dark (s : State) : State :=
  { State.reset with
    on := false, gcyc := s.gcyc
    mem := s.mem.filter fun c => hostKey 0 ≤ c.1
    env := s.env, oracle := s.oracle, freeCtr := s.freeCtr, upsets := s.upsets, fwTasks := s.fwTasks, metered := s.metered
    hub := { HubRegs.reset with tripcause := s.hub.tripcause } }

/-- Every rail but the standby supply is cut: all state is lost but TRIPCAUSE, which counts the trip. -/
def execThermalTrip (src : TripSource) (s : State) : Host.Outcome State Fault Refusal :=
  .next <|
    match src.bit with
    | none => s
    | some b =>
      let n := s.hub.tripcause.toNat / 2 ^ 32
      let bits : W64 := (s.hub.tripcause &&& 0xFFFF) ||| ((1 : W64) <<< b)
      s.dark.modHub fun h => { h with tripcause := BitVec.ofNat 64 (min (n + 1) (2 ^ 32 - 1) * 2 ^ 32) ||| bits }

def execTripcauseClear (mask : BitVec 16) (s : State) : Host.Outcome State Fault Refusal :=
  .next (s.modHub fun h => { h with tripcause := h.tripcause &&& ~~~(mask.setWidth 64) })

/-- Boot: the firmware's check; then memories clear, the tables hold the service stream's object alone, context 0 is created and
started (log 12, DESIGN CHOICE). -/
def execBoot (s : State) : Host.Outcome State Fault Refusal :=
  .next <|
    let n := s.freeCtr
    let t : State := { s.dark with gcyc := 0, freeCtr := n + 5, measure := Config.freeValue n }
    if !Config.signatureOk n then t
    else
      let w := 1 + (Config.freeValue (n + 1)).toNat % 256
      let p := (Config.freeValue (n + 2)).toNat % 4097
      let t := ({ t with on := true }.modHub fun h =>
        { h with ringBase := BitVec.ofNat 64 ((Config.freeValue (n + 4)).toNat % 2 ^ 43 * 32) }).loadService (serviceObj (n + 3)) (n + 3)
      (t.makeContext 0 (serviceObj (n + 3)) 0 0 0 ⟨0, false, 0, w, p, 0⟩).modCtx 0 fun c => { c with run := 1 }

/-! ### Energy grants (R419, R420) -/

/-- A trusted write of QUOTA pays DEBT first; a remainder ends the over-quota state. -/
def EnergyPage.grant (e : EnergyPage) (v : W64) : EnergyPage :=
  let amt := v.toNat * energyUnit
  { e with debt := e.debt - amt, quota := amt - e.debt, overq := e.overq && amt ≤ e.debt }

def execEnergyQuotaWrite (ctx : Nat) (v : BitVec 64) (s : State) : Host.Outcome State Fault Refusal :=
  .next (if 16 ≤ ctx then s else s.modCtx ctx fun c => { c with energy := c.energy.grant v })

/-! ### Checkpoints: copying and restart (R421, R422) -/

/-- What a checkpoint copies next: an extent, which must be present (19 R405), or once none is left a published shadow. -/
def State.copyItem (s : State) (k : Checkpoint) : Option ((Nat × Nat) ⊕ Nat) :=
  let there (p : Nat × Nat) : Bool := (s.tableEntry p.1 p.2).all (·.p)
  if k.todo = [] then (k.shadows.head?).map .inr
  else ((if k.part = 0 then k.todo.find? there else k.todo.head?.filter there)).map .inl
/-- Its length, and its bytes that are not 0. -/
def State.copySource (s : State) (i : (Nat × Nat) ⊕ Nat) : Nat × List (Nat × Byte) :=
  match i with
  | .inl (o, x) =>
    match s.obj o, s.tableEntry o x with
    | some ob, some e => (2 ^ pageLog ob.pcode, s.mem.range (e.key (2 ^ pageLog ob.pcode) 0) (2 ^ pageLog ob.pcode))
    | _, _ => (0, [])
  | .inr n =>
    match SMap.get none (s.shadows.map fun p => (p.1, some p.2)) n with
    | none => (0, [])
    | some sh => (2 ^ sh.seglog, (atAddr 0 (s.objBytes sh.obj sh.heapOff (2 ^ sh.seglog))).filter fun p => p.2 != 0)
/-- The first place at which two rising lists of bytes differ. -/
def firstDiff : List (Nat × Byte) → List (Nat × Byte) → Option Nat
  | [], [] => none
  | (a, _) :: _, [] => some a
  | [], (b, _) :: _ => some b
  | (a, x) :: r, (b, y) :: t => if a = b then (if x = y then firstDiff r t else some a) else some (min a b)
/-- The next granule of it that the target does not hold yet, the target's object being there. -/
def State.copyGranule (s : State) (x : Nat) (k : Checkpoint) (n : Nat) (l : List (Nat × Byte)) : Option Nat :=
  let t := (s.ctx x).ckptObj
  if (s.obj t).isNone then none
  else (firstDiff (l.dropWhile (·.1 < k.part)) (s.partCells t k.next k.part (n - k.part))).map fun a => a / 16 * 16
/-- A step of copying can be made: the target's granule is present. -/
def State.copyable (s : State) (x : Nat) : Bool :=
  (s.ctx x).ckpt.any fun k =>
    match s.copyItem k with
    | none => k.todo == [] && k.shadows == []
    | some i =>
      let (n, l) := s.copySource i
      (s.copyGranule x k n l).all fun g => (s.frameHeld (s.ctx x).ckptObj (k.next + g) 16 false).isNone

/-- An extent or shadow has been copied: CKBYTES counts it, and it joins the record (log 62, DESIGN CHOICE).  The copy mark of an
extent is cleared, and waiting writes walk again; a shadow may be released from now on. -/
def State.endItem (s : State) (x : Nat) (hw : Bool) (i : (Nat × Nat) ⊕ Nat) (n : Nat) (l : List (Nat × Byte)) : State :=
  let s := (s.overheadCharge (n * perByte)).modCtx x fun c =>
    { c with ckbytes := c.ckbytes + BitVec.ofNat 64 n, ckpt := c.ckpt.map fun k => { k with next := k.next + n, part := 0 } }
  let record (f : Checkpoint → Checkpoint) (s : State) : State := s.modCtx x fun c => { c with ckpt := c.ckpt.map f }
  match i with
  | .inl (o, e) =>
    let s := record (fun k => { k with
      todo := k.todo.erase (o, e), rec_ := { k.rec_ with data := k.rec_.data ++ if n = 0 then [] else [(o, e, l)] } }) s
    if n = 0 then s
    else
      let s := (s.swap0 o e 0 8).rewalk o e
      if hw then s else s.post ⟨6, 0, x, BitVec.ofNat 64 (o + e * 2 ^ 32), 0⟩
  | .inr m =>
    let sh := SMap.get none (s.shadows.map fun p => (p.1, some p.2)) m
    let s := record (fun k => { k with
      shadows := k.shadows.erase m
      rec_ := { k.rec_ with bufs := k.rec_.bufs ++ sh.toList.map fun sh => (m, { sh with copying := false }, l) } }) s
    { s with shadows := s.shadows.map fun p => if p.1 = m then (p.1, { p.2 with copying := false }) else p }

/-- When nothing is left to copy, CKDONE takes the tag and the record stands. -/
def State.ckptEnd (s : State) (x : Nat) : State :=
  match (s.ctx x).ckpt with
  | some k =>
    if k.todo = [] ∧ k.shadows = [] then
      (s.modCtx x fun c => { c with ckpt := none, ckdone := k.tag, saved := some k.rec_ }).post ⟨6, 0, x, k.tag.setWidth 64, 0⟩
    else s
  | none => s

/-- The next step of a checkpoint's copying: a granule reaches the target (12 R313), or the extent or shadow is there and its copying
ends. -/
def execCkptExtentCopied (ctx : Nat) (s : State) : Host.Outcome State Fault Refusal :=
  .next <|
    match (s.ctx ctx).ckpt with
    | none => s
    | some k =>
      if !s.copyable ctx then s
      else
        match s.copyItem k with
        | none => s.ckptEnd ctx
        | some i =>
          let (n, l) := s.copySource i
          match s.copyGranule ctx k n l with
          | none => (s.endItem ctx k.hw i n l).ckptEnd ctx
          | some g =>
            let first : List (Nat × Nat) := match i with
              | .inl p => p :: k.todo.erase p
              | .inr _ => k.todo
            (s.putPart (s.ctx ctx).ckptObj k.next ⟨g, 16, l.filter fun p => g ≤ p.1 && p.1 < g + 16⟩).modCtx ctx fun c =>
              { c with ckpt := c.ckpt.map fun k => { k with part := g + 16, todo := first } }

/-- Numbers for the saved shadows: their own where free. -/
def renumber : List Nat → List Nat → List (Nat × Nat)
  | _, [] => []
  | used, n :: r =>
    let m := if used.contains n then freeKey used 0 used.length else n
    (n, m) :: renumber (m :: used) r
def renamed (ms : List (Nat × Nat)) (m : SMap Nat) : SMap Nat :=
  m.map fun p => (p.1, ((ms.find? fun q => q.1 == p.2).map (·.2)).getD p.2)

/-- The bytes of the extents of a record return to their present places. -/
def State.putExtents (s : State) (l : List (Nat × Nat × List Host.Cell)) : State :=
  l.foldl (fun s p =>
    match s.obj p.1, s.tableEntry p.1 p.2.1 with
    | some o, some e =>
      let page := 2 ^ pageLog o.pcode
      if e.p then { s.clearCells (e.key page 0) page with mem := s.mem.putRange (e.key page 0) page p.2.2 } else s
    | _, _ => s) s

/-- The front-end state that a checkpoint record gives back: it names no priority, quotas or heap, which stay (R421) (log 48,
DEDUCED). -/
def FrontEnd.rebuilt (now old : FrontEnd) : FrontEnd :=
  { old with prio := now.prio, wquota := now.wquota, pquota := now.pquota, heap := now.heap }

/-- The extents that a record gives back, and the context's frames where it has any, are present (19 R397). -/
def State.restorable (s : State) (c : Context) (r : CkptRecord) : Bool :=
  r.data.all (fun d => (s.tableEntry d.1 d.2.1).all (·.p))
    && (r.frames == [] || (s.frameHeld c.frameObj 0 (((s.obj c.frameObj).map (·.size)).getD 0) true).isNone)

/-- The firmware rebuilds a stopped context from the record of CKDONE; a copying in progress is given up. -/
def execCheckpointRestart (ctx : Nat) (s : State) : Host.Outcome State Fault Refusal :=
  .next <|
    let c := s.ctx ctx
    match c.saved with
    | none => s
    | some r =>
      if !c.created || c.killed || c.run != 3 || !s.drainedCtx ctx || s.ctxOutstanding ctx || !s.restorable c r then s
      else
        let s := (s.abandonCopy ctx).putExtents r.data
        let s := r.frames.foldl (fun s f => s.putPart c.frameObj (f.1 * frameStride) ⟨0, frameBytes, f.2⟩) s
        let kept : SMap Shadow := s.shadows.filter fun (p : Nat × Shadow) => p.2.ctx != ctx
        let ms := renumber (kept.map (·.1)) (r.bufs.map (·.1))
        let s : State := { s with shadows := (ms.zip r.bufs).foldl (fun m p => SMap.set m p.1.2 p.2.2.1) kept }
        let s := r.bufs.foldl (fun s b =>
          (s.writeObj b.2.1.obj b.2.1.heapOff (List.replicate (2 ^ b.2.1.seglog) 0)).writeVia (s.hubPort b.2.1.obj b.2.1.heapOff) b.2.1.obj
            (b.2.2.map fun q => (b.2.1.heapOff + q.1, q.2))) s
        let mine : SMap Cell := s.cells.filter fun (p : Nat × Cell) => p.2.own != some ctx
        let s : State := { s with
          cells := r.cells.foldl (fun m p => if (SMap.get Cell.free m p.1).own.isNone then SMap.set m p.1 p.2 else m) mine
          absent := (s.absent.filter fun (a : Absent) => a.st.id.ctx != ctx) ++ r.absent }
        s.modCtx ctx fun c =>
          let fe := c.fe.rebuilt r.fe
          { c with
            fe := { fe with btab := fe.btab.map fun b => (b.1, { b.2 with map := renamed ms b.2.map }) }
            pub := r.pub.map fun b => (b.1, { b.2 with map := renamed ms b.2.map })
            energy := r.energy, budget := r.budget, run := 1, lastFault := none, fault := none, pending := none, park := none, ckpt := none }

/-! ### The Hoist (R423) -/

def execHoistFire (s : State) : Host.Outcome State Fault Refusal := .next (s.fireHoist 2 0 0)
def execHoistArm (s : State) : Host.Outcome State Fault Refusal := .next (s.modHub fun h => { h with harm := true })
def execHoistPin (s : State) : Host.Outcome State Fault Refusal := .next (if s.hub.hpinen then s.fireHoist 8 0 0 else s)

/-- The snapshot registers of a core. -/
def State.coreSnap (s : State) (k : Nat) : List W64 :=
  let st := s.strand k
  let n (v : Nat) : W64 := BitVec.ofNat 64 v
  [st.id.cyc, st.id.frz, n st.sc.pc, st.id.tid.setWidth 64, n (st.id.cstat st.sc.loops.length),
   n (st.mx.mstatValue / 2 ^ 53 * 2 ^ 53)]

/-- A gang barrier as the cell that it holds. -/
def GangBar.asCell (g : GangBar) : Cell :=
  { Cell.free with own := some (g.tid / 2 ^ 28), at_ := g.size, a := g.a, pb := g.pb, carried := g.carried }
/-- Every cell: those of the programs, and those that gang barriers hold (11 R274). -/
def State.allCells (s : State) : SMap Cell :=
  s.gangs.foldl (fun m g =>
    match g.cell with
    | some n => SMap.set m n g.asCell
    | none => m) s.cells

/-- Every block latches its snapshot 16 cycles after the fire. -/
def execHoistSnapshot (s : State) : Host.Outcome State Fault Refusal :=
  .next <|
    match s.hoist with
    | [] => s
    | f :: r =>
      if s.now < f + 16 then s
      else
        { s with
          hoist := r
          snap :=
            { cores := (List.range Config.cores).map fun k => (k, s.coreSnap k)
              ctxs := (List.range 16).map fun x =>
                (x, [BitVec.ofNat 64 (s.ctx x).fe.spc, BitVec.ofNat 64 (s.wuse x), BitVec.ofNat 64 (s.puse x)])
              lpocc := BitVec.ofNat 64 s.occupied
              cells := s.allCells } }

/-! ### The interrupt ring and the error log (R425, R426) -/

/-- The oldest waiting device event is written to the ring. -/
def execInterruptRecordPost (s : State) : Host.Outcome State Fault Refusal :=
  .next <|
    match s.irq with
    | [] => s
    | r :: l => if s.ringFull then s else { s with irq := l }.writeRecord r

def execIrheadWrite (v : BitVec 12) (s : State) : Host.Outcome State Fault Refusal :=
  .next (s.modHub fun h => { h with irhead := v })
def execElheadWrite (v : BitVec 12) (s : State) : Host.Outcome State Fault Refusal :=
  .next (s.modHub fun h => { h with elhead := v })

/-- A memory error that ECC corrected. -/
def execCorrectedError (chip addr : Nat) (s : State) : Host.Outcome State Fault Refusal :=
  .next (s.logError (errorEntry s.gcyc 6 chip 0 0 0 0 0 0 0 (BitVec.ofNat 64 addr)))

/-! ### Pennant links (R429, R430) -/

/-- An access whose port went down may or may not have been applied at the peer. -/
def State.perhapsApplied (s : State) (r : Remote) : State :=
  let b := (Config.freeValue s.freeCtr).getLsbD 0
  let s := { s with freeCtr := s.freeCtr + 1 }
  let port := s.remotePort r
  if !b ∨ r.stage ≠ .sent then s
  else
    match r.kind with
    | .load => s
    | .store => s.writeVia port r.obj r.bytes
    | k =>
      let old := ofLE (s.readVia port r.obj r.off r.size).1
      s.writeVia port r.obj (atAddr r.off (leBytes r.size (atomNew k r.fn r.size old r.data.toNat r.comparand.toNat)))

/-- A host load that returns no data of its object. -/
def State.windowMiss (s : State) : State :=
  { s with freeCtr := s.freeCtr + 1 }.modHub fun h => { h with hostData := Config.freeValue s.freeCtr }

/-- A remote access ends with REVOKED as its port goes down: a copy engine's write as a fault without a slot, a hub engine's as the
fault of its COPY, and a host load without data. -/
def State.cutOff (s : State) (r : Remote) : State :=
  let s := s.perhapsApplied r
  if r.slot = engineSlot then (s.dropRemote r).raiseTo r.owner (looseFault .revoked (s.resolve r.obj r.off).1)
  else if r.slot = hubSlot then
    match s.hubCopies.find? (·.1 == r.num) with
    | some (h, x) => if x.cmd.isSome then (s.dropRemote r).copyFault h x.kind.tid 3 .copycap else s.dropRemote r
    | none => s.dropRemote r
  else if r.slot = hostSlot then if r.kind = .load then (s.dropRemote r).windowMiss else s.dropRemote r
  else s.revoke r
/-- Reads of a copy that the link of a dead port carried. -/
def State.loseReads (s : State) (u : FlitUse) : State :=
  match u with
  | .access _ => s
  | .command id =>
    let lose (c : CopyCmd) : CopyCmd := if c.id = id then { c with ask := .lost } else c
    { s with cores := s.cores.map fun p => (p.1, { p.2 with cmds := p.2.cmds.map lose })
             hubCopies := s.hubCopies.map fun p => (p.1, { p.2 with cmd := p.2.cmd.map lose }) }
  | .hub h => { s with hubCopies := s.hubCopies.map fun p => if p.1 = h then (p.1, { p.2 with ask := .lost }) else p }

/-- A port is down: the error is logged, the replay buffer is lost, and every access of its flows that has not performed ends with
REVOKED, those that the Loupe holds and those on their way to it among them. -/
def State.portDown (s : State) (port : Nat) : State :=
  let uses := (SMap.get Port.init s.ports port).buffer.map (·.use)
  let s := { s with ports := SMap.set s.ports port { (SMap.get Port.init s.ports port) with up := false, buffer := [], sent := 0 } }
  let s := s.logError (errorEntry s.gcyc 4 port 0 0 0 0 0 0 0 0)
  let cut (ckind obj off core : Nat) : Bool := s.entryPort (chipOf core) ckind obj off == 16 + port
  let hs := s.held.filter fun h => cut h.ckind h.obj h.off h.core
  let s := (s.remotes.filter fun r => !r.performed && (cut r.ckind r.obj r.off r.core || uses.contains (.access r.id))).foldl
    State.cutOff s
  let s := uses.foldl State.loseReads s
  hs.foldl (fun s h => s.raiseTo h.owner (looseFault .revoked (s.resolve h.obj h.off).1))
    { s with held := s.held.filter fun h => !hs.contains h }

/-- The access that a flit brings, as a remote access of no strand: it enters at the controller a hub engine would use, or goes
on by the host link or a pennant, and those of one port keep their order (12 R303, 21 R430) (log 109, DESIGN CHOICE). -/
def State.peerRemote (s : State) (port : Nat) (a : PeerAccess) : Remote :=
  let make (kind : RKind) (obj off size fn : Nat) (data cmp : W64) (bytes : List (Nat × Byte)) : Remote :=
    { id := s.nextId, owner := ⟨16, BitVec.allOnes 32, port, 0, 0, 8, 0⟩, core := 8 * s.hubPort obj off, num := 0,
      slot := 9, addr := 0, kind := kind, ckind := s.objKind obj, obj := obj, off := off, size := size, data := data, bytes := bytes,
      comparand := cmp, fn := fn, dst := if kind = .load then some (.s 0) else none, seq := 0, sx := false, cls := 0, rel := false,
      acq := false, scope := 0, stage := .port, held := false, issued := s.now }
  match a with
  | .load obj off size => make .load obj off size 0 0 0 []
  | .store obj off bs => make .store obj off bs.length 0 0 0 (atAddr off bs)
  | .atomic f fn obj off size v c => make (if f then .amof else .amo) obj off size fn v c []
def State.takeAccess (s : State) (port : Nat) (a : Option PeerAccess) : State :=
  match a with
  | none => s
  | some a => { s with remotes := s.remotes ++ [s.peerRemote port a], nextId := s.nextId + 1 }

/-- The value that a host load takes at a port; one that finds no data returns a free value (log 14, DESIGN CHOICE). -/
def State.windowRead (s : State) (port obj off size : Nat) : State :=
  let (bs, bad) := s.readVia port obj off size
  if bad then s.windowMiss else s.modHub fun h => { h with hostData := BitVec.ofNat 64 (ofLE bs) }

/-- An access at a peer's home performs as its link acknowledges the last of its flits (12 R306); a load of the host takes its value. -/
def State.linkPerforms (s : State) (u : FlitUse) : State :=
  match u with
  | .access id =>
    match s.remote id with
    | some r =>
      if r.stage ≠ .sent ∨ s.inFlight u then s
      else if r.slot = hostSlot ∧ r.kind = .load then
        (s.dropRemote r).windowRead (s.remotePort r) r.obj r.off r.size
      else s.applyAt r
    | none => s
  | _ => s

/-- The peer has taken every flit below a sequence: they leave the replay buffer. -/
def Port.acked (p : Port) (n : Nat) : Port :=
  let gone := p.buffer.countP (·.seq < n)
  { p with buffer := p.buffer.filter fun f => !(f.seq < n), sent := p.sent - gone, replays := if gone = 0 then p.replays else 0 }

/-- A flit in sequence is taken, with its access and its acknowledgement; a failure makes this module call for a replay, and a call
of the peer sends again from the oldest flit it has not acknowledged.  The sixteenth failed replay of either side takes the port
down (log 65, DEDUCED). -/
def execPennantFlitReceive (port : Nat) (f : Flit) (s : State) : Host.Outcome State Fault Refusal :=
  .next <|
    let p := SMap.get Port.init s.ports port
    let set (p : Port) : State := { s with ports := SMap.set s.ports port p }
    let acks (s : State) (n : Nat) : State := ((p.buffer.filter (·.seq < n)).map (·.use)).foldl State.linkPerforms s
    let failed : State := if p.failures < 16 then set { p with failures := p.failures + 1 } else s.portDown port
    if 16 ≤ port ∨ !p.up then s
    else
      match f with
      | .good n ack _ a =>
        if n = p.expect then (acks (set { p.acked ack with expect := n + 1, failures := 0 }) ack).takeAccess port a
        else if n < p.expect then acks (set (p.acked ack)) ack
        else failed
      | .replay => if p.replays < 16 then set { p with sent := 0, replays := p.replays + 1 } else s.portDown port
      | .corrupt => failed

/-- The flits that wait in a port's buffer leave. -/
def Port.transmit (p : Port) : Port := { p with sent := p.buffer.length }
/-- Every port that is up sends what waits. -/
def State.transmit (s : State) : State := { s with ports := s.ports.map fun p => (p.1, if p.2.up then p.2.transmit else p.2) }

/-! ### Host windows (R424) -/

/-- The object, place, size and port of a host access that its window admits. -/
def State.windowAccess (s : State) (win off size : Nat) (write : Bool) : Option (Nat × Nat × Nat) :=
  let w := SMap.get ⟨0, 0, 0, false, false⟩ s.windows win
  if size = 0 ∨ w.len < off + size ∨ !(if write then w.w else w.r) then none
  else some (w.obj, w.base + off, if s.objKind w.obj = kHost then 8 else s.hubPort w.obj (w.base + off))

/-- A host access waits for an absent extent. -/
def State.hostWaits (s : State) (i : Instr) : Bool :=
  match i with
  | .hostWindowAccess win off size store =>
    match s.windowAccess win off size store.isSome with
    | some (o, a, p) =>
      s.remotes.any (·.slot == hostSlot) || !s.linkRoom (if store.isSome then s.peerStore o (atAddr a (leBytes size 0)) else s.peerLoad o a size)
        || (store.isNone && s.freshVia p o a size)
        || (match (s.reachAll p store.isSome false (s.extents o a size)).2 with
          | .absent _ _ => true
          | _ => false)
    | none => false
  | _ => false

/-- The owner of the host's accesses to peer homes: no strand. -/
def hostOwner : Owner := ⟨16, BitVec.allOnes 32, 16, 0, 0, 8, 0⟩
/-- A host load of a peer home leaves by its link. -/
def State.hostAsks (s : State) (p obj off size : Nat) (fl : List (Nat × PeerAccess)) : State :=
  let s := s.postPeer hostSlot 0 hostOwner (8 * p) (s.objKind obj) obj (atAddr off (List.replicate size 0)) fl
  s.modRemote (s.nextId - 1) fun r => { r with kind := .load, bytes := [] }

/-- A host access through a window: an ordinary access at system scope; a load's value is held for the host. -/
def execHostWindowAccess (win off size : Nat) (store : Option (BitVec 64)) (s : State) : Host.Outcome State Fault Refusal :=
  .next <|
    match s.windowAccess win off size store.isSome with
    | none => if store.isSome then s else s.windowMiss
    | some (o, a, p) =>
      match s.reachAll p store.isSome false (s.extents o a size), store with
      | (s, .ok), some v =>
        let bs := atAddr a (leBytes size v.toNat)
        match s.peerStore o bs with
        | [] => s.writeVia p o bs
        | fl => s.postPeer hostSlot 0 hostOwner (8 * p) (s.objKind o) o bs fl
      | (s, .ok), none =>
        match s.peerLoad o a size with
        | [] => s.windowRead p o a size
        | fl => s.hostAsks p o a size fl
      | (s, _), some _ => s
      | (s, _), none => s.windowMiss

/-! ### Writes of hub registers (R409, R423, R427, 15 R344, 19 R400, R403; offsets the spec does not give: log 24, DESIGN CHOICE) -/

def HubRegs.firmwareWrite (h : HubRegs) (off : Nat) (v : W64) : HubRegs :=
  let f (hi lo : Nat) : Nat := v.toNat / 2 ^ lo % 2 ^ (hi + 1 - lo)
  if off = 0x30000 then { h with funcNext := some (v.setWidth 5) }
  else if off = 0x30008 then { h with wdctl := v.setWidth 12 }
  else if 0x30090 ≤ off ∧ off < 0x300B0 ∧ off % 8 = 0 then { h with pwr := SMap.set h.pwr ((off - 0x30090) / 8) (v.setWidth 3) }
  else if off = 0x300D0 then { h with hfmask := BitVec.ofNat 6 (f 13 8), hpinen := v.getLsbD 2, harm := v.getLsbD 0 }
  else if off = 0x300F8 then { h with tripcause := h.tripcause &&& ~~~(v &&& 0xFFFF) }
  else if off = 0x20000 then { h with susplim := v.setWidth 16 }
  else if off = 0x20008 then { h with ccret := v.setWidth 8 }
  else if off = 0xB0000 then { h with otObjExt := v &&& 0xFFFFFFFF3FFFFFFF }
  else if off = 0xB0008 then { h with otNew := v }
  else if off = 0xB0010 then { h with otMask := v }
  else if off = 0xB0020 then
    let go := v.getLsbD 0
    { h with otCount := BitVec.ofNat 32 (f 63 32), otOp := BitVec.ofNat 3 (f 3 1), otBusy := h.otBusy || go
             otStatus := if h.otBusy && go then 2 else h.otStatus }
  else if off = 0xB0040 then { h with mnqhead := v.setWidth 10 }
  else h

/-- The registers that the host may write as the control processor does (log 64, DEDUCED). -/
def HubRegs.hostWrite (h : HubRegs) (off : Nat) (v : W64) : HubRegs :=
  if off = 0x300D0 then { h with harm := h.harm || v.getLsbD 0 }
  else if off = 0x300E0 then { h with elhead := v.setWidth 12 }
  else if off = 0x30F00 then { h with irhead := v.setWidth 12 }
  else if off = 0xB0040 ∧ !h.noticeHw then { h with mnqhead := v.setWidth 10 }
  else if off = 0x30A00 then
    let go := v.getLsbD 16 && h.mbStatus != 1
    { h with mbOp := v.setWidth 8, mbRun := if go then v.setWidth 8 else h.mbRun, mbStatus := if go then 1 else h.mbStatus }
  else if 0x30A08 ≤ off ∧ off < 0x30A40 ∧ off % 8 = 0 then { h with mbArg := SMap.set h.mbArg ((off - 0x30A08) / 8) v }
  else h

/-- Writes by the firmware that act on contexts, windows and routes. -/
def State.firmwareWrite (s : State) (off : Nat) (v : W64) : State :=
  if 0x30010 ≤ off ∧ off < 0x30090 ∧ off % 8 = 0 then
    let x := (off - 0x30010) / 8
    let s := s.modCtx x fun c => { c with hoistok := v.getLsbD 1 }
    if v.getLsbD 0 then s.kill x else s
  else if 0x30100 ≤ off ∧ off < 0x30300 ∧ off % 32 = 0 then
    s.modCtx ((off - 0x30100) / 32) fun c => { c with energy := c.energy.grant v }
  else if 0xC0000 ≤ off ∧ off < 0xC0800 ∧ off % 8 = 0 then
    let i := (off - 0xC0000) / 32
    let w := SMap.get ⟨0, 0, 0, false, false⟩ s.windows i
    let w := match off % 32 / 8 with
      | 0 => { w with obj := v.toNat % 2 ^ 28, r := v.getLsbD 32, w := v.getLsbD 33 }
      | 1 => { w with base := v.toNat % 2 ^ 48 }
      | 2 => { w with len := v.toNat % 2 ^ 48 }
      | _ => w
    { s with windows := SMap.set s.windows i w }
  else if 0x90000 ≤ off ∧ off < 0x90800 ∧ off % 8 = 0 then
    { s with routes := SMap.set s.routes ((off - 0x90000) / 8) (v.toNat % 16) }
  else if 0xA0000 ≤ off ∧ off < 0xA0080 ∧ off % 8 = 0 then
    s.modCtx ((off - 0xA0000) / 8) fun c => { c with budget := v.setWidth 3 }
  else s

/-- A write of a hub register: fields of the control processor, fields that the host may write too, then FIRE. -/
def execRegisterWrite (who : Writer) (off : Nat) (v : BitVec 64) (s : State) : Host.Outcome State Fault Refusal :=
  .next <|
    let s := s.modHub fun h => h.hostWrite off v
    let s := if who = .firmware then (s.modHub fun h => h.firmwareWrite off v).firmwareWrite off v else s
    if off = 0x300D0 ∧ v.getLsbD 1 then s.fireHoist 2 0 0 else s

end Sys2Proof.Machine
end

