-- ==== Sys2Proof/Machine/Dispatch.lean ====
section
/-!
DEFINITION. What each step does: one arm per constructor of Instr, each a call of its meaning.
-/

namespace Sys2Proof.Machine

def exec (i : Instr) (s : State) : Host.Outcome State Fault Refusal :=
  match i with
  | .nop g => Sys2Proof.Machine.execNop g s
  | .add d a b g => Sys2Proof.Machine.execAdd d a b g s
  | .sub d a b g => Sys2Proof.Machine.execSub d a b g s
  | .mul d a b g => Sys2Proof.Machine.execMul d a b g s
  | .mulh d a b g => Sys2Proof.Machine.execMulh d a b g s
  | .mulhn d a b g => Sys2Proof.Machine.execMulhn d a b g s
  | .div d a b g => Sys2Proof.Machine.execDiv d a b g s
  | .divn d a b g => Sys2Proof.Machine.execDivn d a b g s
  | .rem d a b g => Sys2Proof.Machine.execRem d a b g s
  | .remn d a b g => Sys2Proof.Machine.execRemn d a b g s
  | .and d a b g => Sys2Proof.Machine.execAnd d a b g s
  | .or d a b g => Sys2Proof.Machine.execOr d a b g s
  | .xor d a b g => Sys2Proof.Machine.execXor d a b g s
  | .andn d a b g => Sys2Proof.Machine.execAndn d a b g s
  | .shl d a b g => Sys2Proof.Machine.execShl d a b g s
  | .shr d a b g => Sys2Proof.Machine.execShr d a b g s
  | .sar d a b g => Sys2Proof.Machine.execSar d a b g s
  | .rotl d a b g => Sys2Proof.Machine.execRotl d a b g s
  | .min d a b g => Sys2Proof.Machine.execMin d a b g s
  | .max d a b g => Sys2Proof.Machine.execMax d a b g s
  | .minn d a b g => Sys2Proof.Machine.execMinn d a b g s
  | .maxn d a b g => Sys2Proof.Machine.execMaxn d a b g s
  | .sel d a b g => Sys2Proof.Machine.execSel d a b g s
  | .addi d a imm g => Sys2Proof.Machine.execAddi d a imm g s
  | .andi d a imm g => Sys2Proof.Machine.execAndi d a imm g s
  | .ori d a imm g => Sys2Proof.Machine.execOri d a imm g s
  | .xori d a imm g => Sys2Proof.Machine.execXori d a imm g s
  | .shli d a m g => Sys2Proof.Machine.execShli d a m g s
  | .shri d a m g => Sys2Proof.Machine.execShri d a m g s
  | .sari d a m g => Sys2Proof.Machine.execSari d a m g s
  | .sext d a m g => Sys2Proof.Machine.execSext d a m g s
  | .zext d a m g => Sys2Proof.Machine.execZext d a m g s
  | .clz d a g => Sys2Proof.Machine.execClz d a g s
  | .popc d a g => Sys2Proof.Machine.execPopc d a g s
  | .mov d a g => Sys2Proof.Machine.execMov d a g s
  | .cmp cond qd a b g => Sys2Proof.Machine.execCmp cond qd a b g s
  | .cmpi cond qd a imm g => Sys2Proof.Machine.execCmpi cond qd a imm g s
  | .qlog fn qd qa qb g => Sys2Proof.Machine.execQlog fn qd qa qb g s
  | .lil d imm g => Sys2Proof.Machine.execLil d imm g s
  | .lih d imm g => Sys2Proof.Machine.execLih d imm g s
  | .mfsr d n g => Sys2Proof.Machine.execMfsr d n g s
  | .mtsr d n g => Sys2Proof.Machine.execMtsr d n g s
  | .br off g => Sys2Proof.Machine.execBr off g s
  | .brx d a g => Sys2Proof.Machine.execBrx d a g s
  | .call off g => Sys2Proof.Machine.execCall off g s
  | .loop d imm g => Sys2Proof.Machine.execLoop d imm g s
  | .nopw imm g => Sys2Proof.Machine.execNopw imm g s
  | .nopwCountExpiry core => Sys2Proof.Machine.execNopwCountExpiry core s
  | .rot imm g => Sys2Proof.Machine.execRot imm g s
  | .swpt t g => Sys2Proof.Machine.execSwpt t g s
  | .endt g => Sys2Proof.Machine.execEndt g s
  | .endtCont g => Sys2Proof.Machine.execEndtCont g s
  | .cload c a imm g => Sys2Proof.Machine.execCload c a imm g s
  | .cnarrow c ca b g => Sys2Proof.Machine.execCnarrow c ca b g s
  | .crights c ca mask g => Sys2Proof.Machine.execCrights c ca mask g s
  | .cget d ca f g => Sys2Proof.Machine.execCget d ca f g s
  | .cmov c ca g => Sys2Proof.Machine.execCmov c ca g s
  | .lds r cap off imm size sx g q => Sys2Proof.Machine.execLds r cap off imm size sx g q s
  | .sts r cap off imm size g q => Sys2Proof.Machine.execSts r cap off imm size g q s
  | .vld v cap off imm g q => Sys2Proof.Machine.execVld v cap off imm g q s
  | .vst v cap off imm g q => Sys2Proof.Machine.execVst v cap off imm g q s
  | .vldb v cap off imm g q => Sys2Proof.Machine.execVldb v cap off imm g q s
  | .vlds v cap off stride imm g q => Sys2Proof.Machine.execVlds v cap off stride imm g q s
  | .vsts v cap off stride imm g q => Sys2Proof.Machine.execVsts v cap off stride imm g q s
  | .vldx v cap off idx wi g q => Sys2Proof.Machine.execVldx v cap off idx wi g q s
  | .vstx v cap off idx wi g q => Sys2Proof.Machine.execVstx v cap off idx wi g q s
  | .amo o e => Sys2Proof.Machine.execAmo o e s
  | .amor o e => Sys2Proof.Machine.execAmor o e s
  | .amof o e => Sys2Proof.Machine.execAmof o e s
  | .drain scope engine e => Sys2Proof.Machine.execDrain scope engine e s
  | .vadd o => Sys2Proof.Machine.execVadd o s
  | .vsub o => Sys2Proof.Machine.execVsub o s
  | .vadds o => Sys2Proof.Machine.execVadds o s
  | .vsubs o => Sys2Proof.Machine.execVsubs o s
  | .vmul o => Sys2Proof.Machine.execVmul o s
  | .vmulh o => Sys2Proof.Machine.execVmulh o s
  | .vmac o => Sys2Proof.Machine.execVmac o s
  | .vand o => Sys2Proof.Machine.execVand o s
  | .vor o => Sys2Proof.Machine.execVor o s
  | .vxor o => Sys2Proof.Machine.execVxor o s
  | .vandn o => Sys2Proof.Machine.execVandn o s
  | .vshl o => Sys2Proof.Machine.execVshl o s
  | .vshr o => Sys2Proof.Machine.execVshr o s
  | .vsar o => Sys2Proof.Machine.execVsar o s
  | .vmin o => Sys2Proof.Machine.execVmin o s
  | .vmax o => Sys2Proof.Machine.execVmax o s
  | .vabs o => Sys2Proof.Machine.execVabs o s
  | .vneg o => Sys2Proof.Machine.execVneg o s
  | .vclz o => Sys2Proof.Machine.execVclz o s
  | .vpopc o => Sys2Proof.Machine.execVpopc o s
  | .vaddi o => Sys2Proof.Machine.execVaddi o s
  | .vfadd o => Sys2Proof.Machine.execVfadd o s
  | .vfsub o => Sys2Proof.Machine.execVfsub o s
  | .vfmul o => Sys2Proof.Machine.execVfmul o s
  | .vfma o => Sys2Proof.Machine.execVfma o s
  | .vfmin o => Sys2Proof.Machine.execVfmin o s
  | .vfmax o => Sys2Proof.Machine.execVfmax o s
  | .vfabs o => Sys2Proof.Machine.execVfabs o s
  | .vfneg o => Sys2Proof.Machine.execVfneg o s
  | .vrcp o => Sys2Proof.Machine.execVrcp o s
  | .vrsq o => Sys2Proof.Machine.execVrsq o s
  | .vexp2 o => Sys2Proof.Machine.execVexp2 o s
  | .vlog2 o => Sys2Proof.Machine.execVlog2 o s
  | .vfdiv o => Sys2Proof.Machine.execVfdiv o s
  | .vclamp o => Sys2Proof.Machine.execVclamp o s
  | .vcmp o => Sys2Proof.Machine.execVcmp o s
  | .vfcmp o => Sys2Proof.Machine.execVfcmp o s
  | .vsel o => Sys2Proof.Machine.execVsel o s
  | .vmov o => Sys2Proof.Machine.execVmov o s
  | .vbcast o => Sys2Proof.Machine.execVbcast o s
  | .vget o => Sys2Proof.Machine.execVget o s
  | .vput o => Sys2Proof.Machine.execVput o s
  | .viota o => Sys2Proof.Machine.execViota o s
  | .vcvt o => Sys2Proof.Machine.execVcvt o s
  | .vunpt5 o => Sys2Proof.Machine.execVunpt5 o s
  | .vunp4 o => Sys2Proof.Machine.execVunp4 o s
  | .vunp6 o => Sys2Proof.Machine.execVunp6 o s
  | .vpack4 o => Sys2Proof.Machine.execVpack4 o s
  | .vpack6 o => Sys2Proof.Machine.execVpack6 o s
  | .vdpx o => Sys2Proof.Machine.execVdpx o s
  | .vdpq o => Sys2Proof.Machine.execVdpq o s
  | .vtacc o => Sys2Proof.Machine.execVtacc o s
  | .vperm o => Sys2Proof.Machine.execVperm o s
  | .vrot o => Sys2Proof.Machine.execVrot o s
  | .vzip o => Sys2Proof.Machine.execVzip o s
  | .vunzip o => Sys2Proof.Machine.execVunzip o s
  | .vredadd o => Sys2Proof.Machine.execVredadd o s
  | .vredfadd o => Sys2Proof.Machine.execVredfadd o s
  | .vredmax o => Sys2Proof.Machine.execVredmax o s
  | .vredmin o => Sys2Proof.Machine.execVredmin o s
  | .plog o => Sys2Proof.Machine.execPlog o s
  | .pnot o => Sys2Proof.Machine.execPnot o s
  | .pcnt o => Sys2Proof.Machine.execPcnt o s
  | .pfirst o => Sys2Proof.Machine.execPfirst o s
  | .pset o => Sys2Proof.Machine.execPset o s
  | .vsort o => Sys2Proof.Machine.execVsort o s
  | .vscan o => Sys2Proof.Machine.execVscan o s
  | .longOpStep core => Sys2Proof.Machine.execLongOpStep core s
  | .resultLanding core => Sys2Proof.Machine.execResultLanding core s
  | .scalarResultWrite core => Sys2Proof.Machine.execScalarResultWrite core s
  | .inflightEntryLand core => Sys2Proof.Machine.execInflightEntryLand core s
  | .mldw o => Sys2Proof.Machine.execMldw o s
  | .mswap o => Sys2Proof.Machine.execMswap o s
  | .mstr o => Sys2Proof.Machine.execMstr o s
  | .mstrv o => Sys2Proof.Machine.execMstrv o s
  | .mzero o => Sys2Proof.Machine.execMzero o s
  | .mldz o => Sys2Proof.Machine.execMldz o s
  | .mout o => Sys2Proof.Machine.execMout o s
  | .moutv o => Sys2Proof.Machine.execMoutv o s
  | .mchk o => Sys2Proof.Machine.execMchk o s
  | .mshape o => Sys2Proof.Machine.execMshape o s
  | .planeRowWrite core => Sys2Proof.Machine.execPlaneRowWrite core s
  | .tileRowLand core => Sys2Proof.Machine.execTileRowLand core s
  | .tileRowLoad core => Sys2Proof.Machine.execTileRowLoad core s
  | .tileRowStore core => Sys2Proof.Machine.execTileRowStore core s
  | .mchkOutcome core => Sys2Proof.Machine.execMchkOutcome core s
  | .bandPowerUpEnd core => Sys2Proof.Machine.execBandPowerUpEnd core s
  | .cplvl level cnt ss ds e => Sys2Proof.Machine.execCplvl level cnt ss ds e s
  | .cpsrc cap off e => Sys2Proof.Machine.execCpsrc cap off e s
  | .cpdst cap off e => Sys2Proof.Machine.execCpdst cap off e s
  | .cpgo o e => Sys2Proof.Machine.execCpgo o e s
  | .cpfill cap off v n full e => Sys2Proof.Machine.execCpfill cap off v n full e s
  | .cppub d h e => Sys2Proof.Machine.execCppub d h e s
  | .cpabort e => Sys2Proof.Machine.execCpabort e s
  | .cpqry d k e => Sys2Proof.Machine.execCpqry d k e s
  | .copyCommandStart eng => Sys2Proof.Machine.execCopyCommandStart eng s
  | .copyRun eng => Sys2Proof.Machine.execCopyRun eng s
  | .copyCommandComplete eng => Sys2Proof.Machine.execCopyCommandComplete eng s
  | .starvationGuard core => Sys2Proof.Machine.execStarvationGuard core s
  | .nopE e => Sys2Proof.Machine.execNopE e s
  | .semsig e => Sys2Proof.Machine.execSemsig e s
  | .semaphoreSignal core => Sys2Proof.Machine.execSemaphoreSignal core s
  | .semwait n t d nc e => Sys2Proof.Machine.execSemwait n t d nc e s
  | .barinit bar t delta mode free e => Sys2Proof.Machine.execBarinit bar t delta mode free e s
  | .barinitAnswer core => Sys2Proof.Machine.execBarinitAnswer core s
  | .bararr bar e => Sys2Proof.Machine.execBararr bar e s
  | .barwait bar e => Sys2Proof.Machine.execBarwait bar e s
  | .barexp bar b e => Sys2Proof.Machine.execBarexp bar b e s
  | .barqry bar d e => Sys2Proof.Machine.execBarqry bar d e s
  | .cellUpdateCycle cell => Sys2Proof.Machine.execCellUpdateCycle cell s
  | .barrierRelease core => Sys2Proof.Machine.execBarrierRelease core s
  | .spawn qd cap off st after e => Sys2Proof.Machine.execSpawn qd cap off st after e s
  | .next e => Sys2Proof.Machine.execNext e s
  | .yield n t e => Sys2Proof.Machine.execYield n t e s
  | .csend v dst e => Sys2Proof.Machine.execCsend v dst e s
  | .crecv v src e => Sys2Proof.Machine.execCrecv v src e s
  | .ctab cap off e => Sys2Proof.Machine.execCtab cap off e s
  | .circuitSlot core => Sys2Proof.Machine.execCircuitSlot core s
  | .circuitTransferArrival core => Sys2Proof.Machine.execCircuitTransferArrival core s
  | .circuitCreditReturn core => Sys2Proof.Machine.execCircuitCreditReturn core s
  | .sigrd d k sync e => Sys2Proof.Machine.execSigrd d k sync e s
  | .sigfold a b e => Sys2Proof.Machine.execSigfold a b e s
  | .sigclr k e => Sys2Proof.Machine.execSigclr k e s
  | .zinject o e => Sys2Proof.Machine.execZinject o e s
  | .trap code e => Sys2Proof.Machine.execTrap code e s
  | .eret next e => Sys2Proof.Machine.execEret next e s
  | .ctxsave cap off parts b e => Sys2Proof.Machine.execCtxsave cap off parts b e s
  | .ctxload cap off parts b e => Sys2Proof.Machine.execCtxload cap off parts b e s
  | .halt code e => Sys2Proof.Machine.execHalt code e s
  | .wdog rd d e => Sys2Proof.Machine.execWdog rd d e s
  | .hoist tag e => Sys2Proof.Machine.execHoist tag e s
  | .remoteAccessSend id => Sys2Proof.Machine.execRemoteAccessSend id s
  | .translationWalk id => Sys2Proof.Machine.execTranslationWalk id s
  | .remoteAccessPerform id => Sys2Proof.Machine.execRemoteAccessPerform id s
  | .remoteReturn id => Sys2Proof.Machine.execRemoteReturn id s
  | .remoteStoreAccept id => Sys2Proof.Machine.execRemoteStoreAccept id s
  | .loupeAccept id => Sys2Proof.Machine.execLoupeAccept id s
  | .pageAbsentSuspend core => Sys2Proof.Machine.execPageAbsentSuspend core s
  | .snop => Sys2Proof.Machine.execSnop s
  | .sjmp target => Sys2Proof.Machine.execSjmp target s
  | .sbr cond a b target => Sys2Proof.Machine.execSbr cond a b target s
  | .scall target => Sys2Proof.Machine.execScall target s
  | .sret next => Sys2Proof.Machine.execSret next s
  | .sloop a exit => Sys2Proof.Machine.execSloop a exit s
  | .sendl => Sys2Proof.Machine.execSendl s
  | .shalt code => Sys2Proof.Machine.execShalt code s
  | .sli a imm => Sys2Proof.Machine.execSli a imm s
  | .sadd a b c => Sys2Proof.Machine.execSadd a b c s
  | .saddi a b imm => Sys2Proof.Machine.execSaddi a b imm s
  | .smul a b c => Sys2Proof.Machine.execSmul a b c s
  | .sshl a b imm => Sys2Proof.Machine.execSshl a b imm s
  | .sand a b c => Sys2Proof.Machine.execSand a b c s
  | .smov a b => Sys2Proof.Machine.execSmov a b s
  | .sld o => Sys2Proof.Machine.execSld o s
  | .sst o => Sys2Proof.Machine.execSst o s
  | .park a b c n imm => Sys2Proof.Machine.execPark a b c n imm s
  | .parkPoll ctx => Sys2Proof.Machine.execParkPoll ctx s
  | .bind buf a b n seg imm => Sys2Proof.Machine.execBind buf a b n seg imm s
  | .unbind buf discard => Sys2Proof.Machine.execUnbind buf discard s
  | .task w => Sys2Proof.Machine.execTask w s
  | .opd w => Sys2Proof.Machine.execOpd w s
  | .copy w => Sys2Proof.Machine.execCopy w s
  | .cdim w => Sys2Proof.Machine.execCdim w s
  | .sfence sys => Sys2Proof.Machine.execSfence sys s
  | .notify v a payload => Sys2Proof.Machine.execNotify v a payload s
  | .ckpt tag => Sys2Proof.Machine.execCkpt tag s
  | .svar n off => Sys2Proof.Machine.execSvar n off s
  | .prio ctx level => Sys2Proof.Machine.execPrio ctx level s
  | .faultv off => Sys2Proof.Machine.execFaultv off s
  | .quota ctx window pool n => Sys2Proof.Machine.execQuota ctx window pool n s
  | .dispatch => Sys2Proof.Machine.execDispatch s
  | .entryReady tid => Sys2Proof.Machine.execEntryReady tid s
  | .agingPromotion tid => Sys2Proof.Machine.execAgingPromotion tid s
  | .persistentHandoffTimeout tid => Sys2Proof.Machine.execPersistentHandoffTimeout tid s
  | .poolEntryDispatch => Sys2Proof.Machine.execPoolEntryDispatch s
  | .hubCopyComplete h => Sys2Proof.Machine.execHubCopyComplete h s
  | .modFillComplete h => Sys2Proof.Machine.execModFillComplete h s
  | .retire ctx => Sys2Proof.Machine.execRetire ctx s
  | .headOnlyMode tid => Sys2Proof.Machine.execHeadOnlyMode tid s
  | .faultDelivery ctx => Sys2Proof.Machine.execFaultDelivery ctx s
  | .squashRemove tid => Sys2Proof.Machine.execSquashRemove tid s
  | .checkFaultReexecution tid => Sys2Proof.Machine.execCheckFaultReexecution tid s
  | .voteCompare tid => Sys2Proof.Machine.execVoteCompare tid s
  | .thirdRunCompare tid => Sys2Proof.Machine.execThirdRunCompare tid s
  | .suspicionDecay => Sys2Proof.Machine.execSuspicionDecay s
  | .sramUncorrectableError chip => Sys2Proof.Machine.execSramUncorrectableError chip s
  | .chipletReadmission chip => Sys2Proof.Machine.execChipletReadmission chip s
  | .preemptStop core => Sys2Proof.Machine.execPreemptStop core s
  | .saveBankStart core => Sys2Proof.Machine.execSaveBankStart core s
  | .saveBankEnd core => Sys2Proof.Machine.execSaveBankEnd core s
  | .saveEnd core => Sys2Proof.Machine.execSaveEnd core s
  | .restoreStart core => Sys2Proof.Machine.execRestoreStart core s
  | .restoreBankEnd core => Sys2Proof.Machine.execRestoreBankEnd core s
  | .resumeMerge core => Sys2Proof.Machine.execResumeMerge core s
  | .watchdogExpiry core => Sys2Proof.Machine.execWatchdogExpiry core s
  | .saveTimeout core => Sys2Proof.Machine.execSaveTimeout core s
  | .windowLost ctx => Sys2Proof.Machine.execWindowLost ctx s
  | .ctxkill ctx => Sys2Proof.Machine.execCtxkill ctx s
  | .killComplete ctx => Sys2Proof.Machine.execKillComplete ctx s
  | .otswap => Sys2Proof.Machine.execOtswap s
  | .otswapDone => Sys2Proof.Machine.execOtswapDone s
  | .otsync => Sys2Proof.Machine.execOtsync s
  | .otsyncDone => Sys2Proof.Machine.execOtsyncDone s
  | .mnqheadWrite v => Sys2Proof.Machine.execMnqheadWrite v s
  | .owedNoticePost => Sys2Proof.Machine.execOwedNoticePost s
  | .extentMigration obj ext home unit place => Sys2Proof.Machine.execExtentMigration obj ext home unit place s
  | .ckptExtentCopied ctx => Sys2Proof.Machine.execCkptExtentCopied ctx s
  | .droopAlarm domain => Sys2Proof.Machine.execDroopAlarm domain s
  | .droopStretchEnd core => Sys2Proof.Machine.execDroopStretchEnd core s
  | .droopHalvingEnd core => Sys2Proof.Machine.execDroopHalvingEnd core s
  | .ballastStart core => Sys2Proof.Machine.execBallastStart core s
  | .ballastEnd core => Sys2Proof.Machine.execBallastEnd core s
  | .thermalTrip src => Sys2Proof.Machine.execThermalTrip src s
  | .tripcauseClear mask => Sys2Proof.Machine.execTripcauseClear mask s
  | .overQuota ctx => Sys2Proof.Machine.execOverQuota ctx s
  | .energyQuotaWrite ctx v => Sys2Proof.Machine.execEnergyQuotaWrite ctx v s
  | .hoistFire => Sys2Proof.Machine.execHoistFire s
  | .hoistArm => Sys2Proof.Machine.execHoistArm s
  | .hoistPin => Sys2Proof.Machine.execHoistPin s
  | .hoistSnapshot => Sys2Proof.Machine.execHoistSnapshot s
  | .createObject => Sys2Proof.Machine.execCreateObject s
  | .freeObject => Sys2Proof.Machine.execFreeObject s
  | .createContext => Sys2Proof.Machine.execCreateContext s
  | .restartContext => Sys2Proof.Machine.execRestartContext s
  | .writeCapabilityEntry => Sys2Proof.Machine.execWriteCapabilityEntry s
  | .interruptRecordPost => Sys2Proof.Machine.execInterruptRecordPost s
  | .irheadWrite v => Sys2Proof.Machine.execIrheadWrite v s
  | .elheadWrite v => Sys2Proof.Machine.execElheadWrite v s
  | .pennantFlitReceive port f => Sys2Proof.Machine.execPennantFlitReceive port f s
  | .boot => Sys2Proof.Machine.execBoot s
  | .registerWrite who off v => Sys2Proof.Machine.execRegisterWrite who off v s
  | .illegalOpcode code v => Sys2Proof.Machine.execIllegalOpcode code v s
  | .fetchFault code v => Sys2Proof.Machine.execFetchFault code v s
  | .unlistedOp r => Sys2Proof.Machine.execUnlistedOp r s
  | .streamObjectEnd => Sys2Proof.Machine.execStreamObjectEnd s
  | .hostWindowAccess win off size store => Sys2Proof.Machine.execHostWindowAccess win off size store s
  | .badRequest op => Sys2Proof.Machine.execBadRequest op s
  | .otBadOp op => Sys2Proof.Machine.execOtBadOp op s
  | .correctedError chip addr => Sys2Proof.Machine.execCorrectedError chip addr s
  | .chipletRetirementRequest chip => Sys2Proof.Machine.execChipletRetirementRequest chip s
  | .checkpointRestart ctx => Sys2Proof.Machine.execCheckpointRestart ctx s

end Sys2Proof.Machine
end

