-- ==== Sys2Proof/Machine/Issue.lean ====
section
/-!
DEFINITION. Fetch of a bundle and what holds its issue back (03 R45-R49, 06 R141-R143, 07 R166, R171, R176, R177,
10 R250, 11 R269, R285, R286, 21 R411, R415).
-/

namespace Sys2Proof

/-- The q register a guard reads (06 R142). -/
def Guard.reads (g : Guard) : List Machine.SDest := [.q g.q.toNat]

end Sys2Proof

namespace Sys2Proof.Machine

/-! ### Fetch (03 R45-R47) -/

/-- The slots a header byte marks present, in header-bit order. -/
def slotsOf (h : Nat) : List Nat := (List.range 8).filter fun i => h / 2 ^ i % 2 == 1

/-- The kind of slot i. -/
def slotKind (i : Nat) : SlotKind :=
  match i with
  | 0 => .s
  | 1 => .x
  | 2 => .l
  | 3 => .w
  | 4 => .v
  | 5 => .y
  | 6 => .m
  | _ => .e

/-- Offset of slot i in a bundle with header h. -/
def slotOffset (h i : Nat) : Nat := 1 + (((slotsOf h).filter (· < i)).map fun j => (slotKind j).bytes).sum

/-- A byte range lies in the execute window of the running kernel. -/
def Kernel.inWindow (kn : Kernel) (a n : Nat) : Bool :=
  capHas kn.code rExec && capBase kn.code ≤ a && a + n ≤ capBase kn.code + capLen kn.code

/-- The header byte at a code offset. -/
def State.headerAt (s : State) (k a : Nat) : Nat := (s.objByte (capObj (s.strand k).kn.code) a).toNat

/-- The word of slot i of the bundle at a. -/
def State.slotWord (s : State) (k a i : Nat) : Nat :=
  s.objLE (capObj (s.strand k).kn.code) (a + slotOffset (s.headerAt k a) i) (slotKind i).bytes

/-- What slot i of the bundle at a decodes to. -/
def State.slotAt (s : State) (k a i : Nat) : Decoded (TrapCode ⊕ Reason) := decodeSlot (slotKind i) (s.slotWord k a i)

/-- What fetch finds at an address: a line-end marker, the slots of a bundle and its length, or a fault with the
slots known. -/
inductive Fetched where
  | lineEnd
  | bundle (len : Nat) (slots : List Nat)
  | bad (code : TrapCode) (slots : List Nat)
  deriving DecidableEq, Repr

/-- The checks of R46 and R47 in their order (log 60, DEDUCED). -/
def State.fetch (s : State) (k a : Nat) : Fetched :=
  let kn := (s.strand k).kn
  let h := s.headerAt k a
  if !kn.inWindow a 1 then .bad .capbounds []
  else if h = 0 then .lineEnd
  else if 64 < a % 64 + frameLen h then .bad .illenc (slotsOf h)
  else if !kn.inWindow a (frameLen h) then .bad .capbounds (slotsOf h)
  else .bundle (frameLen h) (slotsOf h)

/-- The extent that holds a code offset. -/
def State.codeExtent (s : State) (k a : Nat) : Nat := a / 2 ^ pageLog (((s.obj (capObj (s.strand k).kn.code)).map (·.pcode)).getD 0)
/-- A fetch of a bundle or of a stream word from a host-homed extent counts at the host link port (19 R398; log 71, DEDUCED). -/
def State.countFetch (s : State) (obj off : Nat) : State :=
  (s.extents obj off 1).foldl (fun s x => if (s.tableEntry x.1 x.2).any (·.home == 2) then s.countAccess x.1 x.2 else s) s
/-- What the translation of a fetch address finds (19 R397). -/
def State.fetchFinds (s : State) (k a : Nat) : Finding :=
  let obj := capObj (s.strand k).kn.code
  if s.badEntries.contains (obj, none) || s.badEntries.contains (obj, some (s.codeExtent k a)) then .error
  else
    match s.place obj a with
    | .gone => .gone
    | .absent o e => .absent o e
    | .at _ => .ok

/-- The decoded slots of a bundle up to the first that decodes to no instruction (log 66, DEDUCED). -/
def State.decodedSlots (s : State) (k a : Nat) : List Nat → List (Nat × Instr)
  | [] => []
  | i :: r =>
    match s.slotAt k a i with
    | .ok x => (i, x) :: s.decodedSlots k a r
    | .bad _ => []

/-! ### Registers read and written (06 R142, R143) -/

def rs (x : BitVec 6) : SDest := .s x.toNat
def rc (x : BitVec 4) : SDest := .c x.toNat

/-- Guard, and registers by name, that an instruction reads in its issue cycle under the scalar interlock. -/
def scalarReads (i : Instr) : List SDest :=
  let atom (o : AtomOp) (e : ESync) : List SDest := rc o.cap :: rs o.off :: rs o.v :: rs o.cmp :: e.g.reads
  match i with
  | .nop g => g.reads
  | .add _ a b g => rs a :: rs b :: g.reads
  | .sub _ a b g => rs a :: rs b :: g.reads
  | .mul _ a b g => rs a :: rs b :: g.reads
  | .mulh _ a b g => rs a :: rs b :: g.reads
  | .mulhn _ a b g => rs a :: rs b :: g.reads
  | .div _ a b g => rs a :: rs b :: g.reads
  | .divn _ a b g => rs a :: rs b :: g.reads
  | .rem _ a b g => rs a :: rs b :: g.reads
  | .remn _ a b g => rs a :: rs b :: g.reads
  | .and _ a b g => rs a :: rs b :: g.reads
  | .or _ a b g => rs a :: rs b :: g.reads
  | .xor _ a b g => rs a :: rs b :: g.reads
  | .andn _ a b g => rs a :: rs b :: g.reads
  | .shl _ a b g => rs a :: rs b :: g.reads
  | .shr _ a b g => rs a :: rs b :: g.reads
  | .sar _ a b g => rs a :: rs b :: g.reads
  | .rotl _ a b g => rs a :: rs b :: g.reads
  | .min _ a b g => rs a :: rs b :: g.reads
  | .max _ a b g => rs a :: rs b :: g.reads
  | .minn _ a b g => rs a :: rs b :: g.reads
  | .maxn _ a b g => rs a :: rs b :: g.reads
  | .sel _ a b g => rs a :: rs b :: g.reads
  | .addi _ a _ g => rs a :: g.reads
  | .andi _ a _ g => rs a :: g.reads
  | .ori _ a _ g => rs a :: g.reads
  | .xori _ a _ g => rs a :: g.reads
  | .shli _ a _ g => rs a :: g.reads
  | .shri _ a _ g => rs a :: g.reads
  | .sari _ a _ g => rs a :: g.reads
  | .sext _ a _ g => rs a :: g.reads
  | .zext _ a _ g => rs a :: g.reads
  | .clz _ a g => rs a :: g.reads
  | .popc _ a g => rs a :: g.reads
  | .mov _ a g => rs a :: g.reads
  | .cmp _ _ a b g => rs a :: rs b :: g.reads
  | .cmpi _ _ a _ g => rs a :: g.reads
  | .qlog _ _ a b g => .q a.toNat :: .q b.toNat :: g.reads
  | .lil _ _ g => g.reads
  | .lih d _ g => rs d :: g.reads
  | .mfsr _ _ g => g.reads
  | .mtsr d _ g => rs d :: g.reads
  | .br _ g => g.reads
  | .brx _ a g => rs a :: g.reads
  | .call _ g => g.reads
  | .loop d _ g => rs d :: g.reads
  | .nopw _ g => g.reads
  | .rot _ g => g.reads
  | .swpt _ g => g.reads
  | .endt g => g.reads
  | .endtCont g => g.reads
  | .cload _ a _ g => rs a :: g.reads
  | .cnarrow _ ca b g => rc ca :: rs b :: .s (b.toNat + 1) :: g.reads
  | .crights _ ca _ g => rc ca :: g.reads
  | .cget _ ca _ g => rc ca :: g.reads
  | .cmov _ ca g => rc ca :: g.reads
  | .lds _ cap off _ _ _ g _ => rc cap :: rs off :: g.reads
  | .sts r cap off _ _ g _ => rs r :: rc cap :: rs off :: g.reads
  | .vld _ cap off _ _ _ => [rc cap, rs off]
  | .vst _ cap off _ _ _ => [rc cap, rs off]
  | .vldb _ cap off _ _ _ => [rc cap, rs off]
  | .vlds _ cap off t _ _ _ => [rc cap, rs off, rs t]
  | .vsts _ cap off t _ _ _ => [rc cap, rs off, rs t]
  | .vldx _ cap off _ _ _ _ => [rc cap, rs off]
  | .vstx _ cap off _ _ _ _ => [rc cap, rs off]
  | .amo o e => atom o e
  | .amor o e => atom o e
  | .amof o e => atom o e
  | .drain _ _ e => e.g.reads
  | .vbcast o => [.s o.a.toNat]
  | .vput o => [.s o.a.toNat]
  | .mldw o => [rc o.cap, rs o.off, rs o.scale]
  | .mstr o => [rc o.cap, rs o.off, rs o.scale]
  | .mldz o => [rc o.cap, rs o.off, rs o.scale]
  | .mout o => [rc o.cap, rs o.off, rs o.scale, .s (o.scale.toNat + 1)]
  | .cplvl _ a b c e => rs a :: rs b :: rs c :: e.g.reads
  | .cpsrc c o e => rc c :: rs o :: e.g.reads
  | .cpdst c o e => rc c :: rs o :: e.g.reads
  | .cpgo o e => (if o.gather then [rc o.idxCap, rs o.idxOff] else []) ++ e.g.reads
  | .cpfill c o v _ _ e => rc c :: rs o :: rs v :: e.g.reads
  | .cppub _ _ e => e.g.reads
  | .cpabort e => e.g.reads
  | .cpqry _ _ e => e.g.reads
  | .nopE e => e.g.reads
  | .semsig e => e.g.reads
  | .semwait _ _ _ _ e => e.g.reads
  | .barinit _ t _ _ _ e => rs t :: e.g.reads
  | .bararr _ e => e.g.reads
  | .barwait _ e => e.g.reads
  | .barexp _ b e => rs b :: e.g.reads
  | .barqry _ _ e => e.g.reads
  | .spawn _ c o _ _ e => rc c :: rs o :: e.g.reads
  | .next e => e.g.reads
  | .yield _ _ e => e.g.reads
  | .csend _ _ e => e.g.reads
  | .crecv _ _ e => e.g.reads
  | .ctab c o e => rc c :: rs o :: e.g.reads
  | .sigrd _ _ _ e => e.g.reads
  | .sigfold a b e => rs a :: rs b :: e.g.reads
  | .sigclr _ e => e.g.reads
  | .zinject o e => (if o.kind = 2 then [rc o.cap, .s o.a.toNat] else [rc o.cap]) ++ e.g.reads
  | .trap _ e => e.g.reads
  | .eret _ e => e.g.reads
  | .ctxsave c o _ b e => rc c :: rs o :: rs b :: e.g.reads
  | .ctxload c o _ b e => rc c :: rs o :: rs b :: e.g.reads
  | .halt _ e => e.g.reads
  | .wdog _ _ e => e.g.reads
  | .hoist _ e => e.g.reads
  | _ => []

/-- The guard of an instruction with a q guard. -/
def qGuard (i : Instr) : Option Guard :=
  match i with
  | .add _ _ _ g => some g
  | .sub _ _ _ g => some g
  | .mul _ _ _ g => some g
  | .mulh _ _ _ g => some g
  | .mulhn _ _ _ g => some g
  | .div _ _ _ g => some g
  | .divn _ _ _ g => some g
  | .rem _ _ _ g => some g
  | .remn _ _ _ g => some g
  | .and _ _ _ g => some g
  | .or _ _ _ g => some g
  | .xor _ _ _ g => some g
  | .andn _ _ _ g => some g
  | .shl _ _ _ g => some g
  | .shr _ _ _ g => some g
  | .sar _ _ _ g => some g
  | .rotl _ _ _ g => some g
  | .min _ _ _ g => some g
  | .max _ _ _ g => some g
  | .minn _ _ _ g => some g
  | .maxn _ _ _ g => some g
  | .addi _ _ _ g => some g
  | .andi _ _ _ g => some g
  | .ori _ _ _ g => some g
  | .xori _ _ _ g => some g
  | .shli _ _ _ g => some g
  | .shri _ _ _ g => some g
  | .sari _ _ _ g => some g
  | .sext _ _ _ g => some g
  | .zext _ _ _ g => some g
  | .clz _ _ g => some g
  | .popc _ _ g => some g
  | .mov _ _ g => some g
  | .cmp _ _ _ _ g => some g
  | .cmpi _ _ _ _ g => some g
  | .qlog _ _ _ _ g => some g
  | .lil _ _ g => some g
  | .lih _ _ g => some g
  | .mfsr _ _ g => some g
  | .brx _ _ g => some g
  | .call _ g => some g
  | .cload _ _ _ g => some g
  | .cnarrow _ _ _ g => some g
  | .crights _ _ _ g => some g
  | .cget _ _ _ g => some g
  | .cmov _ _ g => some g
  | .lds _ _ _ _ _ _ g _ => some g
  | .sts _ _ _ _ _ g _ => some g
  | _ => none

/-- The engine fields of an E-slot instruction. -/
def engineSync (i : Instr) : Option ESync :=
  match i with
  | .amo _ e => some e
  | .amor _ e => some e
  | .amof _ e => some e
  | .drain _ _ e => some e
  | .cplvl _ _ _ _ e => some e
  | .cpsrc _ _ e => some e
  | .cpdst _ _ e => some e
  | .cpgo _ e => some e
  | .cpfill _ _ _ _ _ e => some e
  | .cppub _ _ e => some e
  | .cpabort e => some e
  | .cpqry _ _ e => some e
  | .nopE e => some e
  | .semsig e => some e
  | .semwait _ _ _ _ e => some e
  | .barinit _ _ _ _ _ e => some e
  | .bararr _ e => some e
  | .barwait _ e => some e
  | .barexp _ _ e => some e
  | .barqry _ _ e => some e
  | .spawn _ _ _ _ _ e => some e
  | .next e => some e
  | .yield _ _ e => some e
  | .csend _ _ e => some e
  | .crecv _ _ e => some e
  | .ctab _ _ e => some e
  | .sigrd _ _ _ e => some e
  | .sigfold _ _ e => some e
  | .sigclr _ e => some e
  | .zinject _ e => some e
  | .trap _ e => some e
  | .eret _ e => some e
  | .ctxsave _ _ _ _ e => some e
  | .ctxload _ _ _ _ e => some e
  | .halt _ e => some e
  | .wdog _ _ e => some e
  | .hoist _ e => some e
  | _ => none

/-- What an instruction consumes of semaphore n as it issues (R269, R285, R298). -/
def Strand.semUse (st : Strand) (n : Nat) (i : Instr) : Nat :=
  match engineSync i with
  | none => 0
  | some e =>
    if !st.guard e.g then 0
    else
      (if e.waitEn ∧ e.waitSem.toNat = n then e.waitThr.toNat else 0) +
        match i with
        | .semwait m t _ nc _ => if !nc ∧ m.toNat = n then t.toNat else 0
        | .yield m t _ => if m.toNat = n ∧ t.toNat ≤ st.semaphore n then t.toNat else 0
        | _ => 0

/-- Interlocked results of an instruction, by name, with their latencies on core k; 0 is a remote return. -/
def State.scalarWrites (s : State) (k : Nat) (i : Instr) : List (SDest × Nat) :=
  let st := s.strand k
  let atom (kind : RKind) (o : AtomOp) : List (SDest × Nat) :=
    if atomReturns kind o then [(rs o.d, if capKind (st.c o.cap.toNat) = kScratch then 6 else 0)] else []
  match i with
  | .add d _ _ _ => [(rs d, 1)]
  | .sub d _ _ _ => [(rs d, 1)]
  | .mul d _ _ _ => [(rs d, 3)]
  | .mulh d _ _ _ => [(rs d, 3)]
  | .mulhn d _ _ _ => [(rs d, 3)]
  | .div d _ _ _ => [(rs d, 18)]
  | .divn d _ _ _ => [(rs d, 18)]
  | .rem d _ _ _ => [(rs d, 18)]
  | .remn d _ _ _ => [(rs d, 18)]
  | .and d _ _ _ => [(rs d, 1)]
  | .or d _ _ _ => [(rs d, 1)]
  | .xor d _ _ _ => [(rs d, 1)]
  | .andn d _ _ _ => [(rs d, 1)]
  | .shl d _ _ _ => [(rs d, 1)]
  | .shr d _ _ _ => [(rs d, 1)]
  | .sar d _ _ _ => [(rs d, 1)]
  | .rotl d _ _ _ => [(rs d, 1)]
  | .min d _ _ _ => [(rs d, 1)]
  | .max d _ _ _ => [(rs d, 1)]
  | .minn d _ _ _ => [(rs d, 1)]
  | .maxn d _ _ _ => [(rs d, 1)]
  | .sel d _ _ _ => [(rs d, 1)]
  | .addi d _ _ _ => [(rs d, 1)]
  | .andi d _ _ _ => [(rs d, 1)]
  | .ori d _ _ _ => [(rs d, 1)]
  | .xori d _ _ _ => [(rs d, 1)]
  | .shli d _ _ _ => [(rs d, 1)]
  | .shri d _ _ _ => [(rs d, 1)]
  | .sari d _ _ _ => [(rs d, 1)]
  | .sext d _ _ _ => [(rs d, 1)]
  | .zext d _ _ _ => [(rs d, 1)]
  | .clz d _ _ => [(rs d, 1)]
  | .popc d _ _ => [(rs d, 1)]
  | .mov d _ _ => [(rs d, 1)]
  | .cmp _ q _ _ _ => [(.q q.toNat, 1)]
  | .cmpi _ q _ _ _ => [(.q q.toNat, 1)]
  | .qlog _ q _ _ _ => [(.q q.toNat, 1)]
  | .lil d _ _ => [(rs d, 1)]
  | .lih d _ _ => [(rs d, 1)]
  | .mfsr d _ _ => [(rs d, 2)]
  | .brx d _ _ => [(rs d, 1)]
  | .call _ _ => [(.s 47, 1)]
  | .cload c _ _ _ => [(rc c, 8)]
  | .cnarrow c _ _ _ => [(rc c, 1)]
  | .crights c _ _ _ => [(rc c, 1)]
  | .cget d _ _ _ => [(rs d, 1)]
  | .cmov c _ _ => [(rc c, 1)]
  | .lds r cap _ _ _ _ _ _ =>
    [(rs r, match s.space k (st.c cap.toNat) with | .spad => 6 | .pane => 20 | .remote => 0)]
  | .amor o _ => atom .amor o
  | .amof o _ => atom .amof o
  | .vget o => [(.s o.d.toNat, 3)]
  | .pcnt o => [(.s o.d.toNat, 2)]
  | .pfirst o => [(.s o.d.toNat, 2)]
  | .cpqry d _ _ => [(rs d, 2)]
  | .semwait _ _ d _ _ => [(rs d, 1)]
  | .barqry b d _ => [(rs d, if s.onLine st.owner b then 4 else 24)]
  | .spawn q _ _ d _ _ => [(.q q.toNat, 8), (rs d, 8)]
  | .sigrd d _ _ _ => [(rs d, 2)]
  | .wdog rd d _ => if rd then [(rs d, 2)] else []
  | .next _ => (List.range ((s.nextClaim k).2.2.length + 1)).map fun i => (.s (48 + i), 32)
  | .ctxload _ _ parts b _ => (frameRegs parts).map fun d => (d, frameCycles (frameSpans parts st.kn.tiles (st.s b.toNat)))
  | _ => []

/-- The physical destination of a register name; none for s0, whose writes are discarded, and q0. -/
def Strand.physical (st : Strand) (d : SDest) : Option SDest :=
  match d with
  | .s i => if i = 0 then none else some (.s (rotIndex st.sc.rotb i))
  | .q i => if i = 0 then none else some (.q i)
  | .c i => some (.c i)

/-- A remote return on its way to a register. -/
def State.remoteTo (s : State) (o : Owner) (d : SDest) : Bool :=
  s.remotes.any fun r => r.owner == o && r.dst == some d

/-- A read of a register whose interlocked write is pending (R142, R166). -/
def State.readHeldBack (s : State) (k : Nat) (d : SDest) : Bool :=
  let st := s.strand k
  match st.physical d with
  | none => false
  | some d => st.pend.any (·.dst == d) || s.remoteTo st.owner d

/-- A write, latency L from issue, that would land before an older pending write of its register: its bundle
freezes until it would land later (R143).  Latency 0 stands for a return of variable latency (log 33, DEDUCED; log 75, DEDUCED). -/
def State.lateWrite (s : State) (k : Nat) (w : SDest × Nat) : Bool :=
  let st := s.strand k
  match st.physical w.1 with
  | none => false
  | some d => w.2 ≠ 0 && st.pend.any fun p => p.dst == d && (w.2 < p.due || (st.fl.ordered && w.2 == p.due))

/-- A write to a register that a remote return has yet to write (R166). -/
def State.writeHeldBack (s : State) (k : Nat) (w : SDest × Nat) : Bool :=
  let st := s.strand k
  match st.physical w.1 with
  | none => false
  | some d => s.remoteTo st.owner d

/-- A remote return onto a register with an older pending write: whether it would land first depends on its latency
(R143). -/
def State.mayReturnFirst (s : State) (k : Nat) (w : SDest × Nat) : Bool :=
  let st := s.strand k
  match st.physical w.1 with
  | none => false
  | some d => w.2 == 0 && st.pend.any (·.dst == d)

/-- The interlocked writes that an instruction makes: none under a false guard. -/
def State.writesMade (s : State) (k : Nat) (i : Instr) : List (SDest × Nat) :=
  let st := s.strand k
  if (qGuard i).all st.guard && (engineSync i).all (fun e => st.guard e.g) then s.scalarWrites k i else []

/-- The scalar interlock of one instruction. -/
def State.interlock (s : State) (k : Nat) (i : Instr) : Bool :=
  (scalarReads i).any (s.readHeldBack k) || (s.writesMade k i).any (s.writeHeldBack k)

/-! ### Waits and freezes of one slot -/

/-- The memory operations of R176. -/
def memoryOp (i : Instr) : Bool :=
  match i with
  | .lds _ _ _ _ _ _ _ _ => true
  | .sts _ _ _ _ _ _ _ => true
  | .vld _ _ _ _ _ _ => true
  | .vst _ _ _ _ _ _ => true
  | .vldb _ _ _ _ _ _ => true
  | .vlds _ _ _ _ _ _ _ => true
  | .vsts _ _ _ _ _ _ _ => true
  | .vldx _ _ _ _ _ _ _ => true
  | .vstx _ _ _ _ _ _ _ => true
  | .amo _ _ => true
  | .amor _ _ => true
  | .amof _ _ => true
  | .cpgo _ _ => true
  | .cpfill _ _ _ _ _ _ => true
  | .spawn _ _ _ _ _ _ => true
  | .ctab _ _ _ => true
  | .ctxsave _ _ _ _ _ => true
  | .ctxload _ _ _ _ _ => true
  | .zinject o _ => o.kind == 2
  | _ => false

def wait (b : Bool) : Hold := if b then .wait else .go
def freeze (b : Bool) : Hold := if b then .freeze else .go

/-- The granule wait of a load or store (R171), when its checks pass. -/
def State.granuleWait (s : State) (k : Nat) (t : Trap) (q : MemQ) (store : Bool) (as : List Nat) : Hold :=
  wait (t.isNone && (if store then q.qual == 1 && !s.granules k false as
    else (q.qual == 1 || q.qual == 2) && !s.granules k true as))

/-- What holds back an atomic (R166, R177). -/
def State.atomHold (s : State) (k : Nat) (kind : RKind) (o : AtomOp) (queue : Nat) : Hold :=
  let st := s.strand k
  if (s.checkAtom k kind o).isSome then .go
  else if capKind (st.c o.cap.toNat) = kScratch then
    freeze (o.order.getLsbD 1 && s.unperformed st.owner st.fl.accesses)
  else freeze (64 ≤ queue)

/-- The extents of a frame image are not all present. -/
def State.frameWaits (s : State) (k : Nat) (cap : BitVec 4) (off : BitVec 6) (parts : BitVec 8) (b : BitVec 6) : Bool :=
  let st := s.strand k
  let x := st.c cap.toNat
  (s.frameExtents x (st.s off.toNat).toNat (frameSpans parts st.kn.tiles (st.s b.toNat))).any fun p =>
    (s.tableEntry p.1 p.2).any fun t => !t.p || t.cw

/-- SWPT waits for the words of its table that it reads (06 R161, 19 R397). -/
def State.swptWaits (s : State) (k t : Nat) : Bool :=
  let kn := (s.strand k).kn
  let a := kn.powerTable t
  let a1 := a + 4 * s.grant k
  let o := capObj kn.code
  kn.variant != 0 && kn.tableWord a1
    && (s.rangeAbsent o a1 4 || (s.objLE o a1 4 == 0 && kn.tableWord a && s.rangeAbsent o a 4))

/-- What holds a memory slot back; `queue` counts the remote accesses that stand before it. -/
def State.memoryHold (s : State) (k : Nat) (i : Instr) (queue : Nat) : Hold :=
  let st := s.strand k
  let full (c : BitVec 4) (n : Nat) : Hold :=
    freeze (0 < n && s.space k (st.c c.toNat) == .remote && 64 < queue + n)
  -- a store into the own pane waits for an extent that a checkpoint copies (21 R422; log 62, DESIGN CHOICE)
  let copied (c : BitVec 4) (bs : List (Int × Nat)) : Hold :=
    let x := st.c c.toNat
    freeze (s.space k x == .pane && !st.holds x
      && bs.any fun b => s.copyHolds (s.extents (capObj x) (capAddr x b.1) b.2))
  let contig (c : BitVec 4) (off : BitVec 6) (imm : BitVec 12) (g : PGuard) (q : MemQ) (right : Nat) : Hold :=
    let x := st.c c.toNat
    let o := st.off12 off imm
    s.granuleWait k (s.checkContig k c.toNat right o q) q (right == rWrite)
      (contigGranules (capAddr x o) (fmtWidth (st.elemFmt x o)) (st.active g))
  let singles (c : BitVec 4) (g : PGuard) (q : MemQ) (right : Nat) (one : Bool) (f : Nat → Int) : Hold :=
    let ls := lanesOf (st.active g)
    let t := s.checkSingles k c.toNat right (f 0) (if one then [f 0] else ls.map f) q
    ((s.granuleWait k t q (right == rWrite) (ls.map fun l => capAddr (st.c c.toNat) (f l))).or
      (freeze (right == rWrite && t.isNone && st.holds (st.c c.toNat) && ls != [] && 64 ≤ queue))).or
      (if right == rWrite && t.isNone then copied c (ls.map fun l => (f l, 4)) else .go)
  match i with
  | .lds _ c off imm size _ g q =>
    let o := st.scalarOff off imm size
    let t := st.checkScalar c.toNat rRead o (2 ^ size.toNat) q
    if st.guard g then (s.granuleWait k t q false [capAddr (st.c c.toNat) o]).or (full c (if t.isNone then 1 else 0)) else .go
  | .sts _ c off imm size g q =>
    let o := st.scalarOff off imm size
    let t := st.checkScalar c.toNat rWrite o (2 ^ size.toNat) q
    let n := if t.isNone && (st.holds (st.c c.toNat) || s.space k (st.c c.toNat) == .remote) then 1 else 0
    if st.guard g then
      ((s.granuleWait k t q true [capAddr (st.c c.toNat) o]).or (freeze (0 < n && 64 ≤ queue))).or
        (if t.isNone then copied c [(o, 2 ^ size.toNat)] else .go)
    else .go
  | .vld _ c off imm g q => contig c off imm g q rRead
  | .vst _ c off imm g q =>
    let x := st.c c.toNat
    let t := s.checkContig k c.toNat rWrite (st.off12 off imm) q
    ((contig c off imm g q rWrite).or (freeze (t.isNone && st.holds x && st.active g != 0 && 64 ≤ queue))).or
      (if t.isNone then copied c ((lanesOf (st.active g)).map fun l => (st.off12 off imm + (4 * l : Nat), 4)) else .go)
  | .vldb _ c off imm g q => singles c g q rRead true fun _ => st.off12 off imm
  | .vlds _ c off t imm g q => singles c g q rRead false (st.offStride off t imm)
  | .vldx _ c off x wi g q => singles c g q rRead false (st.offIndex off x wi)
  | .vsts _ c off t imm g q => singles c g q rWrite false (st.offStride off t imm)
  | .vstx _ c off x wi g q => singles c g q rWrite false (st.offIndex off x wi)
  | .swpt t _ => freeze (s.swptWaits k t.toNat)
  | _ => .go

/-- A member's NEXT waits for the claim of the gang's leader (11 R296). -/
def State.nextWaits (s : State) (st : Strand) : Bool :=
  st.sy.staged.isNone && !st.leads
    && (match s.leader st with
      | some l => (l.claimFor st).isNone
      | none => false)

/-- What holds an engine command back, under a true guard. -/
def State.engineHold (s : State) (k : Nat) (i : Instr) (queue : Nat) : Hold :=
  let st := s.strand k
  match i with
  | .amo o _ => s.atomHold k .amo o queue
  | .amor o _ => s.atomHold k .amor o queue
  | .amof o _ => s.atomHold k .amof o queue
  | .cpgo o e =>
    let q := (s.core k).cmds
    freeze ((s.checkCpgo k o (s.command k o e)).isNone
      && (8 ≤ (q.filter (·.owner == st.owner)).length || 16 ≤ q.length))
  | .cppub d h _ => freeze (s.publishing st.owner d.toNat h.toNat)
  | .semwait n t _ _ _ => wait (st.semaphore n.toNat < t.toNat)
  | .bararr b _ => wait ((st.record b).any fun r => r.rg.isNone)
  | .barwait b _ =>
    wait ((st.record b).any fun r => match r.rg with
      | some g => decide (s.now < g + r.k * r.delta)
      | none => true)
  | .csend _ dst _ =>
    wait (4 ≤ st.sy.sends.length || st.sy.credit dst.toNat == 0)
  | .crecv _ src _ => wait (!(st.sy.inbox.any (·.1 == src.toNat)))
  | .next _ => wait (st.id.pers && s.nextWaits st)
  | .sigrd _ _ sync _ =>
    freeze (sync && s.folding st.owner s.nextId)
  | .ctxsave c o p b _ => freeze (s.frameWaits k c o p b)
  | .ctxload c o p b _ => freeze (s.frameWaits k c o p b)
  | .zinject o _ => freeze (o.kind == 0 && st.mx.tileBusy o.a.toNat)
  | _ => .go

/-- Remote accesses that a slot puts into the queue. -/
def State.queues (s : State) (k : Nat) (i : Instr) : Nat :=
  let st := s.strand k
  match i with
  | .lds _ c _ _ _ _ g _ => if st.guard g && s.space k (st.c c.toNat) == .remote then 1 else 0
  | .sts _ c _ _ _ g _ => if st.guard g && (st.holds (st.c c.toNat) || s.space k (st.c c.toNat) == .remote) then 1 else 0
  | .vst _ c _ _ g _ => if st.active g != 0 && st.holds (st.c c.toNat) then 1 else 0
  | .vsts _ c _ _ _ g _ => if st.active g != 0 && st.holds (st.c c.toNat) then 1 else 0
  | .vstx _ c _ _ _ g _ => if st.active g != 0 && st.holds (st.c c.toNat) then 1 else 0
  | _ => 0

/-- What holds one slot back. -/
def State.slotHold (s : State) (k : Nat) (i : Instr) (queue : Nat) : Hold :=
  let st := s.strand k
  let acq := freeze (memoryOp i && st.acquiring != [])
  let mx := freeze (st.mx.hold i || (match i with
    | .mtsr _ n g => st.guard g && n == 0x030 && (st.mx.loaderBusy || st.mx.arrayBusy)
    | _ => false))
  let e := match engineSync i with
    | some e =>
      if st.guard e.g then
        (wait (e.waitEn && decide (st.semaphore e.waitSem.toNat < e.waitThr.toNat))).or (s.engineHold k i queue)
      else .go
    | none => s.memoryHold k i queue
  (acq.or mx).or e

/-- The holds of a list of decoded slots in slot order, counting what the earlier ones queue (log 67, DEDUCED). -/
def State.slotsHold (s : State) (k : Nat) : List (Nat × Instr) → Nat → Hold
  | [], _ => .go
  | (_, i) :: r, queue => (s.slotHold k i queue).or (s.slotsHold k r (queue + s.queues k i))

/-! ### Current weight (21 R410) -/

/-- The weight of one slot's operation. -/
def slotWeight (slot : Nat) (i : Instr) : Nat :=
  match slot with
  | 0 => 1
  | 1 => 1
  | 2 => 2
  | 3 => 2
  | 4 => vectorWeight i
  | 5 => vectorWeight i
  | 6 => matrixWeight i
  | _ => 2
where
  /-- The unit that a matrix instruction makes busy from this cycle on. -/
  matrixWeight (i : Instr) : Nat :=
    match i with
    | .mldw _ => 16
    | .mstr _ => 48
    | .mstrv _ => 48
    | .mzero _ => 8
    | .mldz _ => 8
    | .mout _ => 8
    | .moutv _ => 8
    | .mchk _ => 8
    | _ => 0
  vectorWeight (i : Instr) : Nat :=
    match i with
    | .vfadd _ => 5
    | .vfsub _ => 5
    | .vfmul _ => 5
    | .vfma _ => 5
    | .vfmin _ => 5
    | .vfmax _ => 5
    | .vfabs _ => 5
    | .vfneg _ => 5
    | .vperm _ => 5
    | .vclamp o => if (typeFloat o.typ.toNat).isSome then 5 else 3
    | .vrcp _ => 6
    | .vrsq _ => 6
    | .vexp2 _ => 6
    | .vlog2 _ => 6
    | .vfdiv _ => 6
    | .vredadd _ => 6
    | .vredfadd _ => 6
    | .vredmax _ => 6
    | .vredmin _ => 6
    | .vsort _ => 6
    | .vscan _ => 6
    | _ => 3

/-- The weight of the units that are busy in a cycle in which the core advances (log 92, DEDUCED). -/
def Core.unitWeight (c : Core) : Nat :=
  (if c.st.mx.arrayBusy then 48 else 0) + (if c.st.mx.loaderBusy then 16 else 0) + (if c.st.mx.xferBusy then 8 else 0)
    + (if c.cmds.any fun x => x.done < x.runs then 4 else 0)

/-! ### Freezes of the whole core -/

/-- A cycle that would carry weight w exceeds the window limit (R411). -/
def Core.overLimit (c : Core) (w : Nat) : Bool := decide (c.limw.toNat < (c.weights.take 31).sum + w)

/-- A frozen cycle that no slot asks for: droop halving, spawn throttling, band power-up, CTXSAVE and CTXLOAD, BARINIT,
DRAIN, an own atomic that waits, a request that finds no frame slot, an absent page of a strand that cannot leave. -/
def State.coreFrozen (s : State) (k : Nat) : Bool :=
  let c := s.core k
  let st := c.st
  (c.halve != 0 && c.halvePhase) || (st.node.throttled && st.node.owed) || st.mx.powerUp != 0 || st.fl.busy != 0
    || st.sy.barinit.isSome || st.fl.drain.isSome
    || s.atomicWaits st.owner
    || (c.req.any fun r => r.left == 0 && r.reason != 3)
    || (c.req.isNone && (s.waitsFor st.owner).isSome)

/-- The kernel header's semaphores hold back the first bundle (11 R272). -/
def Strand.headerWaits (st : Strand) : Bool :=
  st.sy.headerWait && st.kn.sems.any fun p => st.semaphore p.1 < p.2

end Sys2Proof.Machine
end

