-- ==== Sys2Proof/Machine/Schedule.lean ====
section
/-!
DEFINITION. The order of the machine's steps (log 1, DESIGN CHOICE): in each reference cycle the outside world, the cores in ascending
number, the barriers and the steps of variable latency, the Prism in the order of 05 R120, and the end of the cycle.
-/

namespace Sys2Proof.Machine

/-! ### The machine's own steps -/

/-- A step of the table that the machine makes by itself; those from outside are kept as instructions (log 3, DESIGN CHOICE). -/
inductive Event where
  | nopwCountExpiry (k : Nat)
  | longOpStep (k : Nat)
  | resultLanding (k : Nat)
  | scalarResultWrite (k : Nat)
  | inflightEntryLand (k : Nat)
  | planeRowWrite (k : Nat)
  | tileRowLand (k : Nat)
  | tileRowLoad (k : Nat)
  | tileRowStore (k : Nat)
  | mchkOutcome (k : Nat)
  | bandPowerUpEnd (k : Nat)
  | copyCommandStart (g : Engine)
  | copyRun (g : Engine)
  | copyCommandComplete (g : Engine)
  | starvationGuard (k : Nat)
  | semaphoreSignal (k : Nat)
  | barinitAnswer (k : Nat)
  | cellUpdateCycle (n : Nat)
  | barrierRelease (k : Nat)
  | circuitSlot (k : Nat)
  | circuitTransferArrival (k : Nat)
  | circuitCreditReturn (k : Nat)
  | remoteAccessSend (id : Nat)
  | translationWalk (id : Nat)
  | remoteAccessPerform (id : Nat)
  | remoteReturn (id : Nat)
  | remoteStoreAccept (id : Nat)
  | loupeAccept (id : Nat)
  | pageAbsentSuspend (k : Nat)
  | parkPoll (x : Nat)
  | dispatch
  | poolEntryDispatch
  | entryReady (t : Nat)
  | agingPromotion (t : Nat)
  | persistentHandoffTimeout (t : Nat)
  | hubCopyComplete (h : Nat)
  | modFillComplete (h : Nat)
  | retire (x : Nat)
  | headOnlyMode (t : Nat)
  | faultDelivery (x : Nat)
  | squashRemove (t : Nat)
  | checkFaultReexecution (t : Nat)
  | voteCompare (t : Nat)
  | thirdRunCompare (t : Nat)
  | suspicionDecay
  | preemptStop (k : Nat)
  | saveBankStart (k : Nat)
  | saveBankEnd (k : Nat)
  | saveEnd (k : Nat)
  | restoreStart (k : Nat)
  | restoreBankEnd (k : Nat)
  | resumeMerge (k : Nat)
  | watchdogExpiry (k : Nat)
  | saveTimeout (k : Nat)
  | killComplete (x : Nat)
  | otswap
  | otswapDone
  | otsync
  | otsyncDone
  | otBadOp (op : BitVec 3)
  | owedNoticePost
  | ckptExtentCopied (x : Nat)
  | droopStretchEnd (k : Nat)
  | droopHalvingEnd (k : Nat)
  | ballastStart (k : Nat)
  | ballastEnd (k : Nat)
  | overQuota (x : Nat)
  | hoistSnapshot
  | createObject
  | freeObject
  | createContext
  | restartContext
  | writeCapabilityEntry
  | badRequest (op : BitVec 8)
  | interruptRecordPost
  | illegalOpcode (c : TrapCode) (v : W64)
  | fetchFault (c : TrapCode) (v : W64)
  | unlistedOp (r : Reason)
  | streamObjectEnd
  deriving DecidableEq, Repr

/-- The meaning of an own step: that of its row. -/
def Event.run (e : Event) (s : State) : Host.Outcome State Fault Refusal :=
  match e with
  | .nopwCountExpiry k => execNopwCountExpiry k s
  | .longOpStep k => execLongOpStep k s
  | .resultLanding k => execResultLanding k s
  | .scalarResultWrite k => execScalarResultWrite k s
  | .inflightEntryLand k => execInflightEntryLand k s
  | .planeRowWrite k => execPlaneRowWrite k s
  | .tileRowLand k => execTileRowLand k s
  | .tileRowLoad k => execTileRowLoad k s
  | .tileRowStore k => execTileRowStore k s
  | .mchkOutcome k => execMchkOutcome k s
  | .bandPowerUpEnd k => execBandPowerUpEnd k s
  | .copyCommandStart g => execCopyCommandStart g s
  | .copyRun g => execCopyRun g s
  | .copyCommandComplete g => execCopyCommandComplete g s
  | .starvationGuard k => execStarvationGuard k s
  | .semaphoreSignal k => execSemaphoreSignal k s
  | .barinitAnswer k => execBarinitAnswer k s
  | .cellUpdateCycle n => execCellUpdateCycle n s
  | .barrierRelease k => execBarrierRelease k s
  | .circuitSlot k => execCircuitSlot k s
  | .circuitTransferArrival k => execCircuitTransferArrival k s
  | .circuitCreditReturn k => execCircuitCreditReturn k s
  | .remoteAccessSend id => execRemoteAccessSend id s
  | .translationWalk id => execTranslationWalk id s
  | .remoteAccessPerform id => execRemoteAccessPerform id s
  | .remoteReturn id => execRemoteReturn id s
  | .remoteStoreAccept id => execRemoteStoreAccept id s
  | .loupeAccept id => execLoupeAccept id s
  | .pageAbsentSuspend k => execPageAbsentSuspend k s
  | .parkPoll x => execParkPoll x s
  | .dispatch => execDispatch s
  | .poolEntryDispatch => execPoolEntryDispatch s
  | .entryReady t => execEntryReady t s
  | .agingPromotion t => execAgingPromotion t s
  | .persistentHandoffTimeout t => execPersistentHandoffTimeout t s
  | .hubCopyComplete h => execHubCopyComplete h s
  | .modFillComplete h => execModFillComplete h s
  | .retire x => execRetire x s
  | .headOnlyMode t => execHeadOnlyMode t s
  | .faultDelivery x => execFaultDelivery x s
  | .squashRemove t => execSquashRemove t s
  | .checkFaultReexecution t => execCheckFaultReexecution t s
  | .voteCompare t => execVoteCompare t s
  | .thirdRunCompare t => execThirdRunCompare t s
  | .suspicionDecay => execSuspicionDecay s
  | .preemptStop k => execPreemptStop k s
  | .saveBankStart k => execSaveBankStart k s
  | .saveBankEnd k => execSaveBankEnd k s
  | .saveEnd k => execSaveEnd k s
  | .restoreStart k => execRestoreStart k s
  | .restoreBankEnd k => execRestoreBankEnd k s
  | .resumeMerge k => execResumeMerge k s
  | .watchdogExpiry k => execWatchdogExpiry k s
  | .saveTimeout k => execSaveTimeout k s
  | .killComplete x => execKillComplete x s
  | .otswap => execOtswap s
  | .otswapDone => execOtswapDone s
  | .otsync => execOtsync s
  | .otsyncDone => execOtsyncDone s
  | .otBadOp op => execOtBadOp op s
  | .owedNoticePost => execOwedNoticePost s
  | .ckptExtentCopied x => execCkptExtentCopied x s
  | .droopStretchEnd k => execDroopStretchEnd k s
  | .droopHalvingEnd k => execDroopHalvingEnd k s
  | .ballastStart k => execBallastStart k s
  | .ballastEnd k => execBallastEnd k s
  | .overQuota x => execOverQuota x s
  | .hoistSnapshot => execHoistSnapshot s
  | .createObject => execCreateObject s
  | .freeObject => execFreeObject s
  | .createContext => execCreateContext s
  | .restartContext => execRestartContext s
  | .writeCapabilityEntry => execWriteCapabilityEntry s
  | .badRequest op => execBadRequest op s
  | .interruptRecordPost => execInterruptRecordPost s
  | .illegalOpcode c v => execIllegalOpcode c v s
  | .fetchFault c v => execFetchFault c v s
  | .unlistedOp r => execUnlistedOp r s
  | .streamObjectEnd => execStreamObjectEnd s

/-- What a step of the machine runs: an instruction decoded from memory or given from outside, or an own step. -/
inductive Act where
  | instr (i : Instr)
  | event (e : Event)
  deriving DecidableEq, Repr

/-- The state in which a step acts, and its act; none for a move of the order itself. -/
abbrev Move := State × Option Act

def State.at_ (s : State) (t : Turn) : State := { s with turn := t }
/-- The turn of core k, at a stage. -/
def State.stage (s : State) (k n : Nat) : State := { s with turn := .core k n }
def does (s : State) (e : Event) : Move := (s, some (.event e))
def goes (s : State) : Move := (s, none)

/-- Run the first event of a list, or pass on to the next turn. -/
def firstOr (s : State) (es : List Event) (t : Turn) : Move :=
  match es with
  | e :: _ => does s e
  | [] => goes (s.at_ t)

def when_ (b : Bool) (e : Event) : List Event := if b then [e] else []

/-! ### From outside (log 3, DESIGN CHOICE) -/

/-- Put an event from outside into its place by time. -/
def insertEnv (t : Nat) (i : Instr) : List (Nat × Instr) → List (Nat × Instr)
  | [] => [(t, i)]
  | (u, j) :: r => if t < u then (t, i) :: (u, j) :: r else (u, j) :: insertEnv t i r

/-- What acts on a module whose rails are cut. -/
def actsDark (i : Instr) : Bool :=
  match i with
  | .boot => true
  | .thermalTrip _ => true
  | .tripcauseClear _ => true
  | _ => false

/-- A command of the OT unit that has been given: it starts before anything else changes the unit's registers. -/
def State.otCommand (s : State) : List Event :=
  let h := s.hub
  when_ (s.on && h.otBusy && s.ot.isNone) (if h.otOp = 1 then .otswap else if h.otOp = 2 then .otsync else .otBadOp h.otOp)

/-- A request of the host that can be carried out. -/
def State.commanded (s : State) : List Event :=
  let h := s.hub
  when_ (h.mbStatus == 1 && !(h.mbRun == 2 && s.freeWaits)) (match h.mbRun.toNat with
    | 1 => .createObject
    | 2 => .freeObject
    | 3 => .createContext
    | 4 => .restartContext
    | 5 => .writeCapabilityEntry
    | _ => .badRequest h.mbRun)

/-- A core processes arrivals in its own turn. -/
def Core.lands (c : Core) : Bool :=
  match c.mode, c.seq with
  | .running, _ => true
  | .saving, none => true
  | _, _ => false

/-- Releases, answers and circuit events that are due at a core which does not process them: they reach the frames of
their strands (18 R370) (log 73, DESIGN CHOICE). -/
def State.strays (s : State) : List Event :=
  (s.events.filter fun e => e.left == 0 && !(s.core e.core).lands).map fun e =>
    match e.what with
    | .release _ _ _ _ => .barrierRelease e.core
    | .answer _ _ _ _ => .barinitAnswer e.core
    | .transfer _ _ _ => .circuitTransferArrival e.core
    | .credit _ => .circuitCreditReturn e.core

/-- What the machine does before its cores. -/
def State.before (s : State) : Move :=
  if s.on then firstOr s (s.commanded ++ s.strays) (.core 0 0) else goes (s.at_ .tick)

def State.outside (s : State) : Move :=
  match s.otCommand, s.env with
  | e :: _, _ => does s e
  | [], (t, i) :: r =>
    if t ≤ s.now then
      let s' := { s with env := r }
      if s.hostWaits i then goes { s' with env := insertEnv (s.now + 1) i r }
      else if s.on || actsDark i then (s', some (.instr i))
      else goes s'
    else s.before
  | [], [] => s.before

/-! ### A core's cycle -/

/-- The core has something to do or to count. -/
def Core.active (c : Core) : Bool :=
  c.holds || c.stretch != 0 || c.halve != 0 || c.ballast != 0 || c.lastSum != 0 || c.weights.any (· != 0)
    || !c.cmds.isEmpty

/-- The next core from k on that is active, or the barriers. -/
def State.nextCore (s : State) (k : Nat) : State :=
  match (List.range Config.cores).find? fun j => k ≤ j && (s.core j).active with
  | some j => s.stage j 0
  | none => s.at_ (.var 0)

/-- A reference cycle of a stretch in which the core's clock does not begin a cycle (21 R415). -/
def Core.stretched (c : Core) : Bool := c.stretch == 7 || c.stretch == 4 || c.stretch == 1

/-- The header check at receipt, one cycle before the first bundle may issue (05 R124, 03 R65, 10 R243). -/
def State.receive (s : State) (k : Nat) : State :=
  let st := s.strand k
  match s.header st.kn.code st.kn.hdr with
  | none => s.taskFault k .header 0 0 0
  | some kn => s.modStrand k fun st =>
      { st with kn := kn, sc := { st.sc with pc := s.codeStart kn }, mx := { st.mx with ashape := kn.bands }
                sy := { st.sy with sem := kn.sems.foldl (fun m p => SMap.set m p.1 p.2) st.sy.sem } }

/-- The cycle begins: what the last one collected is cleared, but for late faults found since. -/
def State.begin (s : State) (k : Nat) : Move :=
  let c := s.core k
  if !c.active then goes (s.nextCore k)
  else if c.stretched then
    goes (s.stage k 14)
  else
    let s := s.modNow k fun n =>
      { Now.zero with late := n.late, ldepth := c.st.sc.loops.length, inbox := c.st.sy.inbox }
    match c.mode with
    | .free => goes (s.stage k 11)
    | .starting 0 => goes ((s.modCore k fun c => { c with mode := .running }).stage k 1)
    | .starting 1 => goes ((s.receive k).stage k 11)
    | .starting _ => goes (s.stage k 11)
    | .running => goes (s.stage k 1)
    | .saving => goes (s.stage k (if c.seq = none then 1 else 6))
    | .restoring => goes (s.stage k 6)

/-- The increments that acted in the last cycle are due. -/
def State.signalDue (s : State) (k : Nat) : Bool :=
  let st := s.strand k
  !st.sy.semAdd.isEmpty || s.readySigs st != []

/-- Arrivals and landings of this cycle, in their order. -/
def State.landings (s : State) (k : Nat) : List Event :=
  let st := s.strand k
  when_ (s.dueEvent k Arrival.isRelease).isSome (.barrierRelease k)
    ++ when_ (s.dueEvent k Arrival.isAnswer).isSome (.barinitAnswer k)
    ++ when_ (s.dueEvent k Arrival.isTransfer).isSome (.circuitTransferArrival k)
    ++ when_ (s.dueEvent k Arrival.isCredit).isSome (.circuitCreditReturn k)
    ++ when_ (st.pend.any (·.due == 0)) (.scalarResultWrite k)

/-- Exposed results that have reached their landing cycle.  No slot advances during a freeze, so they land in the
cycle in which the core goes on (09 R212), in a drain cycle of ENDT (06 R162), or at a stop (18 R355) (log 30, DEDUCED). -/
def State.exposedDue (s : State) (k : Nat) : List Event :=
  match (s.strand k).tr.released.find? (·.due == 0), (s.strand k).exposed.find? (·.due == 0) with
  | none, none => []
  | some _, none => [.inflightEntryLand k]
  | none, some _ => [.resultLanding k]
  | some x, some y => [if y.before x then .resultLanding k else .inflightEntryLand k]

/-- Core k with all of them landed, in their order. -/
def State.settled (s : State) (k : Nat) : State :=
  let due (l : List Exposed) : List Exposed := l.filter (·.due == 0)
  let later (l : List Exposed) : List Exposed := l.filter (·.due != 0)
  let st := s.strand k
  ((due st.exposed).foldl (fun l x => insertEntry x l) (due st.tr.released)).foldl (fun s x => s.landExposed k x)
    (s.modStrand k fun st => { st with exposed := later st.exposed, tr := { st.tr with released := later st.tr.released } })

/-- The matrix engine's effects of this cycle, and steps of long operations. -/
def State.matrixEvents (s : State) (k : Nat) : List Event :=
  let st := s.strand k
  let x := st.mx.ops
  when_ (x.any MatOp.planeDue) (.planeRowWrite k) ++ when_ (x.any MatOp.landDue) (.tileRowLand k)
    ++ when_ (x.any MatOp.loadDue) (.tileRowLoad k) ++ when_ (x.any MatOp.storeDue) (.tileRowStore k)
    ++ when_ (x.any MatOp.chkDue) (.mchkOutcome k) ++ when_ (st.mx.powerUp == 1) (.bandPowerUpEnd k)
    ++ when_ (st.longs.any LongOp.stepDue) (.longOpStep k)

/-- The watchdog, suspension, and the save and restore sequencer. -/
def State.sequence (s : State) (k : Nat) : Move :=
  let c := s.core k
  let st := c.st
  let timeout := c.seq.any fun q => decide (q.began + 10500000 ≤ s.now)
  match c.mode with
  | .running =>
    if s.wdMult ≠ 0 ∧ s.deadline st ≤ st.tr.wdCount then does s (.watchdogExpiry k)
    else if c.req = none ∧ (s.waitsFor st.owner).isSome ∧ (s.freeSlot st.id.ctx).isSome then
      firstOr s (s.exposedDue k ++ [.pageAbsentSuspend k]) (.core k 7)
    else if s.canStop k then firstOr s (s.exposedDue k ++ [.preemptStop k]) (.core k 7)
    else goes (s.stage k 7)
  | .saving =>
    if timeout then does (s.stage k 11) (.saveTimeout k)
    else
      match c.seq, c.partDone with
      | none, _ => if s.steady k false && !s.slotHeld k then goes ((s.beginSave k).stage k 11) else goes (s.stage k 11)
      | some _, none => goes (s.stage k 11)
      | some _, some q =>
        if s.frameWaiting k then goes (s.stage k 11)
        else
        match q.part with
        | .registers =>
          let s := if q.wrote then s else s.saveRegisters k
          if q.banks = [] then goes ((s.beginImage k).stage k 11)
          else if q.banks.any c.bankReady then does (s.stage k 11) (.saveBankStart k)
          else goes (s.stage k 11)
        | .bank _ => does s (.saveBankEnd k)
        | .image => does (s.stage k 11) (.saveEnd k)
        | _ => goes (s.stage k 11)
  | .restoring =>
    if timeout then does (s.stage k 11) (.saveTimeout k)
    else
      match c.seq, c.partDone with
      | none, _ => if c.req.any (·.left == 0) && !s.frameWaiting k then does (s.stage k 11) (.restoreStart k) else goes (s.stage k 11)
      | some _, none => goes (s.stage k 11)
      | some _, some q =>
        if s.frameWaiting k then goes (s.stage k 11)
        else
        match q.part with
        | .registers => goes ((s.beginRestoreBank k).stage k 11)
        | .bank _ => does s (.restoreBankEnd k)
        | .image => if s.returnsDue st.owner then goes (s.stage k 11) else does (s.stage k 11) (.resumeMerge k)
        | .rebuild => goes ((s.endRestore k).stage k 7)
        | .merge => goes (s.stage k 11)
  | _ => goes (s.stage k 11)

/-! ### Issue -/

/-- The cycle of a running core: it advances with a weight, or freezes. -/
def State.advance (s : State) (k w : Nat) : State :=
  (s.modNow k fun n => { n with advanced := true, weight := w }).stage k 11
def State.frozen (s : State) (k : Nat) (waits : Bool) : State :=
  (s.modNow k fun n => { n with advanced := false, waits := waits }).stage k 11

/-- Loop ends at a bundle (06 R158): the stack that is left, and where issue goes on. -/
def loopEnd (a next : Nat) : List LoopEntry → List LoopEntry × Nat
  | [] => ([], next)
  | e :: r =>
    if e.stop ≠ a then (e :: r, next)
    else if e.rem - 1 ≠ 0 then ({ e with rem := e.rem - 1 } :: r, e.start)
    else loopEnd a next r

/-- The last slot of a bundle has committed: a taken transfer, or the loop ends and the next bundle.  `bubbles` is the
cost of a transfer (log 68, DEDUCED).  A bundle that ends the strand closes no loop: ENDT.cont goes on with the next one
(11 R297). -/
def Strand.leave (st : Strand) (a n bubbles : Nat) : Strand :=
  match st.fl.transfer with
  | some t =>
    { st with sc := { st.sc with pc := t.toNat }
              fl := { st.fl with bundle := none, resume := none, transfer := none, bubbles := bubbles } }
  | none =>
    let (l, p) := if st.fl.ending.isSome then (st.sc.loops, a + n) else loopEnd a (a + n) st.sc.loops
    { st with sc := { st.sc with pc := p, loops := l }, fl := { st.fl with bundle := none, resume := none } }

/-- Slots of the bundle at a that are left from slot `first` on. -/
def State.leftSlots (s : State) (k a first : Nat) : List Nat := (slotsOf (s.headerAt k a)).filter (first ≤ ·)

/-- A bundle re-entered after its last slot is left at once (18 R383) (log 94, DEDUCED). -/
def State.settleResume (s : State) (k : Nat) : State :=
  match (s.strand k).fl.resume with
  | some (a, first) =>
    if s.headerAt k a ≠ 0 ∧ s.leftSlots k a first = [] then
      s.modStrand k fun st => st.leave a (frameLen (s.headerAt k a)) st.fl.bubbles
    else s
  | none => s

/-- ENDT and ENDT.cont may end their drain (06 R162) (log 79, DEDUCED).  Plane rows that an MLDW has still to write are not waited
for (log 118, DESIGN CHOICE). -/
def State.endReady (s : State) (k : Nat) : Bool :=
  let st := s.strand k
  st.pend.all (fun p => st.fl.seq ≤ p.seq) && st.exposed.all (fun x => st.fl.seq ≤ x.seq)
    && st.longs.all (fun o => st.fl.seq ≤ o.seq) && st.tr.released.isEmpty && st.tr.waiting.isEmpty
    && st.mx.ops.all (·.kind == .ldw) && (s.commands st.owner).isEmpty
    && !(s.remotes.any fun r => r.owner == st.owner && (!r.performed || (r.dst.isSome && r.seq < st.fl.seq)))

/-- What is on its way for a strand follows it to its new task. -/
def State.retag (s : State) (a b : Owner) : State :=
  { s with updates := s.updates.map fun u => if u.owner = a then { u with owner := b } else u
           events := s.events.map fun e => if e.owner = a then { e with owner := b } else e }

/-- ENDT.cont with a task staged: the strand goes on as that task (11 R297). -/
def State.continueTask (s : State) (k : Nat) (tid : W32) : State :=
  let old := (s.strand k).id.tid.toNat
  let st := s.strand k
  let s := s.countEnd st
  let g := st.node.gang
  let s : State := { s with gangs := s.gangs.map fun x => if x.gang = g ∧ x.tid = old then { x with tid := tid.toNat } else x }
  let e := s.entry tid.toNat
  let run : Option TaskRun := ((e.map fun e => e.runs).getD []).find? fun r => r.role == st.id.role.toNat
  let kept := st.sc.c.filter fun (p : Nat × CapBits) => 8 ≤ p.1
  let out := st.sc.c.filter fun (p : Nat × CapBits) => p.1 < 8
  let s := s.retag st.owner { st.owner with tid := tid, att := 0 }
  s.modStrand k fun st =>
    { st with
      sc := { st.sc with c := st.sc.alt.foldl (fun m p => SMap.set m p.1 p.2) kept, alt := out, loops := [] }
      ops := (run.map fun r => r.ops).getD st.ops
      id := { st.id with tid := tid, att := 0, dep := e.any (·.dep), head := e.any (·.headOnly) }
      sy := { st.sy with staged := none, headerWait := true, iter := st.sy.iter + 1 }
      fl := { st.fl with ending := none } }

/-- The drain of ENDT. -/
def State.ending (s : State) (k : Nat) (cont : Bool) : Move :=
  let s := s.restart k
  let st := s.strand k
  if !s.endReady k then goes (s.frozen k false)
  else
    match cont, st.sy.staged with
    | true, some (tid, _) => goes (((s.continueTask k tid).modNow k fun n => { n with ldepth := 0 }).stage k 7)
    | _, _ => goes ((s.endStrand k).stage k 11)

/-- The opcode field of a slot's word (03 R51-R57). -/
def slotOpcode (slot w : Nat) : Nat := if slot = 7 then w % 2 ^ 10 else if slot = 2 ∨ slot = 3 then w % 2 ^ 6 else w % 2 ^ 8

/-- The next slot of the open bundle: its word is fetched, decoded and run, or raises its decoder's trap. -/
def State.runSlot (s : State) (k : Nat) : Move :=
  match (s.strand k).fl.bundle with
  | some (a, _, i :: _) =>
    match s.slotAt k a i with
    | .ok x => (s.stage k 9, some (.instr x))
    | .bad (.inl c) =>
      does (s.stage k 9) (.illegalOpcode c
        (if c = .illop ∨ c = .emul then BitVec.ofNat 64 (slotOpcode i (s.slotWord k a i)) else 0))
    | .bad (.inr _) => goes (s.stage k 10)
  | _ => goes (s.stage k 10)

/-- Open a bundle: entries that waited for it count from now, and its first slot runs. -/
def State.openBundle (s : State) (k a n : Nat) (slots : List Nat) (w : Nat) : Move :=
  let s := s.countFetch (capObj (s.strand k).kn.code) a
  let s := s.modNow k fun m => { m with advanced := true, issued := true, weight := w }
  let s := (s.modStrand k fun st =>
    { st with
      sy := { st.sy with headerWait := false }
      fl := { st.fl with bundle := some (a, n, slots), resume := none, seq := st.fl.seq + 1, ordered := false } }).restart k
  (s.stage k 8).runSlot k

/-- Issue of the slots of a bundle at a: what holds them back, and the current limit (21 R411). -/
def State.tryBundle (s : State) (k a n : Nat) (slots : List Nat) : Move :=
  let c := s.core k
  let ds := s.decodedSlots k a slots
  let w := (ds.map fun d => slotWeight d.1 d.2).sum + c.unitWeight
  let order (b : Bool) (s : State) : State := s.modStrand k fun st => st.withFlow fun f => { f with ordered := b }
  let (early, s) := if ds.any fun d => (s.writesMade k d.2).any (s.mayReturnFirst k) then s.draw else (0, s)
  if ds.any fun d => s.interlock k d.2 then goes (s.frozen k false)
  else if early ≠ 0 ∨ ds.any (fun d => (s.writesMade k d.2).any (s.lateWrite k)) then goes ((order true s).frozen k false)
  else
    match s.slotsHold k ds (s.queued k) with
    | .freeze => goes (s.frozen k false)
    | .wait => goes (s.frozen k true)
    | .go => if c.overLimit w then goes (s.frozen k false) else s.openBundle k a n slots w

/-- A fetch that fails: its trap stops a bundle of which no slot commits. -/
def State.fetchFails (s : State) (k a : Nat) (c : TrapCode) (slots : List Nat) : Move :=
  if (s.core k).overLimit (s.core k).unitWeight then goes (s.frozen k false)
  else
  let s := (s.modStrand k fun st => st.withFlow fun f => { f with bundle := some (a, 0, slots), seq := f.seq + 1 }).restart k
  does ((s.advance k (s.core k).unitWeight).stage k 9) (.fetchFault c (if c = .capbounds then BitVec.ofNat 64 a else 0))

/-- Fetch and issue (log 71, DEDUCED).  A translation that fails gives its late fault (19 R397).  A bundle that is entered again
is fetched again.  A LOOP of count 0 has fetch read the header of the body's last bundle only, and go on after it. -/
def State.fetchIssue (s : State) (k : Nat) : Move :=
  let st := s.strand k
  let past := st.fl.skip && st.fl.transfer.isNone
  let (a, first) := st.fl.resume.getD (st.sc.pc, 0)
  let next (p : Nat) (skip : Bool) : Move := goes (s.modStrand k fun st =>
    { st with sc := { st.sc with pc := p }, fl := { st.fl with resume := none, skip := skip } })
  let lost : Move := goes ((s.logEntry (chipOf k) (capObj st.kn.code) (s.codeExtent k a)).late k (looseFault .data a))
  match s.fetchFinds k a, s.fetch k a with
  | .absent _ _, .lineEnd => goes (s.frozen k false)
  | .absent _ _, .bundle _ _ => goes (s.frozen k false)
  | .gone, .lineEnd => goes (s.late k (looseFault .revoked (capObj st.kn.code)))
  | .error, .lineEnd => lost
  | .error, .bundle _ _ => lost
  | .ok, .bundle n slots =>
    let left := slots.filter (first ≤ ·)
    if past then next (a + n) false
    else if s.poison != [] && (s.readVia (chipOf k) (capObj st.kn.code) a n).2 then goes (s.late k (looseFault .data a))
    else if st.fl.resume.isSome && left.isEmpty then goes (s.modStrand k fun st => st.leave a n 0)
    else s.tryBundle k a n left
  | _, .lineEnd => next ((a / 64 + 1) * 64) st.fl.skip
  | _, .bad c slots =>
    if past && !slots.isEmpty then next (a + frameLen (s.headerAt k a)) false
    else
      let left := slots.filter (first ≤ ·)
      s.fetchFails k a c (if left = [] then [first] else left)
  | _, .bundle n slots =>
    let left := slots.filter (first ≤ ·)
    if past then next (a + n) false
    else if st.fl.resume.isSome && left.isEmpty then goes (s.modStrand k fun st => st.leave a n 0)
    else s.tryBundle k a n left

/-- The strand was to leave because its context was over quota, and the context has energy again (21 R419; log 111, DEDUCED). -/
def State.quotaLifted (s : State) (k : Nat) : Bool :=
  ((s.core k).req.map (·.wake)) == some .grant && !(s.ctx (s.strand k).id.ctx).energy.overq

/-- A YIELD that finds no frame slot freezes the strand in place until its semaphore has its threshold. -/
def State.yielded (s : State) (k : Nat) : Move :=
  match (s.strand k).sy.yielding with
  | some (n, t) =>
    if t ≤ (s.strand k).semaphore n then
      goes ((s.modStrand k fun st => (st.consume n t).withSy fun y => { y with yielding := none }).modCore k fun c =>
        { c with req := none })
    else goes (s.frozen k true)
  | none => goes (s.frozen k false)

/-- Freezes of the core, bubbles, idle cycles, then a bundle. -/
def State.ordinary (s : State) (k : Nat) : Move :=
  let c := s.core k
  let st := c.st
  if s.quotaLifted k then goes (s.modCore k fun c => { c with req := none })
  else if s.coreFrozen k then goes (s.frozen k false)
  else if c.starve.any (256 ≤ ·.2) then does (s.frozen k false) (.starvationGuard k)
  else if st.fl.bubbles ≠ 0 then
    if c.overLimit c.unitWeight then goes (s.frozen k false)
    else goes ((s.modStrand k fun st => st.withFlow fun f => { f with bubbles := f.bubbles - 1 }).advance k c.unitWeight)
  else if st.fl.settling then
    if s.steady k true then
      goes (s.modStrand k fun st => (st.withMx MatrixRegs.index).withFlow fun f => { f with settling := false })
    else goes (s.frozen k false)
  else if st.fl.nopw ≠ 0 ∧ st.fl.resume = none then
    if c.overLimit c.unitWeight then goes (s.frozen k false)
    else does ((s.restart k).advance k c.unitWeight) (.nopwCountExpiry k)
  else if c.req.any (·.left == 0) then s.yielded k
  else if st.headerWaits then goes (s.frozen k true)
  else s.fetchIssue k

/-- A strand that entered its handler in a frozen cycle: the cycles of the entry are still to come. -/
def Strand.entryHeld (st before : Strand) : Strand :=
  if st.id.hndl && !before.id.hndl then st.withFlow fun f => { f with bubbles := f.bubbles + 1 } else st

/-- Faults and traps that are due stop issue here (log 29, DEDUCED).  The current limit may freeze their cycle (21 R411), in which a
late fault stops the strand all the same (18 R355). -/
def State.faultNow (s : State) (k : Nat) : Move :=
  let c := s.core k
  let st := c.st
  let absent := st.tr.absDue && st.fl.bubbles == 0 && !st.tr.absent.isEmpty
  let limited := c.overLimit c.unitWeight
  if !c.now.late.isEmpty then
    let t := (s.modNow k fun n => { n with late := [] }).takeLate k c.now.late false
    if limited then goes ((t.modStrand k fun x => x.entryHeld st).frozen k false) else goes (t.advance k c.unitWeight)
  else if (st.fl.swtrap.isSome || absent) && limited then goes (s.frozen k false)
  else
    match st.fl.swtrap with
    | some (code, a) => goes ((s.softwareTrap k code a).advance k c.unitWeight)
    | none =>
      if absent then goes ((s.deliverAbsent k).advance k c.unitWeight)
      else
        match st.fl.ending with
        | some cont => if st.fl.resume.isSome || st.fl.bubbles != 0 then s.ordinary k else s.ending k cont
        | none => s.ordinary k

/-- What a running core does with its cycle, exposed results and overflows apart, in the order of log 1 (DESIGN CHOICE). -/
def State.attempt (s : State) (k : Nat) : Move :=
  let c := s.core k
  let st := c.st
  if c.mode ≠ .running then goes (s.stage k 11)
  else
    match st.fl.drain with
    | some (n, _, m, sig) =>
      if s.drained st.owner n m then
        goes (s.modStrand k fun st => (st.withFlow fun f => { f with drain := none }).addSignal sig)
      else if !c.now.late.isEmpty then s.faultNow k
      else goes (s.frozen k false)
    | none => s.faultNow k

/-- What the bundle that has opened consumes of semaphore n. -/
def State.bundleUse (s : State) (k n : Nat) : Nat :=
  match (s.strand k).fl.bundle with
  | some (a, _, slots) => ((s.decodedSlots k a slots).map fun d => (s.strand k).semUse n d.2).sum
  | none => 0

/-- The same with overflows: increments of this cycle that overflow a semaphore, what its bundle consumes taken off, stop the
bundle (11 R271, 18 R355). -/
def State.issueAt (s : State) (k : Nat) : Move :=
  if s.overflowing k (fun _ => 0) = [] then s.attempt k
  else
    let q := s.attempt k
    let issues := (q.1.core k).now.issued && q.1.overflowing k (q.1.bundleUse k) == []
    if issues || q.1.turn == .core k 7 then q else (s.overflow k).faultNow k

/-- What a running core does with its cycle: exposed results that are due land where the cycle, judged with them
landed, is none of the freezes that hold the pipes (09 R212), and before any stop (18 R355). -/
def State.issue (s : State) (k : Nat) : Move :=
  let c := s.core k
  let st := c.st
  if c.mode ≠ .running ∨ s.exposedDue k = [] then s.issueAt k
  else if !c.now.late.isEmpty || st.fl.swtrap.isSome || (st.fl.ending.isSome && st.fl.bundle.isNone) then
    firstOr s (s.exposedDue k) (.core k 7)
  else
    let r := (((s.settled k).modNow k fun n => { n with late := [] }).issueAt k).1.core k
    if r.now.advanced || r.mode != .running then firstOr s (s.exposedDue k) (.core k 7)
    else
      let q := s.issueAt k
      if (q.1.core k).now.advanced then goes (s.frozen k r.now.waits) else q

/-- After a slot: it leaves the open bundle; a trap or ERET has closed the bundle. -/
def State.afterSlot (s : State) (k : Nat) : State :=
  if (s.core k).mode ≠ .running then s.stage k 11
  else
    match (s.strand k).fl.bundle with
    | none => (s.settleResume k).stage k 11
    | some (a, n, _ :: r) =>
      (s.modStrand k fun st => st.withFlow fun f => { f with bundle := some (a, n, r) }).stage k (if r = [] then 10 else 8)
    | some (_, _, []) => s.stage k 10

/-- The end of a bundle. -/
def State.endBundle (s : State) (k : Nat) : State :=
  let s := s.applyDeferred k
  (match (s.strand k).fl.bundle with
    | some (a, n, _) => s.modStrand k fun st => st.leave a n 2
    | none => s).stage k 11

/-! ### The end of a core's cycle -/

/-- Times of a strand after a core cycle.  `adv`: the core advanced; `land`: exposed results moved nearer;
`issued`: a bundle issued. -/
def Strand.after (st : Strand) (adv land issued : Bool) : Strand :=
  let near (x : Exposed) : Exposed := { x with due := x.due - 1 }
  let pend := st.pend.map fun p => { p with due := p.due - 1 }
  let longs := st.longs.map fun o =>
    { o with age := if (land || o.stopping) && !o.stopped then o.age + 1 else o.age
             left := if land && !o.stopping && !o.stopped then o.left - 1 else o.left }
  let ended := (longs.filter (·.left == 0)).flatMap fun o => o.results (st.id.cls != 0)
  { st with
    pend := pend
    exposed := ended.foldl (fun l x => insertEntry x l) (if land then st.exposed.map near else st.exposed)
    counts := if land then (st.counts.map (· - 1)).filter (· != 0) else st.counts
    longs := longs.filter (·.left != 0)
    vec := if longs.any (·.left == 0) then { st.vec with vpi := 0 } else st.vec
    mx := st.mx.tick
    tr := { st.tr with released := if land then st.tr.released.map near else st.tr.released }
    node := { st.node with owed := issued && st.node.throttled }
    fl := { st.fl with
      busy := if adv then st.fl.busy else st.fl.busy - 1
      acquire := st.acquiring } }

/-- Counters of a strand for a cycle that it held its core (06 R150, 18 R378). -/
def Strand.counted (st : Strand) (n : Now) : Strand :=
  { st with
    id := if n.advanced then { st.id with cyc := st.id.cyc + 1 }
      else { st.id with frz := st.id.frz + 1, waitc := if n.waits then st.id.waitc + 1 else st.id.waitc }
    tr := { st.tr with wdCount := st.tr.wdCount + 1 } }

/-- The window of weights after a cycle of weight w, and what droop and ballast count. -/
def Core.weigh (c : Core) (w : Nat) (adv : Bool) : Core :=
  let h := if 2 ≤ c.halve then c.halve - 1 else c.halve
  { c with
    lastSum := c.windowSum
    weights := if w = 0 ∧ c.weights.all (· == 0) then [] else w :: c.weights.take 30
    ballast := if 2 ≤ c.ballast then c.ballast - 1 else c.ballast
    halve := h
    halvePhase := if h = 0 ∨ (c.halve = 65 ∧ h = 64) then false else adv }

/-- The end of core k's cycle. -/
def State.endCycle (s : State) (k : Nat) : State :=
  let c := s.core k
  let engine := if c.cmds.any fun x => x.done < x.runs then 4 else 0
  let s := if 2 ≤ c.ballast then s.chargeBallast k (c.ballast - 1) else s
  let s := match c.mode, c.seq with
    | .running, _ =>
      let n := c.now
      let w := if n.advanced then n.weight else 0
      let amt := 102400 + 25600 * w
      let land := n.advanced || (c.st.fl.ending.isSome && c.st.fl.bundle.isNone)
      let s := ((s.matrixReads k true).flushSpad k true).mergeNow k
      let s := s.modStrand k fun st => { (st.after n.advanced land n.issued).counted n with energy := st.energy + amt }
      (s.chargeStrand c.st amt).modCore k fun c => c.weigh w n.advanced
    | .saving, none =>
      let s := ((s.matrixReads k true).flushSpad k true).mergeNow k
      let amt := 102400 + 25600 * c.unitWeight
      let s := s.modStrand k fun st => { (st.after false false false) with energy := st.energy + amt }
      (s.chargeStrand c.st amt).modCore k fun d => d.weigh c.unitWeight false
    | _, some _ =>
      let s := (s.chargeStrand c.st 281600).modPeri c.st.id.ctx fun p => { p with srcyc := p.srcyc + 1 }
      s.modCore k fun c => c.weigh engine false
    | _, _ => s.modCore k fun c => c.weigh engine false
  s.nextCore (k + 1)

/-- Ends of droop and ballast.  A late fault that the bundle of this cycle raised stops the next one. -/
def State.closing (s : State) (k : Nat) : Move :=
  let c := s.core k
  if c.halve = 1 then does s (.droopHalvingEnd k)
  else if c.ballast = 1 then does s (.ballastEnd k)
  else goes (s.stage k 12)

/-- A running core sends an offer in the slot that begins now; a stretched clock does not keep it back. -/
def State.offers (s : State) (k : Nat) : Bool := (s.offer k).isSome && (s.core k).mode == .running

/-- One move of a core's cycle. -/
def State.coreTurn (s : State) (k n : Nat) : Move :=
  match n with
  | 0 => if (s.core k).ballastDue then does s (.ballastStart k) else s.begin k
  | 1 => if s.signalDue k then does (s.stage k 2) (.semaphoreSignal k) else goes (s.stage k 2)
  | 2 => firstOr s (s.landings k) (.core k 3)
  | 3 => goes ((s.matrixReads k false).stage k 4)
  | 4 => firstOr s (s.matrixEvents k) (.core k 5)
  | 5 => if s.offers k then does (s.stage k 6) (.circuitSlot k) else goes (s.stage k 6)
  | 6 => s.sequence k
  | 7 => s.issue k
  | 8 => s.runSlot k
  | 9 => goes (s.afterSlot k)
  | 10 => goes (s.endBundle k)
  | 11 => s.closing k
  | 12 => goes (s.endCycle k)
  | 14 => if s.offers k then does (s.stage k 15) (.circuitSlot k) else goes (s.stage k 15)
  | 15 => if (s.core k).stretch = 1 then does (s.stage k 13) (.droopStretchEnd k) else goes (s.nextCore (k + 1))
  | _ =>
    -- the last reference cycle of a stretch: the halved cycles follow
    goes ((s.modCore k fun c => { c with halve := if c.halve = 65 then 64 else c.halve }).nextCore (k + 1))

/-! ### Barriers, and steps of variable latency (log 2, DESIGN CHOICE) -/

/-- Barriers with an update due, and those that a carried arrival or a resume has filled: their completion is judged in
this cycle (11 R277). -/
def State.dueBarriers (s : State) : List Nat :=
  ((s.updates.map BarUpdate.target).dedup.filter fun t => !(s.dueUpdates t s.updates []).isEmpty)
    ++ (s.cells.filterMap fun p =>
      if p.2.own.isSome && !p.2.parked && decide (p.2.at_ ≤ p.2.a ∧ p.2.bt ≤ p.2.b) then some p.1 else none)
    ++ s.gangs.filterMap fun g => if g.size ≤ g.a then some (256 + g.gang) else none

/-- The next barrier from number n on: each acts once in a cycle. -/
def State.nextBarrier (s : State) (n : Nat) : Option Nat :=
  ((s.dueBarriers.filter (n ≤ ·)).min?)

/-- The extents of a plain hub copy are all present. -/
def State.plainPresent (s : State) (x : HubCopy) : Bool :=
  !s.rangeAbsent x.src.1 x.src.2 x.len && !s.rangeAbsent x.dst.1 x.dst.2 x.len && !s.copyHolds (s.extents x.dst.1 x.dst.2 x.len)

/-- The value of a remote access may reach its register: older writes of that register have landed (06 R143). -/
def State.returnable (s : State) (r : Remote) : Bool :=
  r.value.isSome && r.dst.isSome && ((s.strandOf r.owner).map fun st => st.pend.all fun p => some p.dst != r.dst).getD true

/-- Steps of a remote access that are possible now. -/
def State.remoteEvents (s : State) (r : Remote) : List Event :=
  when_ (s.sendable r) (.remoteAccessSend r.id) ++ when_ (s.walkable r) (.translationWalk r.id)
    ++ when_ (s.performable r) (.remoteAccessPerform r.id) ++ when_ (s.returnable r) (.remoteReturn r.id)
    ++ when_ (r.stage == .stored) (.remoteStoreAccept r.id)

/-- Steps of core k's copy engine that are possible now (log 70, DESIGN CHOICE). -/
def State.engineEvents (s : State) (k : Nat) : List Event :=
  when_ (!(s.startable k).isEmpty) (.copyCommandStart (.core k)) ++ when_ (!(s.runnable k).isEmpty) (.copyRun (.core k))
    ++ when_ (!(s.completable k).isEmpty) (.copyCommandComplete (.core k))

/-- Steps of hub engine h that are possible now. -/
def State.hubEvents (s : State) (h : Nat) (x : HubCopy) : List Event :=
  match x.cmd with
  | some c =>
    if !c.started then [.copyCommandStart (.hub h)]
    else if c.done < c.runs then
      when_ (x.moved + c.partLen ≤ 256 && s.unheld (.hub h) c x.clamp) (.copyRun (.hub h))
    else when_ (!s.hubWriting h) (.hubCopyComplete h)
  | none =>
    if x.done < x.len then when_ (x.moved + x.step ≤ 256 && (!x.held || s.plainPresent x) && s.linksReady h x
      && !s.freshVia (s.hubPort x.src.1 (x.src.2 + x.done)) x.src.1 (x.src.2 + x.done) x.step) (.copyRun (.hub h))
    else match x.kind with
      | .fill _ => when_ (!s.hubWriting h) (.modFillComplete h)
      | _ => when_ (!s.hubWriting h) (.hubCopyComplete h)

/-- Every step of variable latency that is possible now. -/
def State.variable_ (s : State) : List Event :=
  s.remotes.flatMap s.remoteEvents ++ (s.cores.map (·.1)).flatMap s.engineEvents
    ++ s.hubCopies.flatMap (fun p => s.hubEvents p.1 p.2)
    ++ (match s.ot with
      | some r => [if r.op = 1 then .otswapDone else .otsyncDone]
      | none => [])
    ++ when_ (!s.owed.isEmpty && s.hub.mnqtail + 1 != s.hub.mnqhead) .owedNoticePost
    ++ s.ctxs.flatMap fun p => when_ (s.copyable p.1) (.ckptExtentCopied p.1)

/-- Count a cycle in which core k's engine was refused, bank by bank (08 R188).  A run that reads through the entry port has
its scratchpad access pending from a cycle of variable latency, which the oracle gives (log 2, DESIGN CHOICE). -/
def State.countRefusal (s : State) (k : Nat) : State :=
  let near := s.refusedBanks k true
  let far := s.refusedBanks k false
  let old := (s.core k).starve
  let fresh := (bitsOf far).filter fun b => !near.getLsbD b && SMap.get 0 old b == 0
  let (i, s) := if fresh = [] then (1, s) else s.draw
  s.modCore k fun c =>
    { c with starve := (bitsOf (near ||| far)).foldl (fun m b =>
        if i = 0 ∧ fresh.contains b then m else SMap.set m b (SMap.get 0 old b + 1)) [] }

/-- Cycles in which the engines' accesses were refused. -/
def State.countStarved (s : State) : State :=
  (s.cores.filter fun p => !p.2.cmds.isEmpty || p.2.starve != []).foldl (fun s p => s.countRefusal p.1) s

def State.varTurn (s : State) (n : Nat) : Move :=
  match n with
  | 0 => goes { s.divertSigs.flushPane with turn := .var 3 }
  | 1 => firstOr s ((s.remotes.filter s.acceptable).map fun r => .loupeAccept r.id) (.var 2)
  | 2 =>
    match s.variable_ with
    | [] => goes (s.countStarved.at_ (.prism 0))
    | e :: r =>
      let (i, s) := s.draw
      match (e :: r)[i]? with
      | some e => does s e
      | none => goes (s.countStarved.at_ (.prism 0))
  | n =>
    match s.nextBarrier (n - 3) with
    | some b => does (s.at_ (.var (b + 4))) (.cellUpdateCycle b)
    | none => goes (s.at_ (.var 1))

/-! ### The Prism -/

/-- Faults, votes and squashed entries that act now. -/
def State.faultEvents (s : State) : List Event :=
  (s.window.flatMap fun e =>
      when_ (e.checks != []) (.checkFaultReexecution e.tid)
        ++ when_ (s.comparable e) (.voteCompare e.tid) ++ when_ (s.decidable e) (.thirdRunCompare e.tid)
        ++ when_ (s.canWriteThrough e.tid) (.headOnlyMode e.tid))
    ++ (s.ctxs.flatMap fun p => when_ (s.deliverable p.1).isSome (.faultDelivery p.1))
    ++ s.window.flatMap fun e => when_ (e.state == .squash && !s.outstanding e.tid) (.squashRemove e.tid)

/-- Entries that become ready or older in readiness. -/
def State.readyEvents (s : State) : List Event :=
  s.window.flatMap fun e =>
    when_ (s.canBeReady e) (.entryReady e.tid)
      ++ when_ (e.state == .ready && decide (e.prio < 7) && decide (e.readySince + 2 ^ 20 ≤ s.now)) (.agingPromotion e.tid)
      ++ when_ (e.state == .ready && s.handedOver e && decide (e.waitFrom + 2 ^ 16 ≤ s.now)) (.persistentHandoffTimeout e.tid)

/-- A candidate can be placed now. -/
def State.placeable (s : State) (c : Cand) : Bool :=
  match c with
  | .pool x n => (s.tryPool x n).isSome
  | .record o => (s.tryRecord o).isSome
  | c => (s.tryEntry c).isSome

/-- The dispatch of the cycle: the first candidate in order that can be placed; the first of all, when none can be, may
pre-empt (R121, 18 R364). -/
def State.dispatchTurn (s : State) : Move :=
  let cs := s.served
  match cs.find? fun c => s.placeable c.2 with
  | some (x, c) =>
    match c with
    | .pool _ _ => does (s.at_ (.prism 36)) .poolEntryDispatch
    | .record o => goes ((s.servedBy ((s.tryRecord o).getD s) x).at_ (.prism 36))
    | _ => does (s.at_ (.prism 36)) .dispatch
  | none =>
    match cs with
    | (_, c) :: _ => goes ((s.preemptFor (s.topPrio.getD 0) c).at_ (.prism 36))
    | [] => goes (s.at_ (.prism 36))

/-- Contexts that are over quota and hold a core that can be left. -/
def State.quotaEvents (s : State) : List Event :=
  s.ctxs.flatMap fun p =>
    when_ (p.2.energy.overq && s.cores.any fun c =>
      c.2.st.id.ctx == p.1 && c.2.holds && c.2.req.isNone && c.2.mode != .saving) (.overQuota p.1)

/-- A second of TIME has passed (15 R342). -/
def State.secondPassed (s : State) : Bool := s.now * 20 / 21 / 10 ^ 9 != (s.now - 1) * 20 / 21 / 10 ^ 9

/-- A parked context's word is read again (R133). -/
def State.pollDue (s : State) (p : ParkState) : Bool :=
  decide (p.last < s.now) && (p.hit || decide (p.last + 4096 ≤ s.now)
    || s.lines.any fun l => l.1 == (s.homeOf p.obj p.off).1 && l.2 / 64 == (s.homeOf p.obj p.off).2 / 64)

/-- What is left of the Prism's and the hub's own work. -/
def State.hubTurn (s : State) : List Event :=
  when_ (!s.irq.isEmpty && !s.ringFull) .interruptRecordPost
    ++ when_ (s.hoist.any fun f => decide (f + 16 ≤ s.now)) .hoistSnapshot
    ++ s.ctxs.flatMap fun p =>
      when_ (p.2.run == 4 && !s.ctxOutstanding p.1 && s.wuse p.1 == 0) (.killComplete p.1)
        ++ when_ (p.2.park.any s.pollDue) (.parkPoll p.1)

/-- The context at a place of this cycle's order of decode (log 69, DEDUCED). -/
def State.decoder (s : State) (j : Nat) : Nat := (j + s.now) % 16

/-- A context may decode a word now. -/
def Context.decodes (c : Context) : Bool := c.run == 1 && c.fault.isNone && (c.pending.all fun p => p.tid.isNone)

/-- Count a stall cycle of a context. -/
def State.stalled (s : State) (x : Nat) (k : Stall) : State :=
  s.modCtx x fun c =>
    match k with
    | .window => { c with stats := { c.stats with wfstall := c.stats.wfstall + 1 } }
    | .rename => { c with stats := { c.stats with rnstall := c.stats.rnstall + 1 } }
    | _ => c

/-- Decode at place j of the order, n words decoded so far: at most one word a context and two in all (R119).  A context that
decode does not reach counts no stall cycle (log 107, DESIGN CHOICE).  A word that cannot be read gives DATA (log 71, DEDUCED).  A word out of place that its encoding refuses too takes the
encoding's reason (log 105, DESIGN CHOICE). -/
def State.decodeTurn (s : State) (j n : Nat) : Move :=
  let x := s.decoder j
  let c := s.ctx x
  let next (n : Nat) : Turn := if 15 ≤ j then .prism 104 else .prism (40 + 4 * (j + 1) + n)
  if 2 ≤ n then goes (s.at_ (.prism 104))
  else if !c.decodes || s.halted x || s.now < c.decodeFrom then goes (s.at_ (next n))
  else
    let off := c.fetchAt
    let s := { s with curCtx := x }
    if s.streamSize x < off + 16 then does (s.at_ (next (n + 1))) .streamObjectEnd
    else
      match s.place c.sobj off with
      | .absent _ _ => goes (s.at_ (next n))
      | _ =>
        let ext := off / 2 ^ pageLog (((s.obj c.sobj).map (·.pcode)).getD 0)
        let lost (s : State) : Move :=
          goes ((s.decodeFault x .data ((c.pending.map (·.seen + 1)).getD 0) 0 0).at_ (next (n + 1)))
        if s.badEntries.contains (c.sobj, none) || s.badEntries.contains (c.sobj, some ext) then
          lost (s.logEntry (s.hubPort c.sobj off) c.sobj ext)
        else if s.poison != [] && (s.readVia (s.hubPort c.sobj off) c.sobj off 16).2 then lost s
        else
          match decodeStream (s.objLE c.sobj off 16) with
          | .bad r => does ((s.countFetch c.sobj off).at_ (next (n + 1))) (.unlistedOp r)
          | .ok i =>
            match s.stall x i with
            | .go => ((s.countFetch c.sobj off).at_ (next (n + 1)), some (.instr i))
            | k => goes ((s.stalled x k).at_ (next n))

/-- One segment is renamed, of the first S-op in the order of decode that can: entries stand in the window as they were decoded
(R118, R119). -/
def State.renameTurn (s : State) : Option State :=
  (s.window.filter s.renaming).findSome? fun e => s.renameOne e.ctx

/-- Renaming of the cycle is over: S-ops that have no segment left are decoded, others stall. -/
def State.renamed (s : State) : State :=
  (List.range 16).foldl (fun s x =>
    match (s.ctx x).pending with
    | some p =>
      if p.tid.isNone then s
      else if p.todo = [] then s.finishWork x
      else if (s.renameOne x).isNone then s.stalled x .rename
      else s
    | none => s) s

def State.prismTurn (s : State) (n : Nat) : Move :=
  if n < 32 then
    if (s.retirable (n / 2)).isSome then does (s.at_ (.prism (n + 1))) (.retire (n / 2))
    else goes (s.at_ (.prism (2 * (n / 2) + 2)))
  else if n = 32 then firstOr s s.faultEvents (.prism 33)
  else if n = 33 then goes (s.releaseShadows.at_ (.prism 34))
  else if n = 34 then firstOr s s.readyEvents (.prism 35)
  else if n = 35 then s.dispatchTurn
  else if n = 36 then
    match s.releaseFree with
    | some t => goes (t.at_ (.prism 36))
    | none => goes (((s.unthrottle.assignEngines s.hubQueue).postUnplaceable.rerunStranded.leaveRetired.agePool.startFirmware
    |>.stepMoves.remirror.takeNotice.transmit.forgetPast).at_ (.prism 37))
  else if n = 37 then firstOr s s.quotaEvents (.prism 38)
  else if n = 38 then
    if s.secondPassed then does (s.at_ (.prism 39)) .suspicionDecay else goes (s.at_ (.prism 39))
  else if n = 39 then firstOr s s.hubTurn (.prism 40)
  else if n < 104 then s.decodeTurn ((n - 40) / 4) ((n - 40) % 4)
  else if n < 108 then
    match s.renameTurn with
    | some t => goes (t.at_ (.prism (n + 1)))
    | none => goes (s.at_ (.prism 108))
  else goes (s.renamed.at_ .tick)

/-! ### The end of the reference cycle -/

/-- Times of a core that run in reference cycles. -/
def Core.tick (c : Core) : Core :=
  { c with
    mode := match c.mode with
      | .starting n => .starting (n - 1)
      | m => m
    engineBanks := 0
    stretch := if 2 ≤ c.stretch then c.stretch - 1 else c.stretch
    req := c.req.map fun r => { r with left := r.left - 1 }
    seq := c.seq.map fun q => { q with left := q.left - 1 } }

def State.endOfCycle (s : State) : State :=
  let cs := s.cores.map fun p => (p.1, p.2.tick)
  let xs := s.ctxs.map fun p =>
    (p.1, if p.2.run = 2 then { p.2 with stats := { p.2.stats with parkc := p.2.stats.parkc + 1 } } else p.2)
  { s with
    gcyc := s.gcyc + 1, turn := .outside, cores := cs, ctxs := xs, lines := [], cycleW := []
    hubCopies := s.hubCopies.map fun p => (p.1, { p.2 with moved := 0 })
    hub := { s.hub with
      drpthr := s.hub.drpNext.foldl (fun m p => SMap.set m p.1 p.2) s.hub.drpthr, drpNext := []
      funcmode := s.hub.funcNext.getD s.hub.funcmode, funcNext := none
      overhead := s.hub.overhead + ((s.metered.filter (·.1 == s.now)).map (·.2)).sum }
    updates := s.updates.map fun u => { u with left := u.left - 1 }
    events := s.events.map fun e => { e with left := e.left - 1 } }

/-- The next move of the machine. -/
def State.next (s : State) : Move :=
  match s.turn with
  | .outside => s.outside
  | .core k n => s.coreTurn k n
  | .var n => s.varTurn n
  | .prism n => s.prismTurn n
  | .tick => goes s.endOfCycle

end Sys2Proof.Machine
end

