-- ==== Sys2Proof/Machine/Step.lean ====
section
/-!
DEFINITION. One step: the next move of the machine's order of work, which runs an instruction that was fetched and decoded,
an instruction from outside, or an own step.
-/

namespace Sys2Proof.Machine

/-- One step of the machine (log 1, DESIGN CHOICE). -/
def step (s : State) : Host.Outcome State Fault Refusal :=
  match s.next with
  | (t, none) => .next t
  | (t, some (.instr i)) => exec i t
  | (t, some (.event e)) => e.run t

/-- The header byte of a bundle whose one slot is as wide as the table's word. -/
def soleHeader (nbits : Nat) : Nat :=
  if nbits = 32 then 0x01 else if nbits = 48 then 0x04 else if nbits = 64 then 0x10 else 0x80

/-- Object 1: one present 64 KiB extent at the start of HBM stack 0, holding a program (log 4, DESIGN CHOICE). -/
def State.withProgram (s : State) (off v : Nat) : State :=
  { s with
    objs := SMap.set s.objs 1 ⟨false, 0, 0, 0, kObject, 0x10000, 0, [⟨1, 0, 0, 0⟩]⟩
    mem := s.mem.writeAll (atAddr (hbmKey 0 off) (leBytes 64 v)) }

/-- s with an instruction where the next step fetches one: the open bundle of a strand on core 0, at byte 64 of object 1, or
for an S-op byte 0 of object 1, the stream of context 0, whose turn it is to decode (log 4, DESIGN CHOICE). -/
def State.withFetchWord (s : State) (nbits w : Nat) : State :=
  if nbits = 128 then
    let t := (s.withProgram 0 w).modCtx 0 fun c =>
      { c with created := true, sobj := 1, run := 1, pending := none, fault := none, fe := { c.fe with spc := 0, wquota := 256 } }
    { t with turn := .prism (40 + 4 * ((16 - s.now % 16) % 16)) }
  else
    let h := soleHeader nbits
    let t := (s.withProgram 64 (h + 256 * w)).modCore 0 fun c =>
      { c with
        mode := .running
        st := { c.st with
          sc := { c.st.sc with pc := 64 }
          kn := { c.st.kn with code := mkCap 1 5 kObject 0 0x10000 }
          fl := { c.st.fl with bundle := some (64, frameLen h, slotsOf h), transfer := none } } }
    { t with turn := .core 0 8 }

end Sys2Proof.Machine
end

