-- ==== Sys2Proof/Machine/Aperture.lean ====
section
/-!
DEFINITION. What the host reads through aperture 0 of the host link (21 R409, R424): the status blocks, the Periscope pages, and
the registers and rings of the hub.  Bits and offsets that are not listed read 0.  The places of the OT command registers, the
order of the snapshot registers, and which of two registers at one offset is read: log 24, DESIGN CHOICE.
-/

namespace Sys2Proof.Machine

/-- Word i of a list; 0 beyond it. -/
def wordAt (l : List W64) (i : Nat) : W64 := (l[i]?).getD 0

/-- Word i of the Periscope page of a context (18 R376). -/
def PeriPage.word (p : PeriPage) (i : Nat) : W64 :=
  wordAt [p.saves, p.restores, p.srcyc, p.divbytes, p.fwdbytes, p.divsem, p.divret, p.divinb, p.parkupd, p.absflt, p.abslost,
    p.sigfolds] i

/-- The hub's protection registers, from aperture-0 offset 0x2_0000 on (15 R344). -/
def State.protectRead (s : State) (off : Nat) : W64 :=
  let h := s.hub
  if off = 0 then h.susplim.setWidth 64
  else if off = 8 then h.ccret.setWidth 64
  else if off < 0x50 then BitVec.ofNat 64 (SMap.get 0 h.susp ((off - 0x10) / 8))
  else wordAt [BitVec.ofNat 64 s.occupied, h.lphead, h.rxcnt, h.votes, h.third, h.undec] ((off - 0x50) / 8)

/-- The registers of R409, from aperture-0 offset 0x3_0000 on; write-only fields read 0. -/
def State.systemRead (s : State) (off : Nat) : W64 :=
  let h := s.hub
  let n (v : Nat) : W64 := BitVec.ofNat 64 v
  let b (v : Bool) (k : Nat) : Nat := if v then 2 ^ k else 0
  if off < 0x90 then
    match off with
    | 0x00 => h.funcmode.setWidth 64
    | 0x08 => h.wdctl.setWidth 64
    | _ => n (b (s.ctx ((off - 0x10) / 8)).hoistok 1)
  else if off < 0xB0 then (SMap.get 7 h.pwr ((off - 0x90) / 8)).setWidth 64
  else if off < 0xD0 then SMap.get 0 h.drpcnt ((off - 0xB0) / 8)
  else if off < 0x100 then
    match off with
    | 0xD0 => n (h.hfmask.toNat * 2 ^ 8 + b h.hpinen 2 + b h.harm 0)
    | 0xD8 => h.hstat
    | 0xE0 => h.elhead.setWidth 64
    | 0xE8 => h.eltail.setWidth 64
    | 0xF0 => h.ellost
    | _ => h.tripcause
  else if off < 0x300 then (s.ctx ((off - 0x100) / 32)).energy.word (off / 8 % 4)
  else if off = 0x300 then n (h.overhead / energyUnit)
  else if off = 0x308 then h.intlost
  else if 0x400 ≤ off ∧ off < 0x500 then
    let c := s.ctx ((off - 0x400) / 16)
    if off / 8 % 2 = 0 then n (c.ckrec.toNat + c.ckdone.toNat * 2 ^ 32) else c.ckbytes
  else if off = 0xA00 then n (h.mbOp.toNat + h.mbStatus.toNat * 2 ^ 8)
  else if 0xA00 < off ∧ off < 0xA40 then SMap.get 0 h.mbArg ((off - 0xA08) / 8)
  else if off = 0xA40 then h.mbResult
  else if off = 0xF00 then h.irhead.setWidth 64
  else if off = 0xF08 then h.irtail.setWidth 64
  else 0

/-- The OT command registers, which the control processor alone reads, and those of the notices (19 R400, R403); GO reads 0. -/
def HubRegs.otRead (h : HubRegs) (who : Writer) (off : Nat) : W64 :=
  if who ≠ .firmware ∧ off < 0x40 then 0
  else match off with
  | 0x00 => h.otObjExt
  | 0x08 => h.otNew
  | 0x10 => h.otMask
  | 0x18 => h.otOld
  | 0x20 => BitVec.ofNat 64 (h.otCount.toNat * 2 ^ 32 + h.otStatus.toNat * 2 ^ 5 + (if h.otBusy then 2 ^ 4 else 0) + h.otOp.toNat * 2)
  | 0x40 => h.mnqhead.setWidth 64
  | 0x48 => h.mnqtail.setWidth 64
  | 0x50 => h.mnqlost
  | _ => 0

/-- The snapshot registers (21 R423): the cores, the contexts, LPOCC, then the cells. -/
def Snapshot.words (x : Snapshot) : List W64 :=
  ((List.range Config.cores).flatMap fun k => (List.range 6).map (wordAt (SMap.get [] x.cores k)))
    ++ ((List.range 16).flatMap fun c => (List.range 3).map (wordAt (SMap.get [] x.ctxs c)))
    ++ [x.lpocc]
    ++ (List.range 256).flatMap fun i => (SMap.get Cell.free x.cells i).snapWords

/-- The 64-bit word that a read at an aperture-0 offset returns to the host, or to the control processor. -/
def State.hubRead (s : State) (who : Writer) (off : Nat) : W64 :=
  let off := off / 8 * 8
  if off < 0x10000 then s.statusWord (off / 0x1000) (off % 0x1000 / 8)
  else if off < 0x11000 then (s.ctx ((off - 0x10000) / 0x100)).peri.word (off % 0x100 / 8)
  else if 0x20000 ≤ off ∧ off < 0x20080 then s.protectRead (off - 0x20000)
  else if 0x30000 ≤ off ∧ off < 0x31000 then s.systemRead (off - 0x30000)
  else if 0x40000 ≤ off ∧ off < 0x44000 then
    let w := SMap.get (0, 0) s.hub.mnq ((off - 0x40000) / 16)
    if off / 8 % 2 = 0 then w.1 else w.2
  else if 0x60000 ≤ off ∧ off < 0x60000 + 8 * s.snap.words.length then wordAt s.snap.words ((off - 0x60000) / 8)
  else if 0x50000 ≤ off ∧ off < 0x90000 then wordAt (SMap.get [] s.hub.elog ((off - 0x50000) / 64)) (off / 8 % 8)
  else if 0xB0000 ≤ off ∧ off < 0xB0060 then s.hub.otRead who (off - 0xB0000)
  else 0

end Sys2Proof.Machine
end

