-- ==== Sys2Proof/Safety.lean ====
section
/-!
DEFINITION. What counts as a safe state, in the terms the claims use.
-/

namespace Sys2Proof

/-- An instruction of a bundle slot: it acts on the strand of a core. -/
def Instr.isSlot (i : Instr) : Bool :=
  match encode i with
  | some (.sop, _) => false
  | some _ => true
  | none => false

/-- A stream instruction: it acts on a context that decodes. -/
def Instr.isStream (i : Instr) : Bool :=
  match encode i with
  | some (.sop, _) => true
  | _ => false

/-- What stands for a word that decodes to no instruction: it acts on the strand or the context that found it. -/
def Instr.isRefused (i : Instr) : Bool :=
  match i with
  | .illegalOpcode _ _ => true
  | .fetchFault _ _ => true
  | .unlistedOp _ => true
  | .streamObjectEnd => true
  | _ => false

/-- Engine instructions that act on memory, on register files or on the strand's mode in their issue cycle: the atomics, CPFILL,
CPPUB, ZINJECT, CTXSAVE, CTXLOAD, ERET, HALT and WDOG. -/
def Instr.actsAtOnce (i : Instr) : Bool :=
  match i with
  | .amo _ _ => true
  | .amor _ _ => true
  | .amof _ _ => true
  | .cpfill _ _ _ _ _ _ => true
  | .cppub _ _ _ => true
  | .zinject _ _ => true
  | .ctxsave _ _ _ _ _ => true
  | .ctxload _ _ _ _ _ => true
  | .eret _ _ => true
  | .halt _ _ => true
  | .wdog _ _ _ => true
  | _ => false

end Sys2Proof

namespace Sys2Proof.Machine

/-- Memory has its one form: addresses rise strictly, and no zero byte is listed. -/
abbrev State.Canonical (s : State) : Prop := Memory.wf s.mem = true

/-- Nothing given from outside is a slot's instruction, an S-op or a word refused by a decoder, and a slot runs only on a
running core: what the machine needs to act for ever. -/
def State.Live (s : State) : Prop :=
  (∀ p ∈ s.env, p.2.isSlot = false ∧ p.2.isStream = false ∧ p.2.isRefused = false) ∧
    ∀ k, s.turn = .core k 8 → (s.core k).mode = .running

/-- The next step answers a state. -/
def State.Goes (s : State) : Prop := ∃ t, step s = .next t

/-- The bits of a written value that a special register keeps whose whole value MTSR gives, its reserved bits cut (06 R145, R146, 04
R93, 09 R217, R219, R220, 10 R262, R264-R266, 11 R281, 15 R336, 18 R352); 0 for every other number. -/
def keptBits (n : Nat) : W64 :=
  match n with
  | 0x021 => 0x3F
  | 0x022 => 0x1FF
  | 0x030 => 0xF
  | 0x032 => chklocBits
  | 0x033 => 0xFFFFFF
  | 0x042 => 0x3F
  | 0x043 => 0xF3F
  | 0x050 => 0xFF07
  | 0x070 => 0xE0FFFF
  | 0x073 => 0xFFFFFFFFFFFF000F
  | 0x074 => 0xFFFFFFFFFFFFFFC7
  | 0x090 => 0xF
  | _ =>
    if n = 0x071 ∨ 0x060 ≤ n ∧ n ≤ 0x063 then BitVec.allOnes 64
    else if 0x100 ≤ n ∧ n < 0x140 then 0xFFF1F
    else 0

/-- Core k holds a strand and it is the core's turn to issue. -/
def State.Issues (s : State) (k : Nat) : Prop := (∃ n, s.turn = .core k n) ∧ (s.core k).mode = .running

/-- Context x decodes, and no extension words are outstanding. -/
abbrev State.Decodes (s : State) (x : Nat) : Prop := s.curCtx = x ∧ (s.ctx x).run = 1 ∧ (s.ctx x).pending = none

/-- i answers the state t. -/
def Answers (i : Instr) (s t : State) : Prop := exec i s = .next t

/-- i completes on core k: of the whole machine, the strand of core k alone changes, by f. -/
def Acts (i : Instr) (s : State) (k : Nat) (f : Strand → Strand) : Prop := Answers i s (s.modStrand k f)

/-- Every byte of memory reads alike. -/
def State.SameMemory (s t : State) : Prop := ∀ a, t.mem.read a = s.mem.read a

/-- An engine instruction under a true guard: the wait is consumed, f acts, and the signal is made at issue (11 R269, R270). -/
def Commands (i : Instr) (e : ESync) (s : State) (k : Nat) (f : State → State) : Prop :=
  Answers i s ((f (s.modStrand k fun st => st.consumeWait e)).modStrand k fun st => st.signal (engineSignal e))

/-- As `Commands`, for an instruction whose signal is made later. -/
def CommandsLater (i : Instr) (e : ESync) (s : State) (k : Nat) (f : State → State) : Prop :=
  Answers i s (f (s.modStrand k fun st => st.consumeWait e))

/-- Every byte of memory outside the contexts' frame objects reads alike (18 R362). -/
def State.SameButFrames (s t : State) : Prop :=
  ∀ a, (∀ x off, s.frameKey (s.ctx x).frameObj off ≠ some a) → t.mem.read a = s.mem.read a

/-- t's interrupt ring, in host memory, holds the words of a record where s's tail points; no other byte of memory differs
(21 R425). -/
def State.RingTakes (s t : State) (words : List W64) : Prop :=
  let at_ := s.hub.ringKey s.hub.irtail.toNat
  t.hub.irtail = s.hub.irtail + 1 ∧
    (∀ i < 32, t.mem.read (at_ + i) = BitVec.ofNat 8 ((words.getD (i / 8) 0).toNat / 256 ^ (i % 8))) ∧
    ∀ a, (∀ i < 32, a ≠ at_ + i) → t.mem.read a = s.mem.read a

/-- A strand with room for n more counted destinations (18 R354). -/
abbrev Strand.Room (st : Strand) (n : Nat) : Prop := st.pending + n ≤ 32

/-- No upset of core k's vector unit falls in this cycle. -/
abbrev State.Undisturbed (s : State) (k : Nat) : Prop := ∀ u ∈ s.upsets, ¬(u.cycle = s.now ∧ u.core = k)

/-- A vector instruction with one counted destination: of the whole machine, the strand of core k alone changes; its active
lanes get the results r, `lat` cycles from issue. -/
def Lanes (i : Instr) (o : VOp) (s : State) (k lat : Nat) (r : Nat → W32 × Flags) : Prop :=
  Acts i s k fun st => (st.count 1 lat).landLanes o ((s.strand k).active o.g) lat r

end Sys2Proof.Machine
end

