-- ==== Sys2Proof/Certificates/Slice0/Obligations.lean ====
section
/-!
DEFINITION. The statements for the provers.  `Acts i s k f`: i answers s with the strand of core k changed by f and nothing
else changed; `Answers i s t`: i answers t.  `s.Issues k`: core k runs and has the turn; `s.Decodes x`: context x decodes.
-/

open Sys2Proof Sys2Proof.Machine

/-- A step runs what was decoded.  A slot at its turn: `exec` of the instruction its word decodes to, on the state whose turn
has passed to the end of the slot (03 R45, R48).  A stream word at its context's turn: `exec` of the instruction it decodes
to, on the state in which that context decodes, the fetch is counted (19 R398) and the turn has passed on (05 R119),
from the cycle after a fault's delivery on (17 R348), where the word can be fetched (19 R397).  An own step of the machine is `exec` of
its row; and every step is such an `exec`, or a move of the order of work, `s.next`, alone (log 1, DESIGN CHOICE). -/
def Obligations.StepRuns : Prop :=
  (∀ (s : State) (k a n i : Nat) (r : List Nat) (x : Instr), s.turn = .core k 8 →
    (s.strand k).fl.bundle = some (a, n, i :: r) → decodeSlot (slotKind i) (s.slotWord k a i) = .ok x →
    step s = exec x (s.stage k 9)) ∧
  (∀ (s : State) (j n : Nat) (i : Instr), s.turn = .prism (40 + 4 * j + n) → j < 16 → n < 2 →
    let x := s.decoder j
    let c := s.ctx x
    let u : State := { s with curCtx := x }
    c.decodes = true → s.halted x = false → c.decodeFrom ≤ s.now → c.fetchAt + 16 ≤ u.streamSize x →
    (∀ o e, u.place c.sobj c.fetchAt ≠ .absent o e) → (∀ e, (c.sobj, e) ∉ s.badEntries) →
    (u.readVia (u.hubPort c.sobj c.fetchAt) c.sobj c.fetchAt 16).2 = false → decodeStream (u.objLE c.sobj c.fetchAt 16) = .ok i →
    u.stall x i = .go →
    step s = exec i ((u.countFetch c.sobj c.fetchAt).at_ (if 15 ≤ j then .prism 104 else .prism (40 + 4 * (j + 1) + (n + 1))))) ∧
  (∀ (e : Event) (s : State), ∃ i : Instr, i.isSlot = false ∧ i.isStream = false ∧ e.run s = exec i s) ∧
  ∀ s : State, (∃ t, s.next = (t, none) ∧ step s = .next t) ∨ ∃ i t, step s = exec i t

/-- Words written out from the spec's encodings decode to the instructions they stand for: 03 R51, R67 (cmp.lt q2,s4,s5;
sel; lil; loop; addi; mul; add), 07 R172 (lds), 03 R54 and 07 R173 (vld), 07 R174 and 03 R57 (amor), 09 (vadd, vsub), 10 R255
(mstr), 18 R381 (trap, eret.next), 11 R283 (barinit), 15 R338 (zinject). -/
def Obligations.DecodeWords : Prop :=
  decodeSlot .s 0x05112021 = .ok (.cmp 2 2 4 5 ⟨0, false⟩) ∧
  decodeSlot .s 0x05103A24 = .ok (.sel 3 4 5 ⟨2, true⟩) ∧
  decodeSlot .s 0x000C9025 = .ok (.lil 9 3 ⟨0, false⟩) ∧
  decodeSlot .s 0x0028902D = .ok (.loop 9 10 ⟨0, false⟩) ∧
  decodeSlot .s 0x0528A002 = .ok (.addi 10 10 5 ⟨0, false⟩) ∧
  decodeSlot .x 0x0A28B004 = .ok (.mul 11 10 10 ⟨0, false⟩) ∧
  decodeSlot .s 0x002CC001 = .ok (.add 12 11 0 ⟨0, false⟩) ∧
  decodeSlot .l 0x0000C5003001 = .ok (.lds 6 0 5 0 3 false ⟨0, false⟩ ⟨0, 0⟩) ∧
  decodeSlot .l 0x400803106002 = .ok (.vld 12 1 3 0x20 ⟨0, false⟩ ⟨0, 2⟩) ∧
  decodeSlot .v 0x000000010040E101 = .ok (.vadd ⟨7, 1, 2, 0, ⟨1, false⟩, 0, 0, false, false, false, 0⟩) ∧
  decodeSlot .y 0x000000008080E102 = .ok (.vsub ⟨7, 2, 1, 0, ⟨1, false⟩, 0, 0, false, false, false, 0⟩) ∧
  decodeSlot .m 0x00828001000B1003 = .ok (.mstr ⟨0, 1, 11, 0, 2, 0, true, 2, 2⟩) ∧
  decodeSlot .m 0x01020002000A4003 = .ok (.mstr ⟨0, 4, 10, 0, 4, 0, false, 2, 4⟩) ∧
  (let none : ESync := ⟨⟨0, false⟩, false, 0, 0, false, 0, 0⟩
   decodeSlot .e 0x002A10401525400000000021 = .ok (.amor ⟨20, 9, 21, 0, 4, 0, true, 0, 2, 2, 1⟩ none) ∧
   decodeSlot .e 0x000000000123400000000060 = .ok (.trap 0x1234 none) ∧
   decodeSlot .e 0x000000000000100000000061 = .ok (.eret true none) ∧
   decodeSlot .e 0x000000085052800000000032 = .ok (.barinit 0x128 2 10 1 false none) ∧
   decodeSlot .e 0x001004001402000000000053 = .ok (.zinject ⟨0, 8, 0, 5, 0, 1, 2, 0⟩ none))

/-- What reset leaves (06 R149, R416 of 21, 18 R378, 15 R344, 21 R409, R420, R432): GCYC 0 and every memory zero; FUNCMODE 0x1F,
WDCTL 0x410, SUSPLIM 1024, CCRET 0, the counters of votes, re-executions and lost records 0, HOISTCTL armed; LIMW 3072 and DRPTHR EN 1 THR 12 on every
core; no strand on a core, no context, no window entry, no object.  The turn, the registers that the spec gives no value for, and
the contents of the memories, are the model's choice (logs 4, 5, 6, 7). -/
def Obligations.ResetState : Prop :=
  let s := State.reset
  s.gcyc = 0 ∧ (∀ a, s.mem.read a = 0) ∧ s.hub.funcmode = 0x1F ∧ s.hub.wdctl = 0x410 ∧ s.hub.susplim = 1024 ∧
    s.hub.ccret = 0 ∧ s.hub.votes = 0 ∧ s.hub.third = 0 ∧ s.hub.undec = 0 ∧ s.hub.rxcnt = 0 ∧ s.hub.lphead = 0 ∧
    s.hub.ellost = 0 ∧ s.hub.intlost = 0 ∧ s.hub.mnqlost = 0 ∧ s.hub.funcNext = none ∧ s.hub.harm = true ∧ s.hub.hpinen = false ∧
    (∀ k, (s.core k).mode = .free ∧ (s.core k).limw = 3072 ∧ s.readSR k 0x081 = 0x10C ∧ s.grant k = 7) ∧
    (∀ x, (s.ctx x).created = false ∧ (s.ctx x).run = 0) ∧ s.window = [] ∧ (∀ o, s.obj o = none) ∧
    s.Canonical ∧ s.Live

/-- Memory keeps its one form under every step. -/
def Obligations.StepKeepsMemory : Prop :=
  ∀ s t : State, s.Canonical → step s = .next t → t.Canonical

/-- What comes from outside stays free of slot instructions and S-ops, and a slot's turn comes only to a running core. -/
def Obligations.StepKeepsLive : Prop :=
  ∀ s t : State, s.Live → step s = .next t → t.Live

/-- The machine never stops: no step of a live state faults or is refused. -/
def Obligations.NeverStops : Prop :=
  ∀ s : State, s.Live → s.Goes

/-- Frame of the slots S, X, L, W, V and Y, but for LOOP's own push, where no trap closes the bundle: results are queued, so no
register, memory byte, capability, trap register, window entry (but for the mark that an effect has escaped), cell or hub register
changes in the issue cycle, and no other core or context (06 R141, R146, 09 R212, 07 R165, R179). -/
def Obligations.SlotsQueue : Prop :=
  ∀ (s t : State) (k : Nat) (kind : SlotKind) (w : Nat) (i : Instr), encode i = some (kind, w) →
    kind ∈ [SlotKind.s, .x, .l, .w, .v, .y] → (∀ d imm g, i ≠ .loop d imm g) → s.Issues k →
    Answers i s t → (s.strand k).fl.bundle ≠ none → (t.strand k).fl.bundle = (s.strand k).fl.bundle →
    s.SameMemory t ∧ (t.strand k).sc = (s.strand k).sc ∧ (t.strand k).vec = (s.strand k).vec ∧
      (t.strand k).mx = (s.strand k).mx ∧ (t.strand k).id = (s.strand k).id ∧ (t.strand k).tr = (s.strand k).tr ∧
      (t.strand k).kn = (s.strand k).kn ∧ (t.strand k).cp = (s.strand k).cp ∧ (t.strand k).sig = (s.strand k).sig ∧
      (t.strand k).fmtb = (s.strand k).fmtb ∧
      t.window.map (fun e => { e with escaped := false }) = s.window.map (fun e => { e with escaped := false }) ∧ t.cells = s.cells ∧ t.hub = s.hub ∧ t.ctxs = s.ctxs ∧
      ∀ j, j ≠ k → t.core j = s.core j

/-- Frame of the engine and matrix slots where no trap closes the bundle, but for the instructions of `Instr.actsAtOnce`, whose
own statements say what they change: no scalar, vector or capability register, no trap register, no format register, no mode
bit, no byte of memory and no other strand changes in the issue cycle (06 R141, 08 R181, 10 R249, 11 R269). -/
def Obligations.EnginesQueue : Prop :=
  ∀ (s t : State) (k : Nat) (kind : SlotKind) (w : Nat) (i : Instr), encode i = some (kind, w) → kind = .e ∨ kind = .m →
    i.actsAtOnce = false → s.Issues k → Answers i s t → (s.strand k).fl.bundle ≠ none →
    (t.strand k).fl.bundle = (s.strand k).fl.bundle →
    let st := s.strand k
    let u := t.strand k
    s.SameMemory t ∧ u.sc.s = st.sc.s ∧ u.sc.q = st.sc.q ∧ u.sc.c = st.sc.c ∧ u.sc.rotb = st.sc.rotb ∧
      u.sc.loops = st.sc.loops ∧ u.sc.pc = st.sc.pc ∧ u.vec = st.vec ∧ u.id = st.id ∧ u.tr = st.tr ∧ u.kn = st.kn ∧
      u.fmtb = st.fmtb ∧ ∀ j, j ≠ k → t.strand j = s.strand j

/-- Decode and encode agree for every well-formed instruction of the S, X, L, W, V, Y and M slots, with every operand at every
value its field admits (03 R51-R56). -/
def Obligations.SlotRoundTrip : Prop :=
  ∀ (i : Instr) (k : SlotKind) (w : Nat), wellFormed i = true → encode i = some (k, w) → k ≠ .e → k ≠ .sop →
    decodeSlot k w = .ok i

/-- Decode and encode agree for every well-formed engine instruction, S-op and extension word (03 R57-R63). -/
def Obligations.EngineAndStreamRoundTrip : Prop :=
  ∀ (i : Instr) (k : SlotKind) (w : Nat), wellFormed i = true → encode i = some (k, w) → k = .e ∨ k = .sop →
    decodeSlot k w = .ok i

/-- What the decoder accepts is well-formed: no reserved encoding passes as an instruction (03 R49). -/
def Obligations.DecodedWellFormed : Prop :=
  ∀ (k : SlotKind) (w : Nat) (i : Instr), decodeSlot k w = .ok i → wellFormed i = true

/-- ADD, ADDI, SUB and the multiplications (06 R151, R141): the wrapped sum or difference, or half of the exact product, is
queued for s[d] with the instruction's latency, and nothing else changes.

The four divisions (06 R151, R141): truncation toward zero, the remainder with the sign of the dividend; a zero divisor
gives all ones and has DZ set with the result, 18 cycles after issue.

Logic and shifts (06 R151, R141): the shift amount is the low six bits of the operand, or the immediate. -/
def Obligations.ScalarArithmetic : Prop :=
  (∀ (s : State) (k : Nat) (d a b : BitVec 6) (i : BitVec 8) (g : Guard), s.Issues k → (s.strand k).guard g = true →
    Acts (.add d a b g) s k (fun st => st.pushS d.toNat (st.s a.toNat + st.s b.toNat) 1 false) ∧
    Acts (.addi d a i g) s k (fun st => st.pushS d.toNat (st.s a.toNat + BitVec.ofInt 64 i.toInt) 1 false) ∧
    Acts (.sub d a b g) s k (fun st => st.pushS d.toNat (st.s a.toNat - st.s b.toNat) 1 false) ∧
    Acts (.mul d a b g) s k (fun st =>
      st.pushS d.toNat (BitVec.ofNat 64 ((st.s a.toNat).toNat * (st.s b.toNat).toNat)) 3 false) ∧
    Acts (.mulh d a b g) s k (fun st =>
      st.pushS d.toNat (BitVec.ofInt 64 ((st.s a.toNat).toInt * (st.s b.toNat).toInt / 2 ^ 64)) 3 false) ∧
    Acts (.mulhn d a b g) s k (fun st =>
      st.pushS d.toNat (BitVec.ofNat 64 ((st.s a.toNat).toNat * (st.s b.toNat).toNat / 2 ^ 64)) 3 false)) ∧
  (∀ (s : State) (k : Nat) (d a b : BitVec 6) (g : Guard), s.Issues k → (s.strand k).guard g = true →
    let x := (s.strand k).s a.toNat
    let y := (s.strand k).s b.toNat
    let res (v : W64) (st : Strand) : Strand := st.pushS d.toNat (if y = 0 then BitVec.allOnes 64 else v) 18 (y == 0)
    Acts (.div d a b g) s k (res (BitVec.ofInt 64 (x.toInt.tdiv y.toInt))) ∧
    Acts (.divn d a b g) s k (res (BitVec.ofNat 64 (x.toNat / y.toNat))) ∧
    Acts (.rem d a b g) s k (res (BitVec.ofInt 64 (x.toInt.tmod y.toInt))) ∧
    Acts (.remn d a b g) s k (res (BitVec.ofNat 64 (x.toNat % y.toNat)))) ∧
  (∀ (s : State) (k : Nat) (d a b m : BitVec 6) (i : BitVec 8) (g : Guard), s.Issues k → (s.strand k).guard g = true →
    let x := (s.strand k).s a.toNat
    let y := (s.strand k).s b.toNat
    let imm := BitVec.ofInt 64 i.toInt
    let n := y.toNat % 64
    let res (v : W64) (st : Strand) : Strand := st.pushS d.toNat v 1 false
    Acts (.and d a b g) s k (res (x &&& y)) ∧ Acts (.or d a b g) s k (res (x ||| y)) ∧
    Acts (.xor d a b g) s k (res (x ^^^ y)) ∧ Acts (.andn d a b g) s k (res (x &&& ~~~y)) ∧
    Acts (.andi d a i g) s k (res (x &&& imm)) ∧ Acts (.ori d a i g) s k (res (x ||| imm)) ∧
    Acts (.xori d a i g) s k (res (x ^^^ imm)) ∧
    Acts (.shl d a b g) s k (res (BitVec.ofNat 64 (x.toNat * 2 ^ n))) ∧
    Acts (.shr d a b g) s k (res (BitVec.ofNat 64 (x.toNat / 2 ^ n))) ∧
    Acts (.sar d a b g) s k (res (BitVec.ofInt 64 (x.toInt / 2 ^ n))) ∧
    Acts (.rotl d a b g) s k (res (BitVec.ofNat 64 (x.toNat * 2 ^ n) ||| BitVec.ofNat 64 (x.toNat / 2 ^ (64 - n)))) ∧
    Acts (.shli d a m g) s k (res (BitVec.ofNat 64 (x.toNat * 2 ^ m.toNat))) ∧
    Acts (.shri d a m g) s k (res (BitVec.ofNat 64 (x.toNat / 2 ^ m.toNat))) ∧
    Acts (.sari d a m g) s k (res (BitVec.ofInt 64 (x.toInt / 2 ^ m.toNat))))

/-- Minimum, maximum, leading zeros, ones, extensions and moves (06 R151, R152, R154, R141).  SEL writes whatever its guard
holds. -/
def Obligations.ScalarSelections : Prop :=
  ∀ (s : State) (k : Nat) (d a b m : BitVec 6) (l : BitVec 14) (g : Guard), s.Issues k →
    let x := (s.strand k).s a.toNat
    let y := (s.strand k).s b.toNat
    let res (v : W64) (st : Strand) : Strand := st.pushS d.toNat v 1 false
    Acts (.sel d a b g) s k (res (if (s.strand k).guard g = true then x else y)) ∧
    ((s.strand k).guard g = true →
      Acts (.min d a b g) s k (res (if x.toInt < y.toInt then x else y)) ∧
      Acts (.max d a b g) s k (res (if x.toInt < y.toInt then y else x)) ∧
      Acts (.minn d a b g) s k (res (if x.toNat < y.toNat then x else y)) ∧
      Acts (.maxn d a b g) s k (res (if x.toNat < y.toNat then y else x)) ∧
      (∃ n ≤ 64, Acts (.clz d a g) s k (res (BitVec.ofNat 64 n)) ∧ x.toNat < 2 ^ (64 - n) ∧
        (n < 64 → 2 ^ (63 - n) ≤ x.toNat)) ∧
      Acts (.popc d a g) s k (res (BitVec.ofNat 64 ((List.range 64).countP fun i => x.getLsbD i))) ∧
      Acts (.sext d a m g) s k (res ((x <<< (63 - m.toNat)).sshiftRight (63 - m.toNat))) ∧
      Acts (.zext d a m g) s k (res (BitVec.ofNat 64 (x.toNat % 2 ^ (m.toNat + 1)))) ∧
      Acts (.mov d a g) s k (res x) ∧
      Acts (.lil d l g) s k (res (BitVec.ofInt 64 l.toInt)) ∧
      Acts (.lih d l g) s k (res (BitVec.ofNat 64 ((((s.strand k).s d.toNat).toNat * 2 ^ 14 + l.toNat)))))

/-- CMP, CMPI and QLOG (06 R153, 03 R52, 06 R141): the condition or the logic function is queued for the q flag. -/
def Obligations.ScalarConditions : Prop :=
  ∀ (s : State) (k : Nat) (c f qd qa qb : BitVec 3) (a b : BitVec 6) (i : BitVec 8) (g : Guard), s.Issues k →
    (s.strand k).guard g = true →
    let x := (s.strand k).s a.toNat
    let cond (y : W64) : Prop :=
      (c = 0 ∧ x = y) ∨ (c = 1 ∧ x ≠ y) ∨ (c = 2 ∧ x.toInt < y.toInt) ∨ (c = 3 ∧ y.toInt ≤ x.toInt) ∨
      (c = 4 ∧ x.toNat < y.toNat) ∨ (c = 5 ∧ y.toNat ≤ x.toNat) ∨ (c = 6 ∧ x &&& y ≠ 0) ∨ (c = 7 ∧ x &&& y = 0)
    let A : Prop := (s.strand k).q qa.toNat = true
    let B : Prop := (s.strand k).q qb.toNat = true
    let logic : Prop :=
      (f = 0 ∧ A ∧ B) ∨ (f = 1 ∧ (A ∨ B)) ∨ (f = 2 ∧ ¬(A ↔ B)) ∨ (f = 3 ∧ A ∧ ¬B) ∨ (f = 4 ∧ ¬(A ∧ B)) ∨
      (f = 5 ∧ ¬(A ∨ B)) ∨ (f = 6 ∧ (A ↔ B)) ∨ (f = 7 ∧ (A ∨ ¬B))
    (∃ v, Acts (.cmp c qd a b g) s k (fun st => st.pushQ qd.toNat v 1) ∧ (v = true ↔ cond ((s.strand k).s b.toNat))) ∧
    (∃ v, Acts (.cmpi c qd a i g) s k (fun st => st.pushQ qd.toNat v 1) ∧ (v = true ↔ cond (BitVec.ofInt 64 i.toInt))) ∧
    (∃ v, Acts (.qlog f qd qa qb g) s k (fun st => st.pushQ qd.toNat v 1) ∧ (v = true ↔ logic))

/-- A scalar instruction whose guard is false, and whose issue-time checks pass, changes nothing (06 R144); a NOP never does.

Engine instructions whose guard is false and whose checks pass make no more than their signal (03 R57, 11 R269). -/
def Obligations.FalseGuards : Prop :=
  (∀ (s : State) (k : Nat) (c qd qa qb f3 : BitVec 3) (d a b m : BitVec 6) (i : BitVec 8) (l : BitVec 14) (o : BitVec 20)
    (r r' : BitVec 4) (n : BitVec 12) (g : Guard), s.Issues k →
    Answers (.nop g) s s ∧
    ((s.strand k).guard g = false → ∀ x ∈ ([.add d a b g, .addi d a i g, .sub d a b g, .mul d a b g, .mulh d a b g,
      .mulhn d a b g, .div d a b g, .divn d a b g, .rem d a b g, .remn d a b g, .and d a b g, .or d a b g, .xor d a b g,
      .andn d a b g, .andi d a i g, .ori d a i g, .xori d a i g, .shl d a b g, .shr d a b g, .sar d a b g, .rotl d a b g,
      .shli d a m g, .shri d a m g, .sari d a m g, .min d a b g, .max d a b g, .minn d a b g, .maxn d a b g, .clz d a g,
      .popc d a g, .sext d a m g, .zext d a m g, .cmp c qd a b g, .cmpi c qd a i g, .qlog c qd qa qb g, .lil d l g,
      .lih d l g, .mov d a g, .br o g, .brx d a g, .call o g, .nopw l g, .rot i g, .endt g, .crights r r' i g,
      .cget d r f3 g, .cmov r r' g] : List Instr), Answers x s s) ∧
    ((s.strand k).guard g = false →
      ((s.strand k).bundleLen ≤ l.toNat → (s.strand k).sc.loops.length < 4 → Answers (.loop d l g) s s) ∧
      ((s.strand k).id.pers = true → Answers (.endtCont g) s s) ∧
      (((s.strand k).s a.toNat + i.signExtend 64).toNat < 4096 → Answers (.cload r a i g) s s) ∧
      (((s.strand k).s b.toNat).toNat + ((s.strand k).s (b.toNat + 1)).toNat ≤ capLen ((s.strand k).c r'.toNat) →
        Answers (.cnarrow r r' b g) s s) ∧
      ((s.strand k).checkPriv (readLevel n.toNat) 0x28 = none → Answers (.mfsr d n g) s s) ∧
      ((s.strand k).checkMtsr n.toNat ((s.strand k).s d.toNat) = none → Answers (.mtsr d n g) s s))) ∧
  (∀ (s : State) (k : Nat) (n : BitVec 8) (t : BitVec 16) (d a b : BitVec 6) (cap : BitVec 4) (bar : BitVec 9) (j : BitVec 3)
    (sc : BitVec 2) (f : Bool) (c : BitVec 16) (e : ESync), s.Issues k → (s.strand k).guard e.g = false →
    (∀ i ∈ ([.nopE e, .semsig e, .semwait n t d f e, .barwait bar e, .barqry bar d e, .cpsrc cap a e, .cpdst cap a e,
      .cpabort e, .cpqry d j e, .drain j f e, .sigrd d sc f e, .sigfold a b e, .yield n n e, .trap c e,
      .hoist n e] : List Instr),
      Acts i s k fun st => st.signal (engineSignal e)) ∧
    (1 ≤ (s.strand k).id.priv.toNat → Acts (.halt c e) s k fun st => st.signal (engineSignal e)))

/-- Transfers of control (06 R156-R159, R162): the target waits for the end of the bundle; a link is the address after the
bundle; LOOP pushes an entry, or for a zero count goes to the last bundle of the body, which fetch then passes by; NOPW adds
idle cycles, and the counts of two NOPWs of one bundle add up (log 19, the model's choice); ENDT starts the drain.

SWPT (06 R161): the word of the granted level, or where it is 0 that of level 0, gives the target of a taken transfer, also where entry
0 is 0 and the granted level's is not (log 95, the model's choice). -/
def Obligations.Transfers : Prop :=
  (∀ (s : State) (k : Nat) (d a : BitVec 6) (o : BitVec 20) (l : BitVec 14) (g : Guard), s.Issues k →
    (s.strand k).guard g = true →
    let st := s.strand k
    let A := st.bundleAddr
    let link := BitVec.ofNat 64 (A + st.bundleLen)
    let target := BitVec.ofInt 64 ((A : Int) + o.toInt)
    let goes (t : W64) (x : Strand) : Strand := { x with fl := { x.fl with transfer := some t } }
    Acts (.br o g) s k (goes target) ∧
    Acts (.call o g) s k (fun x => goes target (x.pushS 47 link 1 false)) ∧
    Acts (.brx d a g) s k (fun x => goes (st.s a.toNat) (if d = 0 then x else x.pushS d.toNat link 1 false)) ∧
    Acts (.nopw l g) s k (fun x => { x with fl := { x.fl with nopw := x.fl.nopw + l.toNat } }) ∧
    Acts (.endt g) s k (fun x => { x with fl := { x.fl with ending := some false } }) ∧
    (st.id.pers = true → Acts (.endtCont g) s k (fun x => { x with fl := { x.fl with ending := some true } })) ∧
    (st.bundleLen ≤ l.toNat → st.sc.loops.length < 4 →
      (st.s d.toNat ≠ 0 → Acts (.loop d l g) s k (fun x =>
        { x with sc := { x.sc with loops := ⟨A + st.bundleLen, A + l.toNat, st.s d.toNat⟩ :: x.sc.loops } })) ∧
      (st.s d.toNat = 0 → Acts (.loop d l g) s k (fun x =>
        { x with fl := { x.fl with transfer := some (BitVec.ofNat 64 (A + l.toNat)), skip := true } })))) ∧
  (∀ (s : State) (k : Nat) (t : BitVec 8) (g : Guard), s.Issues k → (s.strand k).guard g = true →
    let kn := (s.strand k).kn
    let base := kn.hdr + kn.variant.toNat + 32 * t.toNat
    let word (l : Nat) : Nat := s.objLE (capObj kn.code) (base + 4 * l) 4
    let e := if word (s.grant k) = 0 then word 0 else word (s.grant k)
    kn.variant ≠ 0 → e ≠ 0 →
    (∀ l, l = s.grant k ∨ (word (s.grant k) = 0 ∧ l = 0) →
      capBase kn.code ≤ base + 4 * l ∧ base + 4 * l + 4 ≤ capBase kn.code + capLen kn.code) →
    Acts (.swpt t g) s k (fun x => { x with fl := { x.fl with transfer := some (BitVec.ofNat 64 (kn.hdr + e)) } }))

/-- ROT (06 R160, R146): the rotation is kept for the end of its bundle, the rotation base unchanged; there
ROTB := ROTB + sext(imm8, 8) modulo 16, and two rotations of one bundle add up.

Capability registers (06 R163, 19 R389, R390): CLOAD queues an entry of the context's table for c[C] at issue + 8; CNARROW queues
the capability with the window moved and cut, CRIGHTS the one with the rights masked; CGET queues a field; CMOV the register.

MFSR and MTSR (06 R145, R146, R155): MFSR queues what `readSR` reads for s[d] at issue + 2; MTSR's write is kept for the end of
its bundle, and `writeSR` makes it there.

The special registers (06 R145, R146, 04 R93, 08 R195, 09 R217-R220, 10 R262-R266, 11 R281, 15 R336, 18 R352, 21 R412, R416): a register
reads back what was written, its reserved bits cut; the sticky bits of CSTAT, VSTAT, MSTAT and CPSTAT are cleared by a 0 alone, and
those that the cycle of the write raises survive it; CPI is written while the engine is idle; LIMW is at least 96, and DRPTHR changes
later; every other register, special or not, stays.  Last come the fields that the registers read which MTSR does not write. -/
def Obligations.ScalarState : Prop :=
  (∀ (s : State) (k : Nat) (i : BitVec 8) (g : Guard), s.Issues k → (s.strand k).guard g = true →
    Acts (.rot i g) s k (fun x =>
      { x with fl := { x.fl with deferred := x.fl.deferred ++ [(none, BitVec.ofInt 64 i.toInt)] } }) ∧
    ((s.strand k).fl.deferred = [(none, BitVec.ofInt 64 i.toInt)] →
      ((s.applyDeferred k).strand k).sc.rotb = (s.strand k).sc.rotb + BitVec.ofInt 4 i.toInt) ∧
    (∀ j : BitVec 8, (s.strand k).fl.deferred = [(none, BitVec.ofInt 64 i.toInt), (none, BitVec.ofInt 64 j.toInt)] →
      ((s.applyDeferred k).strand k).sc.rotb = (s.strand k).sc.rotb + BitVec.ofInt 4 (i.toInt + j.toInt))) ∧
  (∀ (s : State) (k : Nat) (c c' : BitVec 4) (d a b : BitVec 6) (i : BitVec 8) (f : BitVec 3) (g : Guard), s.Issues k →
    (s.strand k).guard g = true →
    let st := s.strand k
    let x := st.c c'.toNat
    let o := (st.s b.toNat).toNat
    let n := (st.s (b.toNat + 1)).toNat
    let ix := (st.s a.toNat + BitVec.ofInt 64 i.toInt).toNat
    (ix < 4096 → Acts (.cload c a i g) s k (fun z => z.pushC c.toNat (SMap.get 0 (s.ctx st.id.ctx).caps ix) 8)) ∧
    (o + n ≤ capLen x → ∃ y, Acts (.cnarrow c c' b g) s k (fun z => z.pushC c.toNat y 1) ∧ capObj y = capObj x ∧
      capRights y = capRights x ∧ capKind y = capKind x ∧ capBase y = (capBase x + o) % 2 ^ 48 ∧ capLen y = n) ∧
    (∃ y, Acts (.crights c c' i g) s k (fun z => z.pushC c.toNat y 1) ∧ capObj y = capObj x ∧ capKind y = capKind x ∧
      capBase y = capBase x ∧ capLen y = capLen x ∧ ∀ j < 8, capHas y j = (capHas x j && i.getLsbD j)) ∧
    Acts (.cget d c' f g) s k (fun z => z.pushS d.toNat (BitVec.ofNat 64
      (if f = 0 then capObj x else if f = 1 then capRights x else if f = 2 then capKind x else if f = 3 then capBase x
       else capLen x)) 1 false) ∧
    Acts (.cmov c c' g) s k (fun z => z.pushC c.toNat x 1)) ∧
  (∀ (s : State) (k : Nat) (d : BitVec 6) (n : BitVec 12) (g : Guard), s.Issues k → (s.strand k).guard g = true →
    let st := s.strand k
    (readLevel n.toNat ≤ st.id.priv.toNat →
      Acts (.mfsr d n g) s k (fun x => x.pushS d.toNat (BitVec.ofNat 64 (s.readSR k n.toNat)) 2 false)) ∧
    (st.checkMtsr n.toNat (st.s d.toNat) = none →
      Acts (.mtsr d n g) s k (fun x =>
        { x with fl := { x.fl with deferred := x.fl.deferred ++ [(some n.toNat, st.s d.toNat)] } })) ∧
    ∀ v, st.fl.deferred = [(some n.toNat, v)] → s.applyDeferred k =
      (s.writeSR k n.toNat v).modStrand k fun x => { x with fl := { x.fl with deferred := [] } }) ∧
  (∀ (s : State) (k n : Nat) (v : W64),
    let t := s.writeSR k n v
    let st := s.strand k
    let old (n : Nat) : W64 := BitVec.ofNat 64 (s.readSR k n)
    let new (n : Nat) : W64 := BitVec.ofNat 64 (t.readSR k n)
    let z := (t.mergeNow k).strand k
    let now := (s.core k).now
    (keptBits n ≠ 0 → t.readSR k n = (v &&& keptBits n).toNat) ∧
    (n = 0x000 → t.readSR k n = s.readSR k n / 2 * 2 + if v.getLsbD 0 then s.readSR k n % 2 else 0) ∧
    (n = 0x020 → new n = old n &&& v) ∧
    (n = 0x031 → ∀ i < 64, (new n).getLsbD i =
      if i < 5 then (old n).getLsbD i && v.getLsbD i else if i < 8 then false else if i < 11 then v.getLsbD i else (old n).getLsbD i) ∧
    (n = 0x040 → ∀ i < 64, (new n).getLsbD i =
      if i < 5 ∨ 32 ≤ i ∧ i ≤ 34 then (old n).getLsbD i && v.getLsbD i
      else if 8 ≤ i ∧ i ≤ 12 ∨ 48 ≤ i then v.getLsbD i else (old n).getLsbD i) ∧
    (n = 0x041 → (t.strand k).cp.skip = if s.copyIdle st.owner then v.setWidth 48 else st.cp.skip) ∧
    (n = 0x080 → t.readSR k n = max 96 (v.toNat % 4096)) ∧
    (n = 0x081 → SMap.get 0 t.hub.drpNext (chipOf k / 2) = v.setWidth 9 ∧ t.readSR k n = s.readSR k n) ∧
    (n = 0x082 → t.readSR k n = v.toNat) ∧
    (∀ m, m ≠ n → t.readSR k m = s.readSR k m) ∧ (∀ j, j ≠ k → t.core j = s.core j) ∧ t.mem = s.mem ∧ t.ctxs = s.ctxs ∧
    (t.strand k).sc = { st.sc with rotb := if n = 0x090 then v.setWidth 4 else st.sc.rotb } ∧
    (t.strand k).vec.v = st.vec.v ∧ (t.strand k).vec.p = st.vec.p ∧ (t.strand k).mx.tile = st.mx.tile ∧
    (t.strand k).mx.cc = st.mx.cc ∧ (t.strand k).mx.cr = st.mx.cr ∧ (t.strand k).kn = st.kn ∧ (t.strand k).fl = st.fl ∧
    (∀ i, now.vstat.getLsbD i = true → z.vec.vstat.getLsbD i = true) ∧
    (∀ i, now.mstat.getLsbD i = true → z.mx.mstat.getLsbD i = true) ∧
    (∀ i, now.cpflags.getLsbD i = true → z.cp.flags.getLsbD i = true) ∧
    (now.abort = true → z.cp.abort = true) ∧ (now.dz = true → z.id.dz = true)) ∧
  (∀ (s : State) (k : Nat),
    let st := s.strand k
    let q := s.commands st.owner
    let r (n : Nat) : W64 := BitVec.ofNat 64 (s.readSR k n)
    r 0x001 = st.id.att.setWidth 64 ∧ r 0x002 = st.id.tid.setWidth 64 ∧ s.readSR k 0x003 = 2 ^ 8 * st.id.gangSize + st.id.rank ∧
    s.readSR k 0x004 = st.id.ctx ∧ r 0x008 = st.id.cyc ∧ r 0x009 = st.id.frz ∧ s.readSR k 0x00A = s.now * 20 / 21 ∧
    s.readSR k 0x00B = s.now ∧ r 0x00C = st.id.waitc ∧ (∀ n, 0x010 ≤ n → n ≤ 0x013 → s.readSR k n = 0) ∧
    s.readSR k 0x014 = 0x48E7 * 2 ^ 48 + 0xFF * 2 ^ 32 + 2 ^ 20 + Config.stepping * 2 ^ 16 + 0x9720 ∧
    ((r 0x031).extractLsb' 45 8 = st.mx.crv ∧ (r 0x031).getLsbD 53 = st.mx.xferBusy ∧ (r 0x031).getLsbD 54 = st.mx.arrayBusy ∧
      (r 0x031).getLsbD 55 = st.mx.loaderBusy ∧ ∀ i < 8, (r 0x031).getLsbD (56 + i) = st.mx.tileBusy i) ∧
    ((r 0x040).extractLsb' 36 4 = BitVec.ofNat 4 (min 15 q.length) ∧ (r 0x040).getLsbD 35 = q.any fun c => decide (c.done < c.runs)) ∧
    s.readSR k 0x041 = ((q.head?.map fun c => c.done).getD st.cp.lastRuns.toNat) % 2 ^ 48 ∧ r 0x051 = st.sy.barphase ∧
    (∀ i < 64, (r 0x052).getLsbD i = (s.core k).now.inbox.any fun y => y.1 == i) ∧
    ((r 0x064).extractLsb' 0 2 = st.id.cls ∧ (r 0x064).extractLsb' 2 2 = st.id.role ∧ (r 0x064).getLsbD 4 = st.id.head ∧
      (r 0x064).getLsbD 5 = st.id.dep) ∧
    s.readSR k 0x072 = st.tr.held.length)

/-- Results reach their registers: an interlocked one in s, q or c with its DZ (06 R141, R147), an exposed one, and one of the
in-flight queue (09 R212, 18 R357); an idle cycle of NOPW passes (06 R159).  A step of a long operation is made (09 R241): where
a stop waits for it and steps are left, the operation stops there and VPI counts the steps; the last one ends it, and VPI becomes
0 where no other operation stands stopped (09 R220; log 20, the model's choice).

What the landing of a vector result writes (09 R212, R215): the lanes of its mask take the value, every other lane and vector
register keeps its own. -/
def Obligations.Landings : Prop :=
  (∀ (s : State) (k : Nat),
    (∀ p, (s.strand k).pend.find? (·.due == 0) = some p →
      ∃ t, Answers (.scalarResultWrite k) s t ∧ (t.strand k).sc = (s.strand k).sc.put p.dst p.value ∧
        (t.strand k).pend = (s.strand k).pend.erase p ∧ (t.core k).now.dz = ((s.core k).now.dz || p.dz) ∧ t.mem = s.mem) ∧
    (∀ e, (s.strand k).exposed.find? (·.due == 0) = some e →
      Answers (.resultLanding k) s
        ((s.modStrand k fun st => { st with exposed := st.exposed.erase e }).landExposed k e)) ∧
    (∀ e, (s.strand k).tr.released.find? (·.due == 0) = some e →
      Answers (.inflightEntryLand k) s ((s.modStrand k fun st =>
        { st with tr := { st.tr with released := st.tr.released.erase e } }).landExposed k e)) ∧
    (∀ o, (s.strand k).longs.find? LongOp.stepDue = some o →
      (o.stopping = false → Acts (.longOpStep k) s k fun st => { st with longs := st.longs.replace o o.step }) ∧
      (o.stopping = true → o.done + 1 < o.steps ∨ o.sort = true → Acts (.longOpStep k) s k fun st =>
        { st with longs := st.longs.replace o { o.step with stopped := true }
                  vec := { st.vec with vpi := BitVec.ofNat 6 (o.done + 1) } }) ∧
      (o.stopping = true → ¬(o.done + 1 < o.steps ∨ o.sort = true) → ∃ t, Answers (.longOpStep k) s t ∧
        (t.strand k).longs = (s.strand k).longs.erase o ∧
        (t.strand k).vec = (if ((s.strand k).longs.erase o).any (·.stopped) then (s.strand k).vec
          else { (s.strand k).vec with vpi := 0 }) ∧
        (t.strand k).tr.waiting.length + (t.strand k).tr.held.length =
          (s.strand k).tr.waiting.length + (s.strand k).tr.held.length + 1)) ∧
    Acts (.nopwCountExpiry k) s k (fun st => { st with fl := { st.fl with nopw := st.fl.nopw - 1 } })) ∧
  (∀ (s : State) (k i j l : Nat) (e : Exposed), e.dst = .v i → l < 128 →
    lane (((s.landExposed k e).strand k).v j) l =
      if j = i ∧ e.mask.getLsbD l = true then lane e.value l else lane ((s.strand k).v j) l)

/-- LDS (07 R165, R166, R172, 19 R399): under a true guard the bytes of the scratchpad or of the own pane, extended to 64 bits, are
queued for s[D] at issue + 6 or issue + 20, into s0 nothing; from elsewhere the access joins the remote queue.  A FRAME object of
the own pane gives a late fault in place of a result.  Under a false guard nothing is queued.  No byte changes.

VLD (07 R165, R173, 04 R96, 19 R399): element l of the contiguous footprint, widened, is queued for lane l of the active lanes;
where no lane is active nothing is queued, and a FRAME object gives a late fault.

VLDB, VLDS and VLDX (07 R165, R173, 19 R399): each active lane gets the widened element at its own offset; VLDB one for all. -/
def Obligations.Loads : Prop :=
  (∀ (s : State) (k : Nat) (r : BitVec 6) (cap : BitVec 4) (off imm : BitVec 6) (size : BitVec 2) (sx : Bool) (g : Guard)
    (q : MemQ), s.Issues k → (s.strand k).Room 1 →
    let st := s.strand k
    let x := st.c cap.toNat
    let n := 2 ^ size.toNat
    let o := st.scalarOff off imm size
    let a := (capBase x + o).toNat
    let value (v : Nat) : VReg := (if sx then BitVec.ofInt 64 (signedOf v (8 * n)) else BitVec.ofNat 64 v : W64).setWidth 4096
    let queued (t : State) (v : Nat) (lat extra : Nat) : Prop := (t.strand k).exposed = st.exposed ++ (if r = 0 then [] else
      [⟨.s (rotIndex st.sc.rotb r.toNat), 1, value v, lat, st.fl.seq, st.slot, st.bundleAddr, 0, extra, 0⟩])
    st.checkScalar cap.toNat rRead o n q = none →
    ∃ t, Answers (.lds r cap off imm size sx g q) s t ∧ s.SameMemory t ∧
      (st.guard g = true → s.space k x = .spad → queued t (ofLE (s.spadBytes k a n)) 6 14) ∧
      (st.guard g = true → s.space k x = .pane → s.inFrame x = false → queued t (s.objLE (capObj x) a n) 20 0) ∧
      (st.guard g = true → s.space k x = .pane → s.inFrame x = true → (t.strand k).exposed = st.exposed ∧
        (t.core k).now.late = (s.core k).now.late ++
          [⟨.revoked, BitVec.ofNat 64 (capObj x), some (st.bundleAddr, st.slot), st.slot⟩]) ∧
      (st.guard g = true → s.space k x = .remote → ∃ m, t.remotes = s.remotes ++ [m] ∧ m.kind = .load ∧ m.obj = capObj x ∧
        m.off = a ∧ m.size = n ∧ m.sx = sx ∧ m.dst = some (.s (if r = 0 then 0 else rotIndex st.sc.rotb r.toNat)) ∧
        m.owner = st.owner) ∧
      (st.guard g = false → (t.strand k).exposed = st.exposed ∧ t.remotes = s.remotes)) ∧
  (∀ (s : State) (k : Nat) (v ix : BitVec 9) (cap : BitVec 4) (off stride i6 : BitVec 6) (imm : BitVec 12) (wi : Bool)
    (g : PGuard) (q : MemQ), s.Issues k → (s.strand k).Room 1 →
    let st := s.strand k
    let act := st.active g
    let x := st.c cap.toNat
    let local_ : Bool := capKind x == kScratch
    let base := (st.s off.toNat).toNat
    let one : Int := base + imm.toInt * 16
    let f := st.elemFmt x one
    let bytes := s.readLocal k x (capAddr x one) (16 * fmtWidth f)
    let strided (l : Nat) : Int := base + i6.toInt * 16 + l * (st.s stride.toNat).toInt
    let gathered (l : Nat) : Int := base + (lane (st.v ix.toNat) l).toInt * (if wi then 4 else 1)
    let gives (i : Instr) (value : Nat → W32) : Prop :=
      ∃ t, Answers i s t ∧ s.SameMemory t ∧
        (local_ = true ∨ s.inFrame x = false → (t.strand k).exposed = st.exposed ++ (if act = 0 then [] else
          [⟨.v v.toNat, act, ofLanes value, if local_ then 6 else 20, st.fl.seq, st.slot, st.bundleAddr, 0,
            if local_ then 14 else 0, 0⟩])) ∧
        (local_ = false → s.inFrame x = true → act ≠ 0 → (t.strand k).exposed = st.exposed ∧
          (t.core k).now.late = (s.core k).now.late ++
            [⟨.revoked, BitVec.ofNat 64 (capObj x), some (st.bundleAddr, st.slot), st.slot⟩])
    (s.checkContig k cap.toNat rRead one q = none → gives (.vld v cap off imm g q) fun l =>
      BitVec.ofNat 32 (widen f (bytes / 2 ^ (fmtWidth f * l) % 2 ^ fmtWidth f))) ∧
    (s.checkSingles k cap.toNat rRead one [one] q = none → gives (.vldb v cap off imm g q) fun l =>
      if act.getLsbD l then s.elemAt k x one else 0) ∧
    (s.checkSingles k cap.toNat rRead (strided 0) ((lanesOf act).map strided) q = none →
      gives (.vlds v cap off stride i6 g q) fun l => if act.getLsbD l then s.elemAt k x (strided l) else 0) ∧
    (s.checkSingles k cap.toNat rRead (gathered 0) ((lanesOf act).map gathered) q = none →
      gives (.vldx v cap off ix wi g q) fun l => if act.getLsbD l then s.elemAt k x (gathered l) else 0))

/-- STS (07 R165, R172, R179, 19 R399): under a true guard the low bytes of s[D] are queued for the scratchpad, written through the
own pane's port, or join the remote queue, held for the Loupe where the strand's writes are; a FRAME object of the own pane gives a
late fault in place of the write.  Memory itself does not change at issue.  Under a false guard nothing happens.

VST, VSTS and VSTX (07 R165, R173, 04 R97): to the scratchpad the elements of the active lanes, converted to the bank's format, are
queued, by VST in place of the bits they own, by the others each at its own offset, the higher lane later; the flags of the
conversions join those of the cycle, and a qualifier sets the granules full.  Elsewhere the bits of the active lanes are stored as
STS stores its bytes.  Where no lane is active nothing happens. -/
def Obligations.Stores : Prop :=
  (∀ (s : State) (k : Nat) (x : CapBits) (bs : List (Nat × Byte)) (cls : Nat),
    let st := s.strand k
    let t := s.storeOut k x bs cls
    s.SameMemory t ∧ (t.strand k).sc = st.sc ∧ (t.strand k).vec = st.vec ∧
    (st.holds x = true ∨ s.space k x ≠ .pane → t.paneW = s.paneW ∧
      ∃ m, t.remotes = s.remotes ++ [m] ∧ m.kind = .store ∧ m.bytes = bs ∧ m.obj = capObj x ∧ m.held = st.holds x) ∧
    (st.holds x = false → s.space k x = .pane → s.inFrame x = false → t.remotes = s.remotes ∧
      t.paneW = s.paneW ++ bs.flatMap fun p => s.objCells (capObj x) p.1 [p.2]) ∧
    (st.holds x = false → s.space k x = .pane → s.inFrame x = true → t.remotes = s.remotes ∧ t.paneW = s.paneW ∧
      (t.core k).now.late = (s.core k).now.late ++
        [⟨.revoked, BitVec.ofNat 64 (capObj x), some (st.bundleAddr, st.slot), st.slot⟩])) ∧
  (∀ (s : State) (k : Nat) (r : BitVec 6) (cap : BitVec 4) (off imm : BitVec 6) (size : BitVec 2) (g : Guard) (q : MemQ),
    s.Issues k →
    let st := s.strand k
    let x := st.c cap.toNat
    let n := 2 ^ size.toNat
    let o := st.scalarOff off imm size
    let bs := atAddr (capBase x + o).toNat (leBytes n (st.s r.toNat).toNat)
    st.checkScalar cap.toNat rWrite o n q = none →
    (st.guard g = false → Answers (.sts r cap off imm size g q) s s) ∧
    (st.guard g = true → capKind x ≠ kScratch →
      Answers (.sts r cap off imm size g q) s (s.storeOut k x bs q.cls.toNat)) ∧
    (st.guard g = true → capKind x = kScratch → ∃ t, Answers (.sts r cap off imm size g q) s t ∧ s.SameMemory t ∧
      (t.strand k).sc = st.sc ∧ (t.core k).now.wbuf = (s.core k).now.wbuf ++ bs ∧
      (q.qual ≠ 0 → t.isFull k (capBase x + o).toNat = true))) ∧
  (∀ (s : State) (k : Nat) (v ix : BitVec 9) (cap : BitVec 4) (off stride i6 : BitVec 6) (imm : BitVec 12) (wi : Bool)
    (g : PGuard) (q : MemQ), s.Issues k →
    let st := s.strand k
    let ls := lanesOf (st.active g)
    let x := st.c cap.toNat
    let base := (st.s off.toNat).toNat
    let one : Int := base + imm.toInt * 16
    let w := fmtWidth (st.elemFmt x one)
    let strided (l : Nat) : Int := base + i6.toInt * 16 + l * (st.s stride.toNat).toInt
    let gathered (l : Nat) : Int := base + (lane (st.v ix.toNat) l).toInt * (if wi then 4 else 1)
    let code (o : Int) (l : Nat) : Nat × Flags :=
      let r := st.fmtReg (capAddr x o)
      narrow (st.elemFmt x o) (fmtRnd r) (fmtSat r) (lane (st.v v.toNat) l).toNat
    let row := putElems (ofLE (s.spadBytes k (capAddr x one) (16 * w))) w (fun l => (code one l).1) ls
    let stores (i : Instr) (bytes : List (Nat × Byte)) (at_ : Nat → Int) (raw : Nat → Nat) (granules : List Nat) : Prop :=
      (st.active g = 0 → Answers i s s) ∧
      (st.active g ≠ 0 → capKind x = kScratch → ∃ t, Answers i s t ∧ s.SameMemory t ∧ (t.strand k).vec = st.vec ∧
        (t.core k).now.wbuf = (s.core k).now.wbuf ++ bytes ∧
        (t.core k).now.vstat = (s.core k).now.vstat ||| vbits (flagsOf (fun l => (code (at_ l) l).2) ls) ∧
        (q.qual ≠ 0 → ∀ a ∈ granules, t.isFull k a = true)) ∧
      (st.active g ≠ 0 → capKind x ≠ kScratch → Answers i s (s.storeOut k x
        (ls.flatMap fun l => atAddr (raw l) (leBytes 4 (lane (st.v v.toNat) l).toNat)) q.cls.toNat))
    let singles (at_ : Nat → Int) : List (Nat × Byte) := ls.flatMap fun l =>
      atAddr (capAddr x (at_ l)) (leBytes (elemBytes (st.elemFmt x (at_ l))) (code (at_ l) l).1)
    (s.checkContig k cap.toNat rWrite one q = none → stores (.vst v cap off imm g q)
      (((atAddr 0 (leBytes (16 * w) row)).filter fun p => touched w (st.active g) p.1).map fun p => (capAddr x one + p.1, p.2))
      (fun _ => one) (fun l => capAddr x one + 4 * l) (contigGranules (capAddr x one) w (st.active g))) ∧
    (s.checkSingles k cap.toNat rWrite (strided 0) (ls.map strided) q = none → stores (.vsts v cap off stride i6 g q)
      (singles strided) strided (fun l => capAddr x (strided l)) (ls.map fun l => capAddr x (strided l))) ∧
    (s.checkSingles k cap.toNat rWrite (gathered 0) (ls.map gathered) q = none → stores (.vstx v cap off ix wi g q)
      (singles gathered) gathered (fun l => capAddr x (gathered l)) (ls.map fun l => capAddr x (gathered l))))

/-- What a store to the scratchpad writes (07 R165, R172): once the bundle's queued writes are performed, byte j of the store's
footprint holds byte j of s[D], and every byte outside the footprint reads as before. -/
def Obligations.ScalarStoreFootprint : Prop :=
  ∀ (s t : State) (k : Nat) (r : BitVec 6) (cap : BitVec 4) (off imm : BitVec 6) (size : BitVec 2) (g : Guard) (q : MemQ),
    s.Canonical → s.Issues k → (s.strand k).guard g = true → (s.core k).now.wbuf = [] →
    let st := s.strand k
    let x := st.c cap.toNat
    let n := 2 ^ size.toNat
    let a := (capBase x + st.scalarOff off imm size).toNat
    capKind x = kScratch → st.checkScalar cap.toNat rWrite (st.scalarOff off imm size) n q = none →
    Answers (.sts r cap off imm size g q) s t →
    (∀ j < n, (t.flushSpad k false).mem.read (spadKey k (st.phys (a + j)))
      = BitVec.ofNat 8 ((st.s r.toNat).toNat / 256 ^ j)) ∧
    (∀ i, (∀ j < n, i ≠ spadKey k (st.phys (a + j))) → (t.flushSpad k false).mem.read i = s.mem.read i)

/-- AMO, AMOR and AMOF (07 R174-R179, 11 R269): under a true guard the wait is consumed, the atomic acts and the signal is made;
under a false one only the signal is made.

An atomic on the scratchpad (07 R174, R175, R177): it reads the old value and writes the new one of its function in one
step, every other byte reads as before, and a returning form queues the old value for s[D] at issue + 6.

DRAIN (07 R180): where every earlier access and, with .e, every copy has performed, the signal is made at once; else the strand
waits for exactly those, and the signal with it. -/
def Obligations.Atomics : Prop :=
  (∀ (s : State) (k : Nat) (o : AtomOp) (e : ESync), s.Issues k →
    let runs (i : Instr) (kind : RKind) : Prop :=
      s.checkAtom k kind o = none →
      ((s.strand k).guard e.g = true → Answers i s
        (((s.modStrand k fun st => st.consumeWait e).doAtom k kind o).modStrand k fun st => st.signal (engineSignal e))) ∧
      ((s.strand k).guard e.g = false → Acts i s k fun st => st.signal (engineSignal e))
    runs (.amo o e) .amo ∧ runs (.amor o e) .amor ∧ runs (.amof o e) .amof) ∧
  (∀ (s : State) (k : Nat) (kind : RKind) (o : AtomOp), s.Canonical → (s.core k).now.wbuf = [] → s.cycleW = [] → o.order = 0 →
    let st := s.strand k
    let x := st.c o.cap.toNat
    let n := AtomOpSize kind o
    let a := capAddr x (st.atomOff kind o)
    let old := ofLE (s.spadBytes k a n)
    let new := atomNew kind (atomFn kind o) n old ((st.s o.v.toNat).toNat % 2 ^ (8 * n)) ((st.s o.cmp.toNat).toNat % 2 ^ (8 * n))
    capKind x = kScratch → s.checkAtom k kind o = none →
    let t := s.doAtom k kind o
    (∀ j < n, t.mem.read (spadKey k (st.phys (a + j))) = BitVec.ofNat 8 (new / 256 ^ j)) ∧
    (∀ i, (∀ j < n, i ≠ spadKey k (st.phys (a + j))) → t.mem.read i = s.mem.read i) ∧
    (atomReturns kind o = true → t.strand k =
      st.push (.s (if o.d = 0 then 0 else rotIndex st.sc.rotb o.d.toNat)) (BitVec.ofNat 128 old) 6 false) ∧
    (atomReturns kind o = false → t.strand k = st)) ∧
  (∀ (s : State) (k : Nat) (scope : BitVec 3) (copies : Bool) (e : ESync), s.Issues k → (s.strand k).guard e.g = true →
    let st := s.strand k
    let n := if copies then s.nextId else 0
    (s.drained st.owner st.fl.accesses n = true → Commands (.drain scope copies e) e s k fun s => s) ∧
    (s.drained st.owner st.fl.accesses n = false → CommandsLater (.drain scope copies e) e s k fun s => s.modStrand k fun x =>
      let y := x.signalFrom (engineSignal e) (x.bundleAddr, x.slot)
      { y with fl := { y.fl with drain := some (y.fl.accesses, scope.toNat, n, engineSignal e) } }))

/-- A remote access leaves its core, walks, performs at its home in one step, and returns to a strand that is there (07 R166, R170,
R175, R176, 12 R305, 18 R370, 19 R396, R397): where its object is gone it is dropped with a late fault REVOKED, with DATA where what
it reads is uncorrectable, and where an extent is absent it waits.  At a peer home it performs when its flits are acknowledged
(12 R306): until then they stand in the replay buffers of their links.

The Loupe accepts a held write in its place when there is room or the entry's writes go through (15 R331, R332): it joins the
buffer in issue order, or it goes on to its home and its entry has escaped, or, from a twin or third run of class D, it is dropped
there.  That an access performs whole, in one step, and the slot that a late fault names are the model's choice (logs 2, 37). -/
def Obligations.RemoteAccesses : Prop :=
  (∀ (s : State) (id : Nat) (r : Remote), s.remote id = some r →
    let ends (t : State) (f : Finding) : State :=
      match f with
      | .ok => t
      | .absent _ _ => t.stageTo id .absent
      | .gone => (t.dropRemote r).raiseTo r.owner (r.fault .revoked (t.resolve r.obj r.off).1)
      | .error => (t.dropRemote r).raiseTo r.owner (r.fault .data r.off)
    (s.sendable r = true → Answers (.remoteAccessSend id) s
      (if r.held then s.modRemote id fun m => { m with stage := .loupe, issued := s.now } else s.stageTo id .port)) ∧
    (s.walkable r = true → ∀ t f, s.walkAll (s.remotePort r) (s.remoteExtents r) = (t, f) →
      Answers (.translationWalk id) s (ends t f)) ∧
    (s.performable r = true → r.ckind = kScratch → Answers (.remoteAccessPerform id) s (s.performSpad r)) ∧
    (s.performable r = true → r.ckind ≠ kScratch →
      ∀ t f, s.reachAll (s.remotePort r) (r.kind != .load) false (s.remoteExtents r) = (t, f) →
      (f ≠ .ok → Answers (.remoteAccessPerform id) s (ends t f)) ∧
      let fl := t.flitsOf r
      (f = .ok → fl ≠ [] → Answers (.remoteAccessPerform id) s ((t.sendPeer (.access r.id) fl).stageTo r.id .sent)) ∧
      (f = .ok → fl = [] → r.kind = .store → Answers (.remoteAccessPerform id) s
        ((t.writeVia (t.remotePort r) r.obj r.bytes).stageTo r.id .stored)) ∧
      (f = .ok → fl = [] → r.kind = .load → ∀ bs bad, t.readHeld (t.remotePort r) r.owner r.obj r.off r.size (some r.id) = (bs, bad) →
        Answers (.remoteAccessPerform id) s
          (if bad then ends t .error else t.stageTo r.id (.performed (extendLoad r.sx r.size (ofLE bs))))) ∧
      (f = .ok → fl = [] → r.kind ≠ .store → r.kind ≠ .load → ∀ bs bad, t.readVia (t.remotePort r) r.obj r.off r.size = (bs, bad) →
        Answers (.remoteAccessPerform id) s
          (if bad then ends t .error
           else (t.writeVia (t.remotePort r) r.obj (atAddr r.off (leBytes r.size
              (atomNew r.kind r.fn r.size (ofLE bs) r.data.toNat r.comparand.toNat)))).stageTo r.id
              (if r.dst.isSome then .performed (BitVec.ofNat 64 (ofLE bs)) else .stored)))) ∧
    (∀ v d, r.stage = .performed v → r.dst = some d → (s.away r.owner).isSome = false →
      Answers (.remoteReturn id) s ((s.dropRemote r).modOwner r.owner fun st =>
        { st with sc := st.sc.put d (v.setWidth 128) })) ∧
    (r.stage = .stored → Answers (.remoteStoreAccept id) s (s.dropRemote r))) ∧
  (∀ (s : State) (id : Nat) (r : Remote) (e : Entry), s.remote id = some r → s.acceptable r = true →
    s.entry r.owner.tid.toNat = some e →
    (e.bypasses = false → ∃ t : State, Answers (.loupeAccept id) s (t.stageTo id .stored) ∧ t = { s with held := t.held } ∧
      ∃ a b, s.held = a ++ b ∧ t.held = a ++ r.asHeld :: b ∧ (∀ h ∈ a, h.order ≤ r.id) ∧ ∀ h, b.head? = some h → r.id < h.order) ∧
    (e.bypasses = true → e.cls = 2 → r.owner.role ≠ 0 → Answers (.loupeAccept id) s (s.stageTo id .stored)) ∧
    (e.bypasses = true → e.cls ≠ 2 ∨ r.owner.role = 0 → Answers (.loupeAccept id) s
      ((s.modRemote id fun m => { m with stage := .port, held := false }).modEntry e.tid fun y => { y with escaped := true })))

/-- CPLVL, CPSRC and CPDST (08 R181, R197, R198): the level's count and strides, and the descriptors, as read at issue.

CPGO (08 R186, R187, R199): a command that passes its checks joins the queue as the descriptors stand; its signal is made when
it completes.

CPFILL writes 16 (n + 1) bytes of the doubled s register at issue and sets their granules; CPPUB exchanges two entries of the
bank map; CPABORT drops every command of the strand that is not within a run, makes its signal where none is left, and else has the
others stop at the end of their runs, the oldest of them keeping the signal until the strand's queue is empty (log 91, the model's
choice), and ABORT is set when the cycle's updates join; CPQRY queues the
state of a command for s[D] at issue + 2 (08 R194, R200-R203). -/
def Obligations.CopyCommands : Prop :=
  (∀ (s : State) (k : Nat) (level cap : BitVec 4) (cnt ss ds off : BitVec 6) (e : ESync), s.Issues k →
    (s.strand k).guard e.g = true →
    let st := s.strand k
    let n := st.s cnt.toNat
    let a := st.s ss.toNat
    let b := st.s ds.toNat
    (n ≠ 0 → n.toNat < 2 ^ 32 → -2 ^ 39 ≤ a.toInt → a.toInt < 2 ^ 39 → -2 ^ 39 ≤ b.toInt → b.toInt < 2 ^ 39 →
      (level = 0 → a = 0 ∧ b = 0) →
      Commands (.cplvl level cnt ss ds e) e s k fun s => s.modStrand k fun x => { x with cp := { x.cp with
        level := SMap.set x.cp.level level.toNat (n.setWidth 32, a.setWidth 40, b.setWidth 40) } }) ∧
    Commands (.cpsrc cap off e) e s k (fun s => s.modStrand k fun x => { x with cp := { x.cp with
      srcCap := st.c cap.toNat, srcOff := st.s off.toNat, srcIx := cap.toNat } }) ∧
    Commands (.cpdst cap off e) e s k (fun s => s.modStrand k fun x => { x with cp := { x.cp with
      dstCap := st.c cap.toNat, dstOff := st.s off.toNat, dstIx := cap.toNat } })) ∧
  (∀ (s : State) (k : Nat) (o : CpgoOp) (e : ESync), s.Issues k → (s.strand k).guard e.g = true →
    s.checkCpgo k o (s.command k o e) = none →
    ∃ t c, Answers (.cpgo o e) s t ∧ (t.core k).cmds = (s.core k).cmds ++ [c] ∧ s.SameMemory t ∧ c.id = s.nextId ∧
      t.nextId = s.nextId + 1 ∧ c.started = false ∧ c.signal = engineSignal e ∧ c.owner = (s.strand k).owner ∧
      c.src.cap = (s.strand k).cp.srcCap ∧ c.src.off = (s.strand k).cp.srcOff ∧
      c.dst.cap = (s.strand k).cp.dstCap ∧ c.dst.off = (s.strand k).cp.dstOff ∧
      c.done = min c.runs (s.strand k).cp.skip.toNat ∧ (t.strand k).cp.skip = 0) ∧
  (∀ (s : State) (k : Nat) (cap : BitVec 4) (off v d h : BitVec 6) (n : BitVec 5) (full : BitVec 2) (j : BitVec 3) (e : ESync),
    s.Issues k → (s.strand k).guard e.g = true →
    let st := s.strand k
    let x := st.c cap.toNat
    let o : Int := (st.s off.toNat).toNat
    let len := 16 * (n.toNat + 1)
    let a := capAddr x o
    let word := leBytes 8 (st.s v.toNat).toNat ++ leBytes 8 (st.s v.toNat).toNat
    let cmds := s.commands st.owner
    (st.checkCap cap.toNat [rWrite] [kScratch] = none → checkBounds x o len = none → checkAlign x o len 16 = none →
      st.checkRaw x o = none →
      Commands (.cpfill cap off v n full e) e s k fun s =>
        let t := ((s.flushSpad k false).schedule k (st.bankBit a)).pokeSpad k
          ((List.range (n.toNat + 1)).flatMap fun i => atAddr (a + 16 * i) word) []
        if full = 0 then t else t.setFulls k (full == 1) ((List.range (n.toNat + 1)).map fun i => a + 16 * i)) ∧
    (d ≠ h → st.kn.banks.getLsbD d.toNat = true → st.kn.banks.getLsbD h.toNat = true →
      ∃ t, Answers (.cppub d h e) s t ∧ ∀ i, SMap.get i (t.strand k).cp.bankMap i =
        SMap.get (if i = d.toNat then h.toNat else if i = h.toNat then d.toNat else i) st.cp.bankMap
          (if i = d.toNat then h.toNat else if i = h.toNat then d.toNat else i)) ∧
    ((s.away st.owner).isSome = false → ∃ t, Answers (.cpabort e) s t ∧ ((t.mergeNow k).strand k).cp.abort = true ∧ s.SameMemory t ∧
      (∀ c ∈ t.commands st.owner, c.part ≠ 0 ∧ c.stop = true) ∧
      ((∀ c ∈ cmds, c.part = 0 ∧ c.aborts = []) → t.commands st.owner = [] ∧
        (t.strand k).sy = ((st.consumeWait e).signal (engineSignal e)).sy) ∧
      ((∃ c ∈ cmds, c.part ≠ 0) → (t.strand k).sy = (st.consumeWait e).sy ∧ ∃ c, (t.commands st.owner).head? = some c ∧
        ∀ x, engineSignal e = some x → (x, st.bundleAddr, st.slot) ∈ c.aborts)) ∧
    Commands (.cpqry d j e) e s k (fun s => s.modStrand k fun y => y.pushS d.toNat (BitVec.ofNat 64
      (((cmds[j.toNat]?).map fun c =>
        (if c.held then 3 else if c.started then 2 else 1) * 2 ^ 60 + c.done % 2 ^ 48).getD 0)) 2 false))

/-- The steps of a core's engine (08 R187-R192, R202): a command starts in queue order; a part of its run is made, and with the last
byte of a run its count rises, or a stopped command ends; one whose extent is absent is held, one that a link, a checkpoint or the
port's own cycle holds up stalls, and one that reads a peer home asks over its link; a complete one leaves with its byte
update, its signal and the fault of an enabled flag; a guard cycle restarts the counts of refusals and shows in CPSTAT.  The parts
of a run, the order in which they move, the end of a stopped command and the cycle of its signal are the model's choice (logs 70, 2,
91, 38). -/
def Obligations.CopyEngineSteps : Prop :=
  (∀ (s : State) (k : Nat) (c : CopyCmd) (r : List CopyCmd),
    (s.startable k = c :: r → Answers (.copyCommandStart (.core k)) s (s.modCmd k c.id fun x => { x with started := true })) ∧
    (s.oracle = [] → s.runnable k = c :: r →
      (∀ t n fl idx, s.performPart (.core k) c false = (t, .performed n fl idx) →
        let u := ((t.modCmd k c.id fun _ => c.moved n fl idx).modCore k fun x =>
          { x with engineBanks := x.engineBanks ||| s.partBanks k c, served := some c.owner }).modOwner c.owner fun st =>
            { st with cp := { st.cp with flags := st.cp.flags ||| fl } }
        (c.stop = false ∨ c.part + n < c.dstBytes → Answers (.copyRun (.core k)) s u) ∧
        (c.stop = true → c.dstBytes ≤ c.part + n → ∃ v, Answers (.copyRun (.core k)) s v ∧
          ∀ j, ∀ x ∈ (v.core j).cmds, x.id ≠ c.id)) ∧
      (∀ t, s.performPart (.core k) c false = (t, .waits) →
        Answers (.copyRun (.core k)) s (t.modCmd k c.id fun x => { x with held := true, stalls := false })) ∧
      (∀ t, s.performPart (.core k) c false = (t, .stalls) →
        Answers (.copyRun (.core k)) s (t.modCmd k c.id fun x => { x with held := false, stalls := true })) ∧
      (∀ t, s.performPart (.core k) c false = (t, .asks) →
        Answers (.copyRun (.core k)) s (t.modCmd k c.id fun x => { x with held := false, stalls := true, ask := .sent }))) ∧
    (s.completable k = c :: r → ∃ t, Answers (.copyCommandComplete (.core k)) s t ∧ (∀ j, ∀ x ∈ (t.core j).cmds, x.id ≠ c.id) ∧
      (c.o.cellEn = true → ∃ u, t.updates = s.updates ++ [u] ∧ u.cell = some c.o.cell.toNat ∧ u.kind = .bytes c.bytes) ∧
      ∀ j, (s.away c.owner).isSome = false → s.coreOf c.owner = some j → t.mem = s.mem ∧
        (∀ n i, c.signal = some (n, i) → c.aborts = [] →
          SMap.get 0 (t.strand j).sy.semAdd n = SMap.get 0 (s.strand j).sy.semAdd n + i) ∧
        (c.flags &&& (s.strand j).cp.te ≠ 0 → ∃ f ∈ (t.core j).now.late, f.code = .cpfp ∧
          f.value = BitVec.ofNat 64 c.flags.toNat)) ∧
    ∃ t, Answers (.starvationGuard k) s t ∧ (t.core k).starve = [] ∧
      (t.strand k).cp.guardCount.toNat = min 65535 ((s.strand k).cp.guardCount.toNat + 1)) ∧
  ∀ (c : CopyCmd) (n : Nat) (fl : Flags) (idx : Int), (c.moved n fl idx).bytes = c.bytes + n ∧
    (c.dstBytes ≤ c.part + n → (c.moved n fl idx).done = c.done + 1 ∧ (c.moved n fl idx).part = 0) ∧
    (c.part + n < c.dstBytes → (c.moved n fl idx).done = c.done ∧ (c.moved n fl idx).part = c.part + n)

/-- Semaphores (11 R268-R271, R284, R285, R298): a signal joins the cycle's increments, or waits for the accesses before it; the
increments join the counters at the start of a cycle, up to 65535; SEMWAIT consumes its threshold unless it says not to, and
reads the counter; YIELD consumes, or asks for the strand to leave.

The increments of a cycle join the semaphores: the sum, or 65535 and a late fault of the strand (11 R271); the cycle in which they
join is the model's choice (log 38). -/
def Obligations.Semaphores : Prop :=
  (∀ (s : State) (k : Nat) (n : BitVec 8) (thr : BitVec 16) (d : BitVec 6) (m y : BitVec 8) (keep : Bool) (e : ESync),
    s.Issues k → (s.strand k).guard e.g = true →
    let st := s.strand k
    Commands (.nopE e) e s k (fun s => s) ∧
    (s.unperformed st.owner st.fl.accesses = false →
      Commands (.semsig e) e s k (fun s => s)) ∧
    (s.unperformed st.owner st.fl.accesses = true →
      CommandsLater (.semsig e) e s k fun s => s.modStrand k fun x => { x with sy := { x.sy with
        sigs := x.sy.sigs ++ [⟨e.sigSem.toNat, engineInc e, x.fl.accesses, (x.bundleAddr, x.slot)⟩] } }) ∧
    Commands (.semwait n thr d keep e) e s k (fun s => s.modStrand k fun x =>
      let z := if keep then x else x.consume n.toNat thr.toNat
      if d = 0 then z else z.pushS d.toNat (BitVec.ofNat 64 (z.semaphore n.toNat)) 1 false) ∧
    (y.toNat ≤ (st.consumeWait e).semaphore m.toNat →
      Commands (.yield m y e) e s k fun s => s.modStrand k fun x => x.consume m.toNat y.toNat) ∧
    ((st.consumeWait e).semaphore m.toNat < y.toNat →
      ∃ t, Answers (.yield m y e) s t ∧ (t.strand k).sy.yielding = some (m.toNat, y.toNat) ∧
        (t.core k).req = some ⟨3, .semaphore m.toNat y.toNat, false, 0⟩)) ∧
  (∀ (s : State) (k : Nat), (s.strand k).sy.sigs = [] → ((s.strand k).sy.semAdd.map (·.1)).Nodup →
    let sum (n : Nat) : Nat := (s.strand k).semaphore n + SMap.get 0 (s.strand k).sy.semAdd n
    ∃ t, Answers (.semaphoreSignal k) s t ∧ (∀ n, (∃ i, (n, i) ∈ (s.strand k).sy.semAdd) →
        (t.strand k).semaphore n = min 65535 (sum n) ∧
        (65535 < sum n → ∃ x ∈ (t.core k).now.late, x.code = .semovf ∧ x.value = BitVec.ofNat 64 n)) ∧
      (∀ n, (∀ i, (n, i) ∉ (s.strand k).sy.semAdd) → (t.strand k).semaphore n = (s.strand k).semaphore n) ∧
      (t.strand k).sy.semAdd = [] ∧
      ((∀ n i, (n, i) ∈ (s.strand k).sy.semAdd → sum n ≤ 65535) → (t.core k).now.late = (s.core k).now.late) ∧ s.SameMemory t)

/-- BARINIT, BARARR, BAREXP and BARQRY send their update toward the cell or line, 12 or 2 cycles away; BARARR puts a record in the
place of an older one of its barrier; BARWAIT takes the record away and gives BARPHASE (11 R273-R281, R286-R288).

What reaches a core (11 R278, R286, R300, R301): a release stamps the records of its phase with its RG; BARINIT's answer
ends its freeze with the signal, frees a cell that it is to free, or raises BARNOWN; a transfer enters the inbox, and a credit
comes back, of a strand that is there.  What the answer to a refused BARINIT gives (BARNOWN without the signal, and a cell freed at
the answer only where it is still owned) is the model's choice (log 82). -/
def Obligations.Barriers : Prop :=
  (∀ (s : State) (k : Nat) (bar : BitVec 9) (r d : BitVec 6) (delta : BitVec 8) (mode : BitVec 2) (free : Bool) (e : ESync),
    s.Issues k → (s.strand k).guard e.g = true →
    let st := s.strand k
    let n := (st.s r.toNat).toNat
    let sent (t : State) (kind : UpdKind) (waits : Bool) : Prop :=
      t.updates = s.updates ++ [⟨barCell bar, k, st.owner, kind, if s.onLine st.owner bar then 2 else 12, st.fl.accesses,
        waits, st.fl.seq, (st.bundleAddr, st.slot)⟩]
    (1 ≤ n → n ≤ 64 → ∃ t, Answers (.barinit bar r delta mode free e) s t ∧
      sent t (.barinit n delta.toNat mode.toNat free) false ∧
      (t.strand k).sy.barinit = some ((barCell bar).getD 0, engineSignal e)) ∧
    ((st.record bar).isSome ∨ st.sy.recs.length < 4 → ∃ t, Answers (.bararr bar e) s t ∧
      sent t (.arrive st.sy.phase.toNat) true ∧ (t.strand k).sy.recs = st.sy.recs.filter (·.bar != bar.toNat) ++
        [⟨bar.toNat, false, st.sy.phase.toNat, st.sy.gdelta.toNat, false, none⟩]) ∧
    (1 ≤ n → n < 2 ^ 48 → ∃ t, Answers (.barexp bar r e) s t ∧ sent t (.exp n) false) ∧
    (d = 0 → Commands (.barqry bar d e) e s k fun s => s) ∧
    (d ≠ 0 → ∃ t, Answers (.barqry bar d e) s t ∧ sent t (.query (.s (rotIndex st.sc.rotb d.toNat))) false ∧
      ∃ p, p ∈ (t.strand k).pend ∧ p.dst = .s (rotIndex st.sc.rotb d.toNat) ∧
        p.due = if s.onLine st.owner bar then 4 else 24) ∧
    (st.record bar = none → Commands (.barwait bar e) e s k fun s => s) ∧
    (∀ x, st.record bar = some x → ∃ t, Answers (.barwait bar e) s t ∧
      (t.strand k).sy.recs = st.sy.recs.filter (·.bar != bar.toNat) ∧
      (t.strand k).sy.barphase = (x.rg.map (barphaseOf x)).getD st.sy.barphase)) ∧
  (∀ (s : State) (k : Nat) (e : InFlightEvent), (s.away e.owner).isSome = false →
    let rest : State := { s with events := s.events.erase e }
    let ended (t : State) : State := t.modOwner e.owner fun st => { st with sy := { st.sy with barinit := none } }
    (∀ bar ph delta rg, s.dueEvent k Arrival.isRelease = some e → e.what = .release bar ph delta rg →
      Answers (.barrierRelease k) s (rest.modOwner e.owner fun st => { st with sy := { st.sy with recs := st.sy.recs.map fun r =>
        if r.bar = bar ∧ r.counted = true ∧ r.phase = ph ∧ r.rg = none then
          { r with rg := some rg, delta := delta.getD r.delta } else r } })) ∧
    (∀ cell free origin, s.dueEvent k Arrival.isAnswer = some e → e.what = .answer cell true free origin →
      Answers (.barinitAnswer k) s ((ended rest).raiseTo e.owner ⟨.barnown, BitVec.ofNat 64 cell, some origin, 7⟩)) ∧
    (∀ cell free origin, s.dueEvent k Arrival.isAnswer = some e → e.what = .answer cell false free origin →
      let base := if free = true ∧ (s.cell cell).own = some e.owner.ctx then rest.setCell cell Cell.free else rest
      Answers (.barinitAnswer k) s ((ended base).signalTo e.owner
        (((rest.strandOf e.owner).bind fun st => st.sy.barinit).bind fun b => b.2))) ∧
    (∀ src dst d, s.dueEvent k Arrival.isTransfer = some e → e.what = .transfer src dst d →
      Answers (.circuitTransferArrival k) s (rest.modOwner e.owner fun st =>
        { st with sy := { st.sy with inbox := st.sy.inbox ++ [(src, d)] } })) ∧
    (∀ d, s.dueEvent k Arrival.isCredit = some e → e.what = .credit d →
      Answers (.circuitCreditReturn k) s (rest.modOwner e.owner fun st => { st with sy := { st.sy with
        credits := SMap.set st.sy.credits d (SMap.get 2 st.sy.credits d + 1) } })))

/-- A cell's cycle (11 R276, R277): an arrival of its owner's counts; with every arrival there and no bytes owed the phase bit
turns, the counts start again, and the holders of the phase are released 12 cycles later.  The example is one arrival alone. -/
def Obligations.CellArrival : Prop :=
  ∀ (s : State) (n : Nat) (u : BarUpdate) (ph : Nat), n < 224 → s.updates = [u] → u.cell = some n → u.kind = .arrive ph →
    s.arrived u = true → (s.cell n).own = some u.owner.ctx → (s.cell n).parked = false → s.recordHolders n ≠ [] →
    false ∈ s.recordHolders n → (s.cell n).a < (s.cell n).at_ →
    ∃ t, Answers (.cellUpdateCycle n) s t ∧ t.updates = [] ∧ ((s.away u.owner).isSome = false → s.SameMemory t) ∧
      (let full := decide ((s.cell n).at_ ≤ (s.cell n).a + 1 ∧ (s.cell n).bt ≤ (s.cell n).b)
       (t.cell n).pb = ((s.cell n).pb != full) ∧
       (t.cell n).a = (if full then (s.cell n).carried else (s.cell n).a + 1) ∧
       (t.cell n).b = (if full then (s.cell n).b - (s.cell n).bt else (s.cell n).b) ∧
       (full = true → ∀ p ∈ t.holders (0x100 + n) (s.cell n).pb none,
         ⟨p.1, p.2, .release (0x100 + n) (s.cell n).pb (some (s.cell n).delta) (s.now + 12), 12⟩ ∈ t.events))

/-- SPAWN (11 R289, R290): with its checks passed it answers a status in q and s eight cycles later; status 0 puts the child into
the context's pool, any other leaves the pool.

NEXT in a persistent strand queues the task it has and its cursors for s48 on, at issue + 32, and stages the task (11 R295, R296):
what is staged already, else, in rank 0, the oldest entry that it may take, which enters RUN; where nothing is claimed s48 gets 0
and nothing is staged.  That NEXT passes over entries held back, and that rank 0 of the primary run alone claims, is the model's
choice (log 43). -/
def Obligations.SpawnAndNext : Prop :=
  (∀ (s : State) (k : Nat) (qd : BitVec 3) (cap : BitVec 4) (off d : BitVec 6) (after : Bool) (e : ESync), s.Issues k →
    (s.strand k).guard e.g = true →
    let st := s.strand k
    let x := st.c cap.toNat
    let o : Int := (st.s off.toNat).toNat
    let desc := readDesc (s.spadBytes k (capAddr x o) 128)
    let writes := (desc.ents.filter (·.2.2.1)).map fun w => (w.1, w.2.2.2.1, w.2.2.2.2)
    let status := s.spawnStatus st writes after
    let pool := (s.ctx st.id.ctx).pool
    st.checkCap cap.toNat [rRead, rSpawn] [kScratch] = none → checkBounds x o 128 = none → checkAlign x o 128 16 = none →
    st.checkDesc desc = none →
    ∃ t, Answers (.spawn qd cap off d after e) s t ∧ s.SameMemory t ∧
      (status ≠ 0 → (t.ctx st.id.ctx).pool = pool) ∧
      (status = 0 → ∃ p, (t.ctx st.id.ctx).pool = pool ++ [p] ∧ p.off = desc.off ∧ p.arg = desc.arg ∧ p.ents = desc.ents ∧
        p.node.depth = st.node.depth + 1 ∧ p.node.writes = writes ∧ p.after = (if after then st.node.children else [])) ∧
      (qd ≠ 0 → ∃ z ∈ (t.strand k).pend, z.dst = .q qd.toNat ∧ z.due = 8 ∧ z.value = if status = 0 then 1 else 0) ∧
      (d ≠ 0 → ∃ z ∈ (t.strand k).pend, z.dst = .s (rotIndex st.sc.rotb d.toNat) ∧ z.due = 8 ∧
        z.value = BitVec.ofNat 128 status)) ∧
  (∀ (s : State) (k : Nat) (e : ESync), s.Issues k → (s.strand k).guard e.g = true → (s.strand k).Room 8 →
    (s.strand k).id.pers = true →
    let st := s.strand k
    let u := (s.modStrand k fun x => x.count 8 32).modStrand k fun x => x.consumeWait e
    let c := (u.nextClaim k).2
    let put (i : Nat) (v : W64) : Exposed :=
      ⟨.s (rotIndex st.sc.rotb (48 + i)), 1, v.setWidth 4096, 32, st.fl.seq, st.slot, st.bundleAddr, 0, 0, 0⟩
    (∃ t, Answers (.next e) s t ∧ s.SameMemory t ∧ (t.strand k).sy.staged = (if c.1 = 0 then none else some c) ∧
      (t.strand k).exposed = st.exposed ++ (c.1.setWidth 64 :: c.2).mapIdx put) ∧
    (∀ r, st.sy.staged = some r → c = r) ∧
    (st.sy.staged = none → st.leads = true → ∀ p, u.entry st.id.tid.toNat = some p →
      ((∀ x ∈ u.window, x.matchesTask p = true → u.unordered x = false) → c = (0, [])) ∧
      ∀ a x b, u.window = a ++ x :: b → (∀ y ∈ a, (y.matchesTask p && u.unordered y) = false) → x.matchesTask p = true →
        u.unordered x = true → c = (BitVec.ofNat 32 x.tid, x.ops.map fun o => BitVec.ofNat 64 o.w.first) ∧
          ∃ y, (u.nextClaim k).1.entry x.tid = some y ∧ y.state = .run ∧ y.claimed = true))

/-- CSEND, CRECV and CTAB (11 R299-R301): an offer of a bound destination takes a credit and waits for its slot; a received
vector leaves the inbox for v[D], and its credit goes back to the source; a table governs from the first revolution at least 16
cycles away.

A slot of the circuit table begins (11 R300): the offer bound to it leaves for a strand of the context at its core. -/
def Obligations.Circuits : Prop :=
  (∀ (s : State) (k : Nat) (v : BitVec 9) (dst src : BitVec 6) (cap : BitVec 4) (off : BitVec 6) (e : ESync), s.Issues k →
    (s.strand k).guard e.g = true →
    let st := s.strand k
    let x := st.c cap.toNat
    let o : Int := (st.s off.toNat).toNat
    let bytes := s.spadBytes k (capAddr x o) 64
    (dst.toNat ≠ k → (∃ i < 64, bound (st.sy.table s.now) i = some dst.toNat) →
      ∃ t, Answers (.csend v dst e) s t ∧ (t.strand k).sy.sends = st.sy.sends ++ [(dst.toNat, st.v v.toNat, s.now)] ∧
        (t.strand k).sy.credit dst.toNat = st.sy.credit dst.toNat - 1) ∧
    (st.Room 1 → ∀ y, st.sy.inbox.find? (·.1 == src.toNat) = some y →
      ∃ t, Answers (.crecv v src e) s t ∧ (t.strand k).sy.inbox = st.sy.inbox.erase y ∧
        (t.strand k).exposed = st.exposed ++
          [⟨.v v.toNat, BitVec.allOnes 128, y.2, 2, st.fl.seq, st.slot, st.bundleAddr, 0, 0, 0⟩] ∧
        ∀ p, s.circuitOwner src.toNat st.id.ctx = some p → t.events = s.events ++
          [⟨src.toNat, p, .credit k, 16 + 4 * meshHops (chipOf src.toNat) (chipOf k)⟩]) ∧
    (1 ≤ st.id.priv.toNat → st.checkCap cap.toNat [rRead] [kScratch] = none → checkBounds x o 64 = none →
      checkAlign x o 64 1 = none → (∀ b ∈ bytes, b.getLsbD 6 = false ∧ ¬(b.getLsbD 7 = true ∧ b.toNat % 64 = k)) →
      ∃ t, Answers (.ctab cap off e) s t ∧ (t.strand k).sy.ctab = st.sy.table s.now ∧ (t.strand k).sy.credits = [] ∧
        let g := (s.now + 16 + 511) / 512 * 512
        (t.strand k).sy.ctabNext = (st.sy.ctabNext.filter fun y => s.now < y.2 ∧ y.2 ≠ g) ++
          [(((List.range 64).zip bytes).filter (·.2 != 0), g)])) ∧
  (∀ (s : State) (k d : Nat) (v : VReg) (g : Nat) (o : Owner), s.offer k = some (d, v, g) →
    s.circuitOwner d (s.strand k).id.ctx = some o →
    ∃ t, Answers (.circuitSlot k) s t ∧ (t.strand k).sy.sends = (s.strand k).sy.sends.erase (d, v, g) ∧
      t.events = s.events ++ [⟨d, o, .transfer k d v, 16 + 4 * meshHops (chipOf k) (chipOf d)⟩])

/-- Integer and bitwise lanes (09 R225): each element of the active lanes gets the exact result, wrapped or saturated as the form
says, two or three cycles from issue, where no upset disturbs the unit.

Floating lanes (09 R226-R228): one exact operation, rounded once in the form's mode, but for VEXP2 and VLOG2, whose value of
finite precision is the model's choice (log 16); minimum, maximum, sign and clamp work on the codes. -/
def Obligations.VectorLanes : Prop :=
  (∀ (s : State) (k : Nat) (o : VOp), s.Issues k → s.Undisturbed k → (s.strand k).Room 1 → (s.strand k).checkIndexed o = none →
    let st := s.strand k
    let t := o.typ.toNat
    let w := typeWidth t
    let int (i : Instr) (lat : Nat) (sat : Bool) (r : Int → Int → Int → Int) : Prop :=
      Lanes i o s k lat fun l => intLane t sat r (st.aLane o l) (st.bLane o l) (st.cLane o l)
    let bits (i : Instr) (r : Nat → Nat → Nat) : Prop :=
      Lanes i o s k 2 fun l => lane_of t fun e => (r (elem w e (st.aLane o l)) (elem w e (st.bLane o l)), fNone)
    let whole (i : Instr) (r : W32 → W32 → W32) : Prop :=
      Lanes i o s k 2 fun l => (r (st.aLane o l) (st.bLane o l), fNone)
    int (.vadd o) 2 false (fun x y _ => x + y) ∧ int (.vsub o) 2 false (fun x y _ => x - y) ∧
    int (.vadds o) 2 true (fun x y _ => x + y) ∧ int (.vsubs o) 2 true (fun x y _ => x - y) ∧
    int (.vmul o) 3 o.sat (fun x y _ => x * y) ∧ int (.vmulh o) 3 false (fun x y _ => x * y / 2 ^ w) ∧
    int (.vmac o) 3 o.sat (fun x y z => x * y + z) ∧ int (.vaddi o) 2 false (fun x _ _ => x + o.c.toInt) ∧
    int (.vmin o) 2 false (fun x y _ => min x y) ∧ int (.vmax o) 2 false (fun x y _ => max x y) ∧
    int (.vabs o) 2 o.sat (fun x _ _ => if 0 ≤ x then x else -x) ∧ int (.vneg o) 2 o.sat (fun x _ _ => -x) ∧
    int (.vshl o) 2 o.sat (fun x y _ => x * 2 ^ min w (y % 2 ^ w).toNat) ∧
    bits (.vshr o) (fun x y => x / 2 ^ min w y) ∧ bits (.vsar o) (fun x y => wrapI (signedOf x w / 2 ^ min w y) w) ∧
    bits (.vclz o) (fun x _ => leadZeros w x) ∧ bits (.vpopc o) (fun x _ => onesBelow x w) ∧
    whole (.vand o) (fun a b => a &&& b) ∧ whole (.vor o) (fun a b => a ||| b) ∧ whole (.vxor o) (fun a b => a ^^^ b) ∧
    whole (.vandn o) (fun a b => a &&& ~~~b)) ∧
  (∀ (s : State) (k : Nat) (o : VOp), s.Issues k → s.Undisturbed k → (s.strand k).Room 1 → (s.strand k).checkIndexed o = none →
    let st := s.strand k
    let t := o.typ.toNat
    let mode := o.rnd.toNat
    let fp (i : Instr) (lat : Nat) (r : Val → Val → Val → Val × Flags) : Prop :=
      Lanes i o s k lat fun l => fpLane t mode o.sat r (st.aLane o l) (st.bLane o l) (st.cLane o l)
    let code (i : Instr) (r : FloatFmt → Nat → Nat → Nat → Nat × Flags) : Prop :=
      Lanes i o s k 4 fun l => codeLane t r (st.aLane o l) (st.bLane o l) (st.cLane o l)
    fp (.vfadd o) 4 (fun x y _ => addV mode x y) ∧ fp (.vfsub o) 4 (fun x y _ => addV mode x y.neg) ∧
    fp (.vfmul o) 4 (fun x y _ => mulV x y) ∧ fp (.vfma o) 4 (fun x y z => fmaV mode x y z) ∧
    fp (.vfdiv o) 12 (fun x y _ => divV x y) ∧ fp (.vrcp o) 6 (fun x _ _ => divV (.fin false 1 0) x) ∧
    fp (.vrsq o) 6 (fun x _ _ => rsqV x) ∧ fp (.vexp2 o) 6 (fun x _ _ => exp2V x) ∧
    fp (.vlog2 o) 6 (fun x _ _ => log2V x) ∧
    code (.vfmin o) (fun ff x y _ => minmaxF false ff x y) ∧ code (.vfmax o) (fun ff x y _ => minmaxF true ff x y) ∧
    code (.vfabs o) (fun ff x _ _ => signF false ff x) ∧ code (.vfneg o) (fun ff x _ _ => signF true ff x) ∧
    ((typeFloat t).isSome = true → code (.vclamp o) fun ff x y z =>
      let m := minmaxF true ff x y
      ((minmaxF false ff m.1 z).1, m.2 ||| (minmaxF false ff m.1 z).2)) ∧
    ((typeFloat t).isSome = false →
      Lanes (.vclamp o) o s k 2 fun l =>
        intLane t false (fun x y z => min (max x y) z) (st.aLane o l) (st.bLane o l) (st.cLane o l)))

/-- VTACC (09 R235): each active lane gets k + x, k - x or k by the sign of t, all read as i32, saturated or wrapped. -/
def Obligations.TernaryAccumulate : Prop :=
  ∀ (s : State) (k : Nat) (o : VOp), s.Issues k → s.Undisturbed k → (s.strand k).Room 1 → (s.strand k).checkIndexed o = none →
    let st := s.strand k
    let sum (l : Nat) : Int :=
      (st.cLane o l).toInt + (if 0 < (st.aLane o l).toInt then (st.bLane o l).toInt
        else if (st.aLane o l).toInt < 0 then -(st.bLane o l).toInt else 0)
    Lanes (.vtacc o) o s k 2 fun l =>
      (BitVec.ofInt 32 (if o.sat = true then max (-2 ^ 31) (min (2 ^ 31 - 1) (sum l)) else sum l), fNone)

/-- Compares (09 R229): the true predicate takes the condition of the active lanes, the other predicate its complement; with
.clr the inactive lanes become false; p0 is not written; a lane whose index names no register is not written, and an active one,
no other (log 81, the model's choice), sets BADIX (09 R215, R216).

Moves between lanes and scalars (09 R214, R230): VSEL writes every lane, its guard selecting; VGET reads one lane into s;
VPUT writes one lane. -/
def Obligations.VectorCompares : Prop :=
  (∀ (s : State) (k : Nat) (o : VOp), s.Issues k → (s.strand k).Room 2 → (s.strand k).checkIndexed o = none →
    let st := s.strand k
    let act := st.active o.g
    let live := ofBits fun l => act.getLsbD l && !st.suppressed o l
    let bad := (lanesOf act).any fun l => st.suppressed o l
    let mask : PReg := if o.d.getLsbD 8 then ofBits fun l => !st.suppressed o l else live
    let gives (i : Instr) (f : Nat → Bool × Flags) : Prop :=
      Acts i s k fun z =>
        ((z.count 2 2).landPred (o.d.toNat % 16) mask (ofBits fun l => live.getLsbD l && (f l).1) 2
          (vbits (flagsOf (fun l => (f l).2) (lanesOf live)) ||| (if bad then vBADIX else 0))).landPred
          (o.d.toNat / 16 % 16) mask (ofBits fun l => live.getLsbD l && !(f l).1) 2 0
    gives (.vcmp o) (fun l => (cmpInt o.typ.toNat o.fn.toNat (st.aLane o l) (st.bLane o l), fNone)) ∧
    gives (.vfcmp o) (fun l => cmpF o.fn.toNat (st.aLane o l) (st.bLane o l))) ∧
  (∀ (s : State) (k : Nat) (o : VOp), s.Issues k → (s.strand k).Room 1 → (s.strand k).checkIndexed o = none →
    let st := s.strand k
    let act := st.active o.g
    Lanes (.vmov o) o s k 2 (fun l => (st.aLane o l, fNone)) ∧
    Acts (.vsel o) s k (fun z => (z.count 1 2).landLanes o (BitVec.allOnes 128) 2 fun l =>
      (if act.getLsbD l then st.aLane o l else st.bLane o l, fNone)) ∧
    Lanes (.vbcast o) o s k 2 (fun _ => (bcast o.typ.toNat (st.s o.a.toNat), fNone)) ∧
    Lanes (.viota o) o s k 2 (fun l => (BitVec.ofNat 32 l, fNone)) ∧
    Acts (.vput o) s k (fun z => (z.count 1 2).landLanes o (ofBits fun l => l == o.b.toNat && act.getLsbD o.b.toNat) 2 fun _ =>
      ((st.s o.a.toNat).setWidth 32, fNone)) ∧
    Acts (.vget o) s k (fun z =>
      let x := lane (st.v o.a.toNat) o.b.toNat
      if act.getLsbD o.b.toNat then
        (z.count 1 3).pushS o.d.toNat (if o.typ = 0 then BitVec.ofInt 64 x.toInt else BitVec.ofNat 64 x.toNat) 3 false
      else z.count 1 3))

/-- Conversions and narrow formats (09 R231-R234): VCVT by element; an unpack reads elements 128 k on of the byte stream; a pack
replaces that part of d; VUNPT5 writes the five weights of each byte to d to d + 4, with BADPK where a byte is none of weights. -/
def Obligations.VectorConversions : Prop :=
  ∀ (s : State) (k : Nat) (o : VOp), s.Issues k → (s.strand k).Room 5 → (s.strand k).checkIndexed o = none →
    let st := s.strand k
    let act := st.active o.g
    let ts := o.fn.toNat % 16
    let td := o.typ.toNat
    let unpacks (i : Instr) (lat w c : Nat) (val : Nat → Int) : Prop :=
      Lanes i o s k lat fun l => (BitVec.ofInt 32 (val ((st.v o.a.toNat).toNat / 2 ^ (w * (128 * c + l)) % 2 ^ w)), fNone)
    let packs (i : Instr) (w c fmt : Nat) (sat : Bool) : Prop :=
      let code (l : Nat) : Nat × Flags :=
        conv (typeVal td (lane (st.v o.a.toNat) l).toNat) fmt 0 o.rnd.toNat sat (o.typ == 2)
      let old := (st.v o.d.toNat).toNat
      let at_ := 2 ^ (w * 128 * c)
      let part := old / at_ % 2 ^ (w * 128)
      Acts i s k fun z => (z.count 1 3).expose (.v o.d.toNat) (BitVec.allOnes 128)
        (BitVec.ofNat 4096 (old - part * at_ + putElems part w (fun l => (code l).1) (lanesOf act) * at_)) 3
        (vbits (flagsOf (fun l => (code l).2) (lanesOf act))) 0
    Lanes (.vcvt o) o s k 3 (fun l => lane_of td fun e =>
      let w := typeWidth ts
      let a := st.aLane o l
      let b := st.bLane o l
      cvt ts td o.rnd.toNat o.sat
        (if typeCount td = typeCount ts then elem w e a
         else if typeCount td = 2 * typeCount ts then (if e < typeCount ts then elem w e a else elem w (e - typeCount ts) b)
         else elem w (o.fn.toNat / 16 * typeCount td + e) a)) ∧
    unpacks (.vunp4 o) 3 4 (o.fn.toNat % 8) (if o.fn.getLsbD 3 then p4Val else i4Val) ∧
    unpacks (.vunp6 o) 3 6 o.fn.toNat dp6Val ∧ unpacks (.vdpx o) 2 8 o.fn.toNat dp8Val ∧
    packs (.vpack4 o) 4 (o.fn.toNat % 8) (if o.fn.getLsbD 3 then 0x0A else 0x09) o.sat ∧
    packs (.vpack6 o) 6 o.fn.toNat 0x0B false ∧ packs (.vdpq o) 8 o.fn.toNat 0x0C false ∧
    (let dec (l : Nat) : List Int × Bool := tritDecode ((lane (st.v o.a.toNat) l).toNat % 256)
     Acts (.vunpt5 o) s k fun z => (List.range 5).foldl (fun y i =>
      if act = 0 then y
      else y.expose (.v (o.d.toNat + i)) act (ofLanes fun l => BitVec.ofInt 32 ((dec l).1.getD i 0)) 3
        (if i = 0 ∧ ((lanesOf act).any fun l => (dec l).2) = true then vBADPK else 0) 0) (z.count 5 3))

/-- Permutes (09 R236).

Predicate instructions (09 R238): the logic of two predicates, a complement or a prefix for the active lanes; the count and the
first of the active lanes that are set. -/
def Obligations.VectorPermutes : Prop :=
  (∀ (s : State) (k : Nat) (o : VOp), s.Issues k → (s.strand k).Room 1 → (s.strand k).checkIndexed o = none →
    let a (l : Nat) : W32 := lane ((s.strand k).v o.a.toNat) l
    let b (l : Nat) : W32 := lane ((s.strand k).v o.b.toNat) l
    let c (l : Nat) : W32 := lane ((s.strand k).v o.c.toNat) l
    let f := o.fn.toNat
    Lanes (.vperm o) o s k 4 (fun l =>
      (if (b l).toNat % 256 < 128 then a ((b l).toNat % 256) else c ((b l).toNat % 256 - 128), fNone)) ∧
    Lanes (.vrot o) o s k 2 (fun l => (a ((l + o.b.toNat) % 128), fNone)) ∧
    Lanes (.vzip o) o s k 2 (fun l => (if l % 2 = 0 then a (64 * f + l / 2) else b (64 * f + l / 2), fNone)) ∧
    Lanes (.vunzip o) o s k 2 (fun l => (if l < 64 then a (2 * l + f) else b (2 * (l - 64) + f), fNone))) ∧
  (∀ (s : State) (k : Nat) (o : VOp), s.Issues k → (s.strand k).Room 1 →
    let st := s.strand k
    let act := st.active o.g
    let a := st.p o.a.toNat
    let b := st.p o.b.toNat
    let gives (i : Instr) (v : PReg) : Prop := Acts i s k fun z => (z.count 1 2).landPred (o.d.toNat % 16) act v 2 0
    gives (.plog o) (if o.fn = 0 then a &&& b else if o.fn = 1 then a ||| b else if o.fn = 2 then a ^^^ b else a &&& ~~~b) ∧
    gives (.pnot o) (~~~a) ∧
    gives (.pset o) (ofBits fun l => decide (l < o.b.toNat) != o.fn.getLsbD 0) ∧
    Acts (.pcnt o) s k (fun z => (z.count 1 2).pushS o.d.toNat (BitVec.ofNat 64 (lanesOf (a &&& act)).length) 2 false) ∧
    Acts (.pfirst o) s k (fun z => (z.count 1 2).pushS o.d.toNat (BitVec.ofNat 64 ((lanesOf (a &&& act)).headD 128)) 2 false))

/-- Reductions, sorts and scans (09 R237, R239-R241, 04 R104): a reduction's tree takes the identity for the inactive lanes and
writes lane 0 or all.  VSORT and VSCAN start a long operation of 32 or 16 cycles.  What VSORT gives is the keys of the active lanes
in order, equal keys by lane, then those of the inactive ones by lane, in d, and the payloads beside them in d + 1; what VSCAN gives
is the running results of the active lanes.  The results are the same wherever the network stands. -/
def Obligations.VectorReductions : Prop :=
  ∀ (s : State) (k : Nat) (o : VOp), s.Issues k → s.Undisturbed k → (s.strand k).Room 2 →
    let st := s.strand k
    let act := st.active o.g
    let t := o.typ.toNat
    let reduces (i : Instr) (op : Nat) (sat : Bool) : Prop :=
      let r := (tree (redStep op t sat) 7 ((List.range 128).map fun l =>
        ((if act.getLsbD l then lane (st.v o.a.toNat) l else redIdent op t), fNone))).headD (0, fNone)
      Acts i s k fun z => (z.count 1 7).expose (.v o.d.toNat) (if o.fn = 0 then 1 else BitVec.allOnes 128)
        (ofLanes fun _ => r.1) 7 (vbits r.2) 0
    let key (l : Nat) : Int := sortKey t (lane (st.v o.a.toNat) l)
    let before (l m : Nat) : Prop := (if o.fn = 0 then key l < key m else key m < key l) ∨ (key l = key m ∧ l < m)
    let starts (i : Instr) (n cycles : Nat) (gives : List Exposed) : Prop :=
      ∃ L : LongOp, (Acts i s k fun z => { z.count n cycles with longs := z.longs ++ [L] }) ∧ L.left = cycles ∧ L.done = 0 ∧
        ∀ c, L.results c = gives ∧ ∀ n, (LongOp.step^[n] L).results c = gives
    let result (d : Nat) (mask : PReg) (v : VReg) (left : Nat) (flags : BitVec 8) : Exposed :=
      ⟨.v d, mask, v, left, st.fl.seq, st.slot, st.bundleAddr, flags, 0, 0⟩
    reduces (.vredadd o) 0 o.sat ∧ reduces (.vredfadd o) 0 false ∧ reduces (.vredmax o) 1 o.sat ∧ reduces (.vredmin o) 2 o.sat ∧
    (∃ order : List Nat, order.Perm (lanesOf act) ∧ order.Pairwise before ∧
      let all := order ++ lanesOf (~~~act)
      let image (v : VReg) : VReg := ofLanes fun j => lane v (all.getD j 0)
      starts (.vsort o) 2 32 [result o.d.toNat (BitVec.allOnes 128) (image (st.v o.a.toNat)) 32 0,
        result (o.d.toNat + 1) (BitVec.allOnes 128) (image (st.v o.b.toNat)) 32 0]) ∧
    let op := o.fn.toNat / 2
    let scan := scanFrom (redStep op t o.sat) act (st.v o.a.toNat) (o.fn.getLsbD 0) (List.range 128) (redIdent op t, fNone)
    starts (.vscan o) 1 16
      [result o.d.toNat act (ofLanes fun l => if act.getLsbD l then scan.1.getD l 0 else 0) 16 (vbits scan.2)]

/-- The residue check (09 R222).  Where upsets meet the slot, an active element of a checked form is formed from its exact value
with their bits flipped, and the elements whose residue modulo 255 then differs are noted with the result: in class S and D it has
RESID and their count, in class N nothing is checked.  One flipped bit is always found.  At the landing RESID adds the count to
SIG2 and raises the late check fault.  That an upset turns bits of the exact value before it is narrowed is the model's choice
(log 15). -/
def Obligations.ResidueCheck : Prop :=
  (∀ (s : State) (k : Nat) (o : VOp), s.Issues k → s.upsetsOf k ≠ [] → (s.strand k).Room 1 → (s.strand k).checkIndexed o = none →
    let st := s.strand k
    let t := o.typ.toNat
    let flips (l : Nat) : Nat → Nat := flipsAt (s.upsetsOf k) l
    let upset (i : Instr) (lat : Nat) (r : Nat → (W32 × Flags) × Nat) : Prop := Acts i s k fun z =>
      ((z.count 1 lat).landLanes o (st.active o.g) lat fun l => (r l).1).noteResid
        (((lanesOf (st.active o.g)).filter fun l => !st.suppressed o l).map fun l => (r l).2).sum
    let int (i : Instr) (t lat : Nat) (sat : Bool) (r : Int → Int → Int → Int) (post : Int → Int) : Prop :=
      upset i lat fun l => intLaneUpset t sat r post (flips l) (st.aLane o l) (st.bLane o l) (st.cLane o l)
    int (.vadd o) t 2 false (fun x y _ => x + y) id ∧ int (.vsub o) t 2 false (fun x y _ => x - y) id ∧
    int (.vadds o) t 2 true (fun x y _ => x + y) id ∧ int (.vsubs o) t 2 true (fun x y _ => x - y) id ∧
    int (.vaddi o) t 2 false (fun x _ _ => x + o.c.toInt) id ∧ int (.vmul o) t 3 o.sat (fun x y _ => x * y) id ∧
    int (.vmulh o) t 3 false (fun x y _ => x * y) (fun p => p / 2 ^ typeWidth t) ∧
    int (.vmac o) t 3 o.sat (fun x y z => x * y + z) id ∧
    int (.vtacc o) 0 2 o.sat (fun u x c => c + if 0 < u then x else if u < 0 then -x else 0) id ∧
    upset (.vfmul o) 4 (fun l => fpLaneUpset t o.rnd.toNat o.sat false (flips l) (st.aLane o l) (st.bLane o l) 0) ∧
    upset (.vfma o) 4 (fun l =>
      fpLaneUpset t o.rnd.toNat o.sat true (flips l) (st.aLane o l) (st.bLane o l) (st.cLane o l))) ∧
  (∀ (st : Strand) (n : Nat) (x : Exposed), (st.exposed.find? fun y => y.seq == st.fl.seq && y.slot == st.slot) = some x →
    (n ≠ 0 → st.id.cls ≠ 0 → (st.noteResid n).exposed = st.exposed.replace x { x with flags := x.flags ||| vRESID, resn := n }) ∧
    (n = 0 ∨ st.id.cls = 0 → st.noteResid n = st)) ∧
  (∀ (v : Int) (i : Nat), i < 64 → residueFails v (2 ^ i) = true) ∧
  (∀ (s : State) (k : Nat) (e : Exposed), e.flags.getLsbD 7 = true →
    let t := s.landExposed k e
    SMap.get 0 (t.strand k).sigNow 2 = SMap.get 0 (s.strand k).sigNow 2 + BitVec.ofNat 64 e.resn ∧
      ∃ f ∈ (t.core k).now.late, f.code = .resid ∧ f.place = some (e.addr, e.slot))

/-- Matrix commands (10 R253-R260): with its checks passed an operation joins the engine, with its address, pitch, rows and
cycles per row; a stream without a check row clears CRV, and so does MLDZ.  Nothing else changes at issue. -/
def Obligations.MatrixCommands : Prop :=
  ∀ (s : State) (k : Nat) (o : MOp), s.Issues k →
    let st := s.strand k
    let x := st.mx
    let a := capBase (st.c o.cap.toNat) + (st.s o.off.toNat).toNat
    let f := fmtCode (st.fmtReg a)
    let width := 128 * bandCount x.ashape
    let rows := st.checkRows o
    let starts (i : Instr) (kind : MKind) (c : Nat) (crv : BitVec 8) (g : MatOp → Prop) : Prop :=
      ∃ m, Acts i s k (fun z => { z with mx := { z.mx with ops := x.ops ++ [m], crv := crv } }) ∧ m.kind = kind ∧ m.o = o ∧
        m.rows = o.rows ∧ m.base = a ∧ m.pitch = (st.s o.scale.toNat).toNat ∧ m.c = c ∧ m.landed = 0 ∧ m.age = 0 ∧ g m
    o.prof.toNat ≤ 5 →
    (o.row0.toNat + o.rows ≤ width → ¬(o.t = true ∧ f ∈ [0x09, 0x0A, 0x0B, 0x0D]) →
      rows rRead (if o.t then o.extent else o.rows) (if o.t then o.rows else o.extent) (weightFmts o.prof.toNat) = none →
      starts (.mldw o) .ldw 1 x.crv fun _ => True) ∧
    (o.extent ≤ width → rows rRead o.rows o.extent (actFmts o.prof.toNat) = none → st.checkSlices o.prof.toNat = none →
      starts (.mstr o) .str (st.streamCycles o.prof.toNat f)
        (if st.id.cls ≠ 0 ∨ o.t = true then x.crv else setQ x.crv o.tile.toNat false) fun m => m.plane = x.active) ∧
    (o.size.toNat + o.rows ≤ 384 → st.checkSlices 0 = none →
      starts (.mstrv o) .strv (st.streamCycles 0 0x01)
        (if st.id.cls ≠ 0 ∨ o.t = true then x.crv else setQ x.crv o.tile.toNat false) fun m => m.plane = x.active) ∧
    (rows rRead o.rows o.extent (if o.prof = 0 then [0x05, 0x00] else [0x08, 0x00]) = none →
      starts (.mldz o) .ldz 1 (setQ x.crv o.tile.toNat false) fun _ => True) ∧
    (-64 ≤ (st.s (o.scale.toNat + 1)).toInt → (st.s (o.scale.toNat + 1)).toInt ≤ 63 →
      (f = 0 → st.s (o.scale.toNat + 1) = 0) → rows rWrite o.rows o.extent (List.range 13) = none →
      starts (.mout o) .out 1 x.crv fun m => m.shift = (st.s (o.scale.toNat + 1)).toInt) ∧
    starts (.mchk o) .chk 1 x.crv fun _ => True

/-- MSWAP (10 R254): the planes change places, with their RS values and records; two swaps restore them. -/
def Obligations.PlaneSwap : Prop :=
  ∀ (s : State) (k : Nat) (o o' : MOp), s.Issues k → ∃ t u, Answers (.mswap o) s t ∧ Answers (.mswap o') t u ∧
    (t.strand k).mx.active = (s.strand k).mx.shadow ∧ (t.strand k).mx.shadow = (s.strand k).mx.active ∧
    (t.strand k).mx.tile = (s.strand k).mx.tile ∧ (t.core k).now.late = (s.core k).now.late ∧ t.mem = s.mem ∧
    (u.strand k).mx = (s.strand k).mx

/-- MZERO (10 R256): the rows of the range and their CC are zero, every other row of every tile stays; a whole tile has CR cleared
and CRV set, any other range clears CRV. -/
def Obligations.TileZero : Prop :=
  ∀ (s : State) (k : Nat) (o : MOp), s.Issues k →
    let x := (s.strand k).mx
    let z := o.tile.toNat
    let inside (q : Nat) : Prop := 512 * z + o.row0.toNat ≤ q ∧ q < 512 * z + o.row0.toNat + o.rows
    let whole : Prop := o.row0 = 0 ∧ o.rows = 512
    ∃ t, Answers (.mzero o) s t ∧ s.SameMemory t ∧
      let y := (t.strand k).mx
      (∀ q, inside q → SMap.get 0 y.tile q = 0 ∧ SMap.get 0 y.cc q = 0) ∧
      (∀ q, ¬inside q → SMap.get 0 y.tile q = SMap.get 0 x.tile q ∧ SMap.get 0 y.cc q = SMap.get 0 x.cc q) ∧
      (∀ n < 512, whole → SMap.get 0 y.cr (512 * z + n) = 0) ∧ (¬whole → y.cr = x.cr) ∧
      (y.crv.getLsbD z = true ↔ whole) ∧ y.active = x.active ∧ y.shadow = x.shadow

/-- MOUTV and MSHAPE (10 R259, R261): four registers get the columns of a tile row six cycles later; a legal mask within the
header's becomes ASHAPE, and a band that is newly enabled takes 256 cycles to power up. -/
def Obligations.MatrixRegisters : Prop :=
  ∀ (s : State) (k : Nat) (o : MOp), s.Issues k →
    let st := s.strand k
    let m : BitVec 4 := o.size.setWidth 4
    (st.Room 4 → o.size.toNat ≤ 380 → ∃ t, Answers (.moutv o) s t ∧ (t.strand k).mx = st.mx ∧ s.SameMemory t ∧
      ∀ q < 4, ∃ z ∈ (t.strand k).exposed, z.dst = .v (o.size.toNat + q) ∧ z.due = 6 ∧ z.mask = BitVec.allOnes 128 ∧
        ∀ l < 128, lane z.value l = tcol (st.mx.row o.tile.toNat o.row0.toNat) (128 * q + l)) ∧
    (m = 1 ∨ m = 3 ∨ m = 7 ∨ m = 15 → m &&& ~~~st.kn.bands = 0 → ∃ t, Answers (.mshape o) s t ∧
      (t.strand k).mx.ashape = m ∧ (t.strand k).mx.tile = st.mx.tile ∧
      (t.strand k).mx.powerUp = if m &&& ~~~st.mx.ashape = 0 then st.mx.powerUp else 258) ∧
    Acts (.bandPowerUpEnd k) s k fun z => { z with mx := { z.mx with powerUp := 0 } }

/-- The rows of the tile-transfer unit (10 R257, R258): a loaded row takes the bits of its elements, zeros beyond them, and its
CC the sum, in a float profile rounded once; a stored row leaves the tile and joins the scratchpad writes of the cycle, each
element moved as bits or converted under the format, rounding and saturation of the row's own bank.

A row of a stream lands (10 R255): every column, and CC, is the element tree of its old value, the activation row and the
active plane; a check row does the same to CR with the column sums.  Nothing else of the tiles changes.

A row of a load is written into the shadow plane alone (10 R253): its weights are those of the source codes; the last row
clears the rest of its slice, and the slice gets the record of the load.

That MLDZ moves the bits of its elements without a scale, and where RS and the column sums are rounded, is the model's choice
(logs 96, 28). -/
def Obligations.TileRows : Prop :=
  (∀ (s : State) (k : Nat) (o : MatOp) (c : List Nat),
    let x := (s.strand k).mx
    (x.ops.find? MatOp.loadDue = some o → o.inFlight.head? = some c →
      ∃ t, Answers (.tileRowLoad k) s t ∧ s.SameMemory t ∧
        let q := 512 * o.o.tile.toNat + o.o.row0.toNat + o.landed
        (∀ n < 512, tcol (SMap.get 0 (t.strand k).mx.tile q) n = BitVec.ofNat 32 (c.getD n 0)) ∧
        (o.o.prof = 0 → SMap.get 0 (t.strand k).mx.cc q = BitVec.ofNat 32 (c.foldl (· + ·) 0)) ∧
        (o.o.prof ≠ 0 → SMap.get 0 (t.strand k).mx.cc q = codeOf (roundSum (sumV (c.map f32.val))).1) ∧
        ∀ p ≠ q, SMap.get 0 (t.strand k).mx.tile p = SMap.get 0 x.tile p ∧
          SMap.get 0 (t.strand k).mx.cc p = SMap.get 0 x.cc p) ∧
    (x.ops.find? MatOp.storeDue = some o → ∃ t bs, Answers (.tileRowStore k) s t ∧ s.SameMemory t ∧
      (t.strand k).mx.tile = x.tile ∧ (t.core k).now.mbuf = (s.core k).now.mbuf ++ atAddr (o.base + o.landed * o.pitch) bs ∧
      let r := o.rowFmtb o.landed
      let f := fmtCode r
      let out (c : W32) : Nat :=
        if f = 0 then c.toNat
        else (conv ((if o.o.prof = 0 then Val.ofInt c.toInt else f32.val c.toNat).scale o.shift) f (fmtScale r) (fmtRnd r)
          (fmtSat r) (o.o.prof != 0)).1
      bs.length = rowBytes f o.o.extent ∧
      (f ≠ 0x0D → ∀ n < o.o.extent, ofLE bs / 2 ^ (fmtWidth f * n) % 2 ^ fmtWidth f =
        out (tcol (o.tileRow x (o.o.row0.toNat + o.landed)) n) % 2 ^ fmtWidth f))) ∧
  (∀ (s : State) (k : Nat) (o : MatOp), (s.strand k).mx.ops.find? MatOp.landDue = some o →
    let x := (s.strand k).mx
    let prof := if o.kind = .strv then 0 else o.o.prof.toNat
    let kk := 128 * o.bands
    let el (old : W32) (a w : List Scaled) : W32 := (element prof (8 * o.bands) old a w).1
    let z := o.o.tile.toNat
    let q := 512 * z + (o.o.row0.toNat + o.landed)
    let a := o.acts (o.inFlight.headD [])
    let sums : List Scaled := o.colsum.map fun v =>
      (if prof = 0 then Val.ofInt (BitVec.ofInt 32 (v.units 0)).toInt else (roundNe v).1, 0)
    ∃ t, Answers (.tileRowLand k) s t ∧ s.SameMemory t ∧
      (o.landed < o.rows →
        (∀ n < 512, tcol (SMap.get 0 (t.strand k).mx.tile q) n =
          el (tcol (o.tileRow x (o.o.row0.toNat + o.landed)) n) a (o.plane.col kk n)) ∧
        SMap.get 0 (t.strand k).mx.cc q = el (SMap.get 0 x.cc q) a (o.plane.rsCol kk) ∧ (t.strand k).mx.cr = x.cr ∧
        ∀ p ≠ q, SMap.get 0 (t.strand k).mx.tile p = SMap.get 0 x.tile p) ∧
      (o.rows ≤ o.landed → (t.strand k).mx.tile = x.tile ∧ (t.strand k).mx.cc = x.cc ∧
        ∀ n < 512, SMap.get 0 (t.strand k).mx.cr (512 * z + n) = el (SMap.get 0 x.cr (512 * z + n)) sums (o.plane.col kk n))) ∧
  (∀ (s : State) (k : Nat) (o : MatOp), (s.strand k).mx.ops.find? MatOp.planeDue = some o →
    let x := (s.strand k).mx
    let r := o.o.row0.toNat + o.landed
    let last := o.landed + 1 = o.rows
    ∃ t, Answers (.planeRowWrite k) s t ∧ s.SameMemory t ∧ (t.strand k).mx.active = x.active ∧
      (t.strand k).mx.tile = x.tile ∧
      (t.strand k).mx.shadow.row r =
        (planeRow (weightClass o.o.prof.toNat) (fmtCode o.fmtb) o.o.extent (fmtScale o.fmtb) o.planeCodes).1 ∧
      (∀ p, p ≠ r → ¬(last ∧ r < p ∧ p / 64 = r / 64) → (t.strand k).mx.shadow.row p = x.shadow.row p) ∧
      (∀ p, last → r < p → p / 64 = r / 64 → (t.strand k).mx.shadow.row p = ⟨[], .fin false 0 0, 0⟩) ∧
      (last ∨ r % 64 = 63 → ∃ y, (t.strand k).mx.shadow.rec? (r / 64) = some y ∧ y.fmt = fmtCode o.fmtb ∧
        y.n = o.o.extent ∧ y.row0 = o.o.row0.toNat ∧ y.count = o.rows ∧ y.trans = o.o.t ∧ y.pitch = o.pitch))

/-- MCHK under profile 0 without column checks (10 R260): with every row's sum, modulo 2^32, its CC the check raises nothing; the
first row that differs is recorded with its syndrome, where CHKLOC held no failure, and CHKLOC takes the record when the cycle
ends.  MCHK changes no tile. -/
def Obligations.CheckOutcome : Prop :=
  ∀ (s : State) (k : Nat) (o : MatOp), (s.strand k).mx.ops.find? MatOp.chkDue = some o → o.o.prof = 0 →
    o.o.row0.toNat + o.rows ≤ 512 → (s.strand k).mx.crv.getLsbD o.o.tile.toNat = false → (s.strand k).mx.chkloc.toNat / 2 ^ 29 % 8 = 0 →
    let x := (s.strand k).mx
    let z := 512 * o.o.tile.toNat
    let row (i : Nat) : W32 := ((List.range 512).map (tcol (o.tileRow x i))).foldl (· + ·) 0
    let cc (i : Nat) : W32 := SMap.get 0 x.cc (z + i)
    ∃ t, Answers (.mchkOutcome k) s t ∧ s.SameMemory t ∧ (t.strand k).mx.tile = x.tile ∧ (t.strand k).mx.cc = x.cc ∧
      ((∀ j < o.rows, row (o.o.row0.toNat + j) = cc (o.o.row0.toNat + j)) →
        (t.core k).now.late = (s.core k).now.late ∧ (t.core k).now.chkloc = (s.core k).now.chkloc ∧
        (t.core k).now.mstat = (s.core k).now.mstat) ∧
      (∀ j < o.rows, row (o.o.row0.toNat + j) ≠ cc (o.o.row0.toNat + j) →
        (∀ i < j, row (o.o.row0.toNat + i) = cc (o.o.row0.toNat + i)) →
        (t.core k).now.mstat.getLsbD 3 = true ∧
        (∃ y, (t.core k).now.chkloc = some y ∧ y.getLsbD 30 = true ∧ y.toNat % 2 ^ 12 = o.o.row0.toNat + j ∧
          y.toNat / 2 ^ 32 = (row (o.o.row0.toNat + j) - cc (o.o.row0.toNat + j)).toNat) ∧
        ((s.strand k).id.cls ≠ 0 ∨ x.mstat.getLsbD 10 = true → ∃ y ∈ (t.core k).now.late, y.code = .mchk) ∧
        ((s.strand k).id.cls = 0 → x.mstat.getLsbD 10 = false → (t.core k).now.late = (s.core k).now.late)) ∧
      let u := t.mergeNow k
      (u.strand k).mx.chkloc = (t.core k).now.chkloc.getD x.chkloc

/-- The signature registers (15 R339, R340): SIGRD queues SIG[K] for s[D] at issue + 2, with .sync after the folds of its bundle;
SIGFOLD adds its term to the folds of the cycle for SIG3; SIGCLR clears one register, K from 0 to 2 at supervisor level, and leaves
the folds of the cycle, which join after it.

ZINJECT (15 R341) with the inject right: on the named attempt and role one bit of a tile element, of a lane, or of a scratchpad
byte turns, and no other; a matrix operation of its bundle goes on with the old row, and an MZERO of its bundle clears the row
after the flip.  On another attempt or role it changes nothing but its wait and its signal, whatever its capability.
The place of folds among SIGRD, SIGCLR and .sync of one bundle, and the last sentence, are the model's choice (logs 39, 97). -/
def Obligations.SignaturesAndInjection : Prop :=
  (∀ (s : State) (k : Nat) (d a b : BitVec 6) (n : BitVec 2) (sync : Bool) (e : ESync), s.Issues k →
    (s.strand k).guard e.g = true →
    let st := s.strand k
    Commands (.sigrd d n sync e) e s k (fun s => s.modStrand k fun z =>
      z.pushS d.toNat (SMap.get 0 (if sync then st.mergeSig.sig else st.sig) n.toNat) 2 false) ∧
    Commands (.sigfold a b e) e s k (fun s => s.modStrand k fun z =>
      { z with sigNow := SMap.set z.sigNow 3 (SMap.get 0 z.sigNow 3 +
        fmix (st.s a.toNat + (st.s b.toNat + 1) * 0x9E3779B97F4A7C15)) }) ∧
    (n = 3 ∨ 1 ≤ st.id.priv.toNat → ∃ t, Answers (.sigclr n e) s t ∧ s.SameMemory t ∧
      SMap.get 0 (t.strand k).sig n.toNat = 0 ∧ (t.strand k).sigNow = st.sigNow ∧
      ∀ m, m ≠ n.toNat → SMap.get 0 (t.strand k).sig m = SMap.get 0 st.sig m)) ∧
  (∀ (s : State) (k : Nat) (o : ZinjOp) (e : ESync), s.Issues k → (s.strand k).guard e.g = true →
    let st := s.strand k
    let x := st.c o.cap.toNat
    let off : Int := (st.s o.a.toNat).toNat
    let named : Prop := st.id.att.toNat = o.att.toNat ∧ (o.role = 0 ∨ st.id.role.toNat + 1 = o.role.toNat)
    let sound : Prop := capHas x rInject = true ∧
      (o.kind = 2 → st.checkCap o.cap.toNat [] [kScratch] = none ∧ checkBounds x off 16 = none ∧
        checkAlign x off 16 1 = none ∧ off % 16 = 0)
    let row := 512 * o.a.toNat + o.b.toNat
    let flip := (1 : BitVec 16384) <<< (32 * o.c.toNat + o.bit.toNat)
    let cleared : Prop := ∃ m ∈ st.mx.ops, m.seq = st.fl.seq ∧ m.kind = .zero ∧ m.o.tile.toNat = o.a.toNat ∧
      m.o.row0.toNat + 64 ≤ o.b.toNat ∧ o.b.toNat < m.o.row0.toNat + m.rows
    (¬named → Commands (.zinject o e) e s k fun s => s) ∧
    (named → sound → o.kind = 0 → cleared → ∃ t, Answers (.zinject o e) s t ∧ s.SameMemory t ∧ (t.strand k).mx = st.mx) ∧
    (named → sound → o.kind = 0 → ¬cleared → o.c.toNat < 512 → o.bit.toNat < 32 → ∃ t, Answers (.zinject o e) s t ∧
      s.SameMemory t ∧
      (∀ n < 512, tcol ((t.strand k).mx.row o.a.toNat o.b.toNat) n = tcol (st.mx.row o.a.toNat o.b.toNat) n ^^^
        (if n = o.c.toNat then (1 : W32) <<< o.bit.toNat else 0)) ∧
      (∀ p ≠ row, SMap.get 0 (t.strand k).mx.tile p = SMap.get 0 st.mx.tile p) ∧
      (t.strand k).mx.ops = st.mx.ops.map fun m => if m.seq = st.fl.seq ∧ m.kind ≠ .ldw ∧ m.o.tile.toNat = o.a.toNat then
        { m with unflip := SMap.set m.unflip o.b.toNat flip } else m) ∧
    (named → sound → o.kind = 1 → o.b.toNat < 128 → o.bit.toNat < 32 → ∃ t, Answers (.zinject o e) s t ∧ s.SameMemory t ∧
      (t.strand k).vec = st.vec ∧ (t.core k).now.flips = (s.core k).now.flips ++ [(o.a.toNat, 32 * o.b.toNat + o.bit.toNat)] ∧
      ((s.core k).now.flips = [] → let z := (t.mergeNow k).strand k
        (∀ l < 128, lane (z.v o.a.toNat) l = lane (st.v o.a.toNat) l ^^^
          (if l = o.b.toNat then (1 : W32) <<< o.bit.toNat else 0)) ∧
        ∀ r ≠ o.a.toNat, z.v r = st.v r)) ∧
    (named → sound → o.kind = 2 → s.Canonical → (s.core k).now.wbuf = [] → ∃ t, Answers (.zinject o e) s t ∧
      let a := spadKey k (st.phys (capAddr x off + o.bit.toNat / 8))
      t.mem.read a = s.mem.read a ^^^ ((1 : Byte) <<< (o.bit.toNat % 8)) ∧ ∀ b ≠ a, t.mem.read b = s.mem.read b))

/-- Software traps and the end of a strand (18 R382, R385): TRAP asks for SWTRAP in the next cycle, naming its bundle; HALT ends
the task in CORETRAP, with its code outside a handler and the trap's registers within one.

ERET in a handler (18 R383, R357): the register writes of its bundle act first; the mode, privilege, loop stack and pc come back; issue resumes two bubbles later at the
trapped slot of a split bundle, with .next behind it; the held entries wait for that bundle. -/
def Obligations.TrapsAndReturns : Prop :=
  (∀ (s : State) (k : Nat) (c : BitVec 16) (e : ESync), s.Issues k → (s.strand k).guard e.g = true →
    let st := s.strand k
    Commands (.trap c e) e s k (fun s => s.modStrand k fun z =>
      { z with fl := { z.fl with swtrap := some (c.setWidth 64, st.bundleAddr) } }) ∧
    (1 ≤ st.id.priv.toNat → st.id.hndl = false →
      Commands (.halt c e) e s k fun s => s.taskFault k .coretrap 0 7 (c.setWidth 64)) ∧
    (1 ≤ st.id.priv.toNat → st.id.hndl = true →
      Commands (.halt c e) e s k fun s => s.taskFault k .coretrap st.tr.trapc (st.tr.trapslot.toNat % 8) st.tr.trapv)) ∧
  (∀ (s : State) (k : Nat) (next : Bool) (e : ESync) (r : Machine.TrapReturn), s.Issues k → (s.strand k).guard e.g = true →
    (s.strand k).id.hndl = true → 1 ≤ (s.strand k).id.priv.toNat → (s.strand k).tr.ret = some r →
    ∃ t, Answers (.eret next e) s t ∧ s.SameMemory t ∧
      let st := ((s.modStrand k fun x => x.consumeWait e).applyDeferred k).strand k
      let u := t.strand k
      u.id.hndl = false ∧ u.id.priv = r.priv ∧ u.sc.loops = r.loops ∧ u.sc.pc = r.f ∧ u.fl.nopw = r.nopw ∧
      u.fl.transfer = r.transfer ∧ u.fl.skip = r.skip ∧ u.fl.ending = r.ending ∧ u.fl.bubbles = 2 ∧ u.tr.ret = none ∧ u.tr.held = [] ∧
      u.tr.waiting = st.tr.waiting ++ st.tr.held ∧ u.sc.s = st.sc.s ∧
      (r.part = false → u.fl.resume = none) ∧
      (r.part = true → (next = false ∨ r.split = false) → u.fl.resume = some (r.f, r.sres.toNat)) ∧
      (r.part = true → next = true → r.split = true → u.fl.resume = some (r.f, st.tr.trapslot.toNat % 8 + 1)))

/-- WDOG (18 R386): the count starts again, at most WDKMAX times; its read gives the cycles left, or all ones while the watchdog
is off. -/
def Obligations.Watchdog : Prop :=
  ∀ (s : State) (k : Nat) (rd : Bool) (d : BitVec 6) (e : ESync), s.Issues k → (s.strand k).guard e.g = true →
    let st := s.strand k
    let mult := s.hub.wdctl.toNat % 256
    let restarts : Prop := mult ≠ 0 ∧ st.tr.wdUsed < s.hub.wdctl.toNat / 256
    let left : Nat := st.kn.cycles.toNat * mult - (if restarts then 0 else st.tr.wdCount)
    Commands (.wdog rd d e) e s k fun s => s.modStrand k fun z =>
      let y : Strand := if restarts then { z with tr := { z.tr with wdCount := 0, wdUsed := z.tr.wdUsed + 1 } } else z
      if rd = true then y.pushS d.toNat (if mult = 0 then BitVec.allOnes 64 else BitVec.ofNat 64 left) 2 false else y

/-- Issue-time traps (18 R351, R353, R359, R360): the privilege violation of HALT, CTXSAVE and CTXLOAD below supervisor level,
and the trap of a word that decodes to no instruction or of a bundle that cannot be fetched.  Outside a handler the handler runs
at supervisor level with an empty loop stack; TRAPC, TRAPV and TRAPSLOT name the trap, EMUSLOT an extension opcode, and the
return is to the trapping slot; the register writes of earlier slots have acted.  Within a handler the task faults, CORETRAP. -/
def Obligations.IssueTraps : Prop :=
  ∀ (s : State) (k : Nat) (c : BitVec 16) (cap : BitVec 4) (off b : BitVec 6) (parts : BitVec 8) (e : ESync) (kn : Kernel)
    (code : TrapCode) (v : BitVec 64), s.Issues k →
    let st := (s.applyDeferred k).strand k
    let traps (i : Instr) (code : TrapCode) (v : BitVec 64) : Prop := ∃ t, Answers i s t ∧ s.SameMemory t ∧
      let u := t.strand k
      u.id.hndl = true ∧ u.id.priv = 1 ∧ u.sc.loops = [] ∧ u.sc.pc = s.codeStart kn ∧ u.sc.s = st.sc.s ∧
      u.tr.trapc = trapcBits code false false false ∧ u.tr.trapv = v ∧
      u.tr.trapslot = trapslotBits (some (st.bundleAddr, st.slot)) ∧ u.fl.bundle = none ∧
      u.tr.emuslot = (if code = .emul then BitVec.ofNat 64 (st.bundleAddr * 2 ^ 16 + v.toNat % 1024 * 2 ^ 6 + st.slot)
        else st.tr.emuslot) ∧
      ∃ r, u.tr.ret = some r ∧ r.f = st.bundleAddr ∧ r.sres = BitVec.ofNat 3 st.slot ∧ r.split = true ∧ r.priv = st.id.priv ∧
        r.loops = st.sc.loops
    (st.id.hndl = false → s.handler st.id.ctx = some kn →
      (st.id.priv = 0 → traps (.halt c e) .priv 0x064 ∧ traps (.ctxsave cap off parts b e) .priv 0x062 ∧
        traps (.ctxload cap off parts b e) .priv 0x063) ∧
      traps (.illegalOpcode code v) code v ∧ traps (.fetchFault code v) code v) ∧
    (st.id.hndl = true → ∀ i ∈ ([.illegalOpcode code v, .fetchFault code v] : List Instr), ∃ t, Answers i s t ∧
      (∀ x ∈ t.window, x.tid = st.id.tid.toNat → x.state = .fault ∧
        ∃ f, x.fault = some f ∧ f.reason = .coretrap ∧ f.trapc = trapcBits code false false false) ∧
      (t.core k).mode = .free)

/-- CTXSAVE and CTXLOAD (18 R384, R362) with their checks passed.  On an image that is there the core freezes while it moves.  CTXSAVE
changes no register; the spans of its parts take the bytes of their regions, and no other byte of memory changes.  CTXLOAD gives the
registers of its parts, and those alone, what the image holds; capabilities come and go only in a FRAME object (19 R399), and the
scratchpad takes the images of the banks.  Where the image cannot be reached nothing moves, and the slot has a late fault.  What
each region holds follows: items of a width, in order.  The count of the freeze, the inner layouts, the late fault, and which special
registers come back are the model's choice (logs 20, 10, 45). -/
def Obligations.ContextImages : Prop :=
  (∀ (s : State) (k : Nat) (cap : BitVec 4) (off b : BitVec 6) (parts : BitVec 8) (e : ESync), s.Issues k →
    (s.strand k).guard e.g = true →
    let z := (s.modStrand k fun st => st.consumeWait e).flushSpad k false
    let st := z.strand k
    let x := st.c cap.toNat
    let o := (st.s off.toNat).toNat
    let spans := frameSpans parts st.kn.tiles (st.s b.toNat)
    let frame := ((z.obj (capObj x)).map (·.frame)).getD false
    let port (w : State) (a : Nat) : Nat := w.corePort k x (capBase x + o + a)
    let bytes (w : State) (a n : Nat) : List Byte := (w.readVia (port w a) (capObj x) (capBase x + o + a) n).1
    let reach (write : Bool) : State × Finding :=
      z.reachAll (z.corePort k x (capBase x + o)) write true (z.frameExtents x o spans)
    let failed (u : State) (f : Finding) : State :=
      (if f = .error then u.slotLate k .data (capBase x + o) else u.slotLate k .revoked (capObj x)).modStrand k fun y =>
        y.signal (engineSignal e)
    (∀ u f, s.checkFrame k 0x062 rWrite cap off parts b = none → reach true = (u, f) →
      (f ≠ .ok → Answers (.ctxsave cap off parts b e) s (failed u f)) ∧
      (f = .ok → ∃ t, Answers (.ctxsave cap off parts b e) s t ∧ (t.strand k).fl.busy = (spans.map (·.2)).sum / 512 + 1 ∧
        (t.strand k).sc = (u.strand k).sc ∧ (t.strand k).vec = (u.strand k).vec ∧ (t.strand k).mx = (u.strand k).mx ∧
        let key (p : Nat × Nat) (j : Nat) : Option Nat := u.keyVia (port u p.1) (capObj x) (capBase x + o + p.1 + j)
        s.Canonical →
          (∀ i, (∀ p ∈ spans, ∀ j < p.2, key p j ≠ some i) → t.mem.read i = u.mem.read i) ∧
          ((∀ p ∈ spans, ∀ j < p.2, ∀ p' ∈ spans, ∀ j' < p'.2, ∀ i, key p j = some i → key p' j' = some i → p = p' ∧ j = j') →
            ∀ p ∈ spans, ∀ j < p.2, ∀ i, key p j = some i → t.mem.read i = (u.frameRegion k p.1 p.2 frame).getD j 0))) ∧
    (∀ u f, s.checkFrame k 0x063 rRead cap off parts b = none → reach false = (u, f) →
      (f ≠ .ok → Answers (.ctxload cap off parts b e) s (failed u f)) ∧
      (f = .ok → ∃ t, Answers (.ctxload cap off parts b e) s t ∧ (t.strand k).fl.busy = (spans.map (·.2)).sum / 512 + 1 ∧
        let v := u.strand k
        let w := t.strand k
        (if parts.getLsbD 0 then
          (∀ i, 1 ≤ i → i < 64 → SMap.get 0 w.sc.s i = BitVec.ofNat 64 (itemAt (bytes u 0x40 512) 8 i)) ∧
          w.sc.q = BitVec.ofNat 8 (itemAt (bytes u 0x240 64) 8 0) ∧ w.sc.rotb = BitVec.ofNat 4 (itemAt (bytes u 0x240 64) 8 1) ∧
          w.sc.loops.length = min 4 (itemAt (bytes u 0x240 64) 8 2) ∧
          ∀ i l, w.sc.loops[i]? = some l →
            l = LoopEntry.ofWords (itemAt (bytes u 0x280 64) 8 (2 * i)) (itemAt (bytes u 0x280 64) 8 (2 * i + 1))
         else w.sc.s = v.sc.s ∧ w.sc.q = v.sc.q ∧ w.sc.rotb = v.sc.rotb ∧ w.sc.loops = v.sc.loops) ∧
        (if parts.getLsbD 1 then
          ∀ i < 24, (if i < 16 then w.c i else SMap.get 0 w.sc.alt (i - 16)) =
            if frame then BitVec.ofNat 128 (itemAt (bytes u 0x340 384) 16 i) else 0
         else w.sc.c = v.sc.c ∧ w.sc.alt = v.sc.alt) ∧
        (if parts.getLsbD 2 then
          (∀ i < 64, t.readSR k (0x100 + i) = (BitVec.ofNat 64 (itemAt (bytes u 0x4C0 512) 8 i) &&& 0xFFF1F).toNat) ∧
          ∀ i n, frameSRs[i]? = some n →
            let image := itemAt (bytes u 0x6C0 320) 8 i
            (keptBits n ≠ 0 → n ≠ 0x030 → n ≠ 0x090 → t.readSR k n = (BitVec.ofNat 64 image &&& keptBits n).toNat) ∧
            (n ∈ [0x008, 0x009, 0x00C, 0x051] → t.readSR k n = image % 2 ^ 64) ∧
            (n = 0x020 → t.readSR k n = image % 2 ^ 8) ∧ (n = 0x000 → t.readSR k n % 2 = image % 2)
         else (∀ n, t.readSR k n = if n = 0x090 then w.sc.rotb.toNat else if n = 0x031 then w.mx.mstatValue
          else if n = 0x072 then w.tr.held.length else u.readSR k n)) ∧
        (∀ i < 256, (if parts.getLsbD 3 then w.semaphore i = itemAt (bytes u 0x800 512) 2 i else w.semaphore i = v.semaphore i)) ∧
        (if parts.getLsbD 4 then
          (∀ i < 384, w.v i = BitVec.ofNat 4096 (itemAt (bytes u 0x10000 196608) 512 i)) ∧
          ∀ i, 1 ≤ i → i < 16 → w.p i = BitVec.ofNat 128 (itemAt (bytes u 0x8A00 256) 16 i)
         else w.vec.v = v.vec.v ∧ w.vec.p = v.vec.p) ∧
        (if parts.getLsbD 5 then
          w.mx.crv = BitVec.ofNat 8 (itemAt (bytes u 0x8B00 8) 8 0) ∧
          ∀ m < 8, st.kn.tiles.getLsbD m = true → ∀ i < 512,
            w.mx.row m i = BitVec.ofNat 16384 (itemAt (bytes u (0x100000 + 0x100000 * m) 0x100000) 2048 i) ∧
            SMap.get 0 w.mx.cc (512 * m + i) = BitVec.ofNat 32 (itemAt (bytes u (0x40000 + 0x1000 * m) 4096) 4 i) ∧
            SMap.get 0 w.mx.cr (512 * m + i) = BitVec.ofNat 32 (itemAt (bytes u (0x40000 + 0x1000 * m) 4096) 4 (512 + i))
         else w.mx.tile = v.mx.tile ∧ w.mx.cc = v.mx.cc ∧ w.mx.cr = v.mx.cr ∧ w.mx.crv = v.mx.crv) ∧
        (if parts.getLsbD 6 then
          w.tr.held = ((List.range 32).map fun i => exposedOf (((bytes u 0x3000 17408).drop (544 * i)).take 544)).filter (·.due != 0)
         else w.tr.held = v.tr.held) ∧
        (parts.getLsbD 7 = false → ∀ i, t.mem.read i = u.mem.read i) ∧
        (parts.getLsbD 7 = true → s.Canonical → (∀ a a', st.phys a = st.phys a' → a = a') →
          (∀ i < 64, (st.s b.toNat).getLsbD i = true → ∀ j < 0x60000,
            t.mem.read (spadKey k (st.phys (0x60000 * i + j))) = (bytes u (0x900000 + 0x60000 * i) 0x60000).getD j 0) ∧
          (∀ i < 64, (st.s b.toNat).getLsbD i = true → ∀ g < 0x6000, t.isFull k (0x60000 * i + 16 * g) =
            ((bytes u (0x2100000 + 0xC00 * i) 0xC00).getD (g / 8) 0).getLsbD (g % 8)) ∧
          ∀ a, (∀ i < 64, (st.s b.toNat).getLsbD i = true → ∀ j < 0x60000, a ≠ spadKey k (st.phys (0x60000 * i + j))) →
            t.mem.read a = u.mem.read a)))) ∧
  (∀ (s : State) (k : Nat) (frame : Bool),
    let st := s.strand k
    let item (off len w i : Nat) : Nat := itemAt (s.frameRegion k off len frame) w i
    (∀ i < 64, item 0x40 512 8 i = (SMap.get 0 st.sc.s i).toNat) ∧
    item 0x240 64 8 0 = st.sc.q.toNat ∧ item 0x240 64 8 1 = st.sc.rotb.toNat ∧ item 0x240 64 8 2 = st.sc.loops.length % 2 ^ 64 ∧
    (∀ i l, i < 4 → st.sc.loops[i]? = some l → item 0x280 64 8 (2 * i) = (l.start + (l.stop - l.start) * 2 ^ 36) % 2 ^ 64 ∧
      item 0x280 64 8 (2 * i + 1) = l.rem.toNat) ∧
    (∀ i < 24, item 0x340 384 16 i =
      if frame then (if i < 16 then st.c i else SMap.get 0 st.sc.alt (i - 16)).toNat else 0) ∧
    (∀ i < 64, item 0x4C0 512 8 i = (SMap.get 0 st.fmtb i).toNat) ∧
    (∀ i n, frameSRs[i]? = some n → item 0x6C0 320 8 i = s.readSR k n % 2 ^ 64) ∧
    (∀ i < 256, item 0x800 512 2 i = st.semaphore i % 2 ^ 16) ∧ (∀ i < 16, item 0x8A00 256 16 i = (st.p i).toNat) ∧
    (∀ i < 384, item 0x10000 196608 512 i = (st.v i).toNat) ∧ item 0x8B00 8 8 0 = st.mx.crv.toNat ∧
    (∀ m < 8, ∀ i < 512, item (0x100000 + 0x100000 * m) 0x100000 2048 i = (st.mx.row m i).toNat ∧
      item (0x40000 + 0x1000 * m) 4096 4 i = (SMap.get 0 st.mx.cc (512 * m + i)).toNat ∧
      item (0x40000 + 0x1000 * m) 4096 4 (512 + i) = (SMap.get 0 st.mx.cr (512 * m + i)).toNat) ∧
    (∀ i e, i < 32 → st.queue[i]? = some e → item 0x3000 17408 544 i = ofLE e.bytes) ∧
    ∀ i < 64, (∀ j < 0x60000, (s.frameRegion k (0x900000 + 0x60000 * i) 0x60000 frame).getD j 0 = s.spadByte k (0x60000 * i + j)) ∧
      ∀ g < 0x6000, (BitVec.ofNat 8 (item (0x2100000 + 0xC00 * i) 0xC00 1 (g / 8))).getLsbD (g % 8) =
        s.isFull k (0x60000 * i + 16 * g))

/-- HOIST (18 R387): it fires at issue, with its tag, where the context is permitted, and is otherwise without effect.  An armed
Hoist that fires is disarmed, and HSTAT names source 1, the tag, the context and the cycle (21 R423).  In the cycle of a fire it joins
it: SRC takes source 1, and TAG and CTX are those of the first HOIST.  Disarmed, the fires of a cycle are one more in MISSED. -/
def Obligations.HoistInstruction : Prop :=
  ∀ (s : State) (k : Nat) (tag : BitVec 8) (e : ESync), s.Issues k → (s.strand k).guard e.g = true →
    let ctx := (s.strand k).id.ctx
    ((s.ctx ctx).hoistok = false → Commands (.hoist tag e) e s k fun s => s) ∧
    ((s.ctx ctx).hoistok = true → Commands (.hoist tag e) e s k fun s => s.fireHoist 1 tag.toNat ctx) ∧
    ((s.ctx ctx).hoistok = true → s.hub.harm = true → s.now ∉ s.hoist → ctx < 16 → ∃ t, Answers (.hoist tag e) s t ∧
      t.hub.harm = false ∧ t.hoist = s.hoist ++ [s.now] ∧ t.hub.hstat.toNat % 2 ^ 32 =
        tag.toNat + 2 ^ 8 + 2 ^ 12 * ctx + 2 ^ 16 * (s.now % 2 ^ 16) ∧ s.SameMemory t) ∧
    ((s.ctx ctx).hoistok = true → s.hub.harm = false → s.now ∉ s.hoist → ∃ t, Answers (.hoist tag e) s t ∧ t.hoist = s.hoist ∧
      t.hub.hstat.toNat / 2 ^ 32 = (if s.hub.hmiss = some s.now then s.hub.hstat.toNat / 2 ^ 32
        else min (2 ^ 32 - 1) (s.hub.hstat.toNat / 2 ^ 32 + 1)) ∧ t.hub.hstat.toNat % 2 ^ 32 = s.hub.hstat.toNat % 2 ^ 32) ∧
    (let seen := s.hub.hstat.toNat / 2 ^ 8 % 16
     (s.ctx ctx).hoistok = true → s.now ∈ s.hoist → ctx < 16 → ∃ t, Answers (.hoist tag e) s t ∧ t.hoist = s.hoist ∧
      t.hub.hstat.toNat / 2 ^ 8 % 16 = Nat.lor seen 1 ∧ (seen % 2 = 0 → t.hub.hstat.toNat % 2 ^ 8 = tag.toNat ∧
        t.hub.hstat.toNat / 2 ^ 12 % 16 = ctx) ∧ s.SameMemory t)

/-- Control S-ops, FAULTV and the stream scalars (05 R131, R132, R137): with legal targets and frames each ends at decode with
the front-end state the rules give, and SOPF counts it; nothing else of the machine changes.

Refused words (03 R64, 05 R129): a word that is no S-op, an extension word out of place, and, whatever it is, an S-op that is no
extension word in the place of one, take their decode fault, which waits at the stream PC and names the position (log 125, the
model's choice). -/
def Obligations.StreamFrontEnd : Prop :=
  (∀ (s : State) (x : Nat) (c a b d : BitVec 4) (t : BitVec 64) (i : BitVec 32), s.Decodes x →
    let F := (s.ctx x).fe
    let ends (j : Instr) (fe : FrontEnd) : Prop := Answers j s (s.modCtx x fun z =>
      { z with fe := fe, stats := { z.stats with sopf := z.stats.sopf + 1 } })
    let legal (n : Nat) : Prop := n % 16 = 0 ∧ n + 16 ≤ s.streamSize x
    let A := F.reg a
    let B := F.reg b
    let D := F.reg d
    let cond : Prop := c = 0 ∨ (c = 1 ∧ A = B) ∨ (c = 2 ∧ A ≠ B) ∨ (c = 3 ∧ A.toInt < B.toInt) ∨ (c = 4 ∧ B.toInt ≤ A.toInt) ∨
      (c = 5 ∧ A.toNat < B.toNat) ∨ (c = 6 ∧ B.toNat ≤ A.toNat) ∨ (c = 7 ∧ A = 0) ∨ (c = 8 ∧ A ≠ 0)
    let next : FrontEnd := { F with spc := F.spc + 16 }
    let set (v : W64) : FrontEnd := { next with g := SMap.set F.g a.toNat v }
    ends .snop next ∧
    (legal t.toNat → ends (.sjmp t) { F with spc := t.toNat } ∧
      (c.toNat ≤ 8 → (cond → ends (.sbr c a b t) { F with spc := t.toNat }) ∧ (¬cond → ends (.sbr c a b t) next)) ∧
      (F.calls.length < 16 →
        ends (.scall t) { F with calls := (F.spc + 16, false) :: F.calls, spc := t.toNat }) ∧
      (A = 0 → ends (.sloop a t) { F with spc := t.toNat }) ∧
      (A ≠ 0 → F.loops.length < 4 →
        ends (.sloop a t) { next with loops := (F.spc + 16, A, F.calls.length) :: F.loops })) ∧
    ((∀ l ∈ F.loops, l.2.2 ≠ F.calls.length) → ∀ pc r,
      (F.calls = (pc, false) :: r → ends (.sret false) { F with calls := r, spc := pc }) ∧
      (F.calls = (pc, true) :: r → ends (.sret false) { F with calls := r, handler := false, spc := pc } ∧
        ends (.sret true) { F with calls := r, handler := false, spc := pc + 16 * (1 + s.extWords x pc) })) ∧
    (∀ start n r, F.loops = (start, n, F.calls.length) :: r →
      (n ≠ 1 → ends .sendl { F with loops := (start, n - 1, F.calls.length) :: r, spc := start }) ∧
      (n = 1 → ends .sendl { next with loops := r })) ∧
    (t = 0 ∨ legal t.toNat → ends (.faultv t) { next with fvec := t.toNat }) ∧
    ends (.sli a t) (set t) ∧ ends (.sadd a b d) (set (B + D)) ∧
    ends (.saddi a b i) (set (B + BitVec.ofInt 64 i.toInt)) ∧
    ends (.smul a b d) (set (BitVec.ofNat 64 (B.toNat * D.toNat))) ∧
    (0 ≤ i.toInt → i.toInt ≤ 63 → ends (.sshl a b i) (set (BitVec.ofNat 64 (B.toNat * 2 ^ i.toInt.toNat)))) ∧
    (i.toInt < 0 → -63 ≤ i.toInt → ends (.sshl a b i) (set (BitVec.ofNat 64 (B.toNat / 2 ^ (-i.toInt).toNat)))) ∧
    ends (.sand a b d) (set (B &&& D)) ∧ ends (.smov a b) (set B)) ∧
  (∀ (s : State) (x : Nat) (r : Reason) (ow : OpdWord) (dw : CdimWord),
    let faults (j : Instr) (r : Reason) (ext : Nat) : Prop := ∃ t y, Answers j s t ∧ (t.ctx x).fault = some y ∧ y.reason = r ∧
      y.kind = 1 ∧ y.sop = (s.ctx x).fe.spc ∧ y.ext = ext ∧ (t.ctx x).pending = none ∧ (t.ctx x).fe = (s.ctx x).fe ∧ t.window = s.window
    (s.Decodes x → faults (.unlistedOp r) r 0 ∧ faults .streamObjectEnd .target 0 ∧ faults (.opd ow) .orphan 0 ∧
      faults (.cdim dw) .orphan 0) ∧
    (∀ p, s.curCtx = x → (s.ctx x).run = 1 → (s.ctx x).pending = some p →
      let n := p.opds.length + p.cdims.length + 1
      (∀ i : Instr, i.isStream = true → (∀ w, i ≠ .opd w) → (∀ w, i ≠ .cdim w) → faults i .orphan n) ∧
      (p.wantsOpd = false → faults (.opd ow) .orphan n) ∧ (p.wantsCdim = false → faults (.cdim dw) .orphan n) ∧
      faults .streamObjectEnd .orphan n ∧ faults (.unlistedOp r) r n))

/-- Stream memory (05 R133, R137): SLD extends what the home answers, or a word of the status block, and an early SLD completes
with a value that the location held since the oldest unretired entry decoded, which of them the model leaves open (log 13, DESIGN
CHOICE); SST takes an entry with its value, which has passed to VERIFIED at once (R116); PARK and its polls wait until the word differs from the comparand, and a poll that finds its object gone, or its data
uncorrectable, has a decode fault (logs 49 and 116, the model's choice); SVAR goes to the offset that entry BUDGET of its table
gives, or entry 0 where that is 0. -/
def Obligations.StreamMemory : Prop :=
  ∀ (s u u' : State) (x : Nat) (o : SmemOp) (a b d : BitVec 4) (n : BitVec 12) (i : BitVec 64) (v w : Nat) (f f' : Finding),
    let F := (s.ctx x).fe
    let size := 2 ^ o.size.toNat
    let at_ := (o.imm + F.reg o.b).toNat
    let k := (s.ctx x).cap o.n.toNat
    let ext (w : Nat) : W64 := if o.sx then BitVec.ofInt 64 (signedOf w (8 * size)) else BitVec.ofNat 64 w
    let loads (y : State) (w : Nat) : State := y.modCtx x fun z =>
      { z with fe := { (y.ctx x).fe with g := SMap.set (y.ctx x).fe.g o.a.toNat (ext w), spc := (y.ctx x).fe.spc + 16 },
               stats := { z.stats with sopf := z.stats.sopf + 1 } }
    let unparks (y : State) (w : Nat) : State := y.modCtx x fun z =>
      { z with fe := { z.fe with g := SMap.set z.fe.g b.toNat (BitVec.ofNat 64 w), spc := z.fe.spc + 16 }, run := 1, park := none }
    let counts (y : State) : State := y.modCtx x fun z => { z with stats := { z.stats with sopf := z.stats.sopf + 1 } }
    (s.Decodes x →
      (o.stat = true → at_ < 0x1000 → at_ % size = 0 → Answers (.sld o) s (loads s (s.statusRead x at_ size))) ∧
      (o.stat = false → checkStream k rRead at_ size = none → s.prismRead o.early (capObj k) (capBase k + at_) size = (u, some v, f) →
        (o.early = false → Answers (.sld o) s (loads u v)) ∧
        (o.early = true → ∃ w m, Answers (.sld o) s (loads { u with oracle := m } w) ∧ (w = v ∨ w ∈ u.valuesSince
          ((List.range size).map fun i => u.keyVia (u.hubPort (capObj k) (capBase k + at_)) (capObj k) (capBase k + at_ + i))
          (u.oldestDecoded x)))) ∧
      (checkStream k rWrite at_ size = none → (∀ e ∈ s.window, e.tid ≠ nextTid x (s.ctx x).count) →
        ∃ t e, Answers (.sst o) s t ∧ t.window = s.window ++ [e] ∧ e.ctx = x ∧
        e.kind = .sst (capObj k) (capBase k + at_) size (capKind k) (F.reg o.a) ∧ e.state = .verified ∧
        (t.ctx x).fe.spc = F.spc + 16 ∧ s.SameMemory t) ∧
      (let k := (s.ctx x).cap n.toNat
       let off := (i + F.reg d).toNat
       checkStream k rRead off 8 = none → s.prismRead false (capObj k) (capBase k + off) 8 = (u, some v, .ok) →
        (BitVec.ofNat 64 v ≠ F.reg a → Answers (.park a b d n i) s (unparks (counts u) v)) ∧
        (BitVec.ofNat 64 v = F.reg a → ∃ t p, Answers (.park a b d n i) s t ∧ (t.ctx x).run = 2 ∧ (t.ctx x).park = some p ∧
          p.a = a ∧ p.b = b ∧ p.obj = capObj k ∧ p.off = capBase k + off)) ∧
      (let k := (s.ctx x).cap n.toNat
       let goes (y : State) (t : Nat) : Prop := Answers (.svar n i) s (y.modCtx x fun z =>
         { z with fe := { F with spc := t }, stats := { z.stats with sopf := z.stats.sopf + 1 } })
       capGrants k [rRead] = true → capKind k ≠ kScratch → i.toNat + 64 ≤ capLen k →
        s.prismRead false (capObj k) (capBase k + i.toNat + 8 * (s.ctx x).budget.toNat) 8 = (u, some v, f) →
        (v ≠ 0 → u.target x v = true → goes u v) ∧
        (v = 0 → u.prismRead false (capObj k) (capBase k + i.toNat + 8 * 0) 8 = (u', some w, f') → w ≠ 0 → u'.target x w = true →
          goes u' w))) ∧
    (∀ p : ParkState, (s.ctx x).park = some p →
      let stops (r : Reason) : Prop := ∃ t y, Answers (.parkPoll x) s t ∧ (t.ctx x).fault = some y ∧ y.kind = 1 ∧ y.reason = r ∧
        (t.ctx x).run = 1 ∧ (t.ctx x).park = none
      (s.prismRead false p.obj p.off 8 = (u, none, .gone) → stops .rights) ∧
      (s.prismRead false p.obj p.off 8 = (u, none, .error) → stops .data) ∧
      (p.b = b → s.prismRead false p.obj p.off 8 = (u, some v, f) →
      (BitVec.ofNat 64 v ≠ (u.ctx x).fe.reg p.a → Answers (.parkPoll x) s (unparks u v)) ∧
      (BitVec.ofNat 64 v = (u.ctx x).fe.reg p.a → Answers (.parkPoll x) s (u.modCtx x fun z =>
        { z with park := some { p with last := u.now, hit := u.freshWord p.obj p.off } }))))

/-- Buffers and state (05 R134, R137): BIND makes the record that its registers and capability name, UNBIND marks the buffer
unbound and takes an entry behind its producers; SHALT and NOTIFY take entries that have passed to VERIFIED, and CKPT one; SFENCE
passes, with .sys once no older entry and no store of one is left; PRIO and QUOTA, of context 0,
set the target's priority, whose READY entries keep their aging rises, and its quotas and heap.  That SPC stands behind a
decoded SHALT, and the cycle in which SOPF counts an S-op, are the model's choice (logs 89, 52).

Work (05 R135, R136, R109, R110): TASK and COPY open an S-op, whose OPD and CDIM words follow; a TASK without operands takes
its entry at once; an IN operand of a bound buffer resolves its segments' present mappings and waits for their producers. -/
def Obligations.StreamWork : Prop :=
  (∀ (s : State) (x : Nat) (buf v : BitVec 6) (a b y : BitVec 4) (n : BitVec 12) (seg : BitVec 5) (i : BitVec 64) (p : BitVec 32)
    (disc : Bool) (level : BitVec 3) (w : BitVec 9) (pool : BitVec 13), s.Decodes x →
    let c := s.ctx x
    let F := c.fe
    let k := c.cap n.toNat
    let o := (i + F.reg a).toNat
    let len := (F.reg b).toNat
    let r := SMap.get Buf.unbound F.btab buf.toNat
    let ends (j : Instr) (u : State) (fe : FrontEnd) : Prop := Answers j s (u.modCtx x fun z =>
      { z with fe := { fe with spc := fe.spc + 16 }, stats := { z.stats with sopf := z.stats.sopf + 1 } })
    let enters (j : Instr) (z : EState) (g : State → Entry → Prop) : Prop := (∀ e ∈ s.window, e.tid ≠ nextTid x c.count) → ∃ t e,
      Answers j s t ∧ t.window = s.window ++ [e] ∧ e.tid = nextTid x c.count ∧ e.ctx = x ∧ e.state = z ∧
      e.sop = F.spc ∧ (t.ctx x).fe.spc = F.spc + 16 ∧
      (t.ctx x).count = c.count + 1 ∧ s.SameMemory t ∧ g t e
    (r.bound = false → capGrants k [rRead] = true → capKind k ≠ kScratch → o + len ≤ capLen k → o % 2 ^ seg.toNat = 0 →
      len ≠ 0 → len % 2 ^ seg.toNat = 0 →
      let z : Buf :=
        { bound := true, r := true, w := capHas k rWrite, obj := capObj k, seglog := seg.toNat,
          start := capBase k + o, len := len, map := [], prod := [], bid := s.nextId + 1 }
      ends (.bind buf a b n seg i) { s with nextId := s.nextId + 1 } { F with btab := SMap.set F.btab buf.toNat z }) ∧
    (r.bound = true → disc = true ∨ r.w = true → enters (.unbind buf disc) .wait fun t e => e.kind = .unbind buf.toNat disc r ∧
      (SMap.get Buf.unbound (t.ctx x).fe.btab buf.toNat).bound = false ∧
      ∀ m ∈ r.prod, m.2 ≠ 0 → m.2 - 1 ∈ e.prods) ∧
    (enters (.shalt p) .verified fun _ e => e.kind = .shalt p) ∧
    (enters (.notify v a p) .verified fun _ e => e.kind = .notify v.toNat (F.reg a) p) ∧
    (enters (.ckpt p) .wait fun _ e => e.kind = .ckpt p) ∧
    (disc = false ∨ s.alive x = [] ∧ s.storesOut x = false → ends (.sfence disc) s F) ∧
    (x = 0 → ∃ t, Answers (.prio y level) s t ∧ (t.ctx y.toNat).fe.prio = level.toNat ∧ s.SameMemory t ∧
      t.window = s.window.map fun e =>
        if e.ctx = y.toNat ∧ e.state = .ready then { e with prio := min 7 (level.toNat + e.rises) } else e) ∧
    (x = 0 → let h := (s.ctx y.toNat).cap n.toNat
      capGrants h [rRead, rWrite] = true → capKind h ≠ kScratch → s.quotasOk y.toNat w.toNat pool.toNat = true →
      ∃ t, Answers (.quota y w pool n) s t ∧ (t.ctx y.toNat).fe.wquota = w.toNat ∧ (t.ctx y.toNat).fe.pquota = pool.toNat ∧
        (t.ctx y.toNat).fe.heap = h ∧ s.SameMemory t)) ∧
  (∀ (s : State) (x : Nat) (w : TaskWord) (cw : CopyWord) (ow : OpdWord) (dw : CdimWord) (k : CapBits) (p : PendingSop),
    let c := s.ctx x
    let waits (j : Instr) (q : PendingSop) : Prop := Answers j s (s.modCtx x fun z => { z with pending := some q })
    (s.Decodes x → (c.findCap fun k => capHas k rExec && covers k w.kobj.toNat w.koff.toNat 1) = some k →
      (w.nopd ≠ 0 → waits (.task w) ⟨some w, none, [], [], k, [], none, []⟩) ∧
      (w.nopd = 0 → ∃ t e q, Answers (.task w) s t ∧ t.window = s.window ++ [e] ∧ e.kind = .task w k ∧
        e.tid = nextTid x c.count ∧ e.ops = [] ∧ e.state = .wait ∧ (t.ctx x).pending = some q ∧ q.tid = some e.tid ∧ q.todo = [] ∧
        s.SameMemory t)) ∧
    (s.Decodes x → cw.clamp = false ∨ x = 0 → waits (.copy cw) ⟨none, some cw, [], [], 0, [], none, []⟩) ∧
    (s.curCtx = x → c.run = 1 → c.pending = some p → p.tid = none →
      (p.wantsOpd = true → p.copy = none → p.ops = [] → ow.isExt = false → ow.mode = 0 →
        let r := SMap.get Buf.unbound c.fe.btab ow.buf.toNat
        r.bound = true → ow.first + ow.size ≤ r.len →
        ∃ o, o.segs = (opdSegments ow r.seglog).map (fun j => (SMap.get homeMap r.map j, homeMap, homeMap)) ∧
          (∀ t, t ∈ o.prods ↔ ∃ j ∈ opdSegments ow r.seglog, SMap.get 0 r.prod j = t + 1) ∧ o.obj = r.obj ∧ o.w = ow ∧
          let q := { p with opds := p.opds ++ [ow], ops := p.ops ++ [o] }
          (q.whole = false → waits (.opd ow) q) ∧
          (q.whole = true → ∃ t e, Answers (.opd ow) s t ∧ t.window = s.window ++ [e] ∧ e.ops = [o] ∧ e.state = .wait ∧
            e.prods = o.prods.dedup)) ∧
      (p.wantsCdim = true → p.cdimOk dw = true →
        let q := { p with cdims := p.cdims ++ [dw] }
        (q.whole = false → waits (.cdim dw) q) ∧
        (q.whole = true → s.overQuotas x q = false →
          ∃ t e, Answers (.cdim dw) s t ∧ t.window = s.window ++ [e] ∧ e.ops = p.ops ∧ e.state = .wait))))

/-- Dispatch (05 R121, R122, R124, R125, 11 R293): the first candidate in the order of service that can be placed goes to the cores
it is placed on, a set for each copy, whose first bundles may issue 9 cycles later; a COPY takes a hub engine.  A spawned child
leaves its pool, a class D child together with its twin (log 53, DEDUCED).

Readiness and aging (05 R116, R121, R123, R134, R137): a TASK, COPY or UNBIND whose producers are done becomes READY at its
context's priority; a READY UNBIND queues its write-backs, or is done when it discards; SST, NOTIFY and SHALT are done at once,
a CKPT records; a READY entry rises every 2^20 cycles, and a hand-over is given up after 2^16. -/
def Obligations.DispatchAndReadiness : Prop :=
  (∀ (s : State) (x tid : Nat) (e : Entry) (l r : List (Nat × Cand)), s.entry tid = some e →
    (s.served = l ++ (x, .entry tid) :: r → (∀ c ∈ l, s.tryEntry c.2 = none) →
      (∀ w code sets, e.kind = .task w code → s.placeEntry false e e.gangOf none = some sets → sets.flatten.Nodup →
        ∃ t y, Answers .dispatch s t ∧ SMap.get 0 t.rot (s.topPrio.getD 0) = x ∧ s.SameMemory t ∧ t.entry tid = some y ∧ y.state = .run ∧ y.stamp = s.now ∧
          ∀ i ks n k, sets[i]? = some ks → ks[n]? = some k → (t.core k).mode = .starting 9 ∧
            (t.strand k).id.tid = BitVec.ofNat 32 e.tid ∧ (t.strand k).id.ctx = e.ctx ∧
            (t.strand k).id.att = BitVec.ofNat 32 e.att ∧ (t.strand k).id.role = BitVec.ofNat 2 i ∧ (t.strand k).id.rank = n ∧
            (t.strand k).id.gangSize = ks.length ∧ (t.strand k).kn.code = code ∧ (t.strand k).kn.hdr = w.koff.toNat ∧
            (t.strand k).sc.s = []) ∧
      (∀ w dims h, e.kind = .copy w dims → s.freeEngine w.clamp = some h → ∃ t y, Answers .dispatch s t ∧ SMap.get 0 t.rot (s.topPrio.getD 0) = x ∧
        s.SameButFrames t ∧ t.entry tid = some y ∧
        (y.state = .run ∧ (∃ c, SMap.get none (t.hubCopies.map fun p => (p.1, some p.2)) h = some c ∧ c.kind = .copy tid ∧ c.done = 0) ∨
          y.state = .fault ∧ ∃ f, y.fault = some f ∧ f.reason = .copycap))) ∧
    (∀ n p k w code run, e.kind = .task w code → s.served = l ++ (x, .pool x n) :: r →
      (∀ c ∈ l, ∀ y m, c.2 = .pool y m → s.tryPool y m = none) → (s.ctx x).pool.find? (·.number == n) = some p → p.tid = tid →
      s.placeChild p [] = some k → e.runs.find? (·.role == p.role) = some run →
      let starts (t : State) (p : PoolEntry) (k : Nat) : Prop := (∀ q ∈ (t.ctx x).pool, q.number ≠ p.number) ∧
        (t.core k).mode = .starting 9 ∧ (t.strand k).id.tid = BitVec.ofNat 32 e.tid ∧ (t.strand k).id.pers = false ∧
        (t.strand k).kn.hdr = p.off ∧ (t.strand k).sc.s = (if p.arg = 0 then [] else [(1, p.arg)]) ∧ (t.strand k).node = p.node
      (s.twinChild p = none → ∃ t, Answers .poolEntryDispatch s t ∧ SMap.get 0 t.rot (s.topPrio.getD 0) = x ∧ s.SameMemory t ∧ starts t p k) ∧
      (∀ q k' run', s.twinChild p = some q → s.placeChild q [k] = some k' → e.runs.find? (·.role == q.role) = some run' →
        e.ctx = x → ∃ t, Answers .poolEntryDispatch s t ∧ SMap.get 0 t.rot (s.topPrio.getD 0) = x ∧ s.SameMemory t ∧ starts t p k ∧ starts t q k'))) ∧
  (∀ (s : State) (tid : Nat) (e : Entry), s.entry tid = some e →
    let ready : State := s.modEntry tid fun y =>
      { y with state := .ready, prio := (s.ctx y.ctx).fe.prio, readySince := s.now, rises := 0, waitFrom := s.now }
    let done (u : State) : State := (u.modEntry tid fun y =>
      { y with state := .verified, doneAt := u.now, done := some (y.done.getD u.now) }).updateDeps
    (e.state = .wait → s.renaming e = false → e.fills = 0 → e.filledAt < s.now → (∀ p ∈ e.prods, s.prodDone p = true) →
      (∀ w c, e.kind = .task w c → Answers (.entryReady tid) s ready) ∧
      (∀ w d, e.kind = .copy w d → Answers (.entryReady tid) s ready) ∧
      (∀ b d r, e.kind = .unbind b d r → Answers (.entryReady tid) s ready)) ∧
    (∀ b d r, e.kind = .unbind b d r → e.state = .ready → s.writebackBlocked e = false →
      (d = true ∨ e.homeWrites = [] → Answers (.entryReady tid) s (done s)) ∧
      (d = false → e.homeWrites ≠ [] → ∃ t y, Answers (.entryReady tid) s t ∧ t.entry tid = some y ∧ y.state = .run ∧
        y.fills = e.homeWrites.length ∧ s.SameMemory t ∧ ∃ hs, t.hubQueue = s.hubQueue ++ hs ∧
          hs.map (fun h => (h.dst.1, h.dst.2, h.len)) = e.homeWrites ∧ ∀ h ∈ hs, h.kind = .writeback e.tid)) ∧
    (e.state = .wait → ∀ i, e.kind = .shalt i → Answers (.entryReady tid) s (done s)) ∧
    (e.state = .wait → ∀ v g i, e.kind = .notify v g i → Answers (.entryReady tid) s (done s)) ∧
    (e.state = .wait → ∀ o f n c v, e.kind = .sst o f n c v → Answers (.entryReady tid) s (done s)) ∧
    (∀ i, e.kind = .ckpt i → (e.state = .wait → s.olderThan e = [] → Answers (.entryReady tid) s ready) ∧
      (e.state = .ready → (s.ctx e.ctx).ckpt = none → s.markable e.ctx = true →
        Answers (.entryReady tid) s (done (s.mark e.ctx i e.after)) ∧ ((s.mark e.ctx i e.after).ctx e.ctx).ckrec = i)) ∧
    (e.state = .ready → e.prio < 7 → e.readySince + 2 ^ 20 ≤ s.now → Answers (.agingPromotion tid) s
      ((s.modEntry tid fun y =>
        { y with prio := y.prio + 1, rises := y.rises + 1, readySince := y.readySince + 2 ^ 20 }).modCtx e.ctx fun c =>
        { c with stats := { c.stats with aged := c.stats.aged + 1 } })) ∧
    (e.state = .ready → e.waitFrom + 2 ^ 16 ≤ s.now → ∃ t y, Answers (.persistentHandoffTimeout tid) s t ∧
      t.entry tid = some y ∧ y.timedOut = true ∧ y.prio = e.prio))

/-- Retirement (05 R126, R131, R133, R134, R137, 21 R425): the oldest entry, verified before this cycle, leaves the window with
its effect.  SHALT stops the context with its code, NOTIFY writes a record into the ring in host memory, SST sends its store to the
home, the mappings of an unbound buffer are gone, and a TASK and a COPY are counted.  The base of the ring and the order in
which held writes are released are the model's choice (logs 47, 51).

Ends of the Prism's own work (05 R116, R135, R136, 08 R207, R208, 12 R306): a squashed entry leaves when nothing of it is
outstanding; a copy, a write-back and a fill whose writes no link still owes free their engine and complete their entry. -/
def Obligations.Retirement : Prop :=
  (∀ (s : State) (x : Nat) (e : Entry), s.retirable x = some e →
    let leaves (t : State) : Prop := Answers (.retire x) s t ∧ t.window.map (·.tid) = (s.window.map (·.tid)).filter (· != e.tid)
    (∃ t, leaves t) ∧
    (∀ w c, e.kind = .task w c → ∃ t, leaves t ∧ (t.ctx x).stats.tret = (s.ctx x).stats.tret + 1) ∧
    (∀ w d, e.kind = .copy w d → ∃ t, leaves t ∧ (t.ctx x).stats.cret = (s.ctx x).stats.cret + 1) ∧
    (e.ops = [] → (∀ h ∈ s.held, h.tid ≠ e.tid) →
      (∀ code, e.kind = .shalt code → ∃ t, leaves t ∧ (t.ctx e.ctx).donecode = code ∧ (t.ctx e.ctx).run = 3 ∧
        (s.irq.length < 64 → t.irq = s.irq ++ [⟨2, 0, e.ctx, 0, 0⟩]) ∧ s.SameMemory t) ∧
      (∀ v g p, e.kind = .notify v g p → ∃ t, leaves t ∧ (s.Canonical → s.RingTakes t
          [BitVec.ofNat 64 (1 + v * 2 ^ 8 + e.ctx * 2 ^ 16), g, p.setWidth 64, s.gcyc])) ∧
      (∀ o f n c v, e.kind = .sst o f n c v → ∃ t m, leaves t ∧ s.SameMemory t ∧ t.remotes = s.remotes ++ [m] ∧
        m.kind = .store ∧ m.obj = o ∧ m.bytes = atAddr f (leBytes n v.toNat) ∧ m.stage = .port ∧ m.held = false) ∧
      (∀ b d r, e.kind = .unbind b d r → (SMap.get Published.zero (s.ctx x).pub b).bid = r.bid → ∃ t, leaves t ∧ s.SameMemory t ∧
        (SMap.get Published.zero (t.ctx x).pub b).map = []))) ∧
  (∀ (s : State) (tid h : Nat) (e : Entry) (x : HubCopy),
    let free : State := { s with hubCopies := SMap.erase s.hubCopies h }
    let less (u : State) : State := u.modEntry tid fun y => { y with fills := y.fills - 1 }
    let done (u : State) : State := (u.modEntry tid fun y =>
      { y with state := .verified, doneAt := u.now, done := some (y.done.getD u.now) }).updateDeps
    (s.entry tid = some e → e.state = .squash → s.outstanding tid = false →
      ∃ t, Answers (.squashRemove tid) s t ∧ t.window = s.window.filter (·.tid != tid) ∧ s.SameMemory t) ∧
    (SMap.get none (s.hubCopies.map fun p => (p.1, some p.2)) h = some x → s.entry tid = some e → s.hubWriting h = false →
      (∀ c, x.kind = .copy tid → x.cmd = some c → c.runs ≤ c.done → Answers (.hubCopyComplete h) s (done free)) ∧
      (x.kind = .writeback tid → x.len ≤ x.done → e.fills ≤ 1 → Answers (.hubCopyComplete h) s (done (less free))) ∧
      (x.kind = .writeback tid → x.len ≤ x.done → 1 < e.fills → Answers (.hubCopyComplete h) s (less free)) ∧
      (x.kind = .fill tid → x.len ≤ x.done → Answers (.modFillComplete h) s
        (free.modEntry tid fun y => { y with fills := y.fills - 1, filledAt := s.now }))))

/-- Fault delivery (05 R127-R130): a decode fault, with no older entry left, writes its record at FHEAD; a context with a handler
goes to FVEC with the record's address in g15, another stops.  A fault of the oldest entry squashes every younger one, and its
record names those that had escaped, and is imprecise too where a lost vote or check fault struck an entry in head-only mode (15
R332); the mode is the one in which the fault was raised (21 R409); the front end goes on from its state before the entry's S-op (log 48, DEDUCED: of quotas that
no longer fit). -/
def Obligations.FaultDelivery : Prop :=
  ∀ (s : State) (x : Nat) (f : FaultInfo) (e : Entry),
    let c := s.ctx x
    let at_ : W64 := BitVec.ofNat 64 (0x100 + 64 * c.fhead.toNat)
    let recorded (t : State) (words : List W64) : Prop := (t.ctx x).fhead = c.fhead + 1 ∧ (t.ctx x).fcount = c.fcount + 1 ∧
      (t.ctx x).lastFault = some f.sop ∧ SMap.get [] (t.ctx x).frec c.fhead.toNat = words
    let goesOn (t : State) (b : FrontEnd) : Prop :=
      if f.hw = true ∧ b.fvec ≠ 0 ∧ b.handler = false ∧ b.calls.length < 16 then
        (t.ctx x).fe.spc = b.fvec ∧ (t.ctx x).fe.handler = true ∧ (t.ctx x).fe.calls = (f.sop, true) :: b.calls ∧
          (t.ctx x).fe.reg 15 = at_ ∧ (t.ctx x).run = 1
      else (t.ctx x).run = 3 ∧ (t.ctx x).fe.spc = b.spc ∧ (s.irq.length < 64 → t.irq = s.irq ++ [⟨2, 0, x, 0, 0⟩])
    (s.alive x = [] → c.fault = some f → ∃ t, Answers (.faultDelivery x) s t ∧ t.window = s.window ∧ s.SameMemory t ∧
      (t.ctx x).fault = none ∧ recorded t (faultRecord f x 0 false []) ∧ goesOn t c.fe) ∧
    (∀ r, s.alive x = e :: r → e.state = .fault → e.fault = some f →
      let younger := r.filter fun y => y.tid != e.tid
      let escaped := (younger.filter fun y => y.escaped).map fun y => y.tid
      ∃ t, Answers (.faultDelivery x) s t ∧ (∀ y ∈ t.window, y.tid ≠ e.tid) ∧
        (∀ y ∈ t.window, y.tid ∈ younger.map (·.tid) → y.state = .squash) ∧
        recorded t (faultRecord f x e.tid (!escaped.isEmpty || (f.ofCheck && e.headOnly)) escaped) ∧ goesOn t e.before ∧ s.SameButFrames t)

/-- Re-execution and votes (15 R322, R323, R328, R329): a check fault of a class S task makes its entry READY for the next
attempt, the fifth one, or one of an escaped entry, fails it; in class D the copy it struck waits to run again.  Equal signatures
verify a class D task, unequal ones ask for a third run, which decides.

Head-only mode (15 R332, 12 R313): before a full buffer the oldest entry's held writes perform, one a step in issue order, and then
its later ones go through, and it is escaped.

Suspicion and retirement of chiplets (15 R342, R343, 21 R426): scores in service fall by one, and where what is left still
reaches SUSPLIM the chiplet retires in hardware mode (log 59, DESIGN CHOICE); an SRAM error adds 8, at most to 65535, and reaches
the error log with an address that is a free value (log 14, DESIGN CHOICE); readmission clears; a request of the host retires in host-assisted mode, and the chiplet's strands are asked to
leave. -/
def Obligations.Protection : Prop :=
  (∀ (s : State) (tid : Nat) (e : Entry), s.entry tid = some e →
    (e.checks ≠ [] → e.cls = 1 → e.state = .run →
      (4 ≤ e.att ∨ e.escaped = true → ∃ t y f, Answers (.checkFaultReexecution tid) s t ∧ t.entry tid = some y ∧
        y.state = .fault ∧ y.fault = some f ∧ f.reason = .coretrap) ∧
      (e.att < 4 → e.escaped = false → ∃ t y, Answers (.checkFaultReexecution tid) s t ∧ t.entry tid = some y ∧
        y.state = .ready ∧ y.att = e.att + 1 ∧ y.checks = [] ∧ t.hub.rxcnt = s.hub.rxcnt + 1 ∧ s.SameButFrames t)) ∧
    (∀ c, e.checks = [c] → e.cls = 2 → e.state = .run ∨ e.state = .done → e.att < 4 → e.escaped = false →
      ∃ t y, Answers (.checkFaultReexecution tid) s t ∧ t.entry tid = some y ∧ y.state = e.state ∧ y.att = e.att + 1 ∧
        y.checks = [] ∧ (∃ r ∈ y.runs, r.role = c.role ∧ r.waiting = true ∧
          r.att = max e.att (((e.run c.role).map fun z => z.att).getD e.att) + 1) ∧
        (∀ r ∈ e.runs, r.role ≠ c.role → r ∈ y.runs) ∧ t.hub.rxcnt = s.hub.rxcnt + 1 ∧ s.SameButFrames t) ∧
    (let sig (r : Nat) := (e.run r).map TaskRun.signature
     let lost (j : Instr) : Prop := ∃ t y f, Answers j s t ∧ t.entry tid = some y ∧ y.state = .fault ∧ y.fault = some f ∧
       f.reason = .undecided ∧ t.hub.votes = s.hub.votes + 1 ∧ t.hub.undec = s.hub.undec + 1
     (s.comparable e = true →
      (sig 0 = sig 1 → ∃ t y, Answers (.voteCompare tid) s t ∧
        t.entry tid = some y ∧ y.state = .verified ∧ t.hub.votes = s.hub.votes + 1 ∧
        t.held = s.held.filter (fun h => !(h.tid == tid && h.role == 1)) ∧ s.SameMemory t) ∧
      (sig 0 ≠ sig 1 →
        ((s.placeEntry true e e.gangOf (some 2)).isSome = true → ∃ t y, Answers (.voteCompare tid) s t ∧ t.entry tid = some y ∧
          y.state = .run ∧ (∃ r ∈ y.runs, r.role = 2 ∧ r.waiting = true) ∧ t.hub.votes = s.hub.votes + 1 ∧ s.SameMemory t) ∧
        (s.placeEntry true e e.gangOf (some 2) = none → lost (.voteCompare tid)))) ∧
     (s.decidable e = true →
      (sig 2 = sig 0 → ∃ t y, Answers (.thirdRunCompare tid) s t ∧
        t.entry tid = some y ∧ y.state = .verified ∧ y.ops = e.ops ∧ t.hub.votes = s.hub.votes + 1) ∧
      (sig 2 ≠ sig 0 → sig 2 = sig 1 → e.escaped = false → ∃ t y, Answers (.thirdRunCompare tid) s t ∧
        t.entry tid = some y ∧ y.state = .verified ∧ y.ops = e.ops.map ROperand.swapTwin ∧ t.hub.votes = s.hub.votes + 1) ∧
      (sig 2 ≠ sig 0 → sig 2 ≠ sig 1 ∨ e.escaped = true → lost (.thirdRunCompare tid))))) ∧
  (∀ (s : State) (tid : Nat) (e : Entry), s.entry tid = some e → s.canWriteThrough tid = true →
    (∀ h, s.nextHeld tid = some h → ∃ t, Answers (.headOnlyMode tid) s t ∧ (∀ g ∈ t.held, g.order ≠ h.order) ∧
      t.hub.lphead = s.hub.lphead ∧ ∀ a, t.mem.read a = (s.releaseHeld h).mem.read a) ∧
    (s.nextHeld tid = none → ∃ t y, Answers (.headOnlyMode tid) s t ∧ t.entry tid = some y ∧ y.headOnly = true ∧ y.escaped = true ∧
      t.hub.lphead = s.hub.lphead + 1 ∧ (∀ h ∈ t.held, h.tid = tid → 3 ≤ h.role) ∧ s.SameMemory t ∧
      ∀ k, (s.core k).holds = true → (s.strand k).id.tid.toNat = tid → (t.strand k).id.head = true)) ∧
  (∀ (s : State) (chip : Nat),
    let score (t : State) (c : Nat) : Nat := SMap.get 0 t.hub.susp c
    (∃ t, Answers .suspicionDecay s t ∧ s.SameMemory t ∧ ∀ c < 8,
      score t c = (if s.hub.ccret.getLsbD c = true then score s c else score s c - 1) ∧
      (t.hub.ccret.getLsbD c = true ↔ s.hub.ccret.getLsbD c = true ∨
        (s.hub.funcmode.getLsbD 1 = true ∧ s.hub.susplim ≠ 0 ∧ s.hub.susplim.toNat ≤ score s c - 1))) ∧
    (chip < 8 → s.hub.eltail + 1 ≠ s.hub.elhead →
      ∃ t, Answers (.sramUncorrectableError chip) s t ∧ score t chip = min 65535 (score s chip + 8) ∧
        t.hub.eltail = s.hub.eltail + 1 ∧ t.freeCtr = s.freeCtr + 1 ∧ s.SameMemory t) ∧
    (chip < 8 → ∃ t, Answers (.chipletReadmission chip) s t ∧ t.hub.ccret.getLsbD chip = false ∧ score t chip = 0 ∧
      (∀ c < 8, c ≠ chip → t.hub.ccret.getLsbD c = s.hub.ccret.getLsbD c ∧ score t c = score s c) ∧ s.SameMemory t) ∧
    (chip < 8 → s.hub.funcmode.getLsbD 1 = false → s.retired chip = false →
      ∃ t, Answers (.chipletRetirementRequest chip) s t ∧ t.retired chip = true ∧ s.SameMemory t ∧
        ∀ k < 64, chipOf k = chip → (s.core k).mode = .running → (s.core k).req = none →
          (t.core k).req = some ⟨5, .core, false, 0⟩))

/-- A strand leaves its core and comes back (18 R362, R363, R366-R370, R373): the stop; the save of a bank into its image in the
frame; the end of the save; the start of the restore, on a scratchpad that reads zero; the restore of a bank from its image; the
merge of what was diverted.  But for the scratchpad of the core that restores, only frame objects are written, each step once the
frame's extents are present (19 R405).
The places of the parts of a record and an image in the frame, and when the frame first holds the strand, are the model's choice
(logs 10, 58).

Lost and killed strands (18 R377-R380, 21 R419): the watchdog's deadline is a task fault; CTXKILL stops a context and drops what
it holds, and its frame slots stay taken until its completion, which tells the host; a lost save and lost window entries that had
escaped are faults of the context, other lost entries decode again; an over-quota context's strands are asked to leave. -/
def Obligations.SuspensionAndKills : Prop :=
  (∀ (s : State) (k b : Nat) (q : Sequencer),
    let c := s.core k
    let o := c.st.owner
    (s.canStop k = true → ∃ t, Answers (.preemptStop k) s t ∧ (t.core k).mode = .saving ∧ (t.strand k).exposed = [] ∧
      (t.strand k).tr.waiting = c.st.tr.waiting ++ (c.st.tr.released ++ c.st.exposed) ∧ s.SameMemory t) ∧
    (∀ ob x, s.waitsFor o = some (ob, x) → c.mode = .running → c.req = none → (s.freeSlot c.st.id.ctx).isSome = true →
      Answers (.pageAbsentSuspend k) s (s.modCore k fun y => { y with req := some ⟨1, .extent ob x, false, 0⟩ })) ∧
    (c.partDone = some q → s.frameWaiting k = false →
      (c.mode = .saving → q.part = .registers → q.banks.find? c.bankReady = some b →
        ∃ t r, Answers (.saveBankStart k) s t ∧ (t.core k).seq = some r ∧ r.part = .bank b ∧ r.left = 774 ∧
          r.banks = q.banks.erase b ∧ s.SameButFrames t ∧ ∀ a, s.away o = some a →
            t.mem = (s.putParts (s.frameOf a).1 (s.frameOf a).2 (s.bankParts k b)).mem) ∧
      (c.mode = .saving → q.part = .bank b → ∃ t r, Answers (.saveBankEnd k) s t ∧ (t.core k).seq = some r ∧
        r.part = .registers ∧ r.banks = q.banks ∧ s.SameMemory t) ∧
      (c.mode = .saving → q.part = .image → ∃ t, Answers (.saveEnd k) s t ∧ (t.core k).mode = .free ∧ (t.core k).seq = none ∧
        (∀ a ∈ t.absent, a.st.owner = o → a.state = 2) ∧ s.SameButFrames t) ∧
      (c.mode = .restoring → q.part = .bank b → ∀ a, s.away o = some a → ∃ t r, Answers (.restoreBankEnd k) s t ∧
        (t.core k).seq = some r ∧ r.part = .registers ∧ r.banks = q.banks ∧
        let lo := b * Config.bankBytes
        t.mem = s.mem.writeAll ((s.partCells (s.frameOf a).1 (s.frameOf a).2 (imageOff lo) Config.bankBytes).map fun p =>
          (spadKey k (c.st.phys (p.1 - imageOff 0)), p.2))) ∧
      (c.mode = .restoring → q.part = .image → s.returnsDue o = false → ∀ a u, s.away o = some a →
        s.placeBarrier k c.st.node.gang = some u → ∃ t r, Answers (.resumeMerge k) s t ∧
        (t.core k).seq = some r ∧ r.part = .rebuild ∧ (t.strand k).sc = a.merged.sc ∧ (t.strand k).vec = a.merged.vec ∧
        t.away o = none)) ∧
    (∀ r, c.mode = .restoring → c.seq = none → c.req = some r → s.frameWaiting k = false → ∃ t y, Answers (.restoreStart k) s t ∧
      (t.core k).seq = some y ∧ y.part = .registers ∧ y.left = 1 ∧ y.banks = bitsOf c.st.kn.banks ∧ (t.core k).req = none ∧
      (∀ i, spadKey k 0 ≤ i → i < spadKey k 0 + Config.spadBytes → t.mem.read i = 0) ∧
      ∀ i, i < spadKey k 0 ∨ spadKey k 0 + Config.spadBytes ≤ i → (∀ x off, s.frameKey (s.ctx x).frameObj off ≠ some i) →
        t.mem.read i = s.mem.read i)) ∧
  (∀ (s : State) (k x : Nat),
    let st := s.strand k
    ((s.core k).mode = .running → s.wdMult ≠ 0 → s.deadline st ≤ st.tr.wdCount →
      Answers (.watchdogExpiry k) s (s.taskFault k .watchdog 0 0 0)) ∧
    ((s.ctx x).created = true → (s.ctx x).killed = false → ∃ t, Answers (.ctxkill x) s t ∧ (t.ctx x).run = 4 ∧
      (t.ctx x).killed = true ∧ (t.ctx x).pool = [] ∧ (∀ a ∈ t.absent, a.st.id.ctx ≠ x) ∧
      (t.ctx x).deadSlots = (s.ctx x).deadSlots ++ (s.absent.filter fun a => a.st.id.ctx == x).map (·.slot) ∧
      (∀ j, (t.core j).holds = true → (t.strand j).id.ctx ≠ x) ∧ (∀ h ∈ t.held, h.owner.ctx ≠ x) ∧ t.alive x = [] ∧
      (∀ n, (t.cell n).own ≠ some x) ∧ s.SameButFrames t) ∧
    ((s.ctx x).run = 4 → s.ctxOutstanding x = false → s.wuse x = 0 → ∃ t, Answers (.killComplete x) s t ∧ (t.ctx x).run = 3 ∧
      (t.ctx x).dying = false ∧ (t.ctx x).deadSlots = [] ∧ (∀ p ∈ t.shadows, p.2.ctx ≠ x) ∧
      (s.irq.length < 64 → t.irq = s.irq ++ [⟨2, 0, x, 0, 0⟩]) ∧ s.SameMemory t) ∧
    (∀ q, (s.core k).seq = some q → q.began + 10500000 ≤ s.now → (s.ctx st.id.ctx).created = true →
      (s.ctx st.id.ctx).killed = false → ∃ t, Answers (.saveTimeout k) s t ∧ (t.ctx st.id.ctx).killed = true ∧
        (t.ctx st.id.ctx).fcount = (s.ctx st.id.ctx).fcount + 1 ∧ s.SameButFrames t) ∧
    (∀ e r, s.alive x = e :: r → ∃ t, Answers (.windowLost x) s t ∧ t.alive x = [] ∧ s.SameButFrames t ∧
      ((∀ y ∈ e :: r, y.escaped = false) → (t.ctx x).fe.spc = e.before.spc ∧ (t.ctx x).fcount = (s.ctx x).fcount) ∧
      ((∃ y ∈ e :: r, y.escaped = true) → (t.ctx x).fcount = (s.ctx x).fcount + 1)) ∧
    ((s.ctx x).energy.overq = true → ∃ t, Answers (.overQuota x) s t ∧ s.SameMemory t ∧
      ∀ j, (s.core j).mode = .running → (s.strand j).id.ctx = x → (s.core j).req = none →
        (t.core j).req = some ⟨4, .grant, false, 0⟩))

/-- The OT command unit and the notices (19 R400-R404): OTSWAP exchanges the bits of its mask and drops every cached copy, then
reports the old word; OTSYNC drops the copies of its extents; an extent that is not there gives status 1 and another OP status 3;
MNQHEAD takes what its consumer writes, and an owed notice takes the slot that it frees.

Migration (19 R405): a move of an extent begins once; its last steps find the page copied bit for bit to its new place, and the
entry names that place, is present and has ACC 0. -/
def Obligations.ObjectTable : Prop :=
  (∀ (s : State) (e : OtEntry) (o : Obj) (op : BitVec 3) (r : OtRun) (v : BitVec 10),
    let h := s.hub
    let uncached (t : State) (x : Nat) : Prop := ∀ p ∈ t.caches, ∀ c ∈ p.2, ¬(c.obj = h.otObj ∧ c.ext = x)
    (h.otBusy = true → s.ot = none → h.otOp = 1 →
      (s.tableEntry h.otObj h.otExt = none → ∃ t, Answers .otswap s t ∧ t.hub.otBusy = false ∧ t.hub.otStatus = 1) ∧
      (s.tableEntry h.otObj h.otExt = some e → ∃ t, Answers .otswap s t ∧ uncached t h.otExt ∧ s.SameMemory t ∧
        (∃ y, t.ot = some y ∧ y.op = 1 ∧ y.old = e.word h.otWord) ∧
        ((∀ p ∈ s.caches, ∀ c ∈ p.2, c.entry.home ≠ 2) → ∃ y, t.tableEntry h.otObj h.otExt = some y ∧
          y.word h.otWord = (e.word h.otWord &&& ~~~h.otMask) ||| (h.otNew &&& h.otMask)))) ∧
    (s.ot = some r → r.op = 1 → ∃ t, Answers .otswapDone s t ∧ t.ot = none ∧ t.hub.otBusy = false ∧ t.hub.otStatus = 0 ∧
      t.hub.otOld = r.old ∧ s.SameMemory t) ∧
    (h.otBusy = true → s.ot = none → h.otOp = 2 → s.obj h.otObj = some o →
      (h.otCount ≠ 0 → h.otExt + h.otCount.toNat ≤ o.exts.length → ∃ t, Answers .otsync s t ∧
        (∀ i < h.otCount.toNat, uncached t (h.otExt + i)) ∧ (∃ y, t.ot = some y ∧ y.op = 2) ∧ s.SameMemory t) ∧
      (h.otCount ≠ 0 → o.exts.length < h.otExt + h.otCount.toNat → ∃ t, Answers .otsync s t ∧ t.hub.otBusy = false ∧
        t.hub.otStatus = 1)) ∧
    (s.ot = some r → r.op = 2 → ∃ t, Answers .otsyncDone s t ∧ t.ot = none ∧ t.hub.otBusy = false ∧ t.hub.otStatus = 0 ∧
      s.SameMemory t) ∧
    (h.otBusy = true → s.ot = none → h.otOp = op → op ≠ 1 → op ≠ 2 → Answers (.otBadOp op) s
      (s.modHub fun h => { h with otBusy := false, otStatus := 3 })) ∧
    Answers (.mnqheadWrite v) s (s.modHub fun h => { h with mnqhead := v }) ∧
    (∀ ob x hw l, s.owed = (ob, x, hw) :: l → h.mnqtail + 1 ≠ h.mnqhead → ∃ t w, Answers .owedNoticePost s t ∧ t.owed = l ∧
      t.hub.mnqtail = h.mnqtail + 1 ∧ t.hub.ovf = 0 ∧ SMap.get (0, 0) t.hub.mnq h.mnqtail.toNat = w ∧
      w.1.toNat % 2 ^ 28 = ob % 2 ^ 28 ∧ w.2.toNat / 2 ^ 16 = h.ovf % 2 ^ 48 ∧ s.SameMemory t)) ∧
  (∀ (s : State) (obj ext home unit place : Nat) (o : Obj) (e : OtEntry), s.obj obj = some o → s.tableEntry obj ext = some e →
    let page := 2 ^ pageLog o.pcode
    (e.p = true → e.home < 3 → o.kind ≠ kPane → s.placeOk home unit place page = true →
      let moving := s.moves.any fun m => m.obj == obj && m.ext == ext
      (moving = false → Answers (.extentMigration obj ext home unit place) s
        { s with moves := s.moves ++ [⟨obj, ext, home, unit, place, 0, 0, none⟩] }) ∧
      (moving = true → Answers (.extentMigration obj ext home unit place) s s)) ∧
    (s.Canonical → (∀ p ∈ s.caches, ∀ c ∈ p.2, c.entry.home ≠ 2) → ∀ m : Migration, m.obj = obj → m.ext = ext → m.home < 2 →
      m.unit < 8 → m.base < 2 ^ 64 → ∃ y, (s.endMove m).tableEntry obj ext = some y ∧ y.home = m.home ∧ y.unit = m.unit ∧
        y.w1 = BitVec.ofNat 64 m.base ∧ y.p = true ∧ y.pend = false ∧ y.acc = 0 ∧ (s.endMove m).Canonical ∧
        ∀ i < page, (s.endMove m).mem.read (y.key page 0 + i) = s.mem.read (e.key page 0 + i)))

/-- The host's requests (21 R427, R428, R433, 03 R44): where the firmware's policy, a free value (log 12, DESIGN CHOICE), allows one, it ends with
STATUS 0 and its RESULT; where it does not, with STATUS 2 and no object changed; arguments that break a range end with 3.

Droop and ballast (21 R413, R415, R418): an enabled domain's alarm stretches its cores and counts; a stretch ends in 64 halved
cycles, which end; a drop of the window sum by more than 1024 starts 32 ballast cycles, charged to the context whose strand holds
or last held the core; the last of them is charged and ends them.

The trip and boot (21 R417, R432): of the module a trip keeps TRIPCAUSE alone, with its cause bit and one more in its count, and
every memory but those of the host and of peers reads zero; boot leaves GCYC 0 and no context but context 0, no object but the
service stream's and no byte outside its image, and, where the firmware's signature, a free value (log 12, DESIGN CHOICE), holds,
context 0 fetching from it; after the kill of context 0 the firmware creates and starts it again, on a new image of its stream (21
R433; log 12, DESIGN CHOICE, gives its place), and nothing else in memory changes.

How the charge of ballast and its weights are rounded, and that object number 0 names none, is the model's choice (logs 11, 46,
61). -/
def Obligations.ModuleAndRequests : Prop :=
  (∀ (s : State) (op : BitVec 8), s.hub.mbStatus = 1 → s.hub.mbRun = op →
    let h := s.hub
    let arg (i : Nat) : Nat := (SMap.get 0 h.mbArg i).toNat
    let ends (j : Instr) (g : State → Prop) : Prop := ∃ t, Answers j s t ∧
      if Config.policyAllows s.freeCtr = true then t.hub.mbStatus = 0 ∧ g t else t.hub.mbStatus = 2 ∧ t.objs = s.objs
    let fails (j : Instr) (g : State → Prop) : Prop := ∃ t, Answers j s t ∧ t.hub.mbStatus = 3 ∧ g t
    let req := objReq h
    let id := freeKey (s.objs.map (·.1)) 1 s.objs.length
    (op = 1 → req.ok = true → id ≤ 0xFFDFFFF → ∀ es, ({ s with freeCtr := s.freeCtr + 1 } : State).newExtents req = some es →
      ends .createObject fun t => t.hub.mbResult = BitVec.ofNat 64 id ∧
        (∃ a, t.obj id = some ⟨req.frame, req.pcode, req.owner, req.migthr, req.kind, req.size, a, es⟩) ∧
        (s.Canonical → ∀ e ∈ es, e.home < 2 → ∀ i < req.page, t.mem.read (e.key req.page 0 + i) = 0)) ∧
    (op = 1 → req.ok = false → fails .createObject fun t => t.objs = s.objs) ∧
    (op = 2 → arg 0 = 0 ∨ 0xFFDFFFF < arg 0 → fails .freeObject fun t => t.objs = s.objs) ∧
    (op = 2 → ∀ o, arg 0 ≠ 0 → arg 0 ≤ 0xFFDFFFF → s.obj (arg 0) = some o →
      (s.ctxOutstanding o.owner = true → Answers .freeObject s s) ∧
      (s.ctxOutstanding o.owner = false → ends .freeObject fun t =>
        (∀ i, t.obj i = if i = arg 0 then none else s.obj i) ∧ t.mem = s.mem)) ∧
    (op = 3 → ∀ d, arg 0 % 16 ≠ 0 → (s.obj (arg 1)).isSome = true → (s.obj (arg 2 % 2 ^ 28)).isSome = true →
      s.desc (arg 2 % 2 ^ 28) (arg 2 / 2 ^ 32) (arg 1) = some d → s.ctxFree (arg 0 % 16) = true →
      s.quotasOk (arg 0 % 16) d.window d.pool = true → (∀ i ∈ [1, 3, 4, 5], s.ownObj (arg i) (arg 0 % 16) = true) →
      (arg 3 = 0 ∨ ∃ o, s.obj (arg 3) = some o ∧ o.frame = true ∧ frameStride ≤ o.size) →
      ends .createContext fun t => let c := t.ctx (arg 0 % 16)
        c.created = true ∧ c.run = 3 ∧ c.sobj = arg 1 ∧ c.fe.spc = 0 ∧ c.fe.prio = d.prio ∧ c.fe.wquota = d.window ∧
        c.fe.pquota = d.pool ∧ c.fe.fvec = d.fvec ∧ c.caps = [] ∧ c.count = 0) ∧
    (op = 4 → let c := s.ctx (arg 0 % 16)
      c.created = true → c.killed = false → c.run = 3 →
      (arg 2 % 4 = 2 → s.target (arg 0 % 16) (arg 1 % 2 ^ 48) = true → ends .restartContext fun t =>
        (t.ctx (arg 0 % 16)).fe.spc = arg 1 % 2 ^ 48 ∧ (t.ctx (arg 0 % 16)).run = 1 ∧
        (t.ctx (arg 0 % 16)).fe.handler = c.fe.handler) ∧
      (∀ f, arg 2 % 4 = 0 → c.lastFault = some f → ends .restartContext fun t => (t.ctx (arg 0 % 16)).fe.spc = f ∧
        (t.ctx (arg 0 % 16)).run = 1 ∧ (t.ctx (arg 0 % 16)).fe.handler = false) ∧
      (∀ f, arg 2 % 4 = 1 → c.lastFault = some f → ends .restartContext fun t =>
        (t.ctx (arg 0 % 16)).fe.spc = f + 16 * (1 + s.extWords (arg 0 % 16) f) ∧ (t.ctx (arg 0 % 16)).run = 1 ∧
        (t.ctx (arg 0 % 16)).fe.handler = false)) ∧
    (op = 5 → let c : CapBits := BitVec.ofNat 128 (arg 2 + arg 3 * 2 ^ 64)
      capOk c = true → (s.ctx (arg 0 % 16)).created = true →
      c = 0 ∨ capKind c = kScratch ∨ (∃ o, s.obj (capObj c) = some o ∧ o.owner = arg 0 % 16 ∧ o.kind = capKind c) →
      ends .writeCapabilityEntry fun t => (t.ctx (arg 0 % 16)).cap (arg 1 % 4096) = c) ∧
    (op = 0 ∨ 5 < op.toNat → fails (.badRequest op) fun t => t.objs = s.objs ∧ t.ctxs = s.ctxs)) ∧
  (∀ (s : State) (k d : Nat),
    let c := s.core k
    (d < 4 → (SMap.get 0x10C s.hub.drpthr d).getLsbD 8 = true → ∃ t, Answers (.droopAlarm d) s t ∧ s.SameMemory t ∧
      SMap.get 0 t.hub.drpcnt d = SMap.get 0 s.hub.drpcnt d + 1 ∧
      ∀ j < 64, (j / 16 = d → (s.core j).stretch = 0 → (s.core j).halve = 0 → (t.core j).stretch = 10) ∧
        (j / 16 = d → (s.core j).stretch = 0 → (s.core j).halve ≠ 0 → (t.core j).halve = 65) ∧ (j / 16 ≠ d → t.core j = s.core j)) ∧
    (c.stretch = 1 → Answers (.droopStretchEnd k) s (s.modCore k fun c =>
      { c with stretch := 0, halve := 65, halvePhase := false })) ∧
    (c.halve = 1 → Answers (.droopHalvingEnd k) s (s.modCore k fun c => { c with halve := 0, halvePhase := false })) ∧
    (c.ballast = 0 → c.weights.sum + 1024 < c.lastSum → Answers (.ballastStart k) s (s.modCore k fun c =>
      { c with ballast := 32, ballastFrom := c.lastSum, ballastTo := c.weights.sum,
               ballastCtx := if c.holds then some c.st.id.ctx else c.lastCtx })) ∧
    (c.ballast = 1 → ∃ t, Answers (.ballastEnd k) s t ∧ s.SameMemory t ∧
      t.core k = { c with ballast := 0, ballastFrom := 0, ballastTo := 0, ballastCtx := none } ∧
      ∀ x, c.ballastCtx = some x → (t.ctx x).energy.ballast =
        (s.ctx x).energy.ballast + 25600 * ballastWeight c.ballastFrom c.ballastTo 31)) ∧
  (∀ (s : State) (src : TripSource) (m : BitVec 16),
    let inside (t : State) : Prop := (∀ a < hostKey 0, t.mem.read a = 0) ∧ ∀ a, hostKey 0 ≤ a → t.mem.read a = s.mem.read a
    (∀ b, src.bit = some b → ∃ t, Answers (.thermalTrip src) s t ∧ t.on = false ∧ inside t ∧ t.cores = [] ∧ t.ctxs = [] ∧
      t.hub.tripcause.getLsbD b = true ∧ (∀ i < 16, i ≠ b → t.hub.tripcause.getLsbD i = s.hub.tripcause.getLsbD i) ∧
      t.hub.tripcause.toNat / 2 ^ 32 = min (s.hub.tripcause.toNat / 2 ^ 32 + 1) (2 ^ 32 - 1)) ∧
    (∃ t, Answers (.tripcauseClear m) s t ∧ t.mem = s.mem ∧ ∀ i < 64, t.hub.tripcause.getLsbD i =
      (s.hub.tripcause.getLsbD i && !(decide (i < 16) && m.getLsbD i))) ∧
    (s.hub.mbStatus ≠ 1 → (s.ctx 0).killed = true → (s.ctx 0).run = 3 → ∃ t, Answers .createContext s t ∧
      (t.ctx 0).created = true ∧ (t.ctx 0).killed = false ∧ (t.ctx 0).run = 1 ∧ (t.ctx 0).fe.spc = 0 ∧
      let o := (s.ctx 0).sobj
      let image := Config.serviceImage s.freeCtr
      (t.ctx 0).sobj = o ∧ (∀ i, i ≠ o → t.obj i = s.obj i) ∧
      (∀ a, (∀ i, t.frameKey o i ≠ some a) → t.mem.read a = s.mem.read a) ∧
      (s.Canonical → ∀ i < image.length, ∀ a, t.frameKey o i = some a → (∀ j < image.length, i < j → t.frameKey o j ≠ some a) →
        t.mem.read a = image.getD i 0)) ∧
    let service := serviceObj (s.freeCtr + 3)
    ∃ t, Answers .boot s t ∧ t.gcyc = 0 ∧ t.window = [] ∧ t.cores = [] ∧ (∀ o, o ≠ service → t.obj o = none) ∧
      t.hub.tripcause = s.hub.tripcause ∧ (∀ x, x ≠ 0 → (t.ctx x).created = false) ∧
      (∀ a, (∀ p ∈ t.objCells service 0 (Config.serviceImage (s.freeCtr + 3)), p.1 ≠ a) →
        t.mem.read a = if a < hostKey 0 then 0 else s.mem.read a) ∧
      if Config.signatureOk s.freeCtr = true then t.on = true ∧ (t.ctx 0).created = true ∧ (t.ctx 0).run = 1 ∧
        (t.ctx 0).sobj = service ∧ (t.ctx 0).fe.spc = 0
      else t.on = false ∧ (t.ctx 0).created = false ∧ t.objs = [] ∧ inside t)

/-- Registers of the hub (21 R409, R419, R420, R423, R425, R426): energy grants pay DEBT first; the Hoist is armed, fired and
latched; the oldest event enters the ring; the pointers take what is written, and TRIPCAUSE loses the bits that a 1 names; FUNCMODE
changes with the next cycle; the error log takes its entries.  The base of the ring in host memory is the model's choice (log 47).

Checkpoints (21 R421, R422, 12 R313): the next granule of a marked extent, or published shadow, that the target object does not hold
yet is copied into it, where alone bytes change; an extent or shadow that is all there leaves what is still to be copied, and joins
the record; with the last one CKDONE takes the tag; the restart of a stopped context brings back the recorded front end.  The order and form of the copies, and the priority that a restart keeps, are the model's choice (logs 62, 48).

Links and windows (21 R424, R429): a flit in sequence is taken and clears the failures, its acknowledgement empties the replay
buffer of what it names, an access whose flits it names performs at its home (12 R306), and the access that it carries joins the
remote accesses (12 R303; log 109, DESIGN CHOICE); another one counts, a call for a
replay starts the sending again, and the sixteenth failed replay of either side takes the port down (log 65, DEDUCED); a host store
through its window writes its bytes, and a host load takes its value, or a free one where it finds no data (log 14, DESIGN
CHOICE), at a peer home once its link acknowledges. -/
def Obligations.HubAndLinks : Prop :=
  (∀ (s : State) (x chip addr off : Nat) (v : W64) (w : BitVec 12) (r : IntRec) (l : List IntRec),
    let hub (j : Instr) (f : HubRegs → HubRegs) : Prop := Answers j s (s.modHub f)
    let e := (s.ctx x).energy
    (x < 16 → ∃ t, Answers (.energyQuotaWrite x v) s t ∧ s.SameMemory t ∧
      (v.toNat * 100000 ≤ e.debt → (t.ctx x).energy.debt = e.debt - v.toNat * 100000 ∧ (t.ctx x).energy.quota = 0 ∧
        (t.ctx x).energy.overq = e.overq) ∧
      (e.debt < v.toNat * 100000 → (t.ctx x).energy.debt = 0 ∧ (t.ctx x).energy.quota = v.toNat * 100000 - e.debt ∧
        (t.ctx x).energy.overq = false)) ∧
    hub .hoistArm (fun h => { h with harm := true }) ∧
    (s.hub.harm = true → s.now ∉ s.hoist → ∃ t, Answers .hoistFire s t ∧ t.hub.harm = false ∧ t.hoist = s.hoist ++ [s.now] ∧
      t.hub.hstat.toNat / 2 ^ 8 % 16 = 2) ∧
    (s.hub.hpinen = false → Answers .hoistPin s s) ∧
    (s.hub.harm = true → s.hub.hpinen = true → s.now ∉ s.hoist → ∃ t, Answers .hoistPin s t ∧ t.hub.harm = false ∧
      t.hoist = s.hoist ++ [s.now] ∧ t.hub.hstat.toNat / 2 ^ 8 % 16 = 8) ∧
    (∀ f q, s.hoist = f :: q → f + 16 ≤ s.now → ∃ t, Answers .hoistSnapshot s t ∧ t.hoist = q ∧ t.snap.cells = s.allCells ∧
      (∀ k < 64, ∃ y, SMap.get [] t.snap.cores k = y ∧ y[0]? = some (s.strand k).id.cyc ∧ y[1]? = some (s.strand k).id.frz ∧
        y[3]? = some ((s.strand k).id.tid.setWidth 64)) ∧ s.SameMemory t) ∧
    (s.irq = r :: l → s.hub.irtail + 1 ≠ s.hub.irhead → ∃ t, Answers .interruptRecordPost s t ∧ t.irq = l ∧
      (s.Canonical → s.RingTakes t
        [BitVec.ofNat 64 (r.kind + r.vector * 2 ^ 8 + r.ctx * 2 ^ 16), r.datum, r.payload.setWidth 64, s.gcyc])) ∧
    hub (.irheadWrite w) (fun h => { h with irhead := w }) ∧ hub (.elheadWrite w) (fun h => { h with elhead := w }) ∧
    (s.hub.eltail + 1 = s.hub.elhead → hub (.correctedError chip addr) fun h => { h with ellost := h.ellost + 1 }) ∧
    (s.hub.eltail + 1 ≠ s.hub.elhead → ∃ t, Answers (.correctedError chip addr) s t ∧ t.hub.eltail = s.hub.eltail + 1 ∧
      ((SMap.get [] t.hub.elog s.hub.eltail.toNat)[0]?.map fun z => z.toNat % 2 ^ 8) = some 6 ∧
      (SMap.get [] t.hub.elog s.hub.eltail.toNat)[6]? = some (BitVec.ofNat 64 addr)) ∧
    (off = 0x30F00 → hub (.registerWrite .host off v) fun h => { h with irhead := v.setWidth 12 }) ∧
    (off = 0x30000 → hub (.registerWrite .firmware off v) fun h => { h with funcNext := some (v.setWidth 5) }) ∧
    (off = 0x300F8 → hub (.registerWrite .firmware off v) fun h => { h with tripcause := h.tripcause &&& ~~~(v &&& 0xFFFF) }) ∧
    (off = 0x30000 → hub (.registerWrite .host off v) id)) ∧
  (∀ (s : State) (x : Nat),
    (∀ k i n l, (s.ctx x).ckpt = some k → s.copyItem k = some i → s.copySource i = (n, l) →
      let key (j : Nat) : Option Nat := s.frameKey (s.ctx x).ckptObj (k.next + j)
      let rest : List (Nat × Nat) × List Nat := match i with
        | .inl p => (k.todo.erase p, k.shadows)
        | .inr m => (k.todo, k.shadows.erase m)
      (∀ g, s.copyGranule x k n l = some g → s.frameHeld (s.ctx x).ckptObj (k.next + g) 16 false = none →
        ∃ t y, Answers (.ckptExtentCopied x) s t ∧ (t.ctx x).ckpt = some y ∧ y.part = g + 16 ∧ y.next = k.next ∧
          y.shadows = k.shadows ∧ (∀ p, p ∈ y.todo ↔ p ∈ k.todo) ∧
          (∀ a, (∀ j < 16, key (g + j) ≠ some a) → t.mem.read a = s.mem.read a) ∧
          (s.Canonical → k.next % 16 = 0 → ∀ j < 16, ∀ a, key (g + j) = some a → t.mem.read a = SMap.get 0 l (g + j))) ∧
      (s.copyGranule x k n l = none → ∃ t, Answers (.ckptExtentCopied x) s t ∧ s.SameMemory t ∧
        (rest ≠ ([], []) → ∃ y, (t.ctx x).ckpt = some y ∧ (y.todo, y.shadows) = rest ∧ y.part = 0 ∧ y.next = k.next + n ∧
          ∀ o e, i = .inl (o, e) → n ≠ 0 → y.rec_.data = k.rec_.data ++ [(o, e, l)]) ∧
        (rest = ([], []) → (t.ctx x).ckpt = none ∧ (t.ctx x).ckdone = k.tag))) ∧
    (∀ r, (s.ctx x).saved = some r → (s.ctx x).created = true → (s.ctx x).killed = false → (s.ctx x).run = 3 →
      s.alive x = [] → s.ctxOutstanding x = false → s.restorable (s.ctx x) r = true → ∃ t, Answers (.checkpointRestart x) s t ∧ (t.ctx x).run = 1 ∧
        (t.ctx x).fe.spc = r.fe.spc ∧ (t.ctx x).fe.g = r.fe.g ∧ (t.ctx x).fe.prio = (s.ctx x).fe.prio ∧
        (t.ctx x).energy = r.energy ∧ (t.ctx x).fault = none ∧ (s.Canonical → t.Canonical))) ∧
  (∀ (s : State) (port n k : Nat) (c : BitVec 2) (win off size : Nat) (v : W64),
    let p := SMap.get Port.init s.ports port
    let becomes (f : Flit) (q : Port) : Prop := Answers (.pennantFlitReceive port f) s { s with ports := SMap.set s.ports port q }
    let quiet : Prop := ∀ f ∈ p.buffer, f.seq < k → ∀ id, f.use ≠ .access id
    (port < 16 → p.up = true → quiet →
      becomes (.good p.expect k c none) { p.acked k with expect := p.expect + 1, failures := 0 } ∧
      (p.acked k).buffer = p.buffer.filter (fun f => k ≤ f.seq) ∧
      (∀ a, ∃ t m, Answers (.pennantFlitReceive port (.good p.expect k c (some a))) s t ∧ t.remotes = s.remotes ++ [m] ∧
        s.SameMemory t ∧ m.stage = .port ∧
        (∀ o f bs, a = .store o f bs → m.kind = .store ∧ m.obj = o ∧ m.bytes = atAddr f bs) ∧
        ∀ o f z, a = .load o f z → m.kind = .load ∧ m.obj = o ∧ m.off = f ∧ m.size = z) ∧
      (n < p.expect → ∀ a, becomes (.good n k c a) (p.acked k)) ∧
      (p.failures < 16 → becomes .corrupt { p with failures := p.failures + 1 } ∧
        (p.expect < n → ∀ a, becomes (.good n k c a) { p with failures := p.failures + 1 })) ∧
      (p.replays < 16 → becomes .replay { p with sent := 0, replays := p.replays + 1 }) ∧
      (∀ f : Flit, f = .corrupt ∧ 16 ≤ p.failures ∨ f = .replay ∧ 16 ≤ p.replays → s.remotes = [] → s.held = [] →
        ∃ t, Answers (.pennantFlitReceive port f) s t ∧ (SMap.get Port.init t.ports port).up = false ∧
          (SMap.get Port.init t.ports port).buffer = [] ∧ s.SameMemory t)) ∧
    (port < 16 → p.up = true → ∀ (f : TxFlit) (id : Nat) (r : Remote), p.buffer = [f] → f.seq < k → f.use = .access id →
      s.remote id = some r → r.stage = .sent → r.slot ≠ hostSlot → n < p.expect →
      let u : State := { s with ports := SMap.set s.ports port (p.acked k) }
      u.inFlight (.access id) = false →
      let answers (t : State) : Prop := Answers (.pennantFlitReceive port (.good n k c none)) s t
      (r.kind = .store → answers ((u.writeVia (u.remotePort r) r.obj r.bytes).stageTo id .stored)) ∧
      (r.kind = .load → ∀ bs, u.readHeld (u.remotePort r) r.owner r.obj r.off r.size (some id) = (bs, false) →
        answers (u.stageTo id (.performed (extendLoad r.sx r.size (ofLE bs)))))) ∧
    (∀ o a q u, s.windowAccess win off size true = some (o, a, q) → s.reachAll q true false (s.extents o a size) = (u, .ok) →
      let bs := atAddr a (leBytes size v.toNat)
      let fl := u.peerStore o bs
      (fl = [] → Answers (.hostWindowAccess win off size (some v)) s (u.writeVia q o bs)) ∧
      (fl ≠ [] → Answers (.hostWindowAccess win off size (some v)) s
        (u.postPeer hostSlot 0 hostOwner (8 * q) (u.objKind o) o bs fl))) ∧
    (∀ o a q u, s.windowAccess win off size false = some (o, a, q) → s.reachAll q false false (s.extents o a size) = (u, .ok) →
      let fl := u.peerLoad o a size
      (fl = [] → ∀ bs, u.readVia q o a size = (bs, false) → Answers (.hostWindowAccess win off size none) s
        (u.modHub fun h => { h with hostData := BitVec.ofNat 64 (ofLE bs) })) ∧
      (fl ≠ [] → Answers (.hostWindowAccess win off size none) s (u.hostAsks q o a size fl))) ∧
    (∀ o a q u f, s.windowAccess win off size false = some (o, a, q) → s.reachAll q false false (s.extents o a size) = (u, f) →
      f ≠ .ok → ∃ d, Answers (.hostWindowAccess win off size none) s
        ({ u with freeCtr := u.freeCtr + 1 }.modHub fun h => { h with hostData := d })) ∧
    (s.windowAccess win off size true = none → Answers (.hostWindowAccess win off size (some v)) s s))
end

