-- ==== Sys2Proof/Laws/Encoding.lean ====
section
/-!
SUPPORT. Laws of the encoder and the decoder: the fields of a packed word are the fields that were packed, form by form.
-/

namespace Sys2Proof

/-- Unpacking a packed word gives back its fields, where each fits its width. -/
theorem unpack_pack (fs : List (Nat × Nat)) (h : ∀ f ∈ fs, f.2 < 2 ^ f.1) :
    unpack (fs.map (·.1)) (pack fs) = fs.map (·.2) := by
  induction fs with
  | nil => rfl
  | cons f r ih =>
    obtain ⟨n, v⟩ := f
    have hv : v < 2 ^ n := h _ (List.mem_cons_self ..)
    simp only [List.map_cons, unpack, pack]
    rw [Nat.add_mul_mod_self_left, Nat.mod_eq_of_lt hv, Nat.add_mul_div_left _ _ (Nat.two_pow_pos n), Nat.div_eq_of_lt hv,
      Nat.zero_add, ih fun f hf => h f (List.mem_cons_of_mem _ hf)]

/-- A packed word fits the sum of its widths. -/
theorem pack_lt (fs : List (Nat × Nat)) (h : ∀ f ∈ fs, f.2 < 2 ^ f.1) : pack fs < 2 ^ (fs.map (·.1)).sum := by
  induction fs with
  | nil => simp [pack]
  | cons f r ih =>
    obtain ⟨n, v⟩ := f
    have hv : v < 2 ^ n := h _ (List.mem_cons_self ..)
    have ih := ih fun f hf => h f (List.mem_cons_of_mem _ hf)
    simp only [List.map_cons, List.sum_cons, pack, Nat.pow_add]
    calc v + 2 ^ n * pack r < 2 ^ n + 2 ^ n * pack r := by omega
      _ = 2 ^ n * (pack r + 1) := by ring
      _ ≤ 2 ^ n * 2 ^ (r.map (·.1)).sum := Nat.mul_le_mul_left _ ih

theorem bit_lt (b : Bool) : bit b < 2 := by cases b <;> decide
@[simp] theorem bit_beq (b : Bool) : (bit b == 1) = b := by cases b <;> rfl
@[simp] theorem bit_eq_one (b : Bool) : bit b = 1 ↔ b = true := by cases b <;> decide

@[simp] theorem mkGuard_eq (g : Guard) : mkGuard g.q.toNat (bit g.neg) = g := by
  obtain ⟨q, n⟩ := g; cases n <;> simp [mkGuard, bit]
@[simp] theorem mkPGuard_eq (g : PGuard) : mkPGuard g.p.toNat (bit g.neg) = g := by
  obtain ⟨q, n⟩ := g; cases n <;> simp [mkPGuard, bit]

/-- The fields of a scalar word (03 R51). -/
theorem unpack_scalar {op d a b : Nat} (g : Guard) (ho : op < 2 ^ 8) (hd : d < 2 ^ 6) (ha : a < 2 ^ 6) (hb : b < 2 ^ 8) :
    unpack scalarWidths (packScalar op g d a b) = [op, g.q.toNat, bit g.neg, d, a, b] := by
  have h1 := g.q.isLt
  have h2 := bit_lt g.neg
  simpa [scalarWidths, packScalar] using
    unpack_pack [(8, op), (3, g.q.toNat), (1, bit g.neg), (6, d), (6, a), (8, b)] (by simp; omega)

/-- The fields of a load or store word (03 R53). -/
theorem unpack_memory {op p n r c o i f : Nat} (q : MemQ) (ho : op < 2 ^ 6) (hp : p < 2 ^ 4) (hn : n < 2) (hr : r < 2 ^ 9)
    (hc : c < 2 ^ 4) (hf : o < 2 ^ 6) (hi : i < 2 ^ 12) (hq : f < 2) :
    unpack memoryWidths (packMemory op p n r c o i q f) = [op, p, n, r, c, o, i, q.cls.toNat, q.qual.toNat, f] := by
  have h1 := q.cls.isLt
  have h2 := q.qual.isLt
  simpa [memoryWidths, packMemory] using
    unpack_pack [(6, op), (4, p), (1, n), (9, r), (4, c), (6, o), (12, i), (3, q.cls.toNat), (2, q.qual.toNat), (1, f)]
      (by simp; omega)

/-- The fields of a vector word (03 R55). -/
theorem unpack_vector {op : Nat} (o : VOp) (ho : op < 2 ^ 8) :
    unpack vectorWidths (packVector op o) = [op, o.g.p.toNat, bit o.g.neg, o.d.toNat, o.a.toNat, o.b.toNat, o.c.toNat,
      o.typ.toNat, o.rnd.toNat, bit o.sat, bit o.lia, bit o.lid, o.fn.toNat] := by
  have h1 := o.g.p.isLt
  have h2 := bit_lt o.g.neg
  have h3 := o.d.isLt
  have h4 := o.a.isLt
  have h5 := o.b.isLt
  have h6 := o.c.isLt
  have h7 := o.typ.isLt
  have h8 := o.rnd.isLt
  have h9 := bit_lt o.sat
  have h10 := bit_lt o.lia
  have h11 := bit_lt o.lid
  have h12 := o.fn.isLt
  simpa [vectorWidths, packVector] using
    unpack_pack [(8, op), (4, o.g.p.toNat), (1, bit o.g.neg), (9, o.d.toNat), (9, o.a.toNat), (9, o.b.toNat), (9, o.c.toNat),
      (4, o.typ.toNat), (2, o.rnd.toNat), (1, bit o.sat), (1, bit o.lia), (1, bit o.lid), (6, o.fn.toNat)] (by simp; omega)

/-- The fields of a matrix word (03 R56). -/
theorem unpack_matrix {op : Nat} (o : MOp) (ho : op < 2 ^ 8) :
    unpack matrixWidths (packMatrix op o) = [op, o.tile.toNat, 0, o.cap.toNat, o.off.toNat, o.row0.toNat, o.count.toNat,
      o.prof.toNat, bit o.t, o.scale.toNat, o.size.toNat] := by
  have h1 := o.tile.isLt
  have h2 := o.cap.isLt
  have h3 := o.off.isLt
  have h4 := o.row0.isLt
  have h5 := o.count.isLt
  have h6 := o.prof.isLt
  have h7 := bit_lt o.t
  have h8 := o.scale.isLt
  have h9 := o.size.isLt
  simpa [matrixWidths, packMatrix] using
    unpack_pack [(8, op), (3, o.tile.toNat), (1, 0), (4, o.cap.toNat), (6, o.off.toNat), (9, o.row0.toNat), (10, o.count.toNat),
      (6, o.prof.toNat), (1, bit o.t), (6, o.scale.toNat), (10, o.size.toNat)] (by simp; omega)

/-- The fields of an engine word with operand bits x (03 R57). -/
theorem unpack_engine {op x : Nat} (e : ESync) (ho : op < 2 ^ 10) (hx : x < 2 ^ 52) :
    unpack engineWidths (packEngine op e x) = [op, e.g.q.toNat, bit e.g.neg, bit e.waitEn, e.waitSem.toNat, e.waitThr.toNat,
      bit e.sigEn, e.sigSem.toNat, e.sigInc.toNat, x] := by
  have h1 := e.g.q.isLt
  have h2 := bit_lt e.g.neg
  have h3 := bit_lt e.waitEn
  have h4 := e.waitSem.isLt
  have h5 := e.waitThr.isLt
  have h6 := bit_lt e.sigEn
  have h7 := e.sigSem.isLt
  have h8 := e.sigInc.isLt
  simpa [engineWidths, packEngine] using
    unpack_pack [(10, op), (3, e.g.q.toNat), (1, bit e.g.neg), (1, bit e.waitEn), (8, e.waitSem.toNat), (8, e.waitThr.toNat),
      (1, bit e.sigEn), (8, e.sigSem.toNat), (4, e.sigInc.toNat), (52, x)] (by simp; omega)

/-- The fields of an S-op word (03 R58). -/
theorem unpack_stream {op fl a b c cd i j : Nat} (ho : op < 2 ^ 8) (hf : fl < 2 ^ 8) (ha : a < 2 ^ 4) (hb : b < 2 ^ 4)
    (hc : c < 2 ^ 4) (hd : cd < 2 ^ 4) (hi : i < 2 ^ 32) (hj : j < 2 ^ 64) :
    unpack streamWidths (packStream op fl a b c cd i j) = [op, fl, a, b, c, cd, i, j] := by
  simpa [streamWidths, packStream] using
    unpack_pack [(8, op), (8, fl), (4, a), (4, b), (4, c), (4, cd), (32, i), (64, j)] (by simp; omega)

/-- Check 3 of R49 passed: the instruction, where its own fields pass too. -/
theorem formed_ok {i : Instr} (h : slotCheck i = none) : formed true i = .ok i := by simp [formed, h]
theorem formedS_ok {i : Instr} (h : streamCheck i = none) : formedS true i = .ok i := by simp [formedS, h]
theorem wellFormed_iff (i : Instr) : wellFormed i = true ↔ slotCheck i = none ∧ streamCheck i = none := by
  simp [wellFormed]

end Sys2Proof
end

