-- ==== Sys2Proof/Laws/SMap.lean ====
section
/-!
SUPPORT. Laws of sparse maps and of memory: reads after writes, and the canonical form, which every memory operation keeps.
-/

namespace Sys2Proof

variable {α : Type}

/-- Keys rise strictly above `lo`. -/
def SMap.Above : Option Nat → SMap α → Prop
  | _, [] => True
  | lo, (j, _) :: m => (∀ l ∈ lo, l < j) ∧ SMap.Above (some j) m

theorem SMap.Above.weaken {lo hi : Option Nat} {m : SMap α} (h : SMap.Above hi m) (hl : ∀ l ∈ lo, ∀ j, (∀ i ∈ hi, i < j) → l < j) :
    SMap.Above lo m := by
  cases m with
  | nil => trivial
  | cons p m => exact ⟨fun l hm => hl l hm _ h.1, h.2⟩

theorem SMap.get_of_lt (d : α) {m : SMap α} {lo : Option Nat} {k : Nat} (h : SMap.Above lo m) (hk : ∀ j, (∀ l ∈ lo, l < j) → k < j) :
    SMap.get d m k = d := by
  induction m generalizing lo with
  | nil => rfl
  | cons p m ih =>
    obtain ⟨j, w⟩ := p
    have hj := hk j h.1
    rw [SMap.get, if_neg (by omega)]
    exact ih h.2 fun i hi => by have := hi j rfl; omega

theorem SMap.get_set_same (d v : α) (m : SMap α) (k : Nat) : SMap.get d (SMap.set m k v) k = v := by
  induction m with
  | nil => simp [SMap.set, SMap.get]
  | cons p m ih =>
    obtain ⟨j, w⟩ := p
    by_cases h : k = j
    · simp [SMap.set, SMap.get, h]
    · by_cases h' : k < j <;> simp [SMap.set, SMap.get, h, h', ih]

theorem SMap.get_set_other (d v : α) (m : SMap α) {k i : Nat} (hi : i ≠ k) :
    SMap.get d (SMap.set m k v) i = SMap.get d m i := by
  induction m with
  | nil => simp [SMap.set, SMap.get, hi]
  | cons p m ih =>
    obtain ⟨j, w⟩ := p
    by_cases h : k = j
    · subst h; simp [SMap.set, SMap.get, hi]
    · by_cases h' : k < j <;> simp [SMap.set, SMap.get, h, h', hi, ih]

@[simp] theorem SMap.get_set (d v : α) (m : SMap α) (k i : Nat) :
    SMap.get d (SMap.set m k v) i = if i = k then v else SMap.get d m i := by
  by_cases h : i = k
  · subst h; simp [SMap.get_set_same]
  · simp [h, SMap.get_set_other d v m h]

theorem SMap.get_erase_other (d : α) (m : SMap α) {k i : Nat} (hi : i ≠ k) : SMap.get d (SMap.erase m k) i = SMap.get d m i := by
  induction m with
  | nil => rfl
  | cons p m ih =>
    obtain ⟨j, w⟩ := p
    by_cases h : k = j
    · subst h; simp [SMap.erase, SMap.get, hi]
    · simp only [SMap.erase, if_neg h, SMap.get, ih]

theorem SMap.get_erase_same (d : α) (m : SMap α) {lo : Option Nat} (hm : SMap.Above lo m) (k : Nat) :
    SMap.get d (SMap.erase m k) k = d := by
  induction m generalizing lo with
  | nil => rfl
  | cons p m ih =>
    obtain ⟨j, w⟩ := p
    by_cases h : k = j
    · subst h; simpa [SMap.erase] using SMap.get_of_lt d hm.2 (fun j hj => hj k rfl)
    · simp [SMap.erase, h, SMap.get, ih hm.2]

/-- Entries of other keys, left out or kept, do not matter to a read. -/
theorem SMap.get_filter (d : α) (m : SMap α) (p : Nat → Bool) (k : Nat) :
    SMap.get d (m.filter fun q => p q.1) k = if p k = true then SMap.get d m k else d := by
  induction m with
  | nil => simp [SMap.get]
  | cons q m ih =>
    obtain ⟨j, w⟩ := q
    by_cases hj : p j = true
    · simp only [List.filter_cons, hj, if_true, SMap.get, ih]
      by_cases h : k = j
      · subst h; simp [hj]
      · simp [h]
    · simp only [List.filter_cons, hj, SMap.get]
      by_cases h : k = j
      · subst h; simpa [hj] using ih
      · simpa [h] using ih

theorem SMap.above_set {m : SMap α} {lo : Option Nat} (hm : SMap.Above lo m) {k : Nat} (hk : ∀ l ∈ lo, l < k) (v : α) :
    SMap.Above lo (SMap.set m k v) := by
  induction m generalizing lo with
  | nil => exact ⟨hk, trivial⟩
  | cons p m ih =>
    obtain ⟨j, w⟩ := p
    by_cases h : k = j
    · subst h; simp only [SMap.set, if_true]; exact ⟨hm.1, hm.2⟩
    · by_cases h' : k < j
      · simp only [SMap.set, if_neg h, if_pos h']
        exact ⟨hk, ⟨fun l hl => by cases hl; exact h', hm.2⟩⟩
      · simp only [SMap.set, if_neg h, if_neg h']
        exact ⟨hm.1, ih hm.2 (fun l hl => by cases hl; omega)⟩

theorem SMap.above_erase {m : SMap α} {lo : Option Nat} (hm : SMap.Above lo m) (k : Nat) : SMap.Above lo (SMap.erase m k) := by
  induction m generalizing lo with
  | nil => trivial
  | cons p m ih =>
    obtain ⟨j, w⟩ := p
    by_cases h : k = j
    · subst h
      simp only [SMap.erase, if_true]
      exact hm.2.weaken (fun l hl i hi => by have := hm.1 l hl; have := hi k rfl; omega)
    · simp only [SMap.erase, if_neg h]
      exact ⟨hm.1, ih hm.2⟩

end Sys2Proof

namespace Sys2Proof.Machine

/-- The canonical form, as rising keys and listed bytes that are not 0. -/
theorem Memory.wfAbove_iff (lo : Option Nat) (m : Memory) :
    Memory.wfAbove lo m = true ↔ SMap.Above lo m ∧ ∀ c ∈ m, c.2 ≠ 0 := by
  induction m generalizing lo with
  | nil => simp [Memory.wfAbove, SMap.Above]
  | cons p m ih =>
    obtain ⟨a, b⟩ := p
    cases lo <;> simp [Memory.wfAbove, SMap.Above, ih] <;> tauto

theorem Memory.wf_iff (m : Memory) : m.wf = true ↔ SMap.Above none m ∧ ∀ c ∈ m, c.2 ≠ 0 := Memory.wfAbove_iff none m

theorem mem_set {α : Type} {m : SMap α} {k : Nat} {v : α} {c : Nat × α} (h : c ∈ SMap.set m k v) : c.2 = v ∨ c ∈ m := by
  induction m with
  | nil => simp [SMap.set] at h; simp [h]
  | cons p m ih =>
    obtain ⟨j, w⟩ := p
    simp only [SMap.set] at h
    split at h
    · rcases List.mem_cons.1 h with rfl | h <;> simp_all
    · split at h
      · rcases List.mem_cons.1 h with rfl | h <;> simp_all
      · rcases List.mem_cons.1 h with rfl | h
        · simp
        · rcases ih h with h | h <;> simp [h]

theorem mem_erase {α : Type} {m : SMap α} {k : Nat} {c : Nat × α} (h : c ∈ SMap.erase m k) : c ∈ m := by
  induction m with
  | nil => simp [SMap.erase] at h
  | cons p m ih =>
    obtain ⟨j, w⟩ := p
    simp only [SMap.erase] at h
    split at h
    · simp [h]
    · rcases List.mem_cons.1 h with rfl | h
      · simp
      · simp [ih h]

/-- A write keeps the canonical form. -/
theorem Memory.wf_write {m : Memory} (h : m.wf = true) (a : Nat) (b : Byte) : (m.write a b).wf = true := by
  rw [Memory.wf_iff] at h ⊢
  unfold Memory.write
  split
  · exact ⟨SMap.above_erase h.1 a, fun c hc => h.2 c (mem_erase hc)⟩
  · rename_i hb
    refine ⟨SMap.above_set h.1 (by simp) b, fun c hc => ?_⟩
    rcases mem_set hc with e | hc
    · rw [e]; exact hb
    · exact h.2 c hc

theorem Memory.wf_writeAll {m : Memory} (h : m.wf = true) (cs : List (Nat × Byte)) : (m.writeAll cs).wf = true := by
  induction cs generalizing m with
  | nil => exact h
  | cons c cs ih => exact ih (Memory.wf_write h _ _)

theorem SMap.above_filter {α : Type} {m : SMap α} {lo : Option Nat} (h : SMap.Above lo m) (p : Nat × α → Bool) :
    SMap.Above lo (m.filter p) := by
  induction m generalizing lo with
  | nil => trivial
  | cons c m ih =>
    obtain ⟨j, w⟩ := c
    by_cases hp : p (j, w)
    · simp only [List.filter_cons, hp, if_true]
      exact ⟨h.1, ih h.2⟩
    · simp only [List.filter_cons, hp]
      exact ih (SMap.Above.weaken h.2 (fun l hl i hi => by have := h.1 l hl; have := hi j rfl; omega))

theorem Memory.wf_filter {m : Memory} (h : m.wf = true) (p : Nat × Byte → Bool) : Memory.wf (m.filter p) = true := by
  rw [Memory.wf_iff] at h ⊢
  exact ⟨SMap.above_filter h.1 p, fun c hc => h.2 c (List.mem_of_mem_filter hc)⟩

theorem Memory.wf_clear {m : Memory} (h : m.wf = true) (a n : Nat) : (m.clear a n).wf = true := Memory.wf_filter h _

theorem Memory.wf_foldl_write {m : Memory} (h : m.wf = true) {β : Type} (l : List β) (a : β → Nat) (b : β → Byte) :
    Memory.wf (l.foldl (fun m c => m.write (a c) (b c)) m) = true := by
  induction l generalizing m with
  | nil => exact h
  | cons c l ih => exact ih (Memory.wf_write h _ _)

theorem Memory.wf_copyRange {m : Memory} (h : m.wf = true) (src dst n : Nat) : (m.copyRange src dst n).wf = true :=
  Memory.wf_foldl_write (Memory.wf_clear h dst n) _ _ _

theorem Memory.wf_putRange {m : Memory} (h : m.wf = true) (a n : Nat) (l : List Host.Cell) : (m.putRange a n l).wf = true :=
  Memory.wf_foldl_write (Memory.wf_clear h a n) _ _ _

/-- A read after a write. -/
theorem Memory.read_write {m : Memory} (h : m.wf = true) (a i : Nat) (b : Byte) :
    (m.write a b).read i = if i = a then b else m.read i := by
  have ha := (Memory.wf_iff m).1 h
  unfold Memory.write Memory.read
  by_cases hi : i = a
  · subst hi
    split
    · rename_i hb; simp [SMap.get_erase_same _ m ha.1, hb]
    · simp
  · split
    · simp [SMap.get_erase_other _ m hi]
    · simp [hi]

/-- Bytes outside a list of writes read as before. -/
theorem Memory.read_writeAll_other {m : Memory} (h : m.wf = true) (cs : List (Nat × Byte)) {i : Nat}
    (hi : ∀ c ∈ cs, c.1 ≠ i) : (m.writeAll cs).read i = m.read i := by
  induction cs generalizing m with
  | nil => rfl
  | cons c cs ih =>
    have h0 : c.1 ≠ i := hi c (List.mem_cons_self ..)
    rw [Memory.writeAll, ih (Memory.wf_write h _ _) (fun c hc => hi c (List.mem_cons_of_mem _ hc)), Memory.read_write h,
      if_neg (Ne.symm h0)]

theorem atAddr_mem {a : Nat} {bs : List Byte} {c : Nat × Byte} (h : c ∈ atAddr a bs) : a ≤ c.1 ∧ c.1 < a + bs.length := by
  induction bs generalizing a with
  | nil => simp [atAddr] at h
  | cons b bs ih =>
    rcases List.mem_cons.1 h with rfl | h
    · simp
    · have := ih h; simp; omega

@[simp] theorem leBytes_length (n v : Nat) : (leBytes n v).length = n := by
  induction n generalizing v with
  | zero => rfl
  | succ n ih => simp [leBytes, ih]

/-- The value of the bytes of a value. -/
theorem ofLE_leBytes (n v : Nat) : ofLE (leBytes n v) = v % 256 ^ n := by
  induction n generalizing v with
  | zero => simp [leBytes, ofLE, Nat.mod_one]
  | succ n ih =>
    simp only [leBytes, ofLE, ih, BitVec.toNat_ofNat]
    rw [show (2 ^ 8 : Nat) = 256 from rfl, Nat.pow_succ (256) n, Nat.mul_comm (256 ^ n) 256, Nat.mod_mul]

end Sys2Proof.Machine
end

