-- ==== Sys2Proof/Laws/State.lean ====
section
/-!
SUPPORT. One lemma per field per update of the state: what an update of a core, a strand, a context or the hub leaves unchanged,
and what reads find after it.
-/

namespace Sys2Proof.Machine

variable (s : State) (k j x : Nat)

@[simp] theorem State.core_modCore (f : Core → Core) : (s.modCore k f).core j = if j = k then f (s.core k) else s.core j := by
  simp [State.modCore, State.setCore, State.core]
@[simp] theorem State.strand_modCore (f : Core → Core) :
    (s.modCore k f).strand j = if j = k then (f (s.core k)).st else s.strand j := by
  simp only [State.strand, State.core_modCore]; split <;> rfl
@[simp] theorem State.core_modStrand (f : Strand → Strand) :
    (s.modStrand k f).core j = if j = k then { s.core k with st := f (s.strand k) } else s.core j := by
  simp [State.modStrand, State.strand]
@[simp] theorem State.strand_modStrand (f : Strand → Strand) :
    (s.modStrand k f).strand j = if j = k then f (s.strand k) else s.strand j := by
  simp only [State.modStrand, State.strand_modCore]; rfl
@[simp] theorem State.core_modNow (f : Now → Now) :
    (s.modNow k f).core j = if j = k then { s.core k with now := f (s.core k).now } else s.core j := by
  simp [State.modNow]
@[simp] theorem State.strand_modNow (f : Now → Now) : (s.modNow k f).strand j = s.strand j := by
  simp only [State.strand, State.core_modNow]
  split
  · next h => subst h; rfl
  · rfl
@[simp] theorem State.ctx_modCtx (f : Context → Context) : (s.modCtx x f).ctx j = if j = x then f (s.ctx x) else s.ctx j := by
  simp [State.modCtx, State.setCtx, State.ctx]
@[simp] theorem State.ctx_modCore (f : Core → Core) : (s.modCore k f).ctx x = s.ctx x := rfl
@[simp] theorem State.ctx_modStrand (f : Strand → Strand) : (s.modStrand k f).ctx x = s.ctx x := rfl
@[simp] theorem State.ctx_modNow (f : Now → Now) : (s.modNow k f).ctx x = s.ctx x := rfl
@[simp] theorem State.ctx_modHub (f : HubRegs → HubRegs) : (s.modHub f).ctx x = s.ctx x := rfl
@[simp] theorem State.core_modCtx (f : Context → Context) : (s.modCtx x f).core k = s.core k := rfl
@[simp] theorem State.core_modHub (f : HubRegs → HubRegs) : (s.modHub f).core k = s.core k := rfl
@[simp] theorem State.strand_modCtx (f : Context → Context) : (s.modCtx x f).strand k = s.strand k := rfl
@[simp] theorem State.strand_modHub (f : HubRegs → HubRegs) : (s.modHub f).strand k = s.strand k := rfl
@[simp] theorem State.hub_modHub (f : HubRegs → HubRegs) : (s.modHub f).hub = f s.hub := rfl

/-! ### modCore -/

@[simp] theorem State.gcyc_modCore (f : Core → Core) : (s.modCore k f).gcyc = s.gcyc := rfl
@[simp] theorem State.on_modCore (f : Core → Core) : (s.modCore k f).on = s.on := rfl
@[simp] theorem State.turn_modCore (f : Core → Core) : (s.modCore k f).turn = s.turn := rfl
@[simp] theorem State.ctxs_modCore (f : Core → Core) : (s.modCore k f).ctxs = s.ctxs := rfl
@[simp] theorem State.curCtx_modCore (f : Core → Core) : (s.modCore k f).curCtx = s.curCtx := rfl
@[simp] theorem State.mem_modCore (f : Core → Core) : (s.modCore k f).mem = s.mem := rfl
@[simp] theorem State.full_modCore (f : Core → Core) : (s.modCore k f).full = s.full := rfl
@[simp] theorem State.paneW_modCore (f : Core → Core) : (s.modCore k f).paneW = s.paneW := rfl
@[simp] theorem State.cycleW_modCore (f : Core → Core) : (s.modCore k f).cycleW = s.cycleW := rfl
@[simp] theorem State.past_modCore (f : Core → Core) : (s.modCore k f).past = s.past := rfl
@[simp] theorem State.remotes_modCore (f : Core → Core) : (s.modCore k f).remotes = s.remotes := rfl
@[simp] theorem State.nextId_modCore (f : Core → Core) : (s.modCore k f).nextId = s.nextId := rfl
@[simp] theorem State.objs_modCore (f : Core → Core) : (s.modCore k f).objs = s.objs := rfl
@[simp] theorem State.caches_modCore (f : Core → Core) : (s.modCore k f).caches = s.caches := rfl
@[simp] theorem State.badEntries_modCore (f : Core → Core) : (s.modCore k f).badEntries = s.badEntries := rfl
@[simp] theorem State.views_modCore (f : Core → Core) : (s.modCore k f).views = s.views := rfl
@[simp] theorem State.window_modCore (f : Core → Core) : (s.modCore k f).window = s.window := rfl
@[simp] theorem State.shadows_modCore (f : Core → Core) : (s.modCore k f).shadows = s.shadows := rfl
@[simp] theorem State.absent_modCore (f : Core → Core) : (s.modCore k f).absent = s.absent := rfl
@[simp] theorem State.dueMarks_modCore (f : Core → Core) : (s.modCore k f).dueMarks = s.dueMarks := rfl
@[simp] theorem State.rot_modCore (f : Core → Core) : (s.modCore k f).rot = s.rot := rfl
@[simp] theorem State.cells_modCore (f : Core → Core) : (s.modCore k f).cells = s.cells := rfl
@[simp] theorem State.gangs_modCore (f : Core → Core) : (s.modCore k f).gangs = s.gangs := rfl
@[simp] theorem State.updates_modCore (f : Core → Core) : (s.modCore k f).updates = s.updates := rfl
@[simp] theorem State.events_modCore (f : Core → Core) : (s.modCore k f).events = s.events := rfl
@[simp] theorem State.held_modCore (f : Core → Core) : (s.modCore k f).held = s.held := rfl
@[simp] theorem State.hubCopies_modCore (f : Core → Core) : (s.modCore k f).hubCopies = s.hubCopies := rfl
@[simp] theorem State.hubQueue_modCore (f : Core → Core) : (s.modCore k f).hubQueue = s.hubQueue := rfl
@[simp] theorem State.hub_modCore (f : Core → Core) : (s.modCore k f).hub = s.hub := rfl
@[simp] theorem State.irq_modCore (f : Core → Core) : (s.modCore k f).irq = s.irq := rfl
@[simp] theorem State.ot_modCore (f : Core → Core) : (s.modCore k f).ot = s.ot := rfl
@[simp] theorem State.owed_modCore (f : Core → Core) : (s.modCore k f).owed = s.owed := rfl
@[simp] theorem State.moves_modCore (f : Core → Core) : (s.modCore k f).moves = s.moves := rfl
@[simp] theorem State.ports_modCore (f : Core → Core) : (s.modCore k f).ports = s.ports := rfl
@[simp] theorem State.routes_modCore (f : Core → Core) : (s.modCore k f).routes = s.routes := rfl
@[simp] theorem State.windows_modCore (f : Core → Core) : (s.modCore k f).windows = s.windows := rfl
@[simp] theorem State.hoist_modCore (f : Core → Core) : (s.modCore k f).hoist = s.hoist := rfl
@[simp] theorem State.snap_modCore (f : Core → Core) : (s.modCore k f).snap = s.snap := rfl
@[simp] theorem State.measure_modCore (f : Core → Core) : (s.modCore k f).measure = s.measure := rfl
@[simp] theorem State.poison_modCore (f : Core → Core) : (s.modCore k f).poison = s.poison := rfl
@[simp] theorem State.upsets_modCore (f : Core → Core) : (s.modCore k f).upsets = s.upsets := rfl
@[simp] theorem State.lines_modCore (f : Core → Core) : (s.modCore k f).lines = s.lines := rfl
@[simp] theorem State.fwTasks_modCore (f : Core → Core) : (s.modCore k f).fwTasks = s.fwTasks := rfl
@[simp] theorem State.metered_modCore (f : Core → Core) : (s.modCore k f).metered = s.metered := rfl
@[simp] theorem State.env_modCore (f : Core → Core) : (s.modCore k f).env = s.env := rfl
@[simp] theorem State.oracle_modCore (f : Core → Core) : (s.modCore k f).oracle = s.oracle := rfl
@[simp] theorem State.freeCtr_modCore (f : Core → Core) : (s.modCore k f).freeCtr = s.freeCtr := rfl

/-! ### modStrand -/

@[simp] theorem State.gcyc_modStrand (f : Strand → Strand) : (s.modStrand k f).gcyc = s.gcyc := rfl
@[simp] theorem State.on_modStrand (f : Strand → Strand) : (s.modStrand k f).on = s.on := rfl
@[simp] theorem State.turn_modStrand (f : Strand → Strand) : (s.modStrand k f).turn = s.turn := rfl
@[simp] theorem State.ctxs_modStrand (f : Strand → Strand) : (s.modStrand k f).ctxs = s.ctxs := rfl
@[simp] theorem State.curCtx_modStrand (f : Strand → Strand) : (s.modStrand k f).curCtx = s.curCtx := rfl
@[simp] theorem State.mem_modStrand (f : Strand → Strand) : (s.modStrand k f).mem = s.mem := rfl
@[simp] theorem State.full_modStrand (f : Strand → Strand) : (s.modStrand k f).full = s.full := rfl
@[simp] theorem State.paneW_modStrand (f : Strand → Strand) : (s.modStrand k f).paneW = s.paneW := rfl
@[simp] theorem State.cycleW_modStrand (f : Strand → Strand) : (s.modStrand k f).cycleW = s.cycleW := rfl
@[simp] theorem State.past_modStrand (f : Strand → Strand) : (s.modStrand k f).past = s.past := rfl
@[simp] theorem State.remotes_modStrand (f : Strand → Strand) : (s.modStrand k f).remotes = s.remotes := rfl
@[simp] theorem State.nextId_modStrand (f : Strand → Strand) : (s.modStrand k f).nextId = s.nextId := rfl
@[simp] theorem State.objs_modStrand (f : Strand → Strand) : (s.modStrand k f).objs = s.objs := rfl
@[simp] theorem State.caches_modStrand (f : Strand → Strand) : (s.modStrand k f).caches = s.caches := rfl
@[simp] theorem State.badEntries_modStrand (f : Strand → Strand) : (s.modStrand k f).badEntries = s.badEntries := rfl
@[simp] theorem State.views_modStrand (f : Strand → Strand) : (s.modStrand k f).views = s.views := rfl
@[simp] theorem State.window_modStrand (f : Strand → Strand) : (s.modStrand k f).window = s.window := rfl
@[simp] theorem State.shadows_modStrand (f : Strand → Strand) : (s.modStrand k f).shadows = s.shadows := rfl
@[simp] theorem State.absent_modStrand (f : Strand → Strand) : (s.modStrand k f).absent = s.absent := rfl
@[simp] theorem State.dueMarks_modStrand (f : Strand → Strand) : (s.modStrand k f).dueMarks = s.dueMarks := rfl
@[simp] theorem State.rot_modStrand (f : Strand → Strand) : (s.modStrand k f).rot = s.rot := rfl
@[simp] theorem State.cells_modStrand (f : Strand → Strand) : (s.modStrand k f).cells = s.cells := rfl
@[simp] theorem State.gangs_modStrand (f : Strand → Strand) : (s.modStrand k f).gangs = s.gangs := rfl
@[simp] theorem State.updates_modStrand (f : Strand → Strand) : (s.modStrand k f).updates = s.updates := rfl
@[simp] theorem State.events_modStrand (f : Strand → Strand) : (s.modStrand k f).events = s.events := rfl
@[simp] theorem State.held_modStrand (f : Strand → Strand) : (s.modStrand k f).held = s.held := rfl
@[simp] theorem State.hubCopies_modStrand (f : Strand → Strand) : (s.modStrand k f).hubCopies = s.hubCopies := rfl
@[simp] theorem State.hubQueue_modStrand (f : Strand → Strand) : (s.modStrand k f).hubQueue = s.hubQueue := rfl
@[simp] theorem State.hub_modStrand (f : Strand → Strand) : (s.modStrand k f).hub = s.hub := rfl
@[simp] theorem State.irq_modStrand (f : Strand → Strand) : (s.modStrand k f).irq = s.irq := rfl
@[simp] theorem State.ot_modStrand (f : Strand → Strand) : (s.modStrand k f).ot = s.ot := rfl
@[simp] theorem State.owed_modStrand (f : Strand → Strand) : (s.modStrand k f).owed = s.owed := rfl
@[simp] theorem State.moves_modStrand (f : Strand → Strand) : (s.modStrand k f).moves = s.moves := rfl
@[simp] theorem State.ports_modStrand (f : Strand → Strand) : (s.modStrand k f).ports = s.ports := rfl
@[simp] theorem State.routes_modStrand (f : Strand → Strand) : (s.modStrand k f).routes = s.routes := rfl
@[simp] theorem State.windows_modStrand (f : Strand → Strand) : (s.modStrand k f).windows = s.windows := rfl
@[simp] theorem State.hoist_modStrand (f : Strand → Strand) : (s.modStrand k f).hoist = s.hoist := rfl
@[simp] theorem State.snap_modStrand (f : Strand → Strand) : (s.modStrand k f).snap = s.snap := rfl
@[simp] theorem State.measure_modStrand (f : Strand → Strand) : (s.modStrand k f).measure = s.measure := rfl
@[simp] theorem State.poison_modStrand (f : Strand → Strand) : (s.modStrand k f).poison = s.poison := rfl
@[simp] theorem State.upsets_modStrand (f : Strand → Strand) : (s.modStrand k f).upsets = s.upsets := rfl
@[simp] theorem State.lines_modStrand (f : Strand → Strand) : (s.modStrand k f).lines = s.lines := rfl
@[simp] theorem State.fwTasks_modStrand (f : Strand → Strand) : (s.modStrand k f).fwTasks = s.fwTasks := rfl
@[simp] theorem State.metered_modStrand (f : Strand → Strand) : (s.modStrand k f).metered = s.metered := rfl
@[simp] theorem State.env_modStrand (f : Strand → Strand) : (s.modStrand k f).env = s.env := rfl
@[simp] theorem State.oracle_modStrand (f : Strand → Strand) : (s.modStrand k f).oracle = s.oracle := rfl
@[simp] theorem State.freeCtr_modStrand (f : Strand → Strand) : (s.modStrand k f).freeCtr = s.freeCtr := rfl

/-! ### modNow -/

@[simp] theorem State.gcyc_modNow (f : Now → Now) : (s.modNow k f).gcyc = s.gcyc := rfl
@[simp] theorem State.on_modNow (f : Now → Now) : (s.modNow k f).on = s.on := rfl
@[simp] theorem State.turn_modNow (f : Now → Now) : (s.modNow k f).turn = s.turn := rfl
@[simp] theorem State.ctxs_modNow (f : Now → Now) : (s.modNow k f).ctxs = s.ctxs := rfl
@[simp] theorem State.curCtx_modNow (f : Now → Now) : (s.modNow k f).curCtx = s.curCtx := rfl
@[simp] theorem State.mem_modNow (f : Now → Now) : (s.modNow k f).mem = s.mem := rfl
@[simp] theorem State.full_modNow (f : Now → Now) : (s.modNow k f).full = s.full := rfl
@[simp] theorem State.paneW_modNow (f : Now → Now) : (s.modNow k f).paneW = s.paneW := rfl
@[simp] theorem State.cycleW_modNow (f : Now → Now) : (s.modNow k f).cycleW = s.cycleW := rfl
@[simp] theorem State.past_modNow (f : Now → Now) : (s.modNow k f).past = s.past := rfl
@[simp] theorem State.remotes_modNow (f : Now → Now) : (s.modNow k f).remotes = s.remotes := rfl
@[simp] theorem State.nextId_modNow (f : Now → Now) : (s.modNow k f).nextId = s.nextId := rfl
@[simp] theorem State.objs_modNow (f : Now → Now) : (s.modNow k f).objs = s.objs := rfl
@[simp] theorem State.caches_modNow (f : Now → Now) : (s.modNow k f).caches = s.caches := rfl
@[simp] theorem State.badEntries_modNow (f : Now → Now) : (s.modNow k f).badEntries = s.badEntries := rfl
@[simp] theorem State.views_modNow (f : Now → Now) : (s.modNow k f).views = s.views := rfl
@[simp] theorem State.window_modNow (f : Now → Now) : (s.modNow k f).window = s.window := rfl
@[simp] theorem State.shadows_modNow (f : Now → Now) : (s.modNow k f).shadows = s.shadows := rfl
@[simp] theorem State.absent_modNow (f : Now → Now) : (s.modNow k f).absent = s.absent := rfl
@[simp] theorem State.dueMarks_modNow (f : Now → Now) : (s.modNow k f).dueMarks = s.dueMarks := rfl
@[simp] theorem State.rot_modNow (f : Now → Now) : (s.modNow k f).rot = s.rot := rfl
@[simp] theorem State.cells_modNow (f : Now → Now) : (s.modNow k f).cells = s.cells := rfl
@[simp] theorem State.gangs_modNow (f : Now → Now) : (s.modNow k f).gangs = s.gangs := rfl
@[simp] theorem State.updates_modNow (f : Now → Now) : (s.modNow k f).updates = s.updates := rfl
@[simp] theorem State.events_modNow (f : Now → Now) : (s.modNow k f).events = s.events := rfl
@[simp] theorem State.held_modNow (f : Now → Now) : (s.modNow k f).held = s.held := rfl
@[simp] theorem State.hubCopies_modNow (f : Now → Now) : (s.modNow k f).hubCopies = s.hubCopies := rfl
@[simp] theorem State.hubQueue_modNow (f : Now → Now) : (s.modNow k f).hubQueue = s.hubQueue := rfl
@[simp] theorem State.hub_modNow (f : Now → Now) : (s.modNow k f).hub = s.hub := rfl
@[simp] theorem State.irq_modNow (f : Now → Now) : (s.modNow k f).irq = s.irq := rfl
@[simp] theorem State.ot_modNow (f : Now → Now) : (s.modNow k f).ot = s.ot := rfl
@[simp] theorem State.owed_modNow (f : Now → Now) : (s.modNow k f).owed = s.owed := rfl
@[simp] theorem State.moves_modNow (f : Now → Now) : (s.modNow k f).moves = s.moves := rfl
@[simp] theorem State.ports_modNow (f : Now → Now) : (s.modNow k f).ports = s.ports := rfl
@[simp] theorem State.routes_modNow (f : Now → Now) : (s.modNow k f).routes = s.routes := rfl
@[simp] theorem State.windows_modNow (f : Now → Now) : (s.modNow k f).windows = s.windows := rfl
@[simp] theorem State.hoist_modNow (f : Now → Now) : (s.modNow k f).hoist = s.hoist := rfl
@[simp] theorem State.snap_modNow (f : Now → Now) : (s.modNow k f).snap = s.snap := rfl
@[simp] theorem State.measure_modNow (f : Now → Now) : (s.modNow k f).measure = s.measure := rfl
@[simp] theorem State.poison_modNow (f : Now → Now) : (s.modNow k f).poison = s.poison := rfl
@[simp] theorem State.upsets_modNow (f : Now → Now) : (s.modNow k f).upsets = s.upsets := rfl
@[simp] theorem State.lines_modNow (f : Now → Now) : (s.modNow k f).lines = s.lines := rfl
@[simp] theorem State.fwTasks_modNow (f : Now → Now) : (s.modNow k f).fwTasks = s.fwTasks := rfl
@[simp] theorem State.metered_modNow (f : Now → Now) : (s.modNow k f).metered = s.metered := rfl
@[simp] theorem State.env_modNow (f : Now → Now) : (s.modNow k f).env = s.env := rfl
@[simp] theorem State.oracle_modNow (f : Now → Now) : (s.modNow k f).oracle = s.oracle := rfl
@[simp] theorem State.freeCtr_modNow (f : Now → Now) : (s.modNow k f).freeCtr = s.freeCtr := rfl

/-! ### modCtx -/

@[simp] theorem State.gcyc_modCtx (f : Context → Context) : (s.modCtx x f).gcyc = s.gcyc := rfl
@[simp] theorem State.on_modCtx (f : Context → Context) : (s.modCtx x f).on = s.on := rfl
@[simp] theorem State.turn_modCtx (f : Context → Context) : (s.modCtx x f).turn = s.turn := rfl
@[simp] theorem State.cores_modCtx (f : Context → Context) : (s.modCtx x f).cores = s.cores := rfl
@[simp] theorem State.curCtx_modCtx (f : Context → Context) : (s.modCtx x f).curCtx = s.curCtx := rfl
@[simp] theorem State.mem_modCtx (f : Context → Context) : (s.modCtx x f).mem = s.mem := rfl
@[simp] theorem State.full_modCtx (f : Context → Context) : (s.modCtx x f).full = s.full := rfl
@[simp] theorem State.paneW_modCtx (f : Context → Context) : (s.modCtx x f).paneW = s.paneW := rfl
@[simp] theorem State.cycleW_modCtx (f : Context → Context) : (s.modCtx x f).cycleW = s.cycleW := rfl
@[simp] theorem State.past_modCtx (f : Context → Context) : (s.modCtx x f).past = s.past := rfl
@[simp] theorem State.remotes_modCtx (f : Context → Context) : (s.modCtx x f).remotes = s.remotes := rfl
@[simp] theorem State.nextId_modCtx (f : Context → Context) : (s.modCtx x f).nextId = s.nextId := rfl
@[simp] theorem State.objs_modCtx (f : Context → Context) : (s.modCtx x f).objs = s.objs := rfl
@[simp] theorem State.caches_modCtx (f : Context → Context) : (s.modCtx x f).caches = s.caches := rfl
@[simp] theorem State.badEntries_modCtx (f : Context → Context) : (s.modCtx x f).badEntries = s.badEntries := rfl
@[simp] theorem State.views_modCtx (f : Context → Context) : (s.modCtx x f).views = s.views := rfl
@[simp] theorem State.window_modCtx (f : Context → Context) : (s.modCtx x f).window = s.window := rfl
@[simp] theorem State.shadows_modCtx (f : Context → Context) : (s.modCtx x f).shadows = s.shadows := rfl
@[simp] theorem State.absent_modCtx (f : Context → Context) : (s.modCtx x f).absent = s.absent := rfl
@[simp] theorem State.dueMarks_modCtx (f : Context → Context) : (s.modCtx x f).dueMarks = s.dueMarks := rfl
@[simp] theorem State.rot_modCtx (f : Context → Context) : (s.modCtx x f).rot = s.rot := rfl
@[simp] theorem State.cells_modCtx (f : Context → Context) : (s.modCtx x f).cells = s.cells := rfl
@[simp] theorem State.gangs_modCtx (f : Context → Context) : (s.modCtx x f).gangs = s.gangs := rfl
@[simp] theorem State.updates_modCtx (f : Context → Context) : (s.modCtx x f).updates = s.updates := rfl
@[simp] theorem State.events_modCtx (f : Context → Context) : (s.modCtx x f).events = s.events := rfl
@[simp] theorem State.held_modCtx (f : Context → Context) : (s.modCtx x f).held = s.held := rfl
@[simp] theorem State.hubCopies_modCtx (f : Context → Context) : (s.modCtx x f).hubCopies = s.hubCopies := rfl
@[simp] theorem State.hubQueue_modCtx (f : Context → Context) : (s.modCtx x f).hubQueue = s.hubQueue := rfl
@[simp] theorem State.hub_modCtx (f : Context → Context) : (s.modCtx x f).hub = s.hub := rfl
@[simp] theorem State.irq_modCtx (f : Context → Context) : (s.modCtx x f).irq = s.irq := rfl
@[simp] theorem State.ot_modCtx (f : Context → Context) : (s.modCtx x f).ot = s.ot := rfl
@[simp] theorem State.owed_modCtx (f : Context → Context) : (s.modCtx x f).owed = s.owed := rfl
@[simp] theorem State.moves_modCtx (f : Context → Context) : (s.modCtx x f).moves = s.moves := rfl
@[simp] theorem State.ports_modCtx (f : Context → Context) : (s.modCtx x f).ports = s.ports := rfl
@[simp] theorem State.routes_modCtx (f : Context → Context) : (s.modCtx x f).routes = s.routes := rfl
@[simp] theorem State.windows_modCtx (f : Context → Context) : (s.modCtx x f).windows = s.windows := rfl
@[simp] theorem State.hoist_modCtx (f : Context → Context) : (s.modCtx x f).hoist = s.hoist := rfl
@[simp] theorem State.snap_modCtx (f : Context → Context) : (s.modCtx x f).snap = s.snap := rfl
@[simp] theorem State.measure_modCtx (f : Context → Context) : (s.modCtx x f).measure = s.measure := rfl
@[simp] theorem State.poison_modCtx (f : Context → Context) : (s.modCtx x f).poison = s.poison := rfl
@[simp] theorem State.upsets_modCtx (f : Context → Context) : (s.modCtx x f).upsets = s.upsets := rfl
@[simp] theorem State.lines_modCtx (f : Context → Context) : (s.modCtx x f).lines = s.lines := rfl
@[simp] theorem State.fwTasks_modCtx (f : Context → Context) : (s.modCtx x f).fwTasks = s.fwTasks := rfl
@[simp] theorem State.metered_modCtx (f : Context → Context) : (s.modCtx x f).metered = s.metered := rfl
@[simp] theorem State.env_modCtx (f : Context → Context) : (s.modCtx x f).env = s.env := rfl
@[simp] theorem State.oracle_modCtx (f : Context → Context) : (s.modCtx x f).oracle = s.oracle := rfl
@[simp] theorem State.freeCtr_modCtx (f : Context → Context) : (s.modCtx x f).freeCtr = s.freeCtr := rfl

/-! ### modHub -/

@[simp] theorem State.gcyc_modHub (f : HubRegs → HubRegs) : (s.modHub f).gcyc = s.gcyc := rfl
@[simp] theorem State.on_modHub (f : HubRegs → HubRegs) : (s.modHub f).on = s.on := rfl
@[simp] theorem State.turn_modHub (f : HubRegs → HubRegs) : (s.modHub f).turn = s.turn := rfl
@[simp] theorem State.cores_modHub (f : HubRegs → HubRegs) : (s.modHub f).cores = s.cores := rfl
@[simp] theorem State.ctxs_modHub (f : HubRegs → HubRegs) : (s.modHub f).ctxs = s.ctxs := rfl
@[simp] theorem State.curCtx_modHub (f : HubRegs → HubRegs) : (s.modHub f).curCtx = s.curCtx := rfl
@[simp] theorem State.mem_modHub (f : HubRegs → HubRegs) : (s.modHub f).mem = s.mem := rfl
@[simp] theorem State.full_modHub (f : HubRegs → HubRegs) : (s.modHub f).full = s.full := rfl
@[simp] theorem State.paneW_modHub (f : HubRegs → HubRegs) : (s.modHub f).paneW = s.paneW := rfl
@[simp] theorem State.cycleW_modHub (f : HubRegs → HubRegs) : (s.modHub f).cycleW = s.cycleW := rfl
@[simp] theorem State.past_modHub (f : HubRegs → HubRegs) : (s.modHub f).past = s.past := rfl
@[simp] theorem State.remotes_modHub (f : HubRegs → HubRegs) : (s.modHub f).remotes = s.remotes := rfl
@[simp] theorem State.nextId_modHub (f : HubRegs → HubRegs) : (s.modHub f).nextId = s.nextId := rfl
@[simp] theorem State.objs_modHub (f : HubRegs → HubRegs) : (s.modHub f).objs = s.objs := rfl
@[simp] theorem State.caches_modHub (f : HubRegs → HubRegs) : (s.modHub f).caches = s.caches := rfl
@[simp] theorem State.badEntries_modHub (f : HubRegs → HubRegs) : (s.modHub f).badEntries = s.badEntries := rfl
@[simp] theorem State.views_modHub (f : HubRegs → HubRegs) : (s.modHub f).views = s.views := rfl
@[simp] theorem State.window_modHub (f : HubRegs → HubRegs) : (s.modHub f).window = s.window := rfl
@[simp] theorem State.shadows_modHub (f : HubRegs → HubRegs) : (s.modHub f).shadows = s.shadows := rfl
@[simp] theorem State.absent_modHub (f : HubRegs → HubRegs) : (s.modHub f).absent = s.absent := rfl
@[simp] theorem State.dueMarks_modHub (f : HubRegs → HubRegs) : (s.modHub f).dueMarks = s.dueMarks := rfl
@[simp] theorem State.rot_modHub (f : HubRegs → HubRegs) : (s.modHub f).rot = s.rot := rfl
@[simp] theorem State.cells_modHub (f : HubRegs → HubRegs) : (s.modHub f).cells = s.cells := rfl
@[simp] theorem State.gangs_modHub (f : HubRegs → HubRegs) : (s.modHub f).gangs = s.gangs := rfl
@[simp] theorem State.updates_modHub (f : HubRegs → HubRegs) : (s.modHub f).updates = s.updates := rfl
@[simp] theorem State.events_modHub (f : HubRegs → HubRegs) : (s.modHub f).events = s.events := rfl
@[simp] theorem State.held_modHub (f : HubRegs → HubRegs) : (s.modHub f).held = s.held := rfl
@[simp] theorem State.hubCopies_modHub (f : HubRegs → HubRegs) : (s.modHub f).hubCopies = s.hubCopies := rfl
@[simp] theorem State.hubQueue_modHub (f : HubRegs → HubRegs) : (s.modHub f).hubQueue = s.hubQueue := rfl
@[simp] theorem State.irq_modHub (f : HubRegs → HubRegs) : (s.modHub f).irq = s.irq := rfl
@[simp] theorem State.ot_modHub (f : HubRegs → HubRegs) : (s.modHub f).ot = s.ot := rfl
@[simp] theorem State.owed_modHub (f : HubRegs → HubRegs) : (s.modHub f).owed = s.owed := rfl
@[simp] theorem State.moves_modHub (f : HubRegs → HubRegs) : (s.modHub f).moves = s.moves := rfl
@[simp] theorem State.ports_modHub (f : HubRegs → HubRegs) : (s.modHub f).ports = s.ports := rfl
@[simp] theorem State.routes_modHub (f : HubRegs → HubRegs) : (s.modHub f).routes = s.routes := rfl
@[simp] theorem State.windows_modHub (f : HubRegs → HubRegs) : (s.modHub f).windows = s.windows := rfl
@[simp] theorem State.hoist_modHub (f : HubRegs → HubRegs) : (s.modHub f).hoist = s.hoist := rfl
@[simp] theorem State.snap_modHub (f : HubRegs → HubRegs) : (s.modHub f).snap = s.snap := rfl
@[simp] theorem State.measure_modHub (f : HubRegs → HubRegs) : (s.modHub f).measure = s.measure := rfl
@[simp] theorem State.poison_modHub (f : HubRegs → HubRegs) : (s.modHub f).poison = s.poison := rfl
@[simp] theorem State.upsets_modHub (f : HubRegs → HubRegs) : (s.modHub f).upsets = s.upsets := rfl
@[simp] theorem State.lines_modHub (f : HubRegs → HubRegs) : (s.modHub f).lines = s.lines := rfl
@[simp] theorem State.fwTasks_modHub (f : HubRegs → HubRegs) : (s.modHub f).fwTasks = s.fwTasks := rfl
@[simp] theorem State.metered_modHub (f : HubRegs → HubRegs) : (s.modHub f).metered = s.metered := rfl
@[simp] theorem State.env_modHub (f : HubRegs → HubRegs) : (s.modHub f).env = s.env := rfl
@[simp] theorem State.oracle_modHub (f : HubRegs → HubRegs) : (s.modHub f).oracle = s.oracle := rfl
@[simp] theorem State.freeCtr_modHub (f : HubRegs → HubRegs) : (s.modHub f).freeCtr = s.freeCtr := rfl

/-! ### Turns -/

@[simp] theorem State.turn_stage (n : Nat) : (s.stage k n).turn = .core k n := rfl
@[simp] theorem State.core_stage (n : Nat) : (s.stage k n).core j = s.core j := rfl
@[simp] theorem State.strand_stage (n : Nat) : (s.stage k n).strand j = s.strand j := rfl
@[simp] theorem State.ctx_stage (n : Nat) : (s.stage k n).ctx x = s.ctx x := rfl
@[simp] theorem State.mem_stage (n : Nat) : (s.stage k n).mem = s.mem := rfl

/-! ### Parts of a strand -/

variable (st : Strand)

@[simp] theorem Strand.sc_withScalar (f : ScalarRegs → ScalarRegs) : (st.withScalar f).sc = f st.sc := rfl
@[simp] theorem Strand.id_withScalar (f : ScalarRegs → ScalarRegs) : (st.withScalar f).id = st.id := rfl
@[simp] theorem Strand.kn_withScalar (f : ScalarRegs → ScalarRegs) : (st.withScalar f).kn = st.kn := rfl
@[simp] theorem Strand.ops_withScalar (f : ScalarRegs → ScalarRegs) : (st.withScalar f).ops = st.ops := rfl
@[simp] theorem Strand.node_withScalar (f : ScalarRegs → ScalarRegs) : (st.withScalar f).node = st.node := rfl
@[simp] theorem Strand.pend_withScalar (f : ScalarRegs → ScalarRegs) : (st.withScalar f).pend = st.pend := rfl
@[simp] theorem Strand.exposed_withScalar (f : ScalarRegs → ScalarRegs) : (st.withScalar f).exposed = st.exposed := rfl
@[simp] theorem Strand.counts_withScalar (f : ScalarRegs → ScalarRegs) : (st.withScalar f).counts = st.counts := rfl
@[simp] theorem Strand.longs_withScalar (f : ScalarRegs → ScalarRegs) : (st.withScalar f).longs = st.longs := rfl
@[simp] theorem Strand.vec_withScalar (f : ScalarRegs → ScalarRegs) : (st.withScalar f).vec = st.vec := rfl
@[simp] theorem Strand.mx_withScalar (f : ScalarRegs → ScalarRegs) : (st.withScalar f).mx = st.mx := rfl
@[simp] theorem Strand.fmtb_withScalar (f : ScalarRegs → ScalarRegs) : (st.withScalar f).fmtb = st.fmtb := rfl
@[simp] theorem Strand.cp_withScalar (f : ScalarRegs → ScalarRegs) : (st.withScalar f).cp = st.cp := rfl
@[simp] theorem Strand.sy_withScalar (f : ScalarRegs → ScalarRegs) : (st.withScalar f).sy = st.sy := rfl
@[simp] theorem Strand.sig_withScalar (f : ScalarRegs → ScalarRegs) : (st.withScalar f).sig = st.sig := rfl
@[simp] theorem Strand.sigNow_withScalar (f : ScalarRegs → ScalarRegs) : (st.withScalar f).sigNow = st.sigNow := rfl
@[simp] theorem Strand.tr_withScalar (f : ScalarRegs → ScalarRegs) : (st.withScalar f).tr = st.tr := rfl
@[simp] theorem Strand.fl_withScalar (f : ScalarRegs → ScalarRegs) : (st.withScalar f).fl = st.fl := rfl
@[simp] theorem Strand.energy_withScalar (f : ScalarRegs → ScalarRegs) : (st.withScalar f).energy = st.energy := rfl
@[simp] theorem Strand.stamp_withScalar (f : ScalarRegs → ScalarRegs) : (st.withScalar f).stamp = st.stamp := rfl
@[simp] theorem Strand.sc_withId (f : Ident → Ident) : (st.withId f).sc = st.sc := rfl
@[simp] theorem Strand.id_withId (f : Ident → Ident) : (st.withId f).id = f st.id := rfl
@[simp] theorem Strand.kn_withId (f : Ident → Ident) : (st.withId f).kn = st.kn := rfl
@[simp] theorem Strand.ops_withId (f : Ident → Ident) : (st.withId f).ops = st.ops := rfl
@[simp] theorem Strand.node_withId (f : Ident → Ident) : (st.withId f).node = st.node := rfl
@[simp] theorem Strand.pend_withId (f : Ident → Ident) : (st.withId f).pend = st.pend := rfl
@[simp] theorem Strand.exposed_withId (f : Ident → Ident) : (st.withId f).exposed = st.exposed := rfl
@[simp] theorem Strand.counts_withId (f : Ident → Ident) : (st.withId f).counts = st.counts := rfl
@[simp] theorem Strand.longs_withId (f : Ident → Ident) : (st.withId f).longs = st.longs := rfl
@[simp] theorem Strand.vec_withId (f : Ident → Ident) : (st.withId f).vec = st.vec := rfl
@[simp] theorem Strand.mx_withId (f : Ident → Ident) : (st.withId f).mx = st.mx := rfl
@[simp] theorem Strand.fmtb_withId (f : Ident → Ident) : (st.withId f).fmtb = st.fmtb := rfl
@[simp] theorem Strand.cp_withId (f : Ident → Ident) : (st.withId f).cp = st.cp := rfl
@[simp] theorem Strand.sy_withId (f : Ident → Ident) : (st.withId f).sy = st.sy := rfl
@[simp] theorem Strand.sig_withId (f : Ident → Ident) : (st.withId f).sig = st.sig := rfl
@[simp] theorem Strand.sigNow_withId (f : Ident → Ident) : (st.withId f).sigNow = st.sigNow := rfl
@[simp] theorem Strand.tr_withId (f : Ident → Ident) : (st.withId f).tr = st.tr := rfl
@[simp] theorem Strand.fl_withId (f : Ident → Ident) : (st.withId f).fl = st.fl := rfl
@[simp] theorem Strand.energy_withId (f : Ident → Ident) : (st.withId f).energy = st.energy := rfl
@[simp] theorem Strand.stamp_withId (f : Ident → Ident) : (st.withId f).stamp = st.stamp := rfl
@[simp] theorem Strand.sc_withVec (f : VectorRegs → VectorRegs) : (st.withVec f).sc = st.sc := rfl
@[simp] theorem Strand.id_withVec (f : VectorRegs → VectorRegs) : (st.withVec f).id = st.id := rfl
@[simp] theorem Strand.kn_withVec (f : VectorRegs → VectorRegs) : (st.withVec f).kn = st.kn := rfl
@[simp] theorem Strand.ops_withVec (f : VectorRegs → VectorRegs) : (st.withVec f).ops = st.ops := rfl
@[simp] theorem Strand.node_withVec (f : VectorRegs → VectorRegs) : (st.withVec f).node = st.node := rfl
@[simp] theorem Strand.pend_withVec (f : VectorRegs → VectorRegs) : (st.withVec f).pend = st.pend := rfl
@[simp] theorem Strand.exposed_withVec (f : VectorRegs → VectorRegs) : (st.withVec f).exposed = st.exposed := rfl
@[simp] theorem Strand.counts_withVec (f : VectorRegs → VectorRegs) : (st.withVec f).counts = st.counts := rfl
@[simp] theorem Strand.longs_withVec (f : VectorRegs → VectorRegs) : (st.withVec f).longs = st.longs := rfl
@[simp] theorem Strand.vec_withVec (f : VectorRegs → VectorRegs) : (st.withVec f).vec = f st.vec := rfl
@[simp] theorem Strand.mx_withVec (f : VectorRegs → VectorRegs) : (st.withVec f).mx = st.mx := rfl
@[simp] theorem Strand.fmtb_withVec (f : VectorRegs → VectorRegs) : (st.withVec f).fmtb = st.fmtb := rfl
@[simp] theorem Strand.cp_withVec (f : VectorRegs → VectorRegs) : (st.withVec f).cp = st.cp := rfl
@[simp] theorem Strand.sy_withVec (f : VectorRegs → VectorRegs) : (st.withVec f).sy = st.sy := rfl
@[simp] theorem Strand.sig_withVec (f : VectorRegs → VectorRegs) : (st.withVec f).sig = st.sig := rfl
@[simp] theorem Strand.sigNow_withVec (f : VectorRegs → VectorRegs) : (st.withVec f).sigNow = st.sigNow := rfl
@[simp] theorem Strand.tr_withVec (f : VectorRegs → VectorRegs) : (st.withVec f).tr = st.tr := rfl
@[simp] theorem Strand.fl_withVec (f : VectorRegs → VectorRegs) : (st.withVec f).fl = st.fl := rfl
@[simp] theorem Strand.energy_withVec (f : VectorRegs → VectorRegs) : (st.withVec f).energy = st.energy := rfl
@[simp] theorem Strand.stamp_withVec (f : VectorRegs → VectorRegs) : (st.withVec f).stamp = st.stamp := rfl
@[simp] theorem Strand.sc_withMx (f : MatrixRegs → MatrixRegs) : (st.withMx f).sc = st.sc := rfl
@[simp] theorem Strand.id_withMx (f : MatrixRegs → MatrixRegs) : (st.withMx f).id = st.id := rfl
@[simp] theorem Strand.kn_withMx (f : MatrixRegs → MatrixRegs) : (st.withMx f).kn = st.kn := rfl
@[simp] theorem Strand.ops_withMx (f : MatrixRegs → MatrixRegs) : (st.withMx f).ops = st.ops := rfl
@[simp] theorem Strand.node_withMx (f : MatrixRegs → MatrixRegs) : (st.withMx f).node = st.node := rfl
@[simp] theorem Strand.pend_withMx (f : MatrixRegs → MatrixRegs) : (st.withMx f).pend = st.pend := rfl
@[simp] theorem Strand.exposed_withMx (f : MatrixRegs → MatrixRegs) : (st.withMx f).exposed = st.exposed := rfl
@[simp] theorem Strand.counts_withMx (f : MatrixRegs → MatrixRegs) : (st.withMx f).counts = st.counts := rfl
@[simp] theorem Strand.longs_withMx (f : MatrixRegs → MatrixRegs) : (st.withMx f).longs = st.longs := rfl
@[simp] theorem Strand.vec_withMx (f : MatrixRegs → MatrixRegs) : (st.withMx f).vec = st.vec := rfl
@[simp] theorem Strand.mx_withMx (f : MatrixRegs → MatrixRegs) : (st.withMx f).mx = f st.mx := rfl
@[simp] theorem Strand.fmtb_withMx (f : MatrixRegs → MatrixRegs) : (st.withMx f).fmtb = st.fmtb := rfl
@[simp] theorem Strand.cp_withMx (f : MatrixRegs → MatrixRegs) : (st.withMx f).cp = st.cp := rfl
@[simp] theorem Strand.sy_withMx (f : MatrixRegs → MatrixRegs) : (st.withMx f).sy = st.sy := rfl
@[simp] theorem Strand.sig_withMx (f : MatrixRegs → MatrixRegs) : (st.withMx f).sig = st.sig := rfl
@[simp] theorem Strand.sigNow_withMx (f : MatrixRegs → MatrixRegs) : (st.withMx f).sigNow = st.sigNow := rfl
@[simp] theorem Strand.tr_withMx (f : MatrixRegs → MatrixRegs) : (st.withMx f).tr = st.tr := rfl
@[simp] theorem Strand.fl_withMx (f : MatrixRegs → MatrixRegs) : (st.withMx f).fl = st.fl := rfl
@[simp] theorem Strand.energy_withMx (f : MatrixRegs → MatrixRegs) : (st.withMx f).energy = st.energy := rfl
@[simp] theorem Strand.stamp_withMx (f : MatrixRegs → MatrixRegs) : (st.withMx f).stamp = st.stamp := rfl
@[simp] theorem Strand.sc_withCp (f : CopyRegs → CopyRegs) : (st.withCp f).sc = st.sc := rfl
@[simp] theorem Strand.id_withCp (f : CopyRegs → CopyRegs) : (st.withCp f).id = st.id := rfl
@[simp] theorem Strand.kn_withCp (f : CopyRegs → CopyRegs) : (st.withCp f).kn = st.kn := rfl
@[simp] theorem Strand.ops_withCp (f : CopyRegs → CopyRegs) : (st.withCp f).ops = st.ops := rfl
@[simp] theorem Strand.node_withCp (f : CopyRegs → CopyRegs) : (st.withCp f).node = st.node := rfl
@[simp] theorem Strand.pend_withCp (f : CopyRegs → CopyRegs) : (st.withCp f).pend = st.pend := rfl
@[simp] theorem Strand.exposed_withCp (f : CopyRegs → CopyRegs) : (st.withCp f).exposed = st.exposed := rfl
@[simp] theorem Strand.counts_withCp (f : CopyRegs → CopyRegs) : (st.withCp f).counts = st.counts := rfl
@[simp] theorem Strand.longs_withCp (f : CopyRegs → CopyRegs) : (st.withCp f).longs = st.longs := rfl
@[simp] theorem Strand.vec_withCp (f : CopyRegs → CopyRegs) : (st.withCp f).vec = st.vec := rfl
@[simp] theorem Strand.mx_withCp (f : CopyRegs → CopyRegs) : (st.withCp f).mx = st.mx := rfl
@[simp] theorem Strand.fmtb_withCp (f : CopyRegs → CopyRegs) : (st.withCp f).fmtb = st.fmtb := rfl
@[simp] theorem Strand.cp_withCp (f : CopyRegs → CopyRegs) : (st.withCp f).cp = f st.cp := rfl
@[simp] theorem Strand.sy_withCp (f : CopyRegs → CopyRegs) : (st.withCp f).sy = st.sy := rfl
@[simp] theorem Strand.sig_withCp (f : CopyRegs → CopyRegs) : (st.withCp f).sig = st.sig := rfl
@[simp] theorem Strand.sigNow_withCp (f : CopyRegs → CopyRegs) : (st.withCp f).sigNow = st.sigNow := rfl
@[simp] theorem Strand.tr_withCp (f : CopyRegs → CopyRegs) : (st.withCp f).tr = st.tr := rfl
@[simp] theorem Strand.fl_withCp (f : CopyRegs → CopyRegs) : (st.withCp f).fl = st.fl := rfl
@[simp] theorem Strand.energy_withCp (f : CopyRegs → CopyRegs) : (st.withCp f).energy = st.energy := rfl
@[simp] theorem Strand.stamp_withCp (f : CopyRegs → CopyRegs) : (st.withCp f).stamp = st.stamp := rfl
@[simp] theorem Strand.sc_withSy (f : SyncRegs → SyncRegs) : (st.withSy f).sc = st.sc := rfl
@[simp] theorem Strand.id_withSy (f : SyncRegs → SyncRegs) : (st.withSy f).id = st.id := rfl
@[simp] theorem Strand.kn_withSy (f : SyncRegs → SyncRegs) : (st.withSy f).kn = st.kn := rfl
@[simp] theorem Strand.ops_withSy (f : SyncRegs → SyncRegs) : (st.withSy f).ops = st.ops := rfl
@[simp] theorem Strand.node_withSy (f : SyncRegs → SyncRegs) : (st.withSy f).node = st.node := rfl
@[simp] theorem Strand.pend_withSy (f : SyncRegs → SyncRegs) : (st.withSy f).pend = st.pend := rfl
@[simp] theorem Strand.exposed_withSy (f : SyncRegs → SyncRegs) : (st.withSy f).exposed = st.exposed := rfl
@[simp] theorem Strand.counts_withSy (f : SyncRegs → SyncRegs) : (st.withSy f).counts = st.counts := rfl
@[simp] theorem Strand.longs_withSy (f : SyncRegs → SyncRegs) : (st.withSy f).longs = st.longs := rfl
@[simp] theorem Strand.vec_withSy (f : SyncRegs → SyncRegs) : (st.withSy f).vec = st.vec := rfl
@[simp] theorem Strand.mx_withSy (f : SyncRegs → SyncRegs) : (st.withSy f).mx = st.mx := rfl
@[simp] theorem Strand.fmtb_withSy (f : SyncRegs → SyncRegs) : (st.withSy f).fmtb = st.fmtb := rfl
@[simp] theorem Strand.cp_withSy (f : SyncRegs → SyncRegs) : (st.withSy f).cp = st.cp := rfl
@[simp] theorem Strand.sy_withSy (f : SyncRegs → SyncRegs) : (st.withSy f).sy = f st.sy := rfl
@[simp] theorem Strand.sig_withSy (f : SyncRegs → SyncRegs) : (st.withSy f).sig = st.sig := rfl
@[simp] theorem Strand.sigNow_withSy (f : SyncRegs → SyncRegs) : (st.withSy f).sigNow = st.sigNow := rfl
@[simp] theorem Strand.tr_withSy (f : SyncRegs → SyncRegs) : (st.withSy f).tr = st.tr := rfl
@[simp] theorem Strand.fl_withSy (f : SyncRegs → SyncRegs) : (st.withSy f).fl = st.fl := rfl
@[simp] theorem Strand.energy_withSy (f : SyncRegs → SyncRegs) : (st.withSy f).energy = st.energy := rfl
@[simp] theorem Strand.stamp_withSy (f : SyncRegs → SyncRegs) : (st.withSy f).stamp = st.stamp := rfl
@[simp] theorem Strand.sc_withTr (f : TrapRegs → TrapRegs) : (st.withTr f).sc = st.sc := rfl
@[simp] theorem Strand.id_withTr (f : TrapRegs → TrapRegs) : (st.withTr f).id = st.id := rfl
@[simp] theorem Strand.kn_withTr (f : TrapRegs → TrapRegs) : (st.withTr f).kn = st.kn := rfl
@[simp] theorem Strand.ops_withTr (f : TrapRegs → TrapRegs) : (st.withTr f).ops = st.ops := rfl
@[simp] theorem Strand.node_withTr (f : TrapRegs → TrapRegs) : (st.withTr f).node = st.node := rfl
@[simp] theorem Strand.pend_withTr (f : TrapRegs → TrapRegs) : (st.withTr f).pend = st.pend := rfl
@[simp] theorem Strand.exposed_withTr (f : TrapRegs → TrapRegs) : (st.withTr f).exposed = st.exposed := rfl
@[simp] theorem Strand.counts_withTr (f : TrapRegs → TrapRegs) : (st.withTr f).counts = st.counts := rfl
@[simp] theorem Strand.longs_withTr (f : TrapRegs → TrapRegs) : (st.withTr f).longs = st.longs := rfl
@[simp] theorem Strand.vec_withTr (f : TrapRegs → TrapRegs) : (st.withTr f).vec = st.vec := rfl
@[simp] theorem Strand.mx_withTr (f : TrapRegs → TrapRegs) : (st.withTr f).mx = st.mx := rfl
@[simp] theorem Strand.fmtb_withTr (f : TrapRegs → TrapRegs) : (st.withTr f).fmtb = st.fmtb := rfl
@[simp] theorem Strand.cp_withTr (f : TrapRegs → TrapRegs) : (st.withTr f).cp = st.cp := rfl
@[simp] theorem Strand.sy_withTr (f : TrapRegs → TrapRegs) : (st.withTr f).sy = st.sy := rfl
@[simp] theorem Strand.sig_withTr (f : TrapRegs → TrapRegs) : (st.withTr f).sig = st.sig := rfl
@[simp] theorem Strand.sigNow_withTr (f : TrapRegs → TrapRegs) : (st.withTr f).sigNow = st.sigNow := rfl
@[simp] theorem Strand.tr_withTr (f : TrapRegs → TrapRegs) : (st.withTr f).tr = f st.tr := rfl
@[simp] theorem Strand.fl_withTr (f : TrapRegs → TrapRegs) : (st.withTr f).fl = st.fl := rfl
@[simp] theorem Strand.energy_withTr (f : TrapRegs → TrapRegs) : (st.withTr f).energy = st.energy := rfl
@[simp] theorem Strand.stamp_withTr (f : TrapRegs → TrapRegs) : (st.withTr f).stamp = st.stamp := rfl
@[simp] theorem Strand.sc_withFlow (f : Flow → Flow) : (st.withFlow f).sc = st.sc := rfl
@[simp] theorem Strand.id_withFlow (f : Flow → Flow) : (st.withFlow f).id = st.id := rfl
@[simp] theorem Strand.kn_withFlow (f : Flow → Flow) : (st.withFlow f).kn = st.kn := rfl
@[simp] theorem Strand.ops_withFlow (f : Flow → Flow) : (st.withFlow f).ops = st.ops := rfl
@[simp] theorem Strand.node_withFlow (f : Flow → Flow) : (st.withFlow f).node = st.node := rfl
@[simp] theorem Strand.pend_withFlow (f : Flow → Flow) : (st.withFlow f).pend = st.pend := rfl
@[simp] theorem Strand.exposed_withFlow (f : Flow → Flow) : (st.withFlow f).exposed = st.exposed := rfl
@[simp] theorem Strand.counts_withFlow (f : Flow → Flow) : (st.withFlow f).counts = st.counts := rfl
@[simp] theorem Strand.longs_withFlow (f : Flow → Flow) : (st.withFlow f).longs = st.longs := rfl
@[simp] theorem Strand.vec_withFlow (f : Flow → Flow) : (st.withFlow f).vec = st.vec := rfl
@[simp] theorem Strand.mx_withFlow (f : Flow → Flow) : (st.withFlow f).mx = st.mx := rfl
@[simp] theorem Strand.fmtb_withFlow (f : Flow → Flow) : (st.withFlow f).fmtb = st.fmtb := rfl
@[simp] theorem Strand.cp_withFlow (f : Flow → Flow) : (st.withFlow f).cp = st.cp := rfl
@[simp] theorem Strand.sy_withFlow (f : Flow → Flow) : (st.withFlow f).sy = st.sy := rfl
@[simp] theorem Strand.sig_withFlow (f : Flow → Flow) : (st.withFlow f).sig = st.sig := rfl
@[simp] theorem Strand.sigNow_withFlow (f : Flow → Flow) : (st.withFlow f).sigNow = st.sigNow := rfl
@[simp] theorem Strand.tr_withFlow (f : Flow → Flow) : (st.withFlow f).tr = st.tr := rfl
@[simp] theorem Strand.fl_withFlow (f : Flow → Flow) : (st.withFlow f).fl = f st.fl := rfl
@[simp] theorem Strand.energy_withFlow (f : Flow → Flow) : (st.withFlow f).energy = st.energy := rfl
@[simp] theorem Strand.stamp_withFlow (f : Flow → Flow) : (st.withFlow f).stamp = st.stamp := rfl

end Sys2Proof.Machine
end

