-- ==== Sys2Proof/Laws/Ops.lean ====
section
/-!
SUPPORT. One law per shared operation: when it answers a next state, and what it can do then.
-/

namespace Sys2Proof

variable {α : Type}

/-- The later of two updates at one key stands. -/
@[simp] theorem SMap.set_set (m : SMap α) (k : Nat) (v w : α) : SMap.set (SMap.set m k v) k w = SMap.set m k w := by
  induction m with
  | nil => simp [SMap.set]
  | cons p m ih =>
    obtain ⟨j, x⟩ := p
    by_cases h : k = j
    · simp [SMap.set, h]
    · by_cases h' : k < j <;> simp [SMap.set, h, h', ih]

end Sys2Proof

namespace Sys2Proof.Machine

variable (s : State) (k x : Nat)

/-! ### Updates of one part -/

@[simp] theorem State.setCore_setCore (c d : Core) : (s.setCore k c).setCore k d = s.setCore k d := by
  simp [State.setCore]

@[simp] theorem State.modCore_modCore (f g : Core → Core) :
    (s.modCore k f).modCore k g = s.modCore k fun c => g (f c) := by
  simp [State.modCore, State.setCore, State.core]

@[simp] theorem State.modStrand_modStrand (f g : Strand → Strand) :
    (s.modStrand k f).modStrand k g = s.modStrand k fun st => g (f st) := by
  simp [State.modStrand]

@[simp] theorem State.modCtx_modCtx (f g : Context → Context) :
    (s.modCtx x f).modCtx x g = s.modCtx x fun c => g (f c) := by
  simp [State.modCtx, State.setCtx, State.ctx]

@[simp] theorem State.modHub_modHub (f g : HubRegs → HubRegs) :
    (s.modHub f).modHub g = s.modHub fun h => g (f h) := rfl

/-- An update of a strand depends on what it makes of that strand alone. -/
theorem State.modStrand_congr {f g : Strand → Strand} (h : f (s.strand k) = g (s.strand k)) :
    s.modStrand k f = s.modStrand k g := by
  simp only [State.modStrand, State.modCore]; rw [show f (s.core k).st = g (s.core k).st from h]

theorem State.modCtx_congr {f g : Context → Context} (h : f (s.ctx x) = g (s.ctx x)) : s.modCtx x f = s.modCtx x g := by
  simp only [State.modCtx, h]

/-! ### Outcomes of a core slot and of an S-op -/

variable {s k x}

/-- Where the core of the turn runs, a slot answers the state its effect makes. -/
theorem onCore_issues (h : s.Issues k) (f : Nat → State) : onCore s f = .next (f k) := by
  obtain ⟨⟨n, ht⟩, hr⟩ := h
  simp [onCore, ht, hr]

/-- A slot answers only on the running core of the turn, and then the state its effect makes. -/
theorem onCore_next {f : Nat → State} {t : State} (h : onCore s f = .next t) : ∃ k, s.Issues k ∧ t = f k := by
  unfold onCore at h
  split at h
  · next k n ht =>
    split at h
    · next hr => exact ⟨k, ⟨⟨n, ht⟩, hr⟩, by simpa using h.symm⟩
    · cases h
  · cases h

/-- One core has the turn. -/
theorem State.Issues.unique {j : Nat} (h : s.Issues k) (h' : s.Issues j) : j = k := by
  obtain ⟨⟨n, ht⟩, -⟩ := h
  obtain ⟨⟨m, ht'⟩, -⟩ := h'
  rw [ht] at ht'; injection ht' with e; exact e.symm

theorem onCtx_decodes (hr : (s.ctx s.curCtx).run = 1) (f : Nat → State) : onCtx s f = .next (f s.curCtx) := by
  simp [onCtx, hr]

theorem onCtx_next {f : Nat → State} {t : State} (h : onCtx s f = .next t) :
    (s.ctx s.curCtx).run = 1 ∧ t = f s.curCtx := by
  unfold onCtx at h
  split at h
  · next hr => exact ⟨hr, by simpa using h.symm⟩
  · cases h

/-- A scalar instruction under a true guard acts on its strand. -/
theorem guarded_true (h : s.Issues k) {g : Guard} (hg : (s.strand k).guard g = true) (f : Strand → Strand) :
    guarded s g f = .next (s.modStrand k f) := by simp [guarded, onCore_issues h, hg]

/-- A scalar instruction under a false guard changes nothing (06 R144). -/
theorem guarded_false (h : s.Issues k) {g : Guard} (hg : (s.strand k).guard g = false) (f : Strand → Strand) :
    guarded s g f = .next s := by simp [guarded, onCore_issues h, hg]

/-- An engine command whose checks pass, under a true guard: the wait, the effect, and the signal where it acts at issue. -/
theorem engine_true (h : s.Issues k) {e : ESync} (hg : (s.strand k).guard e.g = true) {check : Nat → Trap} (hc : check k = none)
    (atIssue : Bool) (f : Nat → State → State) :
    engine s e atIssue check f = .next (
      let t := f k (s.modStrand k fun st => st.consumeWait e)
      if atIssue then t.modStrand k fun st => st.signal (engineSignal e) else t) := by
  simp [engine, onCore_issues h, hg, hc]

/-- Under a false guard an engine command makes its signal and nothing else (11 R269). -/
theorem engine_false (h : s.Issues k) {e : ESync} (hg : (s.strand k).guard e.g = false) {check : Nat → Trap}
    (hc : check k = none) (atIssue : Bool) (f : Nat → State → State) :
    engine s e atIssue check f = .next (s.modStrand k fun st => st.signal (engineSignal e)) := by
  simp [engine, onCore_issues h, hg, hc]

/-- An engine command whose check fails takes its trap, whatever the guard holds (03 R49). -/
theorem engine_traps (h : s.Issues k) (e : ESync) {check : Nat → Trap} {c : TrapCode} {v : W64} (hc : check k = some (c, v))
    (atIssue : Bool) (f : Nat → State → State) : engine s e atIssue check f = .next (s.issueTrap k c v) := by
  simp [engine, onCore_issues h, hc]

/-- An instruction with n counted destinations and room for them runs its effect on the counted state (18 R354). -/
theorem counted_room (h : s.Issues k) {n : Nat} (hr : (s.strand k).Room n) {check : Nat → Trap} (hc : check k = none)
    (lat : Nat) (f : Nat → State → State) :
    counted s n lat check f = .next (f k (s.modStrand k fun st => st.count n lat)) := by
  have : (s.strand k).checkInflight n = none := by simpa [Strand.checkInflight, Strand.Room] using hr
  simp [counted, onCore_issues h, this, hc, firstTrap]

/-- Without room it takes INFLIGHT with the number of destinations (18 R354). -/
theorem counted_full (h : s.Issues k) {n : Nat} (hr : ¬(s.strand k).Room n) (check : Nat → Trap) (lat : Nat)
    (f : Nat → State → State) :
    counted s n lat check f = .next (s.issueTrap k .inflight (BitVec.ofNat 64 ((s.strand k).pending + n))) := by
  have : (s.strand k).checkInflight n = some (.inflight, BitVec.ofNat 64 ((s.strand k).pending + n)) := by
    simpa [Strand.checkInflight, Strand.Room] using hr
  simp [counted, onCore_issues h, this, firstTrap]

/-! ### What the shared operations leave alone -/

@[simp] theorem Strand.count_sc (st : Strand) (n l : Nat) : (st.count n l).sc = st.sc := rfl
@[simp] theorem Strand.count_vec (st : Strand) (n l : Nat) : (st.count n l).vec = st.vec := rfl
@[simp] theorem Strand.count_mx (st : Strand) (n l : Nat) : (st.count n l).mx = st.mx := rfl
@[simp] theorem Strand.count_exposed (st : Strand) (n l : Nat) : (st.count n l).exposed = st.exposed := rfl
@[simp] theorem Strand.count_pend (st : Strand) (n l : Nat) : (st.count n l).pend = st.pend := rfl
@[simp] theorem Strand.consumeWait_off (st : Strand) {e : ESync} (h : e.waitEn = false) : st.consumeWait e = st := by
  simp [Strand.consumeWait, h]
@[simp] theorem Strand.consumeWait_sc (st : Strand) (e : ESync) : (st.consumeWait e).sc = st.sc := by
  unfold Strand.consumeWait; split <;> rfl
@[simp] theorem Strand.consumeWait_id (st : Strand) (e : ESync) : (st.consumeWait e).id = st.id := by
  unfold Strand.consumeWait; split <;> rfl
@[simp] theorem Strand.signal_none (st : Strand) : st.signal none = st := rfl
@[simp] theorem Strand.signal_sc (st : Strand) (x : Option (Nat × Nat)) : (st.signal x).sc = st.sc := by cases x <;> rfl
@[simp] theorem Strand.signal_id (st : Strand) (x : Option (Nat × Nat)) : (st.signal x).id = st.id := by cases x <;> rfl

/-! ### Memory under the shared writers -/

@[simp] theorem State.putCells_mem (s : State) (cells : List (Nat × Byte)) : (s.putCells cells).mem = s.mem.writeAll cells := rfl
@[simp] theorem State.clearCells_mem (s : State) (a n : Nat) : (s.clearCells a n).mem = s.mem.clear a n := rfl
@[simp] theorem State.noteWrites_mem (s : State) (port : Nat) (engine : Bool) (keys : List Nat) :
    (s.noteWrites port engine keys).mem = s.mem := rfl

theorem State.putCells_canonical {s : State} (h : s.Canonical) (cells : List (Nat × Byte)) : (s.putCells cells).Canonical :=
  Memory.wf_writeAll h _
theorem State.clearCells_canonical {s : State} (h : s.Canonical) (a n : Nat) : (s.clearCells a n).Canonical := Memory.wf_clear h a n

/-- Bytes about to be written are kept for early readers; nothing else changes. -/
theorem State.keepPast_frame (s : State) (keys : List Nat) : s.keepPast keys = { s with past := (s.keepPast keys).past } := by
  unfold State.keepPast; split <;> rfl
@[simp] theorem State.keepPast_mem (s : State) (keys : List Nat) : (s.keepPast keys).mem = s.mem := by
  rw [State.keepPast_frame]
@[simp] theorem State.keepPast_hub (s : State) (keys : List Nat) : (s.keepPast keys).hub = s.hub := by rw [State.keepPast_frame]

@[simp] theorem State.storeCells_mem (s : State) (cells : List (Nat × Byte)) :
    (s.storeCells cells).mem = s.mem.writeAll cells := by simp [State.storeCells]
@[simp] theorem State.storeCells_hub (s : State) (cells : List (Nat × Byte)) : (s.storeCells cells).hub = s.hub :=
  s.keepPast_hub _

/-- Memory under the queued writes of a core: those writes and no others. -/
theorem State.flushSpad_mem (s : State) (k : Nat) (m : Bool) :
    (s.flushSpad k m).mem =
      let put (ws : List (Nat × Byte)) := ws.map fun p => (spadKey k ((s.strand k).phys p.1), p.2)
      if m then (s.mem.writeAll (put (s.core k).now.wbuf)).writeAll (put (s.core k).now.mbuf)
      else s.mem.writeAll (put (s.core k).now.wbuf) := by
  have fulls (t : State) (b : Bool) (l : List Nat) : (t.setFulls k b l).mem = t.mem := by
    induction l generalizing t with
    | nil => rfl
    | cons a r ih => simp [State.setFulls, ih, State.setFull]
  cases m <;> simp [State.flushSpad, fulls]

/-- The canonical form survives the queued writes. -/
theorem State.flushSpad_canonical {s : State} (h : s.Canonical) (k : Nat) (m : Bool) : (s.flushSpad k m).Canonical := by
  unfold State.Canonical at *
  rw [State.flushSpad_mem]
  cases m
  · exact Memory.wf_writeAll h _
  · exact Memory.wf_writeAll (Memory.wf_writeAll h _) _

/-- Flits join the replay buffers of ports; nothing else changes. -/
theorem State.sendPeer_frame (s : State) (use : FlitUse) (l : List (Nat × PeerAccess)) :
    s.sendPeer use l = { s with ports := (s.sendPeer use l).ports } := by
  induction l generalizing s with
  | nil => rfl
  | cons f r ih => exact (ih _).trans rfl

/-- Taking a number of the oracle changes the oracle alone. -/
theorem State.draw_frame (s : State) : s.draw.2 = { s with oracle := s.draw.2.oracle } := by
  unfold State.draw; split <;> rfl

/-- A record of the interrupt ring: its place takes the words, and the tail goes on. -/
theorem State.writeRecord_mem (s : State) (r : IntRec) : (s.writeRecord r).mem =
    s.mem.writeAll (atAddr (s.hub.ringKey s.hub.irtail.toNat) ((r.words s.gcyc).flatMap fun w => leBytes 8 w.toNat)) := by
  simp [State.writeRecord]
theorem State.writeRecord_irtail (s : State) (r : IntRec) : (s.writeRecord r).hub.irtail = s.hub.irtail + 1 := by
  simp [State.writeRecord, State.modHub]

theorem State.writeObj_canonical {s : State} (h : s.Canonical) (o off : Nat) (bs : List Byte) :
    (s.writeObj o off bs).Canonical := by
  have e : (s.writeObj o off bs).mem = s.mem.writeAll (s.objCells o off bs) := s.storeCells_mem _
  unfold State.Canonical
  rw [e]
  exact Memory.wf_writeAll h _

/-! ### Memory under translation: walks, counters and notices write none -/

@[simp] theorem State.modEntryOf_mem (s : State) (o i : Nat) (f : OtEntry → OtEntry) : (s.modEntryOf o i f).mem = s.mem := by
  unfold State.modEntryOf; split <;> rfl
@[simp] theorem State.modCached_mem (s : State) (p o i : Nat) (f : OtEntry → OtEntry) : (s.modCached p o i f).mem = s.mem := rfl
@[simp] theorem State.dirty_mem (s : State) (es : List (Nat × Nat)) : (s.dirty es).mem = s.mem := by
  unfold State.dirty
  induction es generalizing s with
  | nil => rfl
  | cons x l ih => rw [List.foldl_cons, ih]; split <;> simp
@[simp] theorem State.post_mem (s : State) (r : IntRec) : (s.post r).mem = s.mem := by
  unfold State.post; split <;> rfl
@[simp] theorem State.logError_mem (s : State) (ws : List W64) : (s.logError ws).mem = s.mem := by
  simp only [State.logError]; split_ifs <;> simp
@[simp] theorem State.fillCache_mem (s : State) (p : Nat) (c : Cached) : (s.fillCache p c).mem = s.mem := by
  simp only [State.fillCache]
  split
  · rfl
  · split
    · rfl
    · unfold State.writeBack; split_ifs <;> simp
@[simp] theorem State.walk_mem (s : State) (p o i : Nat) : (s.walk p o i).1.mem = s.mem := by
  simp only [State.walk, State.logEntry]
  split
  · simp
  · split
    · rfl
    · split
      · rfl
      · split
        · simp
        · split <;> simp
@[simp] theorem State.crossing_mem (s : State) (o i a : Nat) : (s.crossing o i a).mem = s.mem := by
  simp only [State.crossing, State.notice]
  split
  · rfl
  · split_ifs <;> simp
@[simp] theorem State.countAccess_mem (s : State) (o i : Nat) : (s.countAccess o i).mem = s.mem := by
  simp only [State.countAccess]
  split
  · split_ifs <;> simp
  · split_ifs <;> simp
@[simp] theorem State.countSpan_mem (s : State) (o off n : Nat) : (s.countSpan o off n).mem = s.mem := by
  have fold {α : Type} (f : State → α → State) (hf : ∀ t x, (f t x).mem = t.mem) (l : List α) (t : State) :
      (l.foldl f t).mem = t.mem := by
    induction l generalizing t with
    | nil => rfl
    | cons x l ih => rw [List.foldl_cons, ih, hf]
  unfold State.countSpan
  refine fold _ (fun t c => fold _ (fun t x => ?_) _ t) _ s
  split_ifs
  · exact fold _ (fun t _ => State.countAccess_mem t _ _) _ t
  · rfl

/-! ### Memory under the writers of frames -/

/-- A byte of a frame is written, or is owed, within the canonical form. -/
theorem State.markFrame_canonical {s : State} (h : s.Canonical) (obj off : Nat) (b : Byte) : (s.markFrame obj off b).Canonical := by
  unfold State.markFrame
  split
  · exact h
  · unfold State.Canonical; rw [State.dirty_mem]; exact State.putCells_canonical h _
  · exact h

/-- Marking records discarded keeps the canonical form. -/
theorem State.markDiscarded_canonical {s : State} (h : s.Canonical) (a : Absent) : (s.markDiscarded a).Canonical :=
  State.markFrame_canonical h _ _ _

theorem State.foldl_markDiscarded_canonical {s : State} (h : s.Canonical) (l : List Absent) :
    (l.foldl State.markDiscarded s).Canonical := by
  induction l generalizing s with
  | nil => exact h
  | cons a l ih => exact ih (State.markDiscarded_canonical h a)

/-- Blocks of a frame are written within the canonical form. -/
theorem State.putPart_canonical {s : State} (h : s.Canonical) (obj base : Nat) (p : FramePart) : (s.putPart obj base p).Canonical := by
  unfold State.putPart
  induction chunksOf (base + p.off) p.len generalizing s with
  | nil => exact h
  | cons c l ih =>
    refine ih ?_
    beta_reduce
    split
    · exact h
    · unfold State.Canonical
      rw [State.dirty_mem]
      exact State.putCells_canonical (State.clearCells_canonical h _ _) _

theorem State.putParts_canonical {s : State} (h : s.Canonical) (obj base : Nat) (ps : List FramePart) :
    (s.putParts obj base ps).Canonical := by
  unfold State.putParts
  induction ps generalizing s with
  | nil => exact h
  | cons p l ih => exact ih (State.putPart_canonical h obj base p)

theorem State.mirror_canonical {s : State} (h : s.Canonical) (a : Absent) : (s.mirror a).Canonical := by
  unfold State.mirror
  dsimp only
  split
  · exact h
  · refine State.putParts_canonical ?_ _ _ _
    unfold State.Canonical
    rw [State.countSpan_mem]
    exact h

/-- Aborting a task marks the records of its absent strands; of memory it changes nothing else. -/
theorem State.abort_mem (s : State) (tid : Nat) (role : Option Nat) :
    (s.abort tid role).mem = ((s.absent.filter fun a => inTask tid role a.st.owner).foldl State.markDiscarded s).mem := rfl
theorem State.abort_canonical {s : State} (h : s.Canonical) (tid : Nat) (role : Option Nat) : (s.abort tid role).Canonical :=
  State.foldl_markDiscarded_canonical (s := s) h _
/-- With no strand of the task absent, aborting it changes no byte of memory. -/
theorem State.abort_mem_of_here {s : State} {tid : Nat} {role : Option Nat}
    (h : ∀ a ∈ s.absent, inTask tid role a.st.owner = false) : (s.abort tid role).mem = s.mem := by
  rw [State.abort_mem, List.filter_eq_nil_iff.2 (by simpa using h)]; rfl

theorem State.entryFault_mem (s : State) (tid kind : Nat) (r : Reason) (trapc : W64) (core slot : Nat) (v : W64) :
    (s.entryFault tid kind r trapc core slot v).mem = (s.abort tid none).mem := rfl

/-- A task fault performs the writes of the earlier slots and marks records, and writes nothing else. -/
theorem State.taskFault_mem (s : State) (k : Nat) (r : Reason) (trapc : W64) (slot : Nat) (v : W64) :
    (s.taskFault k r trapc slot v).mem = ((s.flushSpad k true).abort (s.strand k).id.tid.toNat none).mem := rfl

/-- The writes that a bundle's committed slots have queued change registers, never memory. -/
@[simp] theorem State.applyDeferred_mem (s : State) (k : Nat) : (s.applyDeferred k).mem = s.mem := by
  have step (l : List (Option Nat × W64)) (t : State) : (l.foldl (fun s d =>
      match d.1 with
      | some n => s.writeSR k n d.2
      | none => s.modStrand k fun st => st.applyRot d.2) t).mem = t.mem := by
    induction l generalizing t with
    | nil => rfl
    | cons d l ih =>
      simp only [List.foldl_cons, ih]
      split
      · unfold State.writeSR; split_ifs <;> rfl
      · rfl
  exact step _ s

/-- A trap enters the handler, which leaves memory, or is a task fault (18 R360). -/
theorem State.trapTo_cases (s : State) (k : Nat) (ret : TrapReturn) (trapc v : W64) (place : Option (Nat × Nat))
    (emu : Option W64) :
    (∃ kn, (s.strand k).id.hndl = false ∧ s.handler (s.strand k).id.ctx = some kn ∧
      s.trapTo k ret trapc v place emu =
        s.modStrand k fun st => st.enterHandler kn (s.codeStart kn) ret trapc v (trapslotBits place) emu) ∨
    s.trapTo k ret trapc v place emu = s.taskFault k .coretrap trapc ((place.map (·.2)).getD 7) v := by
  unfold State.trapTo
  by_cases h : (s.strand k).id.hndl = true
  · simp [h]
  · cases hk : s.handler (s.strand k).id.ctx with
    | none => simp [h, hk]
    | some kn => exact .inl ⟨kn, by simpa using h, rfl, by simp [h, hk]⟩

theorem State.taskFault_canonical {s : State} (h : s.Canonical) (k : Nat) (r : Reason) (trapc : W64) (slot : Nat) (v : W64) :
    (s.taskFault k r trapc slot v).Canonical := by
  exact State.abort_canonical (State.flushSpad_canonical h k true) _ _

theorem State.trapTo_canonical {s : State} (h : s.Canonical) (k : Nat) (ret : TrapReturn) (trapc v : W64)
    (place : Option (Nat × Nat)) (emu : Option W64) : (s.trapTo k ret trapc v place emu).Canonical := by
  obtain ⟨kn, -, -, e⟩ | e := s.trapTo_cases k ret trapc v place emu
  · rw [e]; exact h
  · rw [e]; exact State.taskFault_canonical h ..

/-- An issue-time trap keeps the canonical form. -/
theorem State.issueTrap_canonical {s : State} (h : s.Canonical) (k : Nat) (c : TrapCode) (v : W64) :
    (s.issueTrap k c v).Canonical := by
  have h' : (s.applyDeferred k).Canonical := by unfold State.Canonical; rw [State.applyDeferred_mem]; exact h
  exact State.trapTo_canonical (s := (s.applyDeferred k).modStrand k _) h' ..

/-! ### Own steps -/

/-- The row of an own step. -/
noncomputable def Event.instr : Event → Instr
  | .nopwCountExpiry k => .nopwCountExpiry k
  | .longOpStep k => .longOpStep k
  | .resultLanding k => .resultLanding k
  | .scalarResultWrite k => .scalarResultWrite k
  | .inflightEntryLand k => .inflightEntryLand k
  | .planeRowWrite k => .planeRowWrite k
  | .tileRowLand k => .tileRowLand k
  | .tileRowLoad k => .tileRowLoad k
  | .tileRowStore k => .tileRowStore k
  | .mchkOutcome k => .mchkOutcome k
  | .bandPowerUpEnd k => .bandPowerUpEnd k
  | .copyCommandStart g => .copyCommandStart g
  | .copyRun g => .copyRun g
  | .copyCommandComplete g => .copyCommandComplete g
  | .starvationGuard k => .starvationGuard k
  | .semaphoreSignal k => .semaphoreSignal k
  | .barinitAnswer k => .barinitAnswer k
  | .cellUpdateCycle n => .cellUpdateCycle n
  | .barrierRelease k => .barrierRelease k
  | .circuitSlot k => .circuitSlot k
  | .circuitTransferArrival k => .circuitTransferArrival k
  | .circuitCreditReturn k => .circuitCreditReturn k
  | .remoteAccessSend id => .remoteAccessSend id
  | .translationWalk id => .translationWalk id
  | .remoteAccessPerform id => .remoteAccessPerform id
  | .remoteReturn id => .remoteReturn id
  | .remoteStoreAccept id => .remoteStoreAccept id
  | .loupeAccept id => .loupeAccept id
  | .pageAbsentSuspend k => .pageAbsentSuspend k
  | .parkPoll x => .parkPoll x
  | .dispatch => .dispatch
  | .poolEntryDispatch => .poolEntryDispatch
  | .entryReady t => .entryReady t
  | .agingPromotion t => .agingPromotion t
  | .persistentHandoffTimeout t => .persistentHandoffTimeout t
  | .hubCopyComplete h => .hubCopyComplete h
  | .modFillComplete h => .modFillComplete h
  | .retire x => .retire x
  | .headOnlyMode t => .headOnlyMode t
  | .faultDelivery x => .faultDelivery x
  | .squashRemove t => .squashRemove t
  | .checkFaultReexecution t => .checkFaultReexecution t
  | .voteCompare t => .voteCompare t
  | .thirdRunCompare t => .thirdRunCompare t
  | .suspicionDecay => .suspicionDecay
  | .preemptStop k => .preemptStop k
  | .saveBankStart k => .saveBankStart k
  | .saveBankEnd k => .saveBankEnd k
  | .saveEnd k => .saveEnd k
  | .restoreStart k => .restoreStart k
  | .restoreBankEnd k => .restoreBankEnd k
  | .resumeMerge k => .resumeMerge k
  | .watchdogExpiry k => .watchdogExpiry k
  | .saveTimeout k => .saveTimeout k
  | .killComplete x => .killComplete x
  | .otswap => .otswap
  | .otswapDone => .otswapDone
  | .otsync => .otsync
  | .otsyncDone => .otsyncDone
  | .otBadOp op => .otBadOp op
  | .owedNoticePost => .owedNoticePost
  | .ckptExtentCopied x => .ckptExtentCopied x
  | .droopStretchEnd k => .droopStretchEnd k
  | .droopHalvingEnd k => .droopHalvingEnd k
  | .ballastStart k => .ballastStart k
  | .ballastEnd k => .ballastEnd k
  | .overQuota x => .overQuota x
  | .hoistSnapshot => .hoistSnapshot
  | .createObject => .createObject
  | .freeObject => .freeObject
  | .createContext => .createContext
  | .restartContext => .restartContext
  | .writeCapabilityEntry => .writeCapabilityEntry
  | .badRequest op => .badRequest op
  | .interruptRecordPost => .interruptRecordPost
  | .illegalOpcode c v => .illegalOpcode c v
  | .fetchFault c v => .fetchFault c v
  | .unlistedOp r => .unlistedOp r
  | .streamObjectEnd => .streamObjectEnd

/-- An own step is `exec` of its row, which is neither a slot's instruction nor an S-op. -/
theorem Event.run_eq (e : Event) (s : State) : e.run s = exec e.instr s := by cases e <;> rfl
theorem Event.not_slot (e : Event) : e.instr.isSlot = false ∧ e.instr.isStream = false := by cases e <;> exact ⟨rfl, rfl⟩

end Sys2Proof.Machine
end

