-- ==== Sys2Proof/Tests/Slice0.lean ====
section
/-!
SUPPORT. Tests: words written out from the spec's encodings, ill-formed words and terms, single steps, and for every statement a
state that meets its hypotheses.
-/

namespace Sys2Proof.Tests



open Sys2Proof.Machine

set_option Elab.async false

/-! ### Words written out from the encodings of 03 R51-R72 and the layouts of the single instructions -/

/-- The word decodes in its slot to the instruction, and the instruction encodes to the word. -/
def readsAs (r : SlotKind × Nat × Instr) : Bool :=
  decodeSlot r.1 r.2.1 == .ok r.2.2 && (encode r.2.2).map (·.2) == some r.2.1

theorem test_decode_scalar_0 :
    ([(.s, 0x356EBF01, .add 43 27 53 ⟨7, true⟩),
      (.s, 0x27F6FF03, .sub 47 61 39 ⟨7, true⟩),
      (.s, 0x28614C04, .mul 20 24 40 ⟨4, true⟩),
      (.s, 0x362D9A05, .mulh 25 11 54 ⟨2, true⟩),
      (.s, 0x2ABD0A06, .mulhn 16 47 42 ⟨2, true⟩),
      (.s, 0x1252B107, .div 43 20 18 ⟨1, false⟩),
      (.s, 0x41E408, .divn 30 16 0 ⟨4, false⟩),
      (.s, 0x36227B09, .rem 39 8 54 ⟨3, true⟩),
      (.s, 0x29627B0A, .remn 39 24 41 ⟨3, true⟩),
      (.s, 0x2F7E030B, .and 32 31 47 ⟨3, false⟩),
      (.s, 0x10E5820C, .or 24 57 16 ⟨2, false⟩),
      (.s, 0x18C9B90D, .xor 27 50 24 ⟨1, true⟩),
      (.s, 0x1F3EFD0E, .andn 47 15 31 ⟨5, true⟩),
      (.s, 0x298F7E12, .shl 55 35 41 ⟨6, true⟩)] : List (SlotKind × Nat × Instr)).all readsAs = true := by
  decide +kernel

theorem test_decode_scalar_1 :
    ([(.s, 0x21515113, .shr 21 20 33 ⟨1, false⟩),
      (.s, 0x26678814, .sar 56 25 38 ⟨0, true⟩),
      (.s, 0x318E1915, .rotl 33 35 49 ⟨1, true⟩),
      (.s, 0x242A7119, .min 39 10 36 ⟨1, false⟩),
      (.s, 0x398F341A, .max 51 35 57 ⟨4, false⟩),
      (.s, 0x1B20B1B, .minn 32 44 1 ⟨3, true⟩),
      (.s, 0x3DBA811C, .maxn 40 46 61 ⟨1, false⟩),
      (.s, 0x628F624, .sel 15 10 6 ⟨6, false⟩),
      (.s, 0x3F84DC16, .shli 13 33 63 ⟨4, true⟩),
      (.s, 0xB22FF17, .shri 47 8 11 ⟨7, true⟩),
      (.s, 0x11D1418, .sari 17 7 1 ⟨4, false⟩),
      (.s, 0x1051891F, .sext 24 20 16 ⟨1, true⟩),
      (.s, 0x2C392E20, .zext 18 14 44 ⟨6, true⟩),
      (.s, 0xC5AD5A02, .addi 21 43 197 ⟨2, true⟩)] : List (SlotKind × Nat × Instr)).all readsAs = true := by
  decide +kernel

theorem test_decode_scalar_2 :
    ([(.s, 0x9CE4420F, .andi 4 57 156 ⟨2, false⟩),
      (.s, 0x89539110, .ori 57 20 137 ⟨1, false⟩),
      (.s, 0x9094F911, .xori 15 37 144 ⟨1, true⟩),
      (.s, 0xC4FC1D, .clz 15 49 ⟨4, true⟩),
      (.s, 0xC2051E, .popc 32 48 ⟨5, false⟩),
      (.s, 0x487C27, .mov 7 18 ⟨4, true⟩),
      (.s, 0x559E2B, .brx 25 21 ⟨6, true⟩),
      (.s, 0x800, .nop ⟨0, true⟩),
      (.s, 0x2C46B421, .cmp 5 3 17 44 ⟨4, false⟩),
      (.s, 0xF3CB1922, .cmpi 6 1 50 0xF3 ⟨1, true⟩),
      (.s, 0x3E142423, .qlog 7 2 5 6 ⟨4, false⟩)] : List (SlotKind × Nat × Instr)).all readsAs = true := by
  decide +kernel

theorem test_decode_control_0 :
    ([(.s, 0x8DB66425, .lil 38 9069 ⟨4, false⟩),
      (.s, 0xE28F9926, .lih 57 14499 ⟨1, true⟩),
      (.s, 0xF58C4F2D, .loop 4 15715 ⟨7, true⟩),
      (.s, 0xAAF0072E, .nopw 0x2ABC ⟨7, false⟩),
      (.s, 0x4FE7528, .mfsr 39 319 ⟨5, false⟩),
      (.s, 0x831429, .mtsr 49 32 ⟨4, false⟩),
      (.s, 0xAFFA1C2A, .br 720801 ⟨4, true⟩),
      (.s, 0x8E739F2C, .call 583481 ⟨7, true⟩),
      (.s, 0x9C00062F, .rot 0x9C ⟨6, false⟩),
      (.s, 0xC5000E30, .swpt 0xC5 ⟨6, true⟩),
      (.s, 0x731, .endt ⟨7, false⟩),
      (.s, 0x1000131, .endtCont ⟨1, false⟩),
      (.s, 0x85D0BE33, .cload 11 52 0x85 ⟨6, true⟩),
      (.s, 0x3D18B334, .cnarrow 11 6 61 ⟨3, false⟩)] : List (SlotKind × Nat × Instr)).all readsAs = true := by
  decide +kernel

theorem test_decode_control_1 :
    ([(.s, 0xA6389D35, .crights 9 14 0xA6 ⟨5, true⟩),
      (.s, 0x4365936, .cget 37 13 4 ⟨1, true⟩),
      (.s, 0x307137, .cmov 7 12 ⟨1, false⟩)] : List (SlotKind × Nat × Instr)).all readsAs = true := by
  decide +kernel

theorem test_decode_memory_0 :
    ([(.l, 0x5651A1916881, .lds 45 9 33 0x25 2 true ⟨2, false⟩ ⟨5, 2⟩),
      (.w, 0x3A60E2A17541, .sts 46 10 34 0x26 3 ⟨5, true⟩ ⟨6, 1⟩),
      (.l, 0xBA5EB8963C2, .vld 300 8 43 3735 ⟨15, false⟩ ⟨2, 0⟩),
      (.l, 0xE1CBA8A0605, .vldb 320 8 58 2162 ⟨8, true⟩ ⟨3, 0⟩),
      (.w, 0x16397F8BCA82, .vst 377 8 63 2277 ⟨10, false⟩ ⟨5, 0⟩),
      (.l, 0x4E4F9398B343, .vlds 278 9 19 62 36 ⟨13, false⟩ ⟨3, 2⟩),
      (.w, 0x5A8CE619C783, .vsts 312 1 38 51 40 ⟨14, true⟩ ⟨6, 2⟩),
      (.l, 0x184180E8AFC4, .vldx 277 14 0 262 false ⟨15, true⟩ ⟨6, 0⟩),
      (.l, 0xD056D239FFC4, .vldx 319 3 18 347 true ⟨15, true⟩ ⟨4, 2⟩),
      (.w, 0xC5ACBB8CF44, .vstx 281 11 11 363 false ⟨13, true⟩ ⟨3, 0⟩),
      (.w, 0xB8522A7A3B44, .vstx 327 7 42 328 true ⟨13, false⟩ ⟨6, 1⟩)] : List (SlotKind × Nat × Instr)).all readsAs = true := by
  decide +kernel

theorem test_decode_vector_0 :
    ([(.y, 0x100095D5EDFE01, .vadd ⟨367, 343, 299, 0, ⟨14, true⟩, 8, 0, false, false, false, 0⟩),
      (.v, 0x83562A2A02, .vsub ⟨337, 344, 262, 0, ⟨10, false⟩, 0, 0, false, false, false, 0⟩),
      (.y, 0xE008055EE1F03, .vadds ⟨368, 343, 256, 0, ⟨15, true⟩, 7, 0, false, false, false, 0⟩),
      (.y, 0x800A7DE6FA804, .vsubs ⟨381, 377, 335, 0, ⟨8, false⟩, 4, 0, false, false, false, 0⟩),
      (.v, 0x282008F5B29C805, .vmul ⟨334, 364, 286, 0, ⟨8, false⟩, 1, 0, true, false, true, 0⟩),
      (.v, 0xE00BFCB244906, .vmulh ⟨290, 300, 383, 0, ⟨9, false⟩, 7, 0, false, false, false, 0⟩),
      (.y, 0x2815BB341AE8F07, .vmac ⟨372, 262, 358, 347, ⟨15, false⟩, 0, 0, true, false, true, 0⟩),
      (.v, 0x100009FC0291908, .vand ⟨328, 256, 319, 0, ⟨9, true⟩, 0, 0, false, true, false, 0⟩),
      (.y, 0x200009CC1A48909, .vor ⟨292, 262, 313, 0, ⟨9, false⟩, 0, 0, false, false, true, 0⟩),
      (.v, 0x200008C4E6B6A0A, .vxor ⟨347, 313, 280, 0, ⟨10, false⟩, 0, 0, false, false, true, 0⟩),
      (.y, 0x90D22CDA0B, .vandn ⟨358, 328, 289, 0, ⟨10, true⟩, 0, 0, false, false, false, 0⟩),
      (.v, 0x388009C5B245F0C, .vshl ⟨290, 364, 312, 0, ⟨15, true⟩, 4, 0, true, true, true, 0⟩),
      (.y, 0x10E00BCCFA5BC0D, .vshr ⟨301, 318, 377, 0, ⟨12, true⟩, 7, 0, false, true, false, 0⟩),
      (.y, 0x30800AE5E6B2E0E, .vsar ⟨345, 377, 348, 0, ⟨14, false⟩, 4, 0, false, true, true, 0⟩)] : List (SlotKind × Nat × Instr)).all readsAs = true := by
  decide +kernel

theorem test_decode_vector_1 :
    ([(.y, 0x206008B5B6E1D0F, .vmin ⟨368, 365, 278, 0, ⟨13, true⟩, 3, 0, false, false, true, 0⟩),
      (.v, 0x30200A64F2A0810, .vmax ⟨336, 316, 332, 0, ⟨8, false⟩, 1, 0, false, true, true, 0⟩),
      (.v, 0x180000056E88911, .vabs ⟨324, 347, 0, 0, ⟨9, false⟩, 0, 0, true, true, false, 0⟩),
      (.v, 0x286000051AD0E12, .vneg ⟨360, 326, 0, 0, ⟨14, false⟩, 3, 0, true, false, true, 0⟩),
      (.y, 0x30800004361BA13, .vclz ⟨269, 269, 0, 0, ⟨10, true⟩, 4, 0, false, true, true, 0⟩),
      (.v, 0x10E000045AF9B14, .vpopc ⟨380, 278, 0, 0, ⟨11, true⟩, 7, 0, false, true, false, 0⟩),
      (.v, 0x3E1005C6D2E15, .vaddi ⟨361, 369, 0, 481, ⟨14, false⟩, 1, 0, false, false, false, 0⟩),
      (.y, 0x2AC00875FA77F20, .vfadd ⟨315, 382, 270, 0, ⟨15, true⟩, 6, 1, true, false, true, 0⟩),
      (.y, 0xAC00BA4CA16C21, .vfsub ⟨267, 306, 372, 0, ⟨12, false⟩, 6, 1, true, false, false, 0⟩),
      (.y, 0xEC009E5D20EB22, .vfmul ⟨263, 372, 316, 0, ⟨11, false⟩, 6, 3, true, false, false, 0⟩),
      (.v, 0x3AB788BDAAB3B23, .vfma ⟨345, 362, 279, 376, ⟨11, true⟩, 5, 1, true, true, true, 0⟩),
      (.y, 0x30A00BD4AA2DD24, .vfmin ⟨278, 298, 378, 0, ⟨13, true⟩, 5, 0, false, true, true, 0⟩),
      (.v, 0x20C00955C280F25, .vfmax ⟨320, 368, 298, 0, ⟨15, false⟩, 6, 0, false, false, true, 0⟩),
      (.v, 0x20C00005E2B5F26, .vfabs ⟨346, 376, 0, 0, ⟨15, true⟩, 6, 0, false, false, true, 0⟩)] : List (SlotKind × Nat × Instr)).all readsAs = true := by
  decide +kernel

theorem test_decode_vector_2 :
    ([(.y, 0x30C000052EE5D27, .vfneg ⟨370, 331, 0, 0, ⟨13, true⟩, 6, 0, false, true, true, 0⟩),
      (.v, 0x3EA000049E66C28, .vrcp ⟨307, 295, 0, 0, ⟨12, false⟩, 5, 3, true, true, true, 0⟩),
      (.v, 0x3C4000042E13929, .vrsq ⟨265, 267, 0, 0, ⟨9, true⟩, 2, 2, true, true, true, 0⟩),
      (.v, 0x3EC000044247B2A, .vexp2 ⟨291, 272, 0, 0, ⟨11, true⟩, 6, 3, true, true, true, 0⟩),
      (.v, 0x2EA000053A4AC2B, .vlog2 ⟨293, 334, 0, 0, ⟨12, false⟩, 5, 3, true, false, true, 0⟩),
      (.v, 0x3C4008F5AA77E2C, .vfdiv ⟨315, 362, 286, 0, ⟨14, true⟩, 2, 2, true, true, true, 0⟩),
      (.y, 0x20963935F6C1C2D, .vclamp ⟨352, 381, 294, 355, ⟨12, true⟩, 4, 0, false, false, true, 0⟩),
      (.y, 0x80000BB56AB3F30, .vcmp ⟨345, 346, 374, 0, ⟨15, true⟩, 0, 0, false, false, false, 2⟩),
      (.y, 0x50400A3422B2C31, .vfcmp ⟨345, 264, 326, 0, ⟨12, false⟩, 2, 0, false, true, false, 1⟩),
      (.v, 0x3000088CFA06832, .vsel ⟨259, 318, 273, 0, ⟨8, false⟩, 0, 0, false, true, true, 0⟩),
      (.v, 0x200000043221D33, .vmov ⟨272, 268, 0, 0, ⟨13, true⟩, 0, 0, false, false, true, 0⟩),
      (.y, 0x20C00000B2F3B34, .vbcast ⟨377, 44, 0, 0, ⟨11, true⟩, 6, 0, false, false, true, 0⟩),
      (.v, 0x22D3C65C35, .vget ⟨50, 335, 69, 0, ⟨12, true⟩, 0, 0, false, false, false, 0⟩),
      (.y, 0x3C88E20F36, .vput ⟨272, 35, 121, 0, ⟨15, false⟩, 0, 0, false, false, false, 0⟩)] : List (SlotKind × Nat × Instr)).all readsAs = true := by
  decide +kernel

theorem test_decode_vector_3 :
    ([(.v, 0x202F37, .viota ⟨257, 0, 0, 0, ⟨15, false⟩, 0, 0, false, false, false, 0⟩),
      (.y, 0x9CA00974B658840, .vcvt ⟨300, 301, 302, 0, ⟨8, false⟩, 5, 2, true, true, false, 2⟩),
      (.y, 0x59216941, .vunpt5 ⟨267, 356, 0, 0, ⟨9, false⟩, 0, 0, false, false, false, 0⟩),
      (.v, 0x2400000059A13942, .vunp4 ⟨265, 358, 0, 0, ⟨9, true⟩, 0, 0, false, false, false, 9⟩),
      (.v, 0x80000005826BD43, .vunp6 ⟨309, 352, 0, 0, ⟨13, true⟩, 0, 0, false, false, false, 2⟩),
      (.v, 0xA000005FEFA944, .vpack4 ⟨381, 383, 0, 0, ⟨9, false⟩, 0, 1, true, false, false, 0⟩),
      (.v, 0x464000046241C45, .vpack6 ⟨288, 280, 0, 0, ⟨12, true⟩, 2, 3, false, false, false, 1⟩),
      (.v, 0x800000040AF5A46, .vdpx ⟨378, 258, 0, 0, ⟨10, true⟩, 0, 0, false, false, false, 2⟩),
      (.y, 0xC44000041E8F947, .vdpq ⟨327, 263, 0, 0, ⟨9, true⟩, 2, 2, false, false, false, 3⟩),
      (.v, 0x2814A9E462CE848, .vtacc ⟨359, 280, 316, 330, ⟨8, false⟩, 0, 0, true, false, true, 0⟩),
      (.y, 0x14082D0A64D50, .vperm ⟨306, 322, 261, 320, ⟨13, false⟩, 0, 0, false, false, false, 0⟩),
      (.y, 0x34CFE20C51, .vrot ⟨272, 319, 105, 0, ⟨12, false⟩, 0, 0, false, false, false, 0⟩),
      (.y, 0x4000086D3EBBD52, .vzip ⟨349, 335, 269, 0, ⟨13, true⟩, 0, 0, false, false, false, 1⟩),
      (.v, 0x8DD5E1A953, .vunzip ⟨269, 343, 283, 0, ⟨9, false⟩, 0, 0, false, false, false, 0⟩)] : List (SlotKind × Nat × Instr)).all readsAs = true := by
  decide +kernel

theorem test_decode_vector_4 :
    ([(.v, 0x80000046E7DE58, .vredadd ⟨318, 283, 0, 0, ⟨14, true⟩, 0, 0, true, false, false, 0⟩),
      (.v, 0x424000056688D59, .vredfadd ⟨324, 345, 0, 0, ⟨13, false⟩, 2, 1, false, false, false, 1⟩),
      (.v, 0x402000048A9295A, .vredmax ⟨329, 290, 0, 0, ⟨9, false⟩, 1, 0, false, false, false, 1⟩),
      (.v, 0x42ADFC5B, .vredmin ⟨367, 266, 0, 0, ⟨12, true⟩, 0, 0, false, false, false, 0⟩),
      (.y, 0x800000702812C60, .plog ⟨9, 10, 14, 0, ⟨12, false⟩, 0, 0, false, false, false, 2⟩),
      (.y, 0x3416861, .pnot ⟨11, 13, 0, 0, ⟨8, false⟩, 0, 0, false, false, false, 0⟩),
      (.y, 0x2853F62, .pcnt ⟨41, 10, 0, 0, ⟨15, true⟩, 0, 0, false, false, false, 0⟩),
      (.v, 0x2443C63, .pfirst ⟨33, 9, 0, 0, ⟨12, true⟩, 0, 0, false, false, false, 0⟩),
      (.v, 0x2880017A64, .pset ⟨11, 0, 81, 0, ⟨10, true⟩, 0, 0, false, false, false, 0⟩),
      (.v, 0x402009CC463E870, .vsort ⟨287, 273, 313, 0, ⟨8, false⟩, 1, 0, false, false, false, 1⟩),
      (.v, 0x1024000057A14A71, .vscan ⟨266, 350, 0, 0, ⟨10, false⟩, 2, 1, false, false, false, 4⟩)] : List (SlotKind × Nat × Instr)).all readsAs = true := by
  decide +kernel

theorem test_decode_matrix_0 :
    ([(.m, 0x4B298A2350259001, .mldw ⟨0, 9, 37, 320, 70, 5, true, 41, 300⟩),
      (.m, 0x2, .mswap ⟨0, 0, 0, 0, 0, 0, false, 0, 0⟩),
      (.m, 0x7FEA887FC066B503, .mstr ⟨5, 11, 38, 257, 255, 4, true, 42, 511⟩),
      (.m, 0x438000324B000604, .mstrv ⟨6, 0, 0, 300, 100, 0, false, 0, 270⟩),
      (.m, 0x644B400705, .mzero ⟨7, 0, 0, 301, 200, 0, false, 0, 0⟩),
      (.m, 0x412B0664CBA7C306, .mldz ⟨3, 12, 39, 302, 201, 3, false, 43, 260⟩),
      (.m, 0x416C04654BE8D407, .mout ⟨4, 13, 40, 303, 202, 2, false, 44, 261⟩),
      (.m, 0x57800000CC000508, .moutv ⟨5, 0, 0, 304, 1, 0, false, 0, 350⟩),
      (.m, 0x265CC400609, .mchk ⟨6, 0, 0, 305, 203, 1, false, 0, 0⟩),
      (.m, 0x34000000000000A, .mshape ⟨0, 0, 0, 0, 0, 0, false, 0, 13⟩)] : List (SlotKind × Nat × Instr)).all readsAs = true := by
  decide +kernel

theorem test_decode_engine_0 :
    ([(.e, 0xFA8E7DB4400, .nopE ⟨⟨1, false⟩, true, 182, 207, true, 168, 15⟩),
      (.e, 0x2D8A19CDB80003010, .cplvl 9 33 34 45 ⟨⟨4, true⟩, false, 0, 0, true, 219, 12⟩),
      (.e, 0x23D00000002411, .cpsrc 13 35 ⟨⟨1, true⟩, false, 0, 0, false, 0, 0⟩),
      (.e, 0x24E000555CE812, .cpdst 14 36 ⟨⟨2, true⟩, true, 185, 170, false, 0, 0⟩),
      (.e, 0x191A2E7E6A6A00000001013, .cpgo ⟨2, 10, 9, 13, 2, true, true, 39, 11, 40, true, 200⟩ ⟨⟨4, false⟩, false, 0, 0, false, 0, 0⟩),
      (.e, 0xBD552C00000003814, .cpfill 12 41 42 30 2 ⟨⟨6, true⟩, false, 0, 0, false, 0, 0⟩),
      (.e, 0xB2B00000002415, .cppub 43 44 ⟨⟨1, true⟩, false, 0, 0, false, 0, 0⟩),
      (.e, 0xAFFDE4F7016, .cpabort ⟨⟨4, true⟩, true, 158, 188, true, 255, 10⟩),
      (.e, 0x1AEAB7F5D55817, .cpqry 46 6 ⟨⟨6, false⟩, true, 170, 235, true, 183, 10⟩),
      (.e, 0x8032B79033C80000726E5820, .amo ⟨0, 50, 51, 0, 9, 7, true, 5, 2, 4, 1025⟩ ⟨⟨6, false⟩, true, 220, 228, false, 0, 0⟩),
      (.e, 0x804FC9ADB5D31FCC80001821, .amor ⟨49, 52, 53, 54, 10, 9, false, 6, 3, 3, 1026⟩ ⟨⟨6, false⟩, false, 0, 0, true, 204, 15⟩),
      (.e, 0xFFE9F0B038DF00004AE14422, .amof ⟨48, 55, 56, 0, 11, 0, true, 7, 1, 2, 2047⟩ ⟨⟨1, false⟩, true, 194, 149, false, 0, 0⟩),
      (.e, 0xCDBBDD50DC23, .drain 4 true ⟨⟨7, false⟩, true, 161, 186, true, 187, 13⟩),
      (.e, 0xAD780002430, .semsig ⟨⟨1, true⟩, false, 0, 0, true, 215, 10⟩)] : List (SlotKind × Nat × Instr)).all readsAs = true := by
  decide +kernel

theorem test_decode_engine_1 :
    ([(.e, 0x79C8C35000000002431, .semwait 200 50000 60 true ⟨⟨1, true⟩, false, 0, 0, false, 0, 0⟩),
      (.e, 0x37D73DF98B80000432, .barinit 0x1DF 57 250 2 true ⟨⟨1, false⟩, false, 0, 0, true, 139, 9⟩),
      (.e, 0x15500063F27833, .bararr 0x155 ⟨⟨6, true⟩, true, 228, 199, false, 0, 0⟩),
      (.e, 0x1AA000445F6034, .barwait 0x1AA ⟨⟨0, true⟩, true, 190, 136, false, 0, 0⟩),
      (.e, 0x752300062616035, .barexp 0x123 58 ⟨⟨0, true⟩, true, 194, 196, false, 0, 0⟩),
      (.e, 0x776600000003C36, .barqry 0x166 59 ⟨⟨7, true⟩, false, 0, 0, false, 0, 0⟩),
      (.e, 0xFDBEE9BF80001C40, .spawn 6 13 62 61 true ⟨⟨7, false⟩, false, 0, 0, true, 191, 9⟩),
      (.e, 0x9BDDEE1C041, .next ⟨⟨0, false⟩, true, 195, 189, true, 189, 9⟩),
      (.e, 0xCAC900000002042, .yield 201 202 ⟨⟨0, true⟩, false, 0, 0, false, 0, 0⟩),
      (.e, 0x5F4D8FE80000048, .csend 333 47 ⟨⟨0, false⟩, false, 0, 0, true, 254, 8⟩),
      (.e, 0x614E00000000C49, .crecv 334 48 ⟨⟨3, false⟩, false, 0, 0, false, 0, 0⟩),
      (.e, 0x31F0000000004A, .ctab 15 49 ⟨⟨0, false⟩, false, 0, 0, false, 0, 0⟩),
      (.e, 0x1F200000000C50, .sigrd 50 3 true ⟨⟨3, false⟩, false, 0, 0, false, 0, 0⟩),
      (.e, 0xD338A7D252EC51, .sigfold 51 52 ⟨⟨3, true⟩, true, 165, 164, true, 167, 8⟩)] : List (SlotKind × Nat × Instr)).all readsAs = true := by
  decide +kernel

theorem test_decode_engine_2 :
    ([(.e, 0x200000000852, .sigclr 2 ⟨⟨2, false⟩, false, 0, 0, false, 0, 0⟩),
      (.e, 0x296CB00A7F23400000003453, .zinject ⟨0, 13, 200, 31, 5, 300, 301, 2⟩ ⟨⟨5, true⟩, false, 0, 0, false, 0, 0⟩),
      (.e, 0xABCD00000003460, .trap 0xABCD ⟨⟨5, true⟩, false, 0, 0, false, 0, 0⟩),
      (.e, 0x100000003061, .eret true ⟨⟨4, true⟩, false, 0, 0, false, 0, 0⟩),
      (.e, 0xDA175900000003862, .ctxsave 9 53 0x85 54 ⟨⟨6, true⟩, false, 0, 0, false, 0, 0⟩),
      (.e, 0x12B7A00000001063, .ctxload 10 55 0x4A 0 ⟨⟨4, false⟩, false, 0, 0, false, 0, 0⟩),
      (.e, 0x987600000003464, .halt 0x9876 ⟨⟨5, true⟩, false, 0, 0, false, 0, 0⟩),
      (.e, 0x7100000001465, .wdog true 56 ⟨⟨5, false⟩, false, 0, 0, false, 0, 0⟩),
      (.e, 0xE700000001466, .hoist 0xE7 ⟨⟨5, false⟩, false, 0, 0, false, 0, 0⟩)] : List (SlotKind × Nat × Instr)).all readsAs = true := by
  decide +kernel

theorem test_decode_stream_0 :
    ([(.sop, 0x0, .snop),
      (.sop, 0x123456789ABCDEF00000000000000001, .sjmp 0x123456789ABCDEF0),
      (.sop, 0xFEDCBA98765432100000000060A90002, .sbr 6 9 10 0xFEDCBA9876543210),
      (.sop, 0x12300000000000000003, .scall 0x1230),
      (.sop, 0x104, .sret true),
      (.sop, 0x4, .sret false),
      (.sop, 0x456000000000000B0005, .sloop 11 0x4560),
      (.sop, 0x6, .sendl),
      (.sop, 0x89ABCDEF00000007, .shalt 0x89ABCDEF),
      (.sop, 0x8123456789ABCDEF00000000000C0010, .sli 12 0x8123456789ABCDEF),
      (.sop, 0xBA90011, .sadd 9 10 11),
      (.sop, 0xFFFFFFF000A90012, .saddi 9 10 0xFFFFFFF0),
      (.sop, 0xEDC0013, .smul 12 13 14),
      (.sop, 0xFFFFFFC100890014, .sshl 9 8 0xFFFFFFC1)] : List (SlotKind × Nat × Instr)).all readsAs = true := by
  decide +kernel

theorem test_decode_stream_1 :
    ([(.sop, 0xDEF0015, .sand 15 14 13),
      (.sop, 0x9A0016, .smov 10 9),
      (.sop, 0x800000000000001000000ABC00A91620, .sld ⟨2, true, false, true, 9, 10, 0xABC, 0x8000000000000010⟩),
      (.sop, 0x100000000000A90B20, .sld ⟨3, false, true, false, 9, 10, 0, 0x10⟩),
      (.sop, 0x20000009AB00CB0121, .sst ⟨1, false, false, false, 11, 12, 0x9AB, 0x20⟩),
      (.sop, 0x300000089A0BA90022, .park 9 10 11 0x89A 0x30),
      (.sop, 0x1000000001D0ABC00A92D30, .bind 45 9 10 0xABC 29 0x1000000),
      (.sop, 0x6E31, .unbind 46 true),
      (.sop, 0x8765432C09ABCDEF00000000037E1640, .task ⟨2, 5, 6, 7, 5, true, 0x9ABCDEF, 0x8765432C0⟩),
      (.sop, 0x800000000000100089ABCDEF0126AD41, .opd ⟨45, 2, 6, false, 0x89ABCDEF012, 0x8000000000001000⟩),
      (.sop, 0x8000000190000010000089ABCDEDC041, .opd ⟨0, 3, 5, true, 0x89ABCDE, 0x8000000190000010⟩),
      (.sop, 0x290D0000BA42, .copy ⟨10, 3, 2, 13, 9, true⟩),
      (.sop, 0xFEDCBA9876812345678989ABCDEF0943, .cdim ⟨9, 0x89ABCDEF, 0x8123456789, 0xFEDCBA9876⟩),
      (.sop, 0x150, .sfence true)] : List (SlotKind × Nat × Instr)).all readsAs = true := by
  decide +kernel

theorem test_decode_stream_2 :
    ([(.sop, 0xCAFEBABE00092D51, .notify 45 9 0xCAFEBABE),
      (.sop, 0xDEADBEEF00000052, .ckpt 0xDEADBEEF),
      (.sop, 0x800000000000000800000ABC00000053, .svar 0xABC 0x8000000000000008),
      (.sop, 0x500000954, .prio 9 5),
      (.sop, 0x80000000000000100000000000000055, .faultv 0x8000000000000010),
      (.sop, 0x9AB1000010000000A56, .quota 10 256 4096 0x9AB)] : List (SlotKind × Nat × Instr)).all readsAs = true := by
  decide +kernel

/-! ### Words that no encoding allows, and the cause each is refused for (03 R49, R50) -/

def refusedFor (r : SlotKind × Nat × (TrapCode ⊕ Reason)) : Bool := decodeSlot r.1 r.2.1 == .bad r.2.2

theorem test_ill_formed_scalar_0 :
    ([(.s, 0x43081001, .inl .illenc),
      (.s, 0x108101D, .inl .illenc),
      (.s, 0x8023, .inl .illenc),
      (.s, 0x200023, .inl .illenc),
      (.s, 0x1000, .inl .illenc),
      (.s, 0x102E, .inl .illenc),
      (.s, 0x4002F, .inl .illenc),
      (.s, 0x1030, .inl .illenc),
      (.s, 0x2000031, .inl .illenc),
      (.s, 0x40040028, .inl .illenc),
      (.s, 0x140028, .inl .illopnd),
      (.s, 0x5000029, .inl .illopnd),
      (.s, 0x10033, .inl .illenc),
      (.s, 0x400034, .inl .illenc),
      (.s, 0x3F000034, .inl .illopnd),
      (.s, 0x5000036, .inl .illopnd),
      (.s, 0x8000036, .inl .illenc),
      (.s, 0x1000037, .inl .illenc)] : List (SlotKind × Nat × (TrapCode ⊕ Reason))).all refusedFor = true := by
  decide +kernel

theorem test_ill_formed_scalar_1 :
    ([(.s, 0x32, .inl .illop),
      (.s, 0x38, .inl .illop),
      (.s, 0xDF, .inl .illop),
      (.s, 0xE0, .inl .emul),
      (.s, 0xFF, .inl .emul),
      (.x, 0x2A, .inl .illop),
      (.x, 0x2B, .inl .illop),
      (.x, 0x2C, .inl .illop),
      (.x, 0x2D, .inl .illop),
      (.x, 0x30, .inl .illop),
      (.x, 0x31, .inl .illop)] : List (SlotKind × Nat × (TrapCode ⊕ Reason))).all refusedFor = true := by
  decide +kernel

theorem test_ill_formed_memory_0 :
    ([(.l, 0x600001100802, .inl .illenc),
      (.w, 0x600001100802, .inl .illenc),
      (.l, 0x11C0002, .inl .illopnd),
      (.w, 0x11C0003, .inl .illopnd),
      (.l, 0x6001100804, .inl .illopnd),
      (.l, 0x8001100804, .inl .illenc),
      (.l, 0x1100A01, .inl .illenc),
      (.l, 0x1120001, .inl .illenc),
      (.l, 0x201100801, .inl .illenc),
      (.w, 0x101100801, .inl .illenc),
      (.l, 0x800001100802, .inl .illenc),
      (.w, 0x5, .inl .illop),
      (.l, 0x6, .inl .illop),
      (.l, 0x2F, .inl .illop),
      (.w, 0x30, .inl .emul),
      (.l, 0x3F, .inl .emul)] : List (SlotKind × Nat × (TrapCode ⊕ Reason))).all refusedFor = true := by
  decide +kernel

theorem test_ill_formed_vector_0 :
    ([(.v, 0x12000000000001, .inl .illopnd),
      (.v, 0x4000000000001, .inl .illopnd),
      (.v, 0x2000000000008, .inl .illenc),
      (.v, 0x20000000000001, .inl .illenc),
      (.v, 0x80000000000001, .inl .illenc),
      (.v, 0x400000000000001, .inl .illenc),
      (.v, 0x10000000001, .inl .illenc),
      (.v, 0x300001, .inl .illopnd),
      (.v, 0x60000001, .inl .illopnd),
      (.v, 0xC000000001, .inl .illopnd),
      (.v, 0x1800000000007, .inl .illopnd),
      (.v, 0x200000000002030, .inl .illenc),
      (.v, 0x66030, .inl .illopnd),
      (.v, 0x10000034, .inl .illenc),
      (.v, 0x4000000035, .inl .illopnd),
      (.v, 0x2F8041, .inl .illopnd),
      (.v, 0x4000000000000042, .inl .illenc),
      (.v, 0x20060, .inl .illenc)] : List (SlotKind × Nat × (TrapCode ⊕ Reason))).all refusedFor = true := by
  decide +kernel

theorem test_ill_formed_vector_1 :
    ([(.v, 0x4080000064, .inl .illopnd),
      (.v, 0x2FE070, .inl .illopnd),
      (.v, 0x1800000000000071, .inl .illenc),
      (.y, 0x400000000002C, .inl .illop),
      (.y, 0x70, .inl .illop),
      (.y, 0x71, .inl .illop),
      (.v, 0x16, .inl .illop),
      (.v, 0x72, .inl .illop),
      (.v, 0xE0, .inl .emul)] : List (SlotKind × Nat × (TrapCode ⊕ Reason))).all refusedFor = true := by
  decide +kernel

theorem test_ill_formed_matrix_0 :
    ([(.m, 0x40000080000101, .inl .illenc),
      (.m, 0x40000080400001, .inl .illopnd),
      (.m, 0x40010080000003, .inl .illopnd),
      (.m, 0x400038E4000003, .inl .illopnd),
      (.m, 0x8040000080000003, .inl .illopnd),
      (.m, 0x40000000000002, .inl .illenc),
      (.m, 0x40800080000006, .inl .illenc),
      (.m, 0x4740003200000004, .inl .illopnd),
      (.m, 0x7F000080000007, .inl .illopnd),
      (.m, 0x40000100000008, .inl .illopnd),
      (.m, 0x5F40000080000008, .inl .illopnd),
      (.m, 0x40000000000000A, .inl .illenc),
      (.m, 0x40000080000801, .inl .illenc),
      (.m, 0xB, .inl .illop),
      (.m, 0xDF, .inl .illop),
      (.m, 0xE0, .inl .emul)] : List (SlotKind × Nat × (TrapCode ⊕ Reason))).all refusedFor = true := by
  decide +kernel

theorem test_ill_formed_engine_0 :
    ([(.e, 0x8000, .inl .illenc),
      (.e, 0x800000, .inl .illenc),
      (.e, 0x100000000, .inl .illenc),
      (.e, 0x10000000000, .inl .illenc),
      (.e, 0x100000000000, .inl .illenc),
      (.e, 0xA00000000010, .inl .illopnd),
      (.e, 0x40000000000000010, .inl .illenc),
      (.e, 0x40000000000011, .inl .illenc),
      (.e, 0x13, .inl .illopnd),
      (.e, 0x2C00000000013, .inl .illopnd),
      (.e, 0x3000400000000013, .inl .illenc),
      (.e, 0x10000400000000013, .inl .illenc),
      (.e, 0x400000400000000013, .inl .illenc),
      (.e, 0x200000000400000000013, .inl .illenc),
      (.e, 0x1C100000000400000000013, .inl .illopnd),
      (.e, 0xC0000000000000014, .inl .illenc),
      (.e, 0x1000000000014, .inl .illenc),
      (.e, 0x10400000000015, .inl .illopnd)] : List (SlotKind × Nat × (TrapCode ⊕ Reason))).all refusedFor = true := by
  decide +kernel

theorem test_ill_formed_engine_1 :
    ([(.e, 0x100000000016, .inl .illenc),
      (.e, 0x20000000000017, .inl .illenc),
      (.e, 0x100000000020, .inl .illenc),
      (.e, 0x100000000000000000020, .inl .illenc),
      (.e, 0x8000000000000000020, .inl .illenc),
      (.e, 0xA000000000000000021, .inl .illenc),
      (.e, 0x4000000000000021, .inl .illenc),
      (.e, 0x400000000000000000021, .inl .illenc),
      (.e, 0x1500000000000000000021, .inl .illopnd),
      (.e, 0x1000000000000000022, .inl .illenc),
      (.e, 0x500000000023, .inl .illopnd),
      (.e, 0x1000000000023, .inl .illenc),
      (.e, 0x30, .inl .illenc),
      (.e, 0x4031, .inl .illenc),
      (.e, 0x180010000000000032, .inl .illopnd),
      (.e, 0x32, .inl .illopnd),
      (.e, 0x1E000000000033, .inl .illopnd),
      (.e, 0x100000000033, .inl .illopnd)] : List (SlotKind × Nat × (TrapCode ⊕ Reason))).all refusedFor = true := by
  decide +kernel

theorem test_ill_formed_engine_2 :
    ([(.e, 0x35, .inl .illopnd),
      (.e, 0x4042, .inl .illenc),
      (.e, 0x18000000000048, .inl .illopnd),
      (.e, 0x18000000000049, .inl .illopnd),
      (.e, 0x20000000000050, .inl .illenc),
      (.e, 0x300000000053, .inl .illenc),
      (.e, 0x100000000000000053, .inl .illenc),
      (.e, 0x8000000000000053, .inl .illopnd),
      (.e, 0x3000000100000000053, .inl .illopnd),
      (.e, 0x2000000000000062, .inl .illopnd),
      (.e, 0x4000000000000062, .inl .illopnd),
      (.e, 0x200000000065, .inl .illenc),
      (.e, 0x1, .inl .illop),
      (.e, 0x37F, .inl .illop),
      (.e, 0x380, .inl .emul),
      (.e, 0x3FF, .inl .emul)] : List (SlotKind × Nat × (TrapCode ⊕ Reason))).all refusedFor = true := by
  decide +kernel

theorem test_ill_formed_stream_0 :
    ([(.sop, 0x10000, .inr .illegal),
      (.sop, 0x10000001, .inr .illegal),
      (.sop, 0x90000002, .inr .illegal),
      (.sop, 0x70100002, .inr .illegal),
      (.sop, 0x204, .inr .illegal),
      (.sop, 0x4000000014, .inr .illegal),
      (.sop, 0x100000820, .inr .illegal),
      (.sop, 0x100000000020, .inr .illegal),
      (.sop, 0x421, .inr .illegal),
      (.sop, 0x821, .inr .illegal),
      (.sop, 0x1021, .inr .illegal),
      (.sop, 0x122, .inr .illegal),
      (.sop, 0xF000000000030, .inr .illegal),
      (.sop, 0x10000000004030, .inr .illegal),
      (.sop, 0x8031, .inr .illegal),
      (.sop, 0x340, .inr .illegal),
      (.sop, 0x1840, .inr .illegal),
      (.sop, 0x70040, .inr .illegal)] : List (SlotKind × Nat × (TrapCode ⊕ Reason))).all refusedFor = true := by
  decide +kernel

theorem test_ill_formed_stream_1 :
    ([(.sop, 0x4000040, .inr .illegal),
      (.sop, 0x2000000000000000000000040, .inr .illegal),
      (.sop, 0x40000000000000053, .inr .illegal),
      (.sop, 0x800000054, .inr .illegal),
      (.sop, 0x56, .inr .illegal),
      (.sop, 0x10100000056, .inr .illegal),
      (.sop, 0x1001000100000056, .inr .illegal),
      (.sop, 0x8, .inr .illegal),
      (.sop, 0xDF, .inr .illegal),
      (.sop, 0xE0, .inr .extension)] : List (SlotKind × Nat × (TrapCode ⊕ Reason))).all refusedFor = true := by
  decide +kernel

/-! ### Helpers -/

/-- One core at the turn of its slot, running this strand. -/
def lab (st : Strand) : State :=
  { State.reset with
    turn := .core 0 8,
    cores := [(0, { Core.idle with mode := .running, st := st })],
    objs := [(5, ⟨false, 1, 0, 0, kObject, 0x200000, 0, [⟨1, 0x200000, 0, 0⟩]⟩), (6, ⟨false, 1, 0, 0, kPane, 0x200000, 0, [⟨0x101, 0, 0, 0⟩]⟩)] }

theorem lab_issues (st : Strand) : (lab st).Issues 0 := ⟨⟨8, rfl⟩, rfl⟩

/-- A strand in the first slot of a bundle at 64, 13 bytes long: c1 the scratchpad, c2 an object in the HBM, c3 its chip's pane. -/
def basic : Strand :=
  { Strand.zero with
    fl := { Flow.zero with bundle := some (64, 13, [0]) },
    sc := { ScalarRegs.zero with c := [(1, mkCap 0 0xFF kScratch 0 0x1800000), (2, mkCap 5 0xFF kObject 0 0x200000),
      (3, mkCap 6 0xFF kPane 0 0x200000)] },
    kn := { Kernel.zero with banks := BitVec.allOnes 64, tiles := 0xFF, bands := 15, cycles := 1000 } }

/-- The same strand with these scalar registers. -/
def withS (l : SMap W64) : Strand := { basic with sc := { basic.sc with s := l } }
/-- At supervisor level. -/
def super : Strand := { basic with id := { basic.id with priv := 1 } }
/-- Core 0 changed. -/
def onCore0 (s : State) (f : Core → Core) : State := s.modCore 0 f

def yes : Guard := ⟨0, false⟩
def no : Guard := ⟨0, true⟩
def pyes : PGuard := ⟨0, false⟩
def eyes : ESync := ⟨yes, false, 0, 0, false, 0, 0⟩
def eno : ESync := ⟨no, false, 0, 0, true, 3, 1⟩
def plain : MemQ := ⟨0, 0⟩

/-! ### Witnesses: every statement's hypotheses hold together, clause by clause -/

theorem witness_step_runs_slot : (lab basic).turn = .core 0 8 ∧ ((lab basic).strand 0).fl.bundle = some (64, 13, 0 :: []) ∧
    decodeSlot (slotKind 0) ((lab basic).slotWord 0 64 0) = .ok (.nop yes) := by decide +kernel

/-- A context that decodes from object 5, with the turn of the Prism's first word. -/
def cbasic (c : Context) : State :=
  { lab basic with turn := .prism 40, ctxs := [(0, c)] }
def ctx0 : Context :=
  { Context.none with
    created := true, run := 1, sobj := 5,
    caps := [(1, mkCap 5 0xFF kObject 0 0x200000), (2, mkCap 7 0xFF kHost 0 0x200000)] }

theorem witness_step_runs_word : (cbasic ctx0).turn = .prism (40 + 4 * 0 + 0) ∧
    (cbasic ctx0).decoder 0 = 0 ∧ ctx0.decodes = true ∧ (cbasic ctx0).halted 0 = false ∧
    ctx0.fetchAt + 16 ≤ (cbasic ctx0).streamSize 0 ∧ (cbasic ctx0).place 5 0 = .at 0x200000 ∧
    decodeStream ((cbasic ctx0).objLE 5 ctx0.fetchAt 16) = .ok .snop ∧ (cbasic ctx0).stall 0 .snop = .go ∧
    (cbasic ctx0).badEntries = [] ∧
    ((cbasic ctx0).readVia ((cbasic ctx0).hubPort 5 ctx0.fetchAt) 5 ctx0.fetchAt 16).2 = false := by decide +kernel

/-- The state an instruction answers, where it answers one. -/
def answer (i : Instr) (s : State) : Option State :=
  match exec i s with
  | .next t => some t
  | _ => none

theorem answers_of {i : Instr} {s t : State} (h : answer i s = some t) : Answers i s t := by
  unfold answer at h
  unfold Answers
  split at h
  · next e => injection h with h; subst h; exact e
  · cases h

theorem witness_memory : State.reset.Canonical ∧ ∃ t, step State.reset = .next t := ⟨by decide, _, rfl⟩

theorem lab_live (st : Strand) : (lab st).Live := by
  constructor
  · intro p h; cases h
  · intro k h
    have e : (Turn.core 0 8) = .core k 8 := h
    injection e with e; subst e; rfl

theorem witness_live : (lab basic).Live ∧ ∃ t, step (lab basic) = .next t := ⟨lab_live _, _, rfl⟩

theorem witness_slots_queue : encode (.add 1 2 3 yes) = some (.s, 0x03081001) ∧ answer (.add 1 2 3 yes) (lab basic) = some
      ((lab basic).modStrand 0 fun st => st.pushS 1 0 1 false) ∧ ((lab basic).strand 0).fl.bundle ≠ none ∧
    (((lab basic).modStrand 0 fun st => st.pushS 1 0 1 false).strand 0).fl.bundle = ((lab basic).strand 0).fl.bundle := by
  decide +kernel

theorem witness_engines_queue : encode (.semsig eno) = some (.e, 0x10380002030) ∧
    (Instr.semsig eno).actsAtOnce = false ∧ answer (.semsig eno) (lab basic) = some
      ((lab basic).modStrand 0 fun st => st.signal (engineSignal eno)) ∧
    (((lab basic).modStrand 0 fun st => st.signal (engineSignal eno)).strand 0).fl.bundle =
      ((lab basic).strand 0).fl.bundle := by
  decide +kernel

theorem witness_round_trips : wellFormed (.add 1 2 3 yes) = true ∧ encode (.add 1 2 3 yes) = some (.s, 0x03081001) ∧
    wellFormed (.semsig eno) = true ∧ encode (.semsig eno) = some (.e, 0x10380002030) ∧
    wellFormed .snop = true ∧ encode .snop = some (.sop, 0) ∧ decodeSlot .s 0x03081001 = .ok (.add 1 2 3 yes) := by
  decide +kernel

theorem witness_scalar : (lab basic).Issues 0 ∧ ((lab basic).strand 0).guard yes = true ∧ ((lab basic).strand 0).guard no = false :=
  ⟨lab_issues _, by decide⟩

theorem witness_false_guards :
    ((lab basic).strand 0).bundleLen ≤ (13 : BitVec 14).toNat ∧ ((lab basic).strand 0).sc.loops.length < 4 ∧
    ((lab { basic with id := { basic.id with pers := true } }).strand 0).id.pers = true ∧
    (((lab (withS [(2, 4095)])).strand 0).s 2 + (0 : BitVec 8).signExtend 64).toNat < 4096 ∧
    (((lab (withS [(2, 0x1000000), (3, 0x800000)])).strand 0).s 2).toNat +
      (((lab (withS [(2, 0x1000000), (3, 0x800000)])).strand 0).s (2 + 1)).toNat ≤
      capLen (((lab (withS [])).strand 0).c 1) ∧
    ((lab basic).strand 0).checkPriv (readLevel 0) 0x28 = none ∧ ((lab super).strand 0).checkPriv (readLevel 0x090) 0x28 = none ∧
    ((lab basic).strand 0).checkMtsr 0x020 0 = none ∧ 1 ≤ ((lab super).strand 0).id.priv.toNat := by decide +kernel

theorem witness_loop : ((lab (withS [(2, 5)])).strand 0).s 2 ≠ 0 ∧ ((lab basic).strand 0).s 2 = 0 ∧
    ((lab basic).strand 0).bundleLen ≤ 16383 ∧ ((lab { basic with sc := { basic.sc with loops := [⟨0, 0, 1⟩, ⟨0, 0, 1⟩, ⟨0, 0, 1⟩] } }).strand 0).sc.loops.length < 4 := by
  decide +kernel

/-- A kernel whose code object holds a SWPT table: word 0 of table 1 is 0x40, its other words are 0. -/
def swptLab : State :=
  { lab { basic with kn := { basic.kn with code := mkCap 5 0xFF kObject 0 0x200000, hdr := 0, variant := 0x100 } } with
    mem := Memory.write [] (hbmKey 0 (0x200000 + 0x120)) 0x40 }

theorem witness_swpt : swptLab.objLE 5 0x120 4 = 0x40 ∧ swptLab.objLE 5 (0x120 + 4 * swptLab.grant 0) 4 = 0 ∧
    (swptLab.strand 0).kn.variant ≠ 0 ∧ ∀ l, l ≤ swptLab.grant 0 →
      capBase (swptLab.strand 0).kn.code ≤ 0x120 + 4 * l ∧ 0x120 + 4 * l + 4 ≤ capBase (swptLab.strand 0).kn.code +
        capLen (swptLab.strand 0).kn.code := by decide +kernel

/-- Register writes kept for the end of the bundle. -/
def kept (l : List (Option Nat × W64)) : State := lab { basic with fl := { basic.fl with deferred := l } }

theorem witness_rot : ((kept [(none, BitVec.ofInt 64 (BitVec.toInt (0xFF : BitVec 8)))]).strand 0).fl.deferred
      = [(none, BitVec.ofInt 64 (BitVec.toInt (0xFF : BitVec 8)))] ∧
    ((kept [(none, BitVec.ofInt 64 (BitVec.toInt (0x80 : BitVec 8))), (none, BitVec.ofInt 64 (BitVec.toInt (0x7F : BitVec 8)))]).strand 0).fl.deferred
      = [(none, BitVec.ofInt 64 (BitVec.toInt (0x80 : BitVec 8))), (none, BitVec.ofInt 64 (BitVec.toInt (0x7F : BitVec 8)))] := by decide +kernel

theorem witness_capabilities : ((lab (withS [(2, 4095)])).strand 0).s 2 = 4095 ∧
    ((((lab (withS [(2, 4096)])).strand 0).s 2) + BitVec.ofInt 64 (BitVec.toInt (0xFF : BitVec 8))).toNat < 4096 ∧
    (((lab (withS [(2, 0x1000000), (3, 0x800000)])).strand 0).s 2).toNat + 0x800000 ≤ capLen (basic.c 1) := by decide +kernel

theorem witness_special : readLevel 0 ≤ ((lab basic).strand 0).id.priv.toNat ∧ ((lab basic).strand 0).checkMtsr 0x020 0 = none ∧
    ((kept [(some 0x020, 5)]).strand 0).fl.deferred = [(some (0x020 : BitVec 12).toNat, 5)] := by decide +kernel

def pending1 : Strand := { basic with pend := [⟨.s 7, 5, 0, 0, 0, true⟩] }
def exposed1 : Strand := { basic with exposed := [⟨.v 7, 1, 5, 0, 0, 0, 64, 0, 0, 0⟩] }
def released1 : Strand := { basic with tr := { basic.tr with released := [⟨.v 7, 1, 5, 0, 0, 0, 64, 0, 0, 0⟩] } }

/-- A long operation one step before the given count, its next step due. -/
def long (sort : Bool) (done : Nat) (stopping : Bool) : LongOp :=
  { sort := sort, typ := 0, rev := false, op := 0, sat := false, act := BitVec.allOnes 128, dst := 1, img0 := 5, img1 := 0,
    order := List.range 128, acc := 0, flags := fNone, resn := 0, flips := [], left := 5, age := 28, done := done, seq := 0, slot := 0,
    addr := 64, stopping := stopping, stopped := false }
def longLab (o : LongOp) : Strand := { basic with longs := [o] }

theorem witness_long_steps : ∀ o ∈ [long true 0 false, long false 3 false, long true 27 true, long false 2 true, long false 3 true],
    ((lab (longLab o)).strand 0).longs.find? LongOp.stepDue = some o ∧
    ((long false 2 true).done + 1 < (long false 2 true).steps ∧ (long true 27 true).sort = true ∧
      ¬((long false 3 true).done + 1 < (long false 3 true).steps ∨ (long false 3 true).sort = true)) := by decide +kernel

theorem witness_landings :
    (((lab pending1).strand 0).pend.find? (·.due == 0)).isSome = true ∧
    (((lab exposed1).strand 0).exposed.find? (·.due == 0)).isSome = true ∧
    (((lab released1).strand 0).tr.released.find? (·.due == 0)).isSome = true := by decide +kernel

/-- An exposed result due in a freeze waits; it lands in a cycle that advances, here a bubble (09 R212). -/
def dueIn (bubbles busy : Nat) : State :=
  { lab { exposed1 with fl := { exposed1.fl with bubbles := bubbles, busy := busy } } with turn := .core 0 7 }
theorem test_landing_waits_in_a_freeze :
    (match step (dueIn 0 3) with | .next t => (t.strand 0).exposed.length | _ => 9) = 1 ∧
    (match step (dueIn 1 0) with | .next t => (t.strand 0).exposed.length + ((t.strand 0).v 7).toNat | _ => 9) = 5 := by
  decide +kernel

/-- Offsets of the last access of the scratchpad and of an object. -/
def edge : State := lab (withS [(4, 0x17FFFF8), (5, 0x1FFFF8), (6, 0x17FFE00), (7, 0x1FFE00), (8, 4), (9, 0x1800000), (10, 64)])

theorem witness_lds : edge.Issues 0 ∧ (edge.strand 0).Room 1 ∧ (edge.strand 0).guard yes = true ∧
    (edge.strand 0).checkScalar 1 rRead ((edge.strand 0).scalarOff 4 0 3) 8 plain = none ∧
    (edge.strand 0).checkScalar 2 rRead ((edge.strand 0).scalarOff 5 0 3) 8 plain = none ∧
    (edge.strand 0).checkScalar 3 rRead ((edge.strand 0).scalarOff 5 0 3) 8 plain = none ∧
    edge.space 0 ((edge.strand 0).c 1) = .spad ∧ edge.space 0 ((edge.strand 0).c 2) = .remote ∧
    edge.space 0 ((edge.strand 0).c 3) = .pane := ⟨lab_issues _, by decide +kernel⟩

/-- c4 is a FRAME object in the chip's own pane. -/
def framed : State :=
  let s := lab { basic with sc := { basic.sc with c := (4, mkCap 9 0xFF kPane 0 0x200000) :: basic.sc.c } }
  { s with objs := s.objs ++ [(9, ⟨true, 1, 0, 0, kPane, 0x200000, 0, [⟨0x101, 0x200000, 0, 0⟩]⟩)] }

theorem witness_frame_object : framed.Issues 0 ∧ framed.space 0 ((framed.strand 0).c 4) = .pane ∧ framed.inFrame ((framed.strand 0).c 4) = true ∧
    (framed.strand 0).checkScalar 4 rRead ((framed.strand 0).scalarOff 0 0 3) 8 plain = none ∧
    framed.checkContig 0 4 rRead 0 plain = none ∧ framed.checkSingles 0 4 rRead 0 [0] plain = none ∧
    (framed.strand 0).checkScalar 4 rWrite ((framed.strand 0).scalarOff 0 0 3) 8 plain = none ∧
    (framed.strand 0).holds ((framed.strand 0).c 4) = false ∧ edge.inFrame ((edge.strand 0).c 3) = false :=
  ⟨⟨⟨8, rfl⟩, rfl⟩, by decide +kernel⟩

theorem witness_vector_loads : edge.Issues 0 ∧ (edge.strand 0).Room 1 ∧ (edge.strand 0).active pyes ≠ 0 ∧
    edge.checkContig 0 1 rRead (((edge.strand 0).s 6).toNat + BitVec.toInt (0 : BitVec 12) * 16) plain = none ∧
    edge.checkContig 0 3 rRead (((edge.strand 0).s 7).toNat + BitVec.toInt (0 : BitVec 12) * 16) plain = none ∧
    edge.checkSingles 0 1 rRead 0 [0] plain = none ∧
    edge.checkSingles 0 1 rRead 0x17FFE00 ((lanesOf ((edge.strand 0).active pyes)).map fun l => 0x17FFE00 + l * 4) plain = none ∧
    edge.checkSingles 0 3 rRead 0 ((lanesOf ((edge.strand 0).active pyes)).map fun _ => 0) plain = none ∧
    (edge.strand 0).active ⟨0, true⟩ = 0 ∧ edge.checkSingles 0 1 rRead 0 [] plain = none :=
  ⟨lab_issues _, by decide +kernel⟩

def heldStrand : Strand := { withS [] with id := { basic.id with cls := 1 } }

theorem witness_sts : edge.Issues 0 ∧ (edge.strand 0).guard yes = true ∧
    (edge.strand 0).checkScalar 1 rWrite ((edge.strand 0).scalarOff 4 0 3) 8 plain = none ∧
    capKind ((edge.strand 0).c 1) = kScratch ∧
    (edge.strand 0).checkScalar 3 rWrite ((edge.strand 0).scalarOff 5 0 3) 8 plain = none ∧
    capKind ((edge.strand 0).c 3) ≠ kScratch ∧ (edge.strand 0).holds ((edge.strand 0).c 3) = false ∧
    edge.space 0 ((edge.strand 0).c 3) = .pane ∧ edge.space 0 ((edge.strand 0).c 2) ≠ .pane ∧
    ((lab heldStrand).strand 0).checkScalar 3 rWrite 0 8 plain = none ∧ ((lab heldStrand).strand 0).holds (heldStrand.c 3) = true :=
  ⟨lab_issues _, by decide +kernel⟩

theorem witness_vector_stores : edge.Issues 0 ∧ (edge.strand 0).active pyes ≠ 0 ∧
    edge.checkContig 0 1 rWrite (((edge.strand 0).s 6).toNat + BitVec.toInt (0 : BitVec 12) * 16) plain = none ∧
    edge.checkContig 0 3 rWrite (((edge.strand 0).s 7).toNat + BitVec.toInt (0 : BitVec 12) * 16) plain = none ∧
    edge.checkSingles 0 1 rWrite 0x17FFE00 ((lanesOf ((edge.strand 0).active pyes)).map fun l => 0x17FFE00 + l * 4) plain = none ∧
    edge.checkSingles 0 3 rWrite 0 ((lanesOf ((edge.strand 0).active pyes)).map fun _ => 0) plain = none :=
  ⟨lab_issues _, by decide +kernel⟩

theorem witness_store_footprint : edge.Canonical ∧ edge.Issues 0 ∧ (edge.strand 0).guard yes = true ∧ (edge.core 0).now.wbuf = [] ∧
    capKind ((edge.strand 0).c 1) = kScratch ∧
    (edge.strand 0).checkScalar 1 rWrite ((edge.strand 0).scalarOff 4 0 3) 8 plain = none ∧
    (answer (.sts 4 1 4 0 3 yes plain) edge).isSome = true :=
  ⟨by decide +kernel, lab_issues _, by decide +kernel⟩

def atom (cap : BitVec 4) (off : BitVec 6) : AtomOp := ⟨1, off, 3, 0, cap, 0, true, 0, 0, 0, 0⟩

/-- A remote access of core 0's strand at a stage. -/
def far (kind : RKind) (stage : RStage) (held : Bool) : Remote :=
  { id := 7, owner := basic.owner, core := 0, num := 0, slot := 2, addr := 64, kind := kind, ckind := kObject, obj := 5, off := 0x1FFFF8,
    size := 8, data := 1, bytes := if kind = .store then [(0x1FFFF8, 1)] else [], comparand := 0, fn := 0,
    dst := if kind = .load ∨ kind = .amor then some (.s 3) else none, seq := 0, sx := false, cls := 0, rel := false, acq := false, scope := 0,
    stage := stage, held := held, issued := 0 }

/-- Core 0's strand with that access outstanding, ten cycles on. -/
def farLab (r : Remote) : State := { lab { basic with fl := { basic.fl with accesses := 1 } } with remotes := [r], gcyc := 10, nextId := 8 }

theorem witness_atomics : edge.Issues 0 ∧ (edge.strand 0).guard yes = true ∧ (edge.strand 0).guard no = false ∧
    edge.checkAtom 0 .amo (atom 1 4) = none ∧ edge.checkAtom 0 .amor (atom 1 4) = none ∧ edge.checkAtom 0 .amof (atom 1 4) = none ∧
    edge.checkAtom 0 .amor (atom 2 5) = none ∧ capKind ((edge.strand 0).c 1) = kScratch ∧
    atomReturns .amor (atom 1 4) = true ∧ atomReturns .amo (atom 1 4) = false ∧ edge.Canonical ∧ edge.cycleW = [] ∧
    (edge.core 0).now.wbuf = [] ∧ (atom 1 4).order = 0 := ⟨lab_issues _, by decide +kernel⟩

theorem witness_drain : eyes.waitEn = false ∧ edge.drained (edge.strand 0).owner (edge.strand 0).fl.accesses 0 = true ∧
    (farLab (far .load .port false)).drained basic.owner 1 0 = false := by decide +kernel

theorem witness_remote_send : ((farLab (far .load .queued false)).remote 7).isSome = true ∧
    (farLab (far .load .queued false)).sendable (far .load .queued false) = true ∧
    (farLab (far .store .queued true)).sendable (far .store .queued true) = true := by decide +kernel

/-- Core 0's strand with the access outstanding: object 5 is gone, its extent is absent, or its table entry cannot be read. -/
def farGone (r : Remote) : State := { farLab r with objs := [] }
def farAbsent (r : Remote) : State := { farLab r with objs := [(5, ⟨false, 1, 0, 0, kObject, 0x200000, 0, [⟨0, 0x200000, 0, 0⟩]⟩)] }
def farBad (r : Remote) : State := { farLab r with badEntries := [(5, some 0)] }

theorem witness_remote_walk : let r := far .load .port false
    (farLab r).walkable r = true ∧ ((farLab r).walkAll ((farLab r).remotePort r) ((farLab r).remoteExtents r)).2 = .ok ∧
    (farGone r).walkable r = true ∧ ((farGone r).walkAll ((farGone r).remotePort r) ((farGone r).remoteExtents r)).2 = .gone ∧
    (farAbsent r).walkable r = true ∧ ((farAbsent r).walkAll ((farAbsent r).remotePort r) ((farAbsent r).remoteExtents r)).2 = .absent 5 0 ∧
    (farBad r).walkable r = true ∧ ((farBad r).walkAll ((farBad r).remotePort r) ((farBad r).remoteExtents r)).2 = .error := by
  decide +kernel

/-- The extent already cached at its controller. -/
def warm (r : Remote) : State := ((farLab r).walkAll ((farLab r).remotePort r) ((farLab r).remoteExtents r)).1

theorem witness_remote_perform : ∀ r ∈ [far .load .port false, far .store .port false, far .amor .port false, far .amo .port false],
    (warm r).remote 7 = some r ∧ (warm r).performable r = true ∧ r.ckind ≠ kScratch ∧
      ((warm r).reachAll ((warm r).remotePort r) (r.kind != .load) false ((warm r).remoteExtents r)).2 = .ok ∧
      ((warm r).readHeld ((warm r).remotePort r) r.owner r.obj r.off r.size (some r.id)).2 = false ∧
      ((warm r).readVia ((warm r).remotePort r) r.obj r.off r.size).2 = false := by decide +kernel
/-- An access whose object is a FRAME object; one whose bytes cannot be read; one of the scratchpad. -/
theorem witness_remote_ends : let r := far .load .port false
    let a : State := { warm r with caches := (warm r).caches.map fun p => (p.1, p.2.map fun c => { c with frame := true }) }
    let b : State := { warm r with poison := [hbmKey 0 (0x200000 + 0x1FFFF8)] }
    let m : Remote := { far .amor .port false with ckind := kScratch, obj := 0 }
    a.remote 7 = some r ∧ a.performable r = true ∧ (a.reachAll (a.remotePort r) false false (a.remoteExtents r)).2 = .gone ∧
    b.performable r = true ∧ (b.readHeld (b.remotePort r) r.owner r.obj r.off r.size (some r.id)).2 = true ∧
    (farLab m).remote 7 = some m ∧ (farLab m).performable m = true ∧ m.ckind = kScratch := by decide +kernel

theorem witness_remote_return : (far .load (.performed 5) false).dst = some (.s 3) ∧
    ((farLab (far .load (.performed 5) false)).away basic.owner).isSome = false ∧ (far .store .stored false).stage = .stored := by
  decide +kernel

/-- The window entry of a strand's task. -/
def task (cls : BitVec 2) (state : EState) (runs : List TaskRun) : Entry :=
  { tid := 0, ctx := 0, kind := .task ⟨cls, 0, 0, 0, 0, false, 5, 0⟩ (mkCap 5 0xFF kObject 0 0x200000), state := state, sop := 0,
    before := FrontEnd.zero, after := { FrontEnd.zero with spc := 16 }, ops := [], prods := [], prio := 0, readySince := 0, rises := 0,
    att := 0, escaped := false, dep := false, headOnly := false, fills := 0, filledAt := 0, heading := false, runs := runs, fault := none, checks := [],
    unplaceable := false, claimed := false, stamp := 0, doneAt := 0, done := none, waitFrom := 0, timedOut := false, decoded := 0 }

/-- A held store at the Loupe, of a task of class cls and a run of the given role. -/
def loupe (cls : BitVec 2) (role : Nat) : State × Remote :=
  let r := { far .store .loupe true with owner := { basic.owner with role := role } }
  ({ farLab r with window := [task cls .run []], gcyc := 100 }, r)

theorem witness_loupe : (loupe 1 0).1.remote 7 = some (loupe 1 0).2 ∧ (loupe 1 0).1.acceptable (loupe 1 0).2 = true ∧
    (loupe 1 0).1.entry 0 = some (task 1 .run []) ∧ (task 1 .run []).bypasses = false := by decide +kernel

/-- The same with the head-only mode on: the writes go through, a twin's are dropped. -/
def through (cls : BitVec 2) (role : Nat) : State := { (loupe cls role).1 with window := [{ task cls .run [] with headOnly := true }] }

/-- The buffer holds an older and a younger write of the entry: the new one goes between them. -/
theorem witness_loupe_order : let s := { (loupe 1 0).1 with held := [{ (loupe 1 0).2.asHeld with order := 3 }, { (loupe 1 0).2.asHeld with order := 9 }] }
    s.acceptable (loupe 1 0).2 = true ∧ (insertHeld (loupe 1 0).2.asHeld s.held).map (·.order) = [3, 7, 9] := by decide +kernel

theorem witness_loupe_through : (through 2 1).acceptable (loupe 2 1).2 = true ∧ (through 1 0).acceptable (loupe 1 0).2 = true ∧
    (through 2 1).entry 0 = some { task 2 .run [] with headOnly := true } ∧
    ({ task 2 .run [] with headOnly := true } : Entry).bypasses = true ∧ ({ task 2 .run [] with headOnly := true } : Entry).cls = 2 ∧
    (loupe 2 1).2.owner.role ≠ 0 ∧ (loupe 1 0).2.owner.role = 0 := by decide +kernel

/-- Counts and strides at the ends of their ranges; descriptors; two banks to exchange. -/
def copyLab : State :=
  lab { withS [(1, 0xFFFFFFFF), (2, 0x7FFFFFFFFF), (3, 0xFFFFFF8000000000), (4, 0), (5, 1), (6, 0x17FFF00)] with
    cp := { basic.cp with srcCap := mkCap 5 0xFF kObject 0 0x200000, dstCap := mkCap 0 0xFF kScratch 0 0x1800000,
                          level := [(0, (64, 0, 0)), (1, (4, 64, 64))] } }

theorem witness_copy_commands : copyLab.Issues 0 ∧ (copyLab.strand 0).guard yes = true ∧
    ((copyLab.strand 0).s 1 ≠ 0 ∧ ((copyLab.strand 0).s 1).toNat < 2 ^ 32 ∧ -2 ^ 39 ≤ ((copyLab.strand 0).s 3).toInt ∧
      ((copyLab.strand 0).s 2).toInt < 2 ^ 39 ∧ ((copyLab.strand 0).s 4 = 0)) ∧
    copyLab.checkCpgo 0 ⟨0, 2, 0, 0, 0, false, false, 0, 0, 0, false, 0⟩
      (copyLab.command 0 ⟨0, 2, 0, 0, 0, false, false, 0, 0, 0, false, 0⟩ eyes) = none ∧
    (copyLab.strand 0).checkCap 1 [rWrite] [kScratch] = none ∧ (copyLab.strand 0).checkRaw ((copyLab.strand 0).c 1) 0x17FFF00 = none ∧
    checkBounds ((copyLab.strand 0).c 1) 0x17FFF00 256 = none ∧ checkAlign ((copyLab.strand 0).c 1) 0x17FFF00 256 16 = none ∧
    (0 : BitVec 6) ≠ 63 ∧ (copyLab.strand 0).kn.banks.getLsbD 0 = true ∧ (copyLab.strand 0).kn.banks.getLsbD 63 = true :=
  ⟨lab_issues _, by decide +kernel⟩

/-- A command in core 0's queue: two runs of 64 bytes from the HBM object into the scratchpad. -/
def cmd (started : Bool) (done : Nat) : CopyCmd :=
  { copyLab.command 0 ⟨0, 2, 0, 0, 0, false, false, 0, 0, 0, true, 9⟩ eyes with started := started, done := done }
def cmdLab (c : CopyCmd) : State := { onCore0 copyLab fun x => { x with cmds := [c] } with gcyc := 10 }
/-- How many bytes the next part of the command moves, where it is performed. -/
def partMoves (s : State) (c : CopyCmd) : Option Nat :=
  match (s.performPart (.core 0) c false).2 with
  | .performed n _ _ => some n
  | _ => none
/-- A run of two granules to the HBM: its first part, and its second with a stop waiting for its end. -/
def outCmd (part : Nat) (stop : Bool) : CopyCmd :=
  { cmd true 0 with src := (cmd true 0).dst, dst := (cmd true 0).src, levels := [(32, 0, 0)], runs := 1, part := part, stop := stop }

theorem witness_copy_engine : (cmdLab (cmd false 0)).startable 0 = [cmd false 0] ∧
    (∀ c ∈ [cmd true 0, outCmd 0 true, outCmd 16 true], (cmdLab c).oracle = [] ∧ (cmdLab c).runnable 0 = [c]) ∧
    partMoves (cmdLab (cmd true 0)) (cmd true 0) = some 64 ∧ (cmd true 0).stop = false ∧ (cmd true 0).dstBytes = 64 ∧
    partMoves (cmdLab (outCmd 0 true)) (outCmd 0 true) = some 16 ∧ (outCmd 0 true).part + 16 < (outCmd 0 true).dstBytes ∧
    partMoves (cmdLab (outCmd 16 true)) (outCmd 16 true) = some 16 ∧ (outCmd 16 true).dstBytes ≤ (outCmd 16 true).part + 16 ∧
    (({ cmdLab (cmd true 0) with objs := (farAbsent (far .load .port false)).objs } : State).performPart (.core 0) (cmd true 0) false).2 = .waits ∧
    (cmdLab (cmd true (cmd true 0).runs)).completable 0 = [cmd true (cmd true 0).runs] ∧
    (cmd true (cmd true 0).runs).o.cellEn = true ∧ ((cmdLab (cmd true 0)).away (cmd true 0).owner).isSome = false ∧
    (cmdLab (cmd true 0)).coreOf (cmd true 0).owner = some 0 := by decide +kernel

/-- A part stalls before an extent that a checkpoint holds, and asks a peer home for its bytes. -/
theorem witness_copy_engine_waits :
    let one (w : W64) : SMap Obj := [(5, ⟨false, 1, 0, 0, kObject, 0x200000, 0, [⟨w, 0x200000, 0, 0⟩]⟩)]
    let s (c : CopyCmd) (w : W64) : State := { cmdLab c with objs := one w }
    (s (outCmd 0 false) 9).runnable 0 = [outCmd 0 false] ∧ (s (cmd true 0) 0x301).runnable 0 = [cmd true 0] ∧
    ((s (outCmd 0 false) 9).performPart (.core 0) (outCmd 0 false) false).2 = .stalls ∧
    ((s (cmd true 0) 0x301).performPart (.core 0) (cmd true 0) false).2 = .asks := by decide +kernel

/-- CPABORT before a command that stands between runs, and before one within a run. -/
theorem witness_copy_abort : ((cmdLab (cmd true 1)).away (copyLab.strand 0).owner).isSome = false ∧
    (∀ c ∈ (cmdLab (cmd true 1)).commands (copyLab.strand 0).owner, c.part = 0 ∧ c.aborts = []) ∧
    ((cmdLab (outCmd 16 false)).commands (copyLab.strand 0).owner).map (·.part) = [16] := by decide +kernel

/-! Semaphores, barriers, spawning, circuits -/

def wait4 : ESync := ⟨yes, true, 4, 1, true, 5, 2⟩

theorem witness_semaphores : (lab basic).Issues 0 ∧ ((lab basic).strand 0).guard yes = true ∧
    (lab basic).unperformed ((lab basic).strand 0).owner ((lab basic).strand 0).fl.accesses = false ∧
    (farLab (far .load .port false)).unperformed basic.owner 1 = true ∧
    (3 : BitVec 8).toNat ≤ (({ basic with sy := { basic.sy with sem := [(4, 1), (6, 3)] } } : Strand).consumeWait wait4).semaphore 6 ∧
    (basic.consumeWait eyes).semaphore 6 < (1 : BitVec 8).toNat := ⟨lab_issues _, by decide +kernel⟩

/-- The increments of a cycle: below, at and beyond the last value. -/
def semLab (n : Nat) : State := lab { basic with sy := { basic.sy with sem := [(7, n)], semAdd := [(7, 16)] } }
theorem witness_semaphore_signal : ((semLab 65519).strand 0).sy.sigs = [] ∧ ((semLab 65519).strand 0).sy.semAdd = [(7, 16)] ∧
    ((semLab 65519).strand 0).semaphore 7 + 16 ≤ 65535 ∧ 65535 < ((semLab 65520).strand 0).semaphore 7 + 16 ∧
    (((semLab 65519).strand 0).sy.semAdd.map (·.1)).Nodup ∧ ∀ i, (8, i) ∉ ((semLab 65519).strand 0).sy.semAdd :=
  ⟨by decide +kernel, by decide +kernel, by decide +kernel, by decide +kernel, by decide +kernel,
    fun i h => absurd (congrArg Prod.fst (List.mem_singleton.mp h)) (by decide : ¬(8 : Nat) = 7)⟩

/-- A strand that has arrived at cell 3 and at the gang barrier. -/
def arrivedStrand : Strand :=
  { withS [(1, 1), (2, 64), (3, 0xFFFFFFFFFFFF)] with
    sy := { basic.sy with recs := [⟨0x103, false, 2, 5, true, none⟩, ⟨0, true, 2, 5, true, some 9⟩] } }

theorem witness_barriers : (lab arrivedStrand).Issues 0 ∧ ((lab arrivedStrand).strand 0).guard yes = true ∧
    1 ≤ (((lab arrivedStrand).strand 0).s 1).toNat ∧ (((lab arrivedStrand).strand 0).s 2).toNat ≤ 64 ∧
    (((lab arrivedStrand).strand 0).s 3).toNat < 2 ^ 48 ∧ (((lab arrivedStrand).strand 0).record 0x103).isSome = true ∧
    (((lab arrivedStrand).strand 0).record 0).isSome = true ∧ ((lab arrivedStrand).strand 0).record 0x104 = none ∧
    ((lab arrivedStrand).strand 0).sy.recs.length < 4 := ⟨lab_issues _, by decide +kernel⟩

/-- What has come to core 0 in this cycle. -/
def eventLab (what : Arrival) : State := { lab arrivedStrand with events := [⟨0, basic.owner, what, 0⟩] }

theorem witness_arrivals : ((eventLab (.release 0x103 false (some 7) 9)).away basic.owner).isSome = false ∧
    (eventLab (.release 0x103 false (some 7) 9)).dueEvent 0 Arrival.isRelease = some ⟨0, basic.owner, .release 0x103 false (some 7) 9, 0⟩ ∧
    (eventLab (.answer 3 true false (64, 0))).dueEvent 0 Arrival.isAnswer = some ⟨0, basic.owner, .answer 3 true false (64, 0), 0⟩ ∧
    (∀ free ∈ [false, true], (eventLab (.answer 3 false free (64, 0))).dueEvent 0 Arrival.isAnswer =
      some ⟨0, basic.owner, .answer 3 false free (64, 0), 0⟩) ∧
    (({ eventLab (.answer 3 false true (64, 0)) with cells := [(3, { Cell.free with own := some 0 })] } : State).cell 3).own = some basic.owner.ctx ∧
    (eventLab (.transfer 1 0 5)).dueEvent 0 Arrival.isTransfer = some ⟨0, basic.owner, .transfer 1 0 5, 0⟩ ∧
    (eventLab (.credit 1)).dueEvent 0 Arrival.isCredit = some ⟨0, basic.owner, .credit 1, 0⟩ := by decide +kernel

def arrival (n : Nat) : BarUpdate := ⟨some n, 0, basic.owner, .arrive 0, 0, 0, true, 0, (64, 0)⟩
/-- A cell that expects at_ arrivals, of which all but one have come. -/
def cellLab (n at_ : Nat) : State :=
  { lab { basic with sy := { basic.sy with recs := [⟨0x100 + n, false, 0, 0, false, none⟩] } } with
    updates := [arrival n], cells := [(n, { Cell.free with own := some 0, at_ := at_, a := at_ - 1 })] }

theorem witness_cell_arrival : ∀ n ∈ [0, 223], ∀ at_ ∈ [1, 2, 64], n < 224 ∧ (cellLab n at_).updates = [arrival n] ∧
    (cellLab n at_).arrived (arrival n) = true ∧ ((cellLab n at_).cell n).own = some (arrival n).owner.ctx ∧
    ((cellLab n at_).cell n).parked = false ∧ (cellLab n at_).recordHolders n ≠ [] ∧ false ∈ (cellLab n at_).recordHolders n ∧
    ((cellLab n at_).cell n).a < ((cellLab n at_).cell n).at_ ∧ ((cellLab n at_).away (arrival n).owner).isSome = false := by decide +kernel

/-- A strand that may spawn from an empty descriptor at offset 0 of the scratchpad, and one at its depth limit. -/
def spawnLab (limit : Nat) : State := lab { basic with node := { basic.node with limit := limit } }

theorem witness_spawn : (spawnLab 7).Issues 0 ∧ ((spawnLab 7).strand 0).guard yes = true ∧
    ((spawnLab 7).strand 0).checkCap 1 [rRead, rSpawn] [kScratch] = none ∧ checkBounds (basic.c 1) 0 128 = none ∧
    checkAlign (basic.c 1) 0 128 16 = none ∧
    ((spawnLab 7).strand 0).checkDesc (readDesc ((spawnLab 7).spadBytes 0 (capAddr (basic.c 1) 0) 128)) = none ∧
    (spawnLab 7).spawnStatus ((spawnLab 7).strand 0) [] false = 0 ∧ (spawnLab 0).spawnStatus ((spawnLab 0).strand 0) [] false ≠ 0 :=
  ⟨lab_issues _, by decide +kernel⟩

def persLab : State := { lab { basic with id := { basic.id with pers := true } } with window := [task 0 .run []] }

theorem witness_next : persLab.Issues 0 ∧ (persLab.strand 0).guard yes = true ∧ (persLab.strand 0).Room 8 ∧
    (persLab.strand 0).id.pers = true ∧ (persLab.strand 0).sy.staged = none ∧ (persLab.strand 0).leads = true ∧
    persLab.entry 0 = some (task 0 .run []) ∧
    (∀ x ∈ persLab.window, x.matchesTask (task 0 .run []) = false) := ⟨⟨⟨8, rfl⟩, rfl⟩, by decide +kernel⟩
/-- Behind the resident task's entry: one of another kernel, and one that it may take.  A strand with a task staged. -/
theorem witness_next_claims :
    let no : Entry := { task 1 .ready [] with tid := 1 }
    let go : Entry := { task 0 .ready [] with tid := 2 }
    let s : State := { persLab with window := [task 0 .run [], no] ++ go :: [] }
    s.entry (s.strand 0).id.tid.toNat = some (task 0 .run []) ∧
      (∀ y ∈ [task 0 .run [], no], (y.matchesTask (task 0 .run []) && s.unordered y) = false) ∧ go.matchesTask (task 0 .run []) = true ∧
      s.unordered go = true ∧
      ((lab { basic with sy := { basic.sy with staged := some (5, [7]) } }).strand 0).sy.staged = some (5, [7]) := by decide +kernel

/-- Slot 0 and slot 63 are bound to core 1, where a strand of the context runs; an offer waits; a vector from core 1 is in the inbox. -/
def circuitLab : State :=
  let st : Strand := { super with sy := { basic.sy with ctab := [(0, 0x81), (63, 0x81)], sends := [(1, 5, 0)], inbox := [(1, 9)] } }
  { lab st with
    gcyc := 512,
    cores := [(0, { Core.idle with mode := .running, st := st }), (1, { Core.idle with mode := .running, st := basic })] }

theorem witness_circuits : circuitLab.Issues 0 ∧ (circuitLab.strand 0).guard yes = true ∧ (1 : BitVec 6).toNat ≠ 0 ∧
    (∃ i < 64, bound ((circuitLab.strand 0).sy.table circuitLab.now) i = some 1) ∧ (circuitLab.strand 0).Room 1 ∧
    ((circuitLab.strand 0).sy.inbox.find? (·.1 == 1)).isSome = true ∧ 1 ≤ (circuitLab.strand 0).id.priv.toNat ∧
    (circuitLab.circuitOwner 1 (circuitLab.strand 0).id.ctx).isSome = true ∧
    (circuitLab.strand 0).checkCap 1 [rRead] [kScratch] = none ∧ checkBounds (basic.c 1) 0 64 = none ∧
    checkAlign (basic.c 1) 0 64 1 = none ∧
    (∀ b ∈ circuitLab.spadBytes 0 (capAddr (basic.c 1) 0) 64, b.getLsbD 6 = false ∧ ¬(b.getLsbD 7 = true ∧ b.toNat % 64 = 0)) :=
  ⟨⟨⟨8, rfl⟩, rfl⟩, by decide +kernel⟩

theorem witness_circuit_slot : circuitLab.offer 0 = some (1, 5, 0) ∧ (circuitLab.circuitOwner 1 (circuitLab.strand 0).id.ctx).isSome = true := by
  decide +kernel

/-! Vectors and the matrix -/

def vop (d a b c : BitVec 9) (typ : BitVec 4) (fn : BitVec 6) : VOp := ⟨d, a, b, c, pyes, typ, 0, false, false, false, fn⟩

theorem witness_vectors : (lab basic).Issues 0 ∧ (lab basic).Undisturbed 0 ∧ ((lab basic).strand 0).Room 5 ∧
    ((lab basic).strand 0).checkIndexed (vop 1 2 3 4 0 0) = none ∧
    ((lab { basic with vec := { basic.vec with vixr := 383 } }).strand 0).checkIndexed { vop 1 2 3 4 0 0 with lia := true } = none ∧
    ((lab basic).strand 0).active pyes ≠ 0 := ⟨lab_issues _, by decide +kernel⟩

theorem witness_clamp : (typeFloat 2).isSome = true ∧ (typeFloat 0).isSome = false := by decide +kernel

/-- A strand of a class whose slot has a result on its way, with no failed check, or with three. -/
def result (resn : Nat) : Exposed := ⟨.v 1, BitVec.allOnes 128, 5, 2, 0, 0, 64, if resn = 0 then 0 else vRESID, 0, resn⟩
def residue (cls : BitVec 2) (resn : Nat) : Strand := { basic with id := { basic.id with cls := cls }, exposed := [result resn] }
/-- Upsets of lanes 0 and 127 meet the slot in this cycle. -/
def upsetLab : State := { lab basic with upsets := [⟨0, 0, 0, 0, 0, 1⟩, ⟨0, 0, 0, 127, 0, 2 ^ 31⟩] }

theorem witness_residue : upsetLab.Issues 0 ∧ upsetLab.upsetsOf 0 ≠ [] ∧ (upsetLab.strand 0).Room 1 ∧
    (upsetLab.strand 0).checkIndexed (vop 1 2 3 4 0 0) = none ∧
    (∀ cls ∈ ([0, 1, 2] : List (BitVec 2)), ((residue cls 0).exposed.find? fun y => y.seq == (residue cls 0).fl.seq && y.slot == (residue cls 0).slot) =
      some (result 0)) ∧ (residue 1 0).id.cls ≠ 0 ∧ (residue 0 0).id.cls = 0 ∧ (result 3).flags.getLsbD 7 = true :=
  ⟨⟨⟨8, rfl⟩, rfl⟩, by decide +kernel⟩
/-- 09 R222: an upset of a sum in class S is counted with its result, in class N it is not. -/
theorem test_upset_is_counted : ([0, 1] : List (BitVec 2)).map (fun c => (answer (.vadd (vop 1 2 3 0 0 0)) ({ upsetLab with
      cores := [(0, { Core.idle with mode := .running, st := { basic with id := { basic.id with cls := c } } })] } : State)).map
      fun t => (t.strand 0).exposed.map fun x => (x.resn, x.flags.getLsbD 7, (lane x.value 0).toNat, (lane x.value 127).toNat)) =
    [some [(0, false, 1, 2 ^ 31)], some [(2, true, 1, 2 ^ 31)]] := by decide +kernel

def mop (tile : BitVec 3) (row0 : BitVec 9) (count : BitVec 10) (size : BitVec 10) : MOp := ⟨tile, 1, 1, row0, count, 0, false, 2, size⟩
/-- Bank 0 holds i8, bank 1 i32, bank 2 raw words; rows lie 16 bytes apart. -/
def matLab (bank : Nat) : State :=
  lab { withS [(1, BitVec.ofNat 64 (0x60000 * bank)), (2, 512)] with
        fmtb := [(0, 1), (1, 5)], mx := { basic.mx with ashape := 15 } }

theorem witness_matrix_commands : (matLab 0).Issues 0 ∧ (mop 0 0 64 64).prof.toNat ≤ 5 ∧
    (mop 0 0 64 64).row0.toNat + (mop 0 0 64 64).rows ≤ 128 * bandCount ((matLab 0).strand 0).mx.ashape ∧
    ((matLab 0).strand 0).checkRows (mop 0 0 64 64) rRead 64 64 (weightFmts 0) = none ∧
    ((matLab 0).strand 0).checkRows (mop 0 0 64 64) rRead 64 64 (actFmts 0) = none ∧
    ((matLab 0).strand 0).checkSlices 0 = none ∧ (mop 0 0 0 128).size.toNat + (mop 0 0 256 128).rows ≤ 384 ∧
    ((matLab 1).strand 0).checkRows (mop 0 0 64 64) rRead 64 64 [0x05, 0x00] = none ∧
    ((matLab 2).strand 0).checkRows (mop 0 0 64 64) rWrite 64 64 (List.range 13) = none ∧
    -64 ≤ (((matLab 0).strand 0).s 3).toInt ∧ (((matLab 0).strand 0).s 3).toInt ≤ 63 ∧ ((matLab 0).strand 0).s 3 = 0 :=
  ⟨lab_issues _, by decide +kernel⟩

theorem witness_matrix_registers : ((lab basic).strand 0).Room 4 ∧ (380 : BitVec 10).toNat ≤ 380 ∧
    ∀ m ∈ ([1, 3, 7, 15] : List (BitVec 4)), m &&& ~~~((lab basic).strand 0).kn.bands = 0 := by decide +kernel

theorem witness_tile_zero : (mop 7 0 0 0).row0 = 0 ∧ (mop 7 0 0 0).rows = 512 ∧ (mop 7 511 1 0).rows ≠ 512 := by decide +kernel

/-- An operation of the matrix engine, old enough for its first row, with one row read. -/
def mat (kind : MKind) (landed : Nat) : MatOp :=
  { kind := kind, o := mop 0 0 2 64, age := 200, seq := 0, addr := 64, rows := 2, c := 1, check := true, base := 0, pitch := 512, shift := 0,
    fmts := [(0, if kind = .ldw ∨ kind = .str then 1 else 0)], tol := 0, bands := 4, inFlight := [[1, 2, 3]], read := landed + 1,
    landed := landed, colsum := [], sumFlags := 0, unflip := [], plane := Plane.zero, first := 0, stopping := false,
    noted := false }
def rowLab (o : MatOp) : State := lab { basic with mx := { basic.mx with ops := [o] } }

/-- Rows whose format is held: a store to int8 elements and one to raw words; loads of the profile 2 as floats. -/
theorem witness_row_forms : fmtCode ({ mat .out 1 with fmts := [(0, 1)] }.rowFmtb 1) = 1 ∧
    ((rowLab { mat .out 1 with fmts := [(0, 1)] }).strand 0).mx.ops.find? MatOp.storeDue = some { mat .out 1 with fmts := [(0, 1)] } ∧
    ({ mat .ldz 0 with o := { mop 0 0 2 64 with prof := 2 } } : MatOp).o.prof ≠ 0 ∧
    ((rowLab { mat .ldz 0 with o := { mop 0 0 2 64 with prof := 2 } }).strand 0).mx.ops.find? MatOp.loadDue =
      some { mat .ldz 0 with o := { mop 0 0 2 64 with prof := 2 } } ∧
    ((rowLab (mat .strv 0)).strand 0).mx.ops.find? MatOp.landDue = some (mat .strv 0) := by decide +kernel

theorem witness_rows : ((rowLab (mat .ldz 0)).strand 0).mx.ops.find? MatOp.loadDue = some (mat .ldz 0) ∧
    (mat .ldz 0).inFlight.head? = some [1, 2, 3] ∧
    ((rowLab (mat .out 1)).strand 0).mx.ops.find? MatOp.storeDue = some (mat .out 1) ∧ fmtCode (mat .out 1).fmtb = 0 ∧
    ((rowLab (mat .str 0)).strand 0).mx.ops.find? MatOp.landDue = some (mat .str 0) ∧ (mat .str 0).landed < (mat .str 0).rows ∧
    ((rowLab (mat .str 2)).strand 0).mx.ops.find? MatOp.landDue = some (mat .str 2) ∧ (mat .str 2).rows ≤ (mat .str 2).landed ∧
    ((rowLab (mat .ldw 0)).strand 0).mx.ops.find? MatOp.planeDue = some (mat .ldw 0) ∧
    ((rowLab (mat .ldw 1)).strand 0).mx.ops.find? MatOp.planeDue = some (mat .ldw 1) ∧ (mat .ldw 1).landed + 1 = (mat .ldw 1).rows := by
  decide +kernel

/-- A check of rows 510 and 511 of tile 7; in the second state a column differs from its sum. -/
def chk : MatOp := { mat .chk 0 with o := ⟨7, 0, 0, 510, 2, 0, false, 0, 0⟩ }
def chkLab (cls : BitVec 2) (bad : Bool) : State :=
  lab { basic with
        id := { basic.id with cls := cls },
        mx := { basic.mx with ops := [chk], crv := 0, tile := if bad then [(512 * 7 + 511, 1)] else [] } }

theorem witness_check : ∀ cls ∈ ([0, 1] : List (BitVec 2)), ∀ bad ∈ [false, true],
    ((chkLab cls bad).strand 0).mx.ops.find? MatOp.chkDue = some chk ∧ chk.o.prof = 0 ∧ chk.o.row0.toNat + chk.rows ≤ 512 ∧
    ((chkLab cls bad).strand 0).mx.crv.getLsbD chk.o.tile.toNat = false ∧
    ((chkLab cls bad).strand 0).mx.chkloc.toNat / 2 ^ 29 % 8 = 0 := by decide +kernel
/-- The row sums of the two rows: equal to CC, or unequal in the second row alone. -/
theorem witness_check_rows : SMap.get 0 ((chkLab 0 true).strand 0).mx.cc (512 * 7 + 511) = 0 ∧
    tcol (SMap.get 0 ((chkLab 0 true).strand 0).mx.tile (512 * 7 + 511)) 0 = 1 ∧
    tcol (SMap.get 0 ((chkLab 0 true).strand 0).mx.tile (512 * 7 + 510)) 0 = 0 ∧ ((chkLab 0 true).strand 0).mx.mstat.getLsbD 10 = false := by
  decide +kernel

/-! Signatures, traps, the system instructions -/

theorem witness_signatures : (lab basic).Issues 0 ∧ ((lab super).strand 0).guard yes = true ∧
    1 ≤ ((lab super).strand 0).id.priv.toNat ∧ ((lab basic).strand 0).id.priv = 0 := ⟨lab_issues _, by decide +kernel⟩

def zin (kind : BitVec 2) (bit : BitVec 7) (a b c : BitVec 9) (role : BitVec 2) (att : BitVec 8) : ZinjOp := ⟨kind, 1, att, bit, a, b, c, role⟩

theorem witness_injection : capHas (((lab basic).strand 0).c 1) rInject = true ∧
    ((basic.id.att.toNat = (zin 0 31 7 511 511 1 0).att.toNat ∧
      ((zin 0 31 7 511 511 1 0).role = 0 ∨ basic.id.role.toNat + 1 = (zin 0 31 7 511 511 1 0).role.toNat)) ∧
    (zin 0 31 7 511 511 1 0).c.toNat < 512 ∧ (zin 0 31 7 511 511 1 0).bit.toNat < 32) ∧ (zin 1 31 383 127 0 0 0).b.toNat < 128 ∧
    (let m : MatOp := { mat .zero 0 with o := ⟨7, 0, 0, 0, 512, 0, false, 0, 0⟩, rows := 512 }
     m ∈ ((lab { basic with mx := { basic.mx with ops := [m] } }).strand 0).mx.ops ∧ m.seq = basic.fl.seq ∧ m.kind = .zero ∧
       m.o.tile.toNat = (zin 0 31 7 511 0 0 0).a.toNat ∧ m.o.row0.toNat + 64 ≤ (zin 0 31 7 511 0 0 0).b.toNat ∧
       (zin 0 31 7 511 0 0 0).b.toNat < m.o.row0.toNat + m.rows) ∧ ((lab basic).strand 0).mx.ops = [] ∧
    basic.id.att.toNat ≠ (zin 0 0 0 0 0 0 1).att.toNat ∧ ¬(basic.id.role.toNat + 1 = (zin 0 0 0 0 0 2 0).role.toNat) ∧
    ((edge.strand 0).checkCap 1 [] [kScratch] = none ∧ checkBounds ((edge.strand 0).c 1) 0x17FFE00 16 = none ∧
      checkAlign ((edge.strand 0).c 1) 0x17FFE00 16 16 = none) ∧ edge.Canonical ∧ (edge.core 0).now.wbuf = [] := by decide +kernel

def inHandler : Strand :=
  { super with
    id := { super.id with hndl := true },
    tr := { super.tr with ret := some ⟨64, 2, true, true, 0, none, false, 0, none, 0, [], Kernel.zero⟩, trapslot := 2, held := [⟨.v 7, 1, 5, 0, 0, 0, 64, 0, 0, 0⟩] } }

theorem witness_traps_and_returns : (lab inHandler).Issues 0 ∧ ((lab inHandler).strand 0).guard yes = true ∧
    ((lab super).strand 0).id.hndl = false ∧ 1 ≤ ((lab super).strand 0).id.priv.toNat ∧ ((lab inHandler).strand 0).id.hndl = true ∧
    1 ≤ ((lab inHandler).strand 0).id.priv.toNat ∧ (((lab inHandler).strand 0).tr.ret.map fun r => (r.part, r.split)) = some (true, true) ∧
    (∀ f ∈ [(false, false), (true, false)], ((({ inHandler with tr := { inHandler.tr with ret := inHandler.tr.ret.map fun r =>
      { r with part := f.1, split := f.2 } } } : Strand).tr.ret.map fun r => (r.part, r.split)) = some f)) ∧
    ((lab inHandler).strand 0).fl.deferred = [] := ⟨lab_issues _, by decide +kernel⟩

/-- An object that begins with a header, entry 0 of the context's table naming it: a handler. -/
def handled (st : Strand) : State :=
  { lab st with
    mem := [(0x200000, 0x5A), (0x200001, 0x4B), (0x200002, 1), (0x200004, 1), (0x200009, 15), (0x20000C, 0x40)],
    ctxs := [(0, { ctx0 with caps := [(0, mkCap 5 0xFF kObject 0 0x200000), (1, mkCap 5 0xFF kObject 0 0x200000), (2, mkCap 7 0xFF kHost 0 0x200000)] })],
    window := [task 0 .run []] }

theorem witness_issue_traps : ((handled basic).strand 0).fl.deferred = [] ∧ ((handled basic).strand 0).id.hndl = false ∧
    ((handled basic).handler 0).isSome = true ∧ ((handled basic).strand 0).id.priv = 0 ∧ ((handled inHandler).strand 0).id.hndl = true := by
  decide +kernel

/-- An image in object 5, whose pages are there. -/
def imageLab : State :=
  let s := lab { super with sc := { super.sc with s := [(1, 0)], c := [(2, mkCap 8 0xFF kObject 0 0x10000000)] } }
  { s with objs := s.objs ++ [(8, ⟨true, 2, 0, 0, kObject, 0x10000000, 0, [⟨1, 0x10000000, 0, 0⟩]⟩)] }

theorem witness_images : imageLab.Issues 0 ∧ (imageLab.strand 0).guard yes = true ∧
    imageLab.checkFrame 0 0x062 rWrite 2 1 1 0 = none ∧ imageLab.checkFrame 0 0x063 rRead 2 1 1 0 = none ∧
    (let z := (imageLab.modStrand 0 fun st => st.consumeWait eyes).flushSpad 0 false
     let x := (z.strand 0).c 2
     ∀ write ∈ [true, false],
       (z.reachAll (z.corePort 0 x (capBase x)) write true (z.frameExtents x 0 (frameSpans 1 (z.strand 0).kn.tiles 0))).2 = .ok) ∧
    (let s : State := { imageLab with badEntries := [(8, none)] }
     let z := (s.modStrand 0 fun st => st.consumeWait eyes).flushSpad 0 false
     let x := (z.strand 0).c 2
     s.checkFrame 0 0x062 rWrite 2 1 1 0 = none ∧ s.checkFrame 0 0x063 rRead 2 1 1 0 = none ∧ ∀ write ∈ [true, false],
       (z.reachAll (z.corePort 0 x (capBase x)) write true (z.frameExtents x 0 (frameSpans 1 (z.strand 0).kn.tiles 0))).2 = .error) :=
  ⟨⟨⟨8, rfl⟩, rfl⟩, by decide +kernel⟩

/-- The eight bytes of the tile part of a kernel without tiles, each at a place of its own; memory is canonical. -/
theorem witness_image_places : let s := imageLab.modStrand 0 fun st => { st with kn := { st.kn with tiles := 0 } }
    let z := (s.modStrand 0 fun st => st.consumeWait eyes).flushSpad 0 false
    let x := (z.strand 0).c 2
    s.checkFrame 0 0x062 rWrite 2 1 32 0 = none ∧ frameSpans 32 (z.strand 0).kn.tiles 0 = [(0x8B00, 8)] ∧
    (z.reachAll (z.corePort 0 x (capBase x)) true true (z.frameExtents x 0 [(0x8B00, 8)])).2 = .ok ∧ s.Canonical ∧
    let u := (z.reachAll (z.corePort 0 x (capBase x)) true true (z.frameExtents x 0 [(0x8B00, 8)])).1
    (List.range 8).map (fun j => u.keyVia (u.corePort 0 x (capBase x + 0x8B00)) (capObj x) (capBase x + 0x8B00 + j)) =
      (List.range 8).map (fun j => some (hbmKey 0 (0x10000000 + 0x8B00 + j))) := by decide +kernel
/-- 18 R384, R362: the tile part of a kernel without tiles is CRV, at 0x8B00 of the image; CTXLOAD takes it from there. -/
theorem test_image_of_crv : (answer (.ctxsave 2 1 32 0 eyes) (imageLab.modStrand 0 fun st =>
      { st with kn := { st.kn with tiles := 0 }, mx := { st.mx with crv := 5 } })).map (fun t =>
      t.mem.read (hbmKey 0 (0x10000000 + 0x8B00))) = some 5 ∧
    (answer (.ctxload 2 1 32 0 eyes) ({ imageLab with mem := [(hbmKey 0 (0x10000000 + 0x8B00), 6)] }.modStrand 0 fun st =>
      { st with kn := { st.kn with tiles := 0 } })).map (fun t => (t.strand 0).mx.crv) = some 6 := by decide +kernel
/-- A bank map that exchanges nothing gives every byte a place of its own. -/
theorem witness_bank_map : ∀ a a', basic.phys a = basic.phys a' → a = a' := by
  have h : ∀ a, basic.phys a = a := fun a => Nat.div_add_mod' a Config.bankBytes
  intro a a' e
  rwa [h, h] at e
/-- An image in a FRAME object or not; banks 0 and 63 named; registers that come back whole, and those of a form of their own. -/
theorem witness_image_parts : (imageLab.obj 8).map (·.frame) = some true ∧ (imageLab.obj 5).map (·.frame) = some false ∧
    (∀ i ∈ [0, 63], (0x8000000000000001 : W64).getLsbD i = true) ∧ (0xFF : BitVec 8).getLsbD 7 = true ∧ (0x7F : BitVec 8).getLsbD 7 = false ∧
    frameSRs[16]? = some 0x021 ∧ frameSRs[5]? = some 0x008 ∧ frameSRs[15]? = some 0x020 ∧ frameSRs[0]? = some 0 ∧
    (∀ n ∈ [0x021, 0x032, 0x043, 0x063, 0x074, 0x100, 0x13F], keptBits n ≠ 0) := by decide +kernel
/-- 06 R145, 10 R266: MPI reads back what was written, its reserved bits cut; MSTAT's flags fall by a 0 alone. -/
theorem test_special_registers : (((lab super).writeSR 0 0x043 0xFFFF).readSR 0 0x043,
    (((lab { super with mx := { super.mx with mstat := 0x1F } }).writeSR 0 0x031 0x703).readSR 0 0x031) % 2 ^ 11) = (0xF3F, 0x703) := by
  decide +kernel

/-- A context that may fire the Hoist. -/
def hoistLab (ok : Bool) : State := { lab basic with ctxs := [(0, { ctx0 with hoistok := ok })] }

theorem witness_hoist : ((hoistLab false).ctx ((hoistLab false).strand 0).id.ctx).hoistok = false ∧
    ((hoistLab true).ctx ((hoistLab true).strand 0).id.ctx).hoistok = true ∧ (hoistLab true).hub.harm = true ∧
    ((hoistLab true).strand 0).id.ctx < 16 ∧ ((hoistLab { basic with id := { basic.id with ctx := 15 } }.id.hndl).strand 0).id.ctx < 16 := by
  decide +kernel

/-- A pin has fired in this cycle. -/
def hoistFired : State := { hoistLab true with hoist := [(hoistLab true).now] }.modHub fun h => { h with hstat := 0x800, harm := false }
/-- Disarmed, in a cycle without a fire. -/
theorem witness_hoist_missed : let s := (hoistLab true).modHub fun h => { h with harm := false }
    (s.ctx 0).hoistok = true ∧ s.hub.harm = false ∧ s.now ∉ s.hoist := by decide +kernel
/-- 21 R423: two sources in one disarmed cycle make one missed fire. -/
theorem test_hoist_missed : ((answer (.hoist 0xE7 eyes) ((hoistLab true).modHub fun h => { h with harm := false })).bind fun t =>
    answer .hoistFire t).map (fun t => t.hub.hstat.toNat / 2 ^ 32) = some 1 := by decide +kernel
theorem witness_hoist_join : (hoistLab true).now ∉ (hoistLab true).hoist ∧ hoistFired.now ∈ hoistFired.hoist ∧
    (hoistFired.ctx 0).hoistok = true ∧ hoistFired.hub.hstat.toNat / 2 ^ 8 % 16 = 8 := by decide +kernel
/-- 21 R423: HSTAT names both sources of the cycle, with the tag of the HOIST. -/
theorem test_hoist_joins : (answer (.hoist 0xE7 eyes) hoistFired).map (fun t => t.hub.hstat.toNat % 2 ^ 12) = some 0x9E7 := by
  decide +kernel

theorem witness_watchdog : (lab basic).Issues 0 ∧ (lab basic).hub.wdctl.toNat % 256 ≠ 0 ∧
    ((lab basic).strand 0).tr.wdUsed < (lab basic).hub.wdctl.toNat / 256 ∧
    ¬(({ basic with tr := { basic.tr with wdUsed := 4 } } : Strand).tr.wdUsed < (lab basic).hub.wdctl.toNat / 256) :=
  ⟨lab_issues _, by decide +kernel⟩

/-! The stream -/

/-- Context 0 decoding, its front end set. -/
def fe (f : FrontEnd) : State := cbasic { ctx0 with fe := f }

theorem witness_front_end : (fe FrontEnd.zero).Decodes 0 ∧
    ((0x1FFFF0 : BitVec 64).toNat % 16 = 0 ∧ (0x1FFFF0 : BitVec 64).toNat + 16 ≤ (fe FrontEnd.zero).streamSize 0) ∧
    ((fe { FrontEnd.zero with calls := List.replicate 15 (16, false), g := [(1, 5)] }).ctx 0).fe.calls.length < 16 ∧
    FrontEnd.zero.reg 1 = 0 ∧ ({ FrontEnd.zero with g := [(1, 5)] } : FrontEnd).reg 1 ≠ 0 ∧
    ({ FrontEnd.zero with loops := [(0, 1, 0), (0, 1, 0), (0, 1, 0)] } : FrontEnd).loops.length < 4 ∧
    (∀ l ∈ ({ FrontEnd.zero with calls := [(16, true)], loops := [(0, 2, 0)] } : FrontEnd).loops, l.2.2 ≠ 1) ∧
    -63 ≤ (0xFFFFFFC1 : BitVec 32).toInt ∧ (0xFFFFFFC1 : BitVec 32).toInt < 0 ∧ (63 : BitVec 32).toInt ≤ 63 := by decide +kernel

def pend1 (w : Option TaskWord) (c : Option CopyWord) (opds : List OpdWord) (ops : List ROperand) : PendingSop := ⟨w, c, opds, [], 0, ops, none, []⟩
def tw (nopd : BitVec 3) : TaskWord := ⟨0, 0, 0, nopd, 0, false, 5, 0⟩
def inOpd (first len : Nat) : OpdWord := ⟨1, 0, 1, false, BitVec.ofNat 44 first, BitVec.ofNat 64 len⟩
def cw (n : BitVec 4) : CopyWord := ⟨n, 0, 0, 0, 0, false⟩
/-- Two EXT operands of a COPY, object 5 both. -/
def extOpd (mode : BitVec 2) : OpdWord := ⟨0, mode, 1, true, 5, 0x10000000000⟩

theorem witness_refused : (cbasic { ctx0 with pending := some (pend1 (some (tw 2)) none [] []) }).curCtx = 0 ∧
    ((cbasic { ctx0 with pending := some (pend1 (some (tw 2)) none [] []) }).ctx 0).run = 1 ∧
    ((cbasic { ctx0 with pending := some (pend1 (some (tw 2)) none [] []) }).ctx 0).pending.isSome = true ∧
    (pend1 none (some (cw 1)) [extOpd 3, extOpd 3] []).wantsOpd = false ∧ (pend1 (some (tw 2)) none [] []).wantsCdim = false ∧
    (∀ i ∈ [Instr.snop, .sendl, .task (tw 0), .copy (cw 1)], i.isStream = true) := by decide +kernel

/-- 05 R129: a TASK in the place of the second operand word of a TASK is an ORPHAN, at position 2. -/
theorem test_orphan_task : (answer (.task (tw 0)) (cbasic { ctx0 with pending := some (pend1 (some (tw 2)) none [inOpd 0 64] []) })).map
    (fun t => (t.ctx 0).fault.map fun f => (f.reason, f.ext)) = some (some (.orphan, 2)) := by decide +kernel

/-- SLD, SST, PARK and SVAR at the last word of their range; memory reads zero, and word 0x40 of the object reads 16. -/
def smem : State := { fe { FrontEnd.zero with g := [(1, 0x1FFFF8), (2, 5)] } with mem := [(0x200040, 16)] }

theorem witness_stream_memory : smem.Decodes 0 ∧ (0xFF8 + (0 : BitVec 64)).toNat < 0x1000 ∧ 0xFF8 % 2 ^ 3 = 0 ∧
    checkStream ((smem.ctx 0).cap 1) rRead 0x1FFFF8 8 = none ∧ checkStream ((smem.ctx 0).cap 1) rWrite 0x1FFFF8 8 = none ∧
    ((smem.prismRead false 5 0x1FFFF8 8).2.1 = some 0) ∧ (smem.prismRead false 5 0x1FFFF8 8).2.2 = .ok ∧ (∀ e ∈ smem.window, e.tid ≠ nextTid 0 0) ∧
    BitVec.ofNat 64 0 ≠ (smem.ctx 0).fe.reg 2 ∧ BitVec.ofNat 64 0 = (smem.ctx 0).fe.reg 3 ∧
    capGrants ((smem.ctx 0).cap 1) [rRead] = true ∧ capKind ((smem.ctx 0).cap 1) ≠ kScratch ∧
    (0x40 : BitVec 64).toNat + 64 ≤ capLen ((smem.ctx 0).cap 1) ∧ (smem.prismRead false 5 0x40 8).2.1 = some 16 ∧
    (smem.prismRead false 5 0x40 8).1.target 0 16 = true ∧
    (let s : State := { smem with ctxs := smem.ctxs.map fun c => (c.1, { c.2 with budget := 3 }) }
     let u := (s.prismRead false 5 (0x40 + 8 * 3) 8).1
     s.Decodes 0 ∧ (s.prismRead false 5 (0x40 + 8 * 3) 8).2.1 = some 0 ∧ (u.prismRead false 5 (0x40 + 8 * 0) 8).2.1 = some 16 ∧
       (u.prismRead false 5 (0x40 + 8 * 0) 8).1.target 0 16 = true) := by decide +kernel

/-- A parked context, its comparand equal to the word, or not. -/
def parked (a : BitVec 4) : State := cbasic { ctx0 with run := 2, fe := { FrontEnd.zero with g := [(2, 5)] }, park := some ⟨a, 4, 5, 0x40, 0x40, 0, false⟩ }

theorem witness_park : ∀ a ∈ ([2, 3] : List (BitVec 4)), ((parked a).ctx 0).park = some ⟨a, 4, 5, 0x40, 0x40, 0, false⟩ ∧
    ((parked a).prismRead false 5 0x40 8).2.1 = some 0 ∧
    (if a = 2 then BitVec.ofNat 64 0 ≠ (((parked a).prismRead false 5 0x40 8).1.ctx 0).fe.reg a
     else BitVec.ofNat 64 0 = (((parked a).prismRead false 5 0x40 8).1.ctx 0).fe.reg a) ∧
    (({ parked a with objs := [] } : State).prismRead false 5 0x40 8).2 = (none, .gone) ∧
    (({ parked a with poison := [hbmKey 0 0x200040] } : State).prismRead false 5 0x40 8).2 = (none, .error) := by decide +kernel

/-- Buffer 1 bound: two segments of 64 KiB from offset 0 of object 5; g1 holds its length. -/
def boundBuf : Buf := { Buf.unbound with bound := true, r := true, w := true, obj := 5, seglog := 16, len := 0x20000, bid := 1 }
def bufLab : State := fe { FrontEnd.zero with g := [(1, 0x20000), (2, 0x1E0000)], btab := [(1, boundBuf)] }

theorem witness_stream_work : bufLab.Decodes 0 ∧ (SMap.get Buf.unbound (bufLab.ctx 0).fe.btab 0).bound = false ∧
    capGrants ((bufLab.ctx 0).cap 1) [rRead] = true ∧ capKind ((bufLab.ctx 0).cap 1) ≠ kScratch ∧
    0x1E0000 + ((bufLab.ctx 0).fe.reg 1).toNat ≤ capLen ((bufLab.ctx 0).cap 1) ∧ 0x1E0000 % 2 ^ 16 = 0 ∧
    ((bufLab.ctx 0).fe.reg 1).toNat ≠ 0 ∧ ((bufLab.ctx 0).fe.reg 1).toNat % 2 ^ 16 = 0 ∧
    (SMap.get Buf.unbound (bufLab.ctx 0).fe.btab 1).bound = true ∧ (SMap.get Buf.unbound (bufLab.ctx 0).fe.btab 1).w = true ∧
    (∀ e ∈ bufLab.window, e.tid ≠ nextTid 0 0) ∧ bufLab.alive 0 = [] ∧
    (let s : State := { bufLab with window := [{ task 0 .ready [] with rises := 9 }] }
     s.Decodes 0 ∧ ∀ e ∈ s.window, e.ctx = 0 ∧ e.state = .ready ∧ min 7 ((0 : BitVec 3).toNat + e.rises) = 7) ∧
    capGrants ((bufLab.ctx 0).cap 1) [rRead, rWrite] = true ∧ bufLab.quotasOk 0 256 4096 = true ∧
    (((bufLab.ctx 0).findCap fun k => capHas k rExec && covers k 5 0 1)).isSome = true := by decide +kernel

def withPending (p : PendingSop) : State := cbasic { ctx0 with fe := (bufLab.ctx 0).fe, pending := some p }

theorem witness_operand_words :
    (∀ n ∈ ([1, 2] : List (BitVec 3)),
      let p := pend1 (some (tw n)) none [] []
      ((withPending p).ctx 0).pending = some p ∧ p.tid = none ∧ p.wantsOpd = true ∧ p.copy = none ∧ p.ops = [] ∧
        (inOpd 0x10000 0x10000).isExt = false ∧ (inOpd 0x10000 0x10000).mode = 0 ∧
        (SMap.get Buf.unbound ((withPending p).ctx 0).fe.btab (inOpd 0x10000 0x10000).buf.toNat).bound = true ∧
        (inOpd 0x10000 0x10000).first + (inOpd 0x10000 0x10000).size ≤ 0x20000 ∧
        ({ p with opds := [inOpd 0x10000 0x10000] } : PendingSop).whole = (n == 1)) ∧
    (∀ n ∈ ([1, 2] : List (BitVec 4)),
      let p := pend1 none (some (cw n)) [extOpd 3, extOpd 3] []
      p.wantsCdim = true ∧ p.cdimOk ⟨0, 64, 0, 0⟩ = true ∧ ({ p with cdims := [⟨0, 64, 0, 0⟩] } : PendingSop).whole = (n == 1) ∧
        (withPending p).overQuotas 0 { p with cdims := [⟨0, 64, 0, 0⟩] } = false) := by decide +kernel

/-! The Prism -/

/-- Context 0 with these window entries; the cores are free. -/
def prism (w : List Entry) : State := { cbasic ctx0 with turn := .outside, cores := [], window := w, gcyc := 0x100000000 }

theorem witness_dispatch : (∀ cls ∈ ([0, 2] : List (BitVec 2)), (prism [task cls .ready []]).entry 0 = some (task cls .ready []) ∧
      (prism [task cls .ready []]).served = [] ++ (0, .entry 0) :: [] ∧
      ((prism [task cls .ready []]).placeEntry false (task cls .ready []) (task cls .ready []).gangOf none).any (fun sets =>
        sets.flatten.Nodup ∧ sets.length = if cls = 2 then 2 else 1) = true) ∧
    (let e : Entry := { task 0 .ready [] with kind := .copy (cw 1) [] }
     (prism [e]).entry 0 = some e ∧ (prism [e]).served = [] ++ (0, .entry 0) :: [] ∧ (prism [e]).freeEngine (cw 1).clamp = some 2) := by
  decide +kernel

def run0 : TaskRun := ⟨0, 0, [0], 1, 0, 0, 0, false, none, [], []⟩
def child : PoolEntry := ⟨0, 0, { SpawnNode.zero with depth := 1 }, 0, 5, [], 0, [], 3, basic.owner, 0, 0⟩
def poolLab : State :=
  { lab basic with
    gcyc := 100, ctxs := [(0, { ctx0 with pool := [child] })], window := [task 0 .run [run0]] }

theorem witness_pool : poolLab.entry 0 = some (task 0 .run [run0]) ∧ poolLab.served = [(0, .pool 0 3)] ∧
    (poolLab.ctx 0).pool.find? (·.number == 3) = some child ∧ child.tid = 0 ∧ (poolLab.placeChild child []).isSome = true ∧
    (task 0 .run [run0]).runs.find? (·.role == child.role) = some run0 ∧ poolLab.twinChild child = none ∧ (task 0 .run [run0]).ctx = 0 := by
  decide +kernel
/-- In class D the twin's child goes with it, off its domain. -/
theorem witness_pool_twins :
    let run1 : TaskRun := { run0 with role := 1, cores := [16] }
    let e := task 2 .run [run0, run1]
    let q : PoolEntry := { child with role := 1, number := 4, parentCore := 16 }
    let s : State := { poolLab with ctxs := [(0, { ctx0 with pool := [child, q] })], window := [e] }
    s.entry 0 = some e ∧ s.served = [] ++ (0, .pool 0 3) :: [] ∧ s.twinChild child = some q ∧
      ((s.placeChild child []).any fun k => (s.placeChild q [k]).isSome) = true ∧
      (e.runs.find? (·.role == q.role)) = some run1 := by decide +kernel

/-- An entry of another kind. -/
def work (kind : EntryKind) (state : EState) : Entry := { task 0 state [] with kind := kind }

theorem witness_readiness : ∀ kind ∈ ([.task (tw 0) 0, .copy (cw 1) [], .unbind 1 true boundBuf, .shalt 5, .notify 3 4 5, .sst 5 0 8 kObject 1, .ckpt 7] : List EntryKind),
    (prism [work kind .wait]).entry 0 = some (work kind .wait) ∧ (work kind .wait).state = .wait ∧
    (prism [work kind .wait]).renaming (work kind .wait) = false ∧ (work kind .wait).fills = 0 ∧
    (∀ p ∈ (work kind .wait).prods, (prism [work kind .wait]).prodDone p = true) ∧ (prism [work kind .wait]).olderThan (work kind .wait) = [] ∧
    (work kind .wait).filledAt < (prism [work kind .wait]).now ∧
    (prism [work kind .ready]).writebackBlocked (work kind .ready) = false ∧ ((prism [work kind .ready]).ctx 0).ckpt = none ∧
    (prism [work kind .ready]).markable 0 = true := by
  decide +kernel

/-- A write-back of a mapped segment, a discarded one, and one with nothing mapped. -/
theorem witness_unbind : let b : Buf := { boundBuf with map := [(1, 7)] }
    (prism [work (.unbind 1 false b) .ready]).writebackBlocked (work (.unbind 1 false b) .ready) = false ∧
    (work (.unbind 1 false b) .ready).homeWrites ≠ [] ∧ (work (.unbind 1 false boundBuf) .ready).homeWrites = [] ∧
    (work (.unbind 1 false b) .ready).state = .ready := by decide +kernel

theorem witness_aging : (task 0 .ready []).prio < 7 ∧ (task 0 .ready []).readySince + 2 ^ 20 ≤ (prism [task 0 .ready []]).now ∧
    (task 0 .ready []).waitFrom + 2 ^ 16 ≤ (prism [task 0 .ready []]).now := by decide +kernel

/-- What a retirement frees: nothing here; an SST sends its store; an unbound buffer is published. -/
theorem witness_retirement_effects : let e := work (.sst 5 0x1FFFF8 8 kObject 1) .verified
    let b := work (.unbind 1 true boundBuf) .verified
    let s : State := { prism [b] with ctxs := [(0, { ctx0 with pub := [(1, { Published.zero with bid := 1 })] })] }
    (prism [e]).retirable 0 = some e ∧
    (prism [e]).Canonical ∧
    s.retirable 0 = some b ∧ (SMap.get Published.zero (s.ctx 0).pub 1).bid = boundBuf.bid := by decide +kernel

/-- 21 R425: NOTIFY's record stands in host memory, its kind and vector in the first two bytes, its datum from byte 8 on. -/
theorem test_notify_ring : (answer (.retire 0) (prism [work (.notify 3 4 5) .verified])).map (fun t =>
    ((List.range 10).map fun i => t.mem.read ((prism []).hub.ringKey 0 + i)) == [1, 3, 0, 0, 0, 0, 0, 0, 4, 0]) = some true := by
  decide +kernel

theorem witness_retirement : ∀ kind ∈ ([.task (tw 0) 0, .copy (cw 1) [], .shalt 5, .notify 3 4 5] : List EntryKind),
    (prism [work kind .verified]).retirable 0 = some (work kind .verified) ∧ (work kind .verified).ops = [] ∧
    (∀ h ∈ (prism [work kind .verified]).held, h.tid ≠ 0) ∧
    (prism [work kind .verified]).irq.length < 64 := by decide +kernel

/-- Hub engine 2 at the end of a copy, of a fill or of a write-back. -/
def hubCopy (kind : HubKind) (c : Option CopyCmd) : HubCopy := ⟨kind, (5, 0), (5, 0x10000), 0x10000, c, false, 0x10000, 0, none, false, .none⟩
def hubLab (e : Entry) (x : HubCopy) : State := { prism [e] with hubCopies := [(2, x)] }

theorem witness_ends : (prism [task 0 .squash []]).entry 0 = some (task 0 .squash []) ∧ (prism [task 0 .squash []]).outstanding 0 = false ∧
    (∀ x ∈ [hubCopy (.copy 0) (some (cmd true (cmd true 0).runs)), hubCopy (.writeback 0) none, hubCopy (.fill 0) none],
      SMap.get none ((hubLab (work (.copy (cw 1) []) .run) x).hubCopies.map fun p => (p.1, some p.2)) 2 = some x ∧
      (hubLab (work (.copy (cw 1) []) .run) x).entry 0 = some (work (.copy (cw 1) []) .run) ∧
      (hubLab (work (.copy (cw 1) []) .run) x).hubWriting 2 = false) ∧
    (cmd true (cmd true 0).runs).runs ≤ (cmd true (cmd true 0).runs).done ∧ (hubCopy (.writeback 0) none).len ≤ (hubCopy (.writeback 0) none).done ∧
    ({ work (.unbind 1 false boundBuf) .run with fills := 1 } : Entry).fills = 1 ∧
    1 < ({ work (.unbind 1 false boundBuf) .run with fills := 2 } : Entry).fills := by decide +kernel

def info : FaultInfo := ⟨1, .illegal, 16, 0, 0, 0, 0, 0, 0, 0, 0, true⟩
/-- A decode fault with nothing older; with a handler, and without; and a fault of the oldest of two entries. -/
def faultLab (fvec : Nat) : State := { prism [] with ctxs := [(0, { ctx0 with fault := some info, fe := { FrontEnd.zero with fvec := fvec } })] }
def failed : Entry := { task 0 .fault [] with fault := some info }
def younger : Entry := { task 0 .run [] with tid := 1 }

theorem witness_fault_delivery : (∀ v ∈ [0, 0x40], (faultLab v).alive 0 = [] ∧ ((faultLab v).ctx 0).fault = some info) ∧
    (faultLab 0x40).hub.funcmode.getLsbD 4 = true ∧ ((faultLab 0x40).ctx 0).fe.fvec ≠ 0 ∧ ((faultLab 0x40).ctx 0).fe.handler = false ∧
    ((faultLab 0x40).ctx 0).fe.calls.length < 16 ∧ ((faultLab 0).ctx 0).fe.fvec = 0 ∧
    (prism [failed, younger]).alive 0 = failed :: [younger] ∧ failed.state = .fault ∧ failed.fault = some info ∧
    (prism [failed, { younger with escaped := true }]).alive 0 = failed :: [{ younger with escaped := true }] := by decide +kernel

/-! Protection -/

def voted (third : Bool) (a b c : Nat) : Entry :=
  let r (role v : Nat) : TaskRun := ⟨role, 0, [16 * role], 1, 1, BitVec.ofNat 64 v, 0, false, none, [], []⟩
  { task 2 (if third then .run else .done) ([r 0 a, r 1 b] ++ if third then [r 2 c] else []) with doneAt := 1 }
def quiet (w : List Entry) : State := (prism w).modHub fun h => { h with susplim := 0 }

theorem witness_votes : (∀ b ∈ [5, 6], (prism [voted false 5 b 0]).entry 0 = some (voted false 5 b 0) ∧
      (prism [voted false 5 b 0]).comparable (voted false 5 b 0) = true) ∧
    ((voted false 5 5 0).run 0).map TaskRun.signature = ((voted false 5 5 0).run 1).map TaskRun.signature ∧
    ((voted false 5 6 0).run 0).map TaskRun.signature ≠ ((voted false 5 6 0).run 1).map TaskRun.signature ∧
    ((prism [voted false 5 6 0]).placeEntry true (voted false 5 6 0) 1 (some 2)).isSome = true ∧
    (∀ c ∈ [5, 7], (quiet [voted true 5 6 c]).decidable (voted true 5 6 c) = true ∧ (quiet [voted true 5 6 c]).hub.susplim = 0) ∧
    ((voted true 5 6 5).run 2).map TaskRun.signature = ((voted true 5 6 5).run 0).map TaskRun.signature ∧
    ((voted true 5 6 7).run 2).map TaskRun.signature ≠ ((voted true 5 6 7).run 1).map TaskRun.signature ∧
    (quiet [voted true 5 6 6]).decidable (voted true 5 6 6) = true ∧
    ((voted true 5 6 6).run 2).map TaskRun.signature = ((voted true 5 6 6).run 1).map TaskRun.signature ∧
    ((voted true 5 6 6).run 2).map TaskRun.signature ≠ ((voted true 5 6 6).run 0).map TaskRun.signature ∧ (voted true 5 6 6).escaped = false ∧
    (let s := (prism [voted false 5 6 0]).modHub fun h => { h with ccret := 0xFF }
     s.comparable (voted false 5 6 0) = true ∧ s.placeEntry true (voted false 5 6 0) (voted false 5 6 0).gangOf (some 2) = none) ∧
    ((∀ y ∈ [voted false 5 5 0], y.dep = false) ∧ ∀ h ∈ (prism [voted false 5 5 0]).held, ∀ y ∈ [voted false 5 5 0], y.tid = h.tid → y.cls ≠ 0) := by
  decide +kernel

def check0 (role : Nat) : CheckFault := ⟨.resid, 0, 0, 0, 3, role, 0, 0, 0⟩
/-- A task in its attempt with these check faults. -/
def checked (cls : BitVec 2) (att : Nat) (cs : List CheckFault) : Entry :=
  { task cls .run ([run0] ++ if cls = 2 then [{ run0 with role := 1, cores := [16] }] else []) with att := att, checks := cs }
theorem witness_reexecution : (∀ a ∈ [0, 3, 4], ∀ cs ∈ [[check0 0], [check0 0, check0 0]],
      (quiet [checked 1 a cs]).entry 0 = some (checked 1 a cs) ∧ (checked 1 a cs).checks ≠ [] ∧ (checked 1 a cs).cls = 1 ∧
      (checked 1 a cs).state = .run ∧ (checked 1 a cs).escaped = false) ∧
    (∀ a ∈ [0, 3], ∀ role ∈ [0, 1], (quiet [checked 2 a [check0 role]]).entry 0 = some (checked 2 a [check0 role]) ∧
      (checked 2 a [check0 role]).checks = [check0 role] ∧ (checked 2 a [check0 role]).cls = 2 ∧
      ∃ r ∈ (checked 2 a [check0 role]).runs, r.role ≠ (check0 role).role) ∧
    (quiet [{ checked 1 0 [check0 0] with escaped := true }]).entry 0 = some { checked 1 0 [check0 0] with escaped := true } := by
  decide +kernel

/-- The oldest entry's store waits at a Loupe that another entry's atomic fills. -/
def fullLoupe : State :=
  { (loupe 1 0).1 with
    held := [⟨1, 0, { basic.owner with tid := 1 }, 0, kObject, 5, 0, 0x40000000, [], some (.amo, 0, 1), 0⟩] }

theorem witness_head_only : fullLoupe.entry 0 = some (task 1 .run []) ∧ fullLoupe.canWriteThrough 0 = true ∧
    (∀ h ∈ fullLoupe.held, h.tid ≠ 0) ∧
    (let s : State := { fullLoupe with held := { (loupe 1 0).2.asHeld with order := 3 } :: fullLoupe.held }
     s.canWriteThrough 0 = true ∧ s.held.map (·.tid) = [0, 1] ∧ (s.nextHeld 0).map (·.order) = some 3) ∧
    fullLoupe.nextHeld 0 = none ∧ (fullLoupe.core 0).holds = true ∧ (fullLoupe.strand 0).id.tid = 0 := by decide +kernel

theorem witness_suspicion_limit : let s := (prism []).modHub fun h => { h with susp := [(3, 1025), (4, 1024)], ccret := 0x80 }
    s.hub.ccret.getLsbD 7 = true ∧ s.hub.ccret.getLsbD 3 = false ∧ s.hub.funcmode.getLsbD 1 = true ∧ s.hub.susplim ≠ 0 ∧
      s.hub.susplim.toNat ≤ SMap.get 0 s.hub.susp 3 - 1 ∧ ¬(s.hub.susplim.toNat ≤ SMap.get 0 s.hub.susp 4 - 1) := by decide +kernel

theorem witness_suspicion : (7 : Nat) < 8 ∧ (quiet []).hub.susplim = 0 ∧ (quiet []).hub.eltail + 1 ≠ (quiet []).hub.elhead ∧
    (let s : State := { quiet [] with objs := [] }.modHub fun h => { h with funcmode := 0x1D }
     s.hub.funcmode.getLsbD 1 = false ∧ s.retired 7 = false ∧ (∀ o ∈ s.objs, o.2.exts = [])) ∧
    (let s := (lab basic).modHub fun h => { h with funcmode := 0x1D }
     s.hub.funcmode.getLsbD 1 = false ∧ s.retired 0 = false ∧ chipOf 0 = 0 ∧ (s.core 0).mode = .running ∧ (s.core 0).req = none) := by
  decide +kernel

/-! Suspension -/

/-- Core 0 in a mode, with a request and a sequencer; its context has a frame object of four slots. -/
def leaving (mode : CoreMode) (r : Option StopReq) (q : Option Sequencer) : State :=
  let s := lab { basic with fl := Flow.zero }
  { s with
    cores := [(0, { Core.idle with mode := mode, st := { basic with fl := Flow.zero }, req := r, seq := q })],
    objs := s.objs ++ [(8, ⟨true, 2, 0, 0, kObject, 0x10000000, 0, [⟨1, 0x10000000, 0, 0⟩]⟩)],
    ctxs := [(0, { ctx0 with frameObj := 8 })] }
def req : StopReq := ⟨1, .core, false, 0⟩
def sq (p : SeqPart) : Sequencer := ⟨p, 0, [3], req, 0, false⟩
def gone : Absent := ⟨{ basic with fl := Flow.zero }, 2, req, 0, 0, 0, false, [], 0, 0, 0, false⟩

theorem witness_suspension : (leaving .running (some req) none).canStop 0 = true ∧
    (∀ p ∈ ([.registers, .bank 3, .image] : List SeqPart), ((leaving .saving none (some (sq p))).core 0).partDone = some (sq p) ∧
      ((leaving .restoring none (some (sq p))).core 0).partDone = some (sq p)) ∧
    (∀ m ∈ [CoreMode.saving, .restoring], ({ leaving m (some req) (some (sq .registers)) with absent := [gone] } : State).frameWaiting 0 = false) ∧
    (leaving .restoring (some req) none).frameWaiting 0 = false ∧
    (sq .registers).banks.find? ((leaving .saving none (some (sq .registers))).core 0).bankReady = some 3 ∧
    (({ leaving .saving none (some (sq .registers)) with absent := [gone] } : State).away basic.owner) = some gone ∧
    (({ leaving .restoring none (some (sq (.bank 3))) with absent := [gone] } : State).away basic.owner) = some gone ∧
    (let s : State := { leaving .restoring none (some (sq .image)) with absent := [gone] }
     s.returnsDue basic.owner = false ∧ s.away basic.owner = some gone ∧ (s.placeBarrier 0 0).isSome = true ∧ gone.st.sy.recs = []) ∧
    ((leaving .restoring (some req) none).core 0).seq = none ∧ ((leaving .restoring (some req) none).core 0).req = some req := by
  decide +kernel

/-- An access waits at its port for an extent that is not there. -/
def waiting : State :=
  let s := leaving .running none none
  { s with
    remotes := [far .load .absent false],
    objs := [(5, ⟨false, 1, 0, 0, kObject, 0x200000, 0, [⟨0, 0, 0, 0⟩]⟩), (8, ⟨true, 2, 0, 0, kObject, 0x10000000, 0, [⟨1, 0x10000000, 0, 0⟩]⟩)] }

theorem witness_page_absent : (waiting.waitsFor basic.owner).isSome = true ∧ (waiting.core 0).mode = .running ∧ (waiting.core 0).req = none ∧
    (waiting.freeSlot 0).isSome = true := by decide +kernel

def late : Strand := { basic with tr := { basic.tr with wdCount := 16000 } }
theorem witness_kills : ((lab late).core 0).mode = .running ∧ (lab late).wdMult ≠ 0 ∧ (lab late).deadline late ≤ late.tr.wdCount ∧
    ((prism []).ctx 0).created = true ∧ ((prism []).ctx 0).killed = false ∧
    (let s : State := { prism [] with ctxs := [(0, { ctx0 with run := 4, killed := true, dying := true })] }
     (s.ctx 0).run = 4 ∧ s.ctxOutstanding 0 = false ∧ s.wuse 0 = 0 ∧ s.irq.length < 64) ∧
    (let s : State := { leaving .saving none (some (sq .image)) with gcyc := 10500000 }
     (s.core 0).seq = some (sq .image) ∧ (sq .image).began + 10500000 ≤ s.now ∧ (s.ctx (s.strand 0).id.ctx).created = true) ∧
    (prism [failed, younger]).alive 0 = failed :: [younger] ∧ (∀ y ∈ [failed, younger], y.escaped = false) ∧
    (∃ y ∈ (prism [failed, { younger with escaped := true }]).alive 0, y.escaped = true) ∧
    (let s : State := { leaving .running none none with ctxs := [(0, { ctx0 with frameObj := 8, energy := { EnergyPage.zero with overq := true } })] }
     (s.ctx 0).energy.overq = true) := by decide +kernel

/-! Objects, requests, the module -/

/-- A command of the OT unit is busy: op, extent number, count; object 5 has one extent. -/
def otLab (op : BitVec 3) (ext count : Nat) : State :=
  (prism []).modHub fun h => { h with otBusy := true, otOp := op, otObjExt := BitVec.ofNat 64 (5 + ext * 2 ^ 32), otCount := BitVec.ofNat 32 count }
def running (op : Nat) : State := { prism [] with ot := some ⟨op, 5, 0, 1, 7⟩ }

theorem witness_ot : (otLab 1 0 1).hub.otBusy = true ∧ (otLab 1 0 1).ot = none ∧ (otLab 1 0 1).hub.otOp = 1 ∧
    ((otLab 1 0 1).tableEntry (otLab 1 0 1).hub.otObj (otLab 1 0 1).hub.otExt).isSome = true ∧
    (otLab 1 1 1).tableEntry (otLab 1 1 1).hub.otObj (otLab 1 1 1).hub.otExt = none ∧
    (∀ p ∈ (otLab 1 0 1).caches, ∀ c ∈ p.2, c.entry.home ≠ 2) ∧ ((otLab 2 0 1).obj (otLab 2 0 1).hub.otObj).map (·.exts.length) = some 1 ∧
    (otLab 2 0 1).hub.otCount ≠ 0 ∧ (otLab 2 0 1).hub.otExt + (otLab 2 0 1).hub.otCount.toNat ≤ 1 ∧
    1 < (otLab 2 0 2).hub.otExt + (otLab 2 0 2).hub.otCount.toNat ∧ (running 1).ot = some ⟨1, 5, 0, 1, 7⟩ ∧
    (running 2).ot = some ⟨2, 5, 0, 1, 7⟩ ∧ (otLab 7 0 0).hub.otOp = 7 := by decide +kernel

theorem witness_owed : ({ prism [] with owed := [(5, 0, true), (6, 0, false)] } : State).owed = (5, 0, true) :: [(6, 0, false)] ∧
    (prism []).hub.mnqtail + 1 ≠ (prism []).hub.mnqhead := by decide +kernel

theorem witness_migration : (prism []).Canonical ∧ ((prism []).obj 5).map (·.kind) = some kObject ∧
    ((prism []).tableEntry 5 0).map (fun e => (e.p, e.home)) = some (true, 0) ∧ (prism []).placeOk 0 7 0 (2 ^ pageLog 1) = true ∧
    (prism []).placeOk 1 1 0 (2 ^ pageLog 1) = true ∧ (∀ p ∈ (prism []).caches, ∀ c ∈ p.2, c.entry.home ≠ 2) ∧
    ((prism []).moves.any fun m => m.obj == 5 && m.ext == 0) = false ∧
    (let s : State := { prism [] with moves := [⟨5, 0, 1, 1, 0, 0, 0, none⟩] }
     (s.moves.any fun m => m.obj == 5 && m.ext == 0) = true ∧ ∀ m ∈ s.moves, m.home < 2 ∧ m.unit < 8 ∧ m.base < 2 ^ 64) := by decide +kernel

/-- A request of the host with these arguments. -/
def asks (op : BitVec 8) (args : SMap W64) (s : State) : State := s.modHub fun h => { h with mbStatus := 1, mbRun := op, mbArg := args }

/-- A descriptor at offset 0 of object 5. -/
def described : State := { prism [] with mem := [(0x200000, 0x43), (0x200001, 0x58), (0x200002, 1), (0x200004, 1)], objs := (prism []).objs.map fun p => (p.1, { p.2 with owner := 1 }) }

theorem witness_create_object : (asks 1 [(0, 0x10000)] (prism [])).hub.mbStatus = 1 ∧ (asks 1 [(0, 0x10000)] (prism [])).hub.mbRun = 1 ∧
    (objReq (asks 1 [(0, 0x10000)] (prism [])).hub).ok = true ∧ (objReq (asks 1 [] (prism [])).hub).ok = false ∧
    freeKey ((prism []).objs.map (·.1)) 1 (prism []).objs.length ≤ 0xFFDFFFF ∧
    (({ asks 1 [(0, 0x10000)] (prism []) with freeCtr := 1 } : State).newExtents (objReq (asks 1 [(0, 0x10000)] (prism [])).hub)).isSome = true := by
  decide +kernel

/-- A context with an operation outstanding keeps its object. -/
theorem witness_free_waits : let s := asks 2 [(0, 5)] { prism [] with remotes := [far .load .port false] }
    s.hub.mbStatus = 1 ∧ (s.obj 5).map (·.owner) = some 0 ∧ s.ctxOutstanding 0 = true := by decide +kernel

theorem witness_free_object : ((asks 2 [(0, 5)] (prism [])).obj 5).isSome = true ∧ (asks 2 [(0, 5)] (prism [])).ctxOutstanding 0 = false ∧
    (∀ p ∈ (asks 2 [(0, 5)] (prism [])).caches, ∀ c ∈ p.2, c.obj ≠ 5) := by decide +kernel

theorem witness_create_context : let s := asks 3 [(0, 1), (1, 5), (2, 5)] described
    1 % 16 ≠ 0 ∧ (s.obj 5).isSome = true ∧ (s.desc (5 % 2 ^ 28) (5 / 2 ^ 32) 5).map (fun d => (d.window, d.pool)) = some (1, 0) ∧
    s.ctxFree (1 % 16) = true ∧ s.quotasOk 1 1 0 = true ∧ s.ownObj 5 1 = true ∧ s.ownObj 0 1 = true ∧
    (imageLab.obj 8).map (fun o => (o.frame, decide (frameStride ≤ o.size))) = some (true, true) := by decide +kernel

/-- A stopped context, with a delivered fault to go back to. -/
def stopped : State := { prism [] with ctxs := [(1, { ctx0 with run := 3, lastFault := some 16 })] }
theorem witness_restart_context : let s := asks 4 [(0, 1), (1, 0x1FFFF0), (2, 2)] stopped
    (s.ctx (1 % 16)).created = true ∧ (s.ctx (1 % 16)).killed = false ∧ (s.ctx (1 % 16)).run = 3 ∧
    s.target (1 % 16) (0x1FFFF0 % 2 ^ 48) = true ∧ (s.ctx (1 % 16)).lastFault = some 16 ∧
    ((asks 4 [(0, 1), (2, 1)] stopped).hub.mbArg.map (·.1)) = [0, 2] := by decide +kernel
/-- Context 0 killed and stopped, with no request pending. -/
theorem witness_restart_firmware : let s : State := { prism [] with ctxs := [(0, { ctx0 with killed := true, run := 3 })] }
    s.hub.mbStatus ≠ 1 ∧ (s.ctx 0).killed = true ∧ (s.ctx 0).run = 3 ∧ s.Canonical := by decide +kernel

theorem witness_write_capability : capOk (0 : CapBits) = true ∧ capOk (mkCap 0 0xFF kScratch 0 0x1800000) = true ∧
    capKind (mkCap 0 0xFF kScratch 0 0x1800000) = kScratch ∧ capOk (mkCap 5 0xFF kObject 0 0x200000) = true ∧
    (stopped.obj (capObj (mkCap 5 0xFF kObject 0 0x200000))).map (fun o => (o.owner, o.kind)) = some (0, capKind (mkCap 5 0xFF kObject 0 0x200000)) ∧
    ((prism []).ctx (0 % 16)).created = true ∧ 5 < (6 : BitVec 8).toNat := by decide +kernel

def power (f : Core → Core) : State := (onCore0 (lab basic) f).modHub fun h => { h with drpthr := [(0, 0x10C)] }

theorem witness_power : (SMap.get 0x10C (power id).hub.drpthr 0).getLsbD 8 = true ∧ (SMap.get 0x10C (power id).hub.drpthr 3).getLsbD 8 = true ∧
    ((power id).core 15).stretch = 0 ∧ ((power fun c => { c with halve := 5 }).core 0).halve ≠ 0 ∧ ((power fun c => { c with stretch := 1 }).core 0).stretch = 1 ∧
    ((power fun c => { c with halve := 1 }).core 0).halve = 1 ∧ ((power fun c => { c with ballast := 1 }).core 0).ballast = 1 ∧
    (let c := (power fun c => { c with weights := [75], lastSum := 1100 }).core 0
     c.ballast = 0 ∧ c.weights.sum + 1024 < c.lastSum ∧ c.mode = .running) ∧
    ((power fun c => { c with ballast := 1, ballastCtx := some 3 }).core 0).ballastCtx = some 3 ∧
    (let c := (power fun c => { c with mode := .free, lastCtx := some 3, lastSum := 1100 }).core 0
     c.holds = false ∧ c.ballast = 0 ∧ c.weights.sum + 1024 < c.lastSum) := by decide +kernel

theorem witness_trip : TripSource.external.bit = some 15 ∧ (TripSource.temperature 8).bit = some 8 ∧ (TripSource.current 3).bit = some 12 := by
  decide +kernel

/-! The hub, checkpoints, links -/

def owing (debt : Nat) : State := { prism [] with ctxs := [(15, { ctx0 with energy := { EnergyPage.zero with debt := debt } })] }
def rec1 : IntRec := ⟨2, 0, 0, 0, 0⟩
theorem witness_hub : (15 : Nat) < 16 ∧ (1 : W64).toNat * 100000 ≤ ((owing 100000).ctx 15).energy.debt ∧
    ((owing 99999).ctx 15).energy.debt < (1 : W64).toNat * 100000 ∧ (prism []).hub.harm = true ∧ (prism []).hub.hpinen = false ∧
    ((prism []).modHub fun h => { h with hpinen := true }).hub.hpinen = true ∧
    ({ prism [] with hoist := [0xFFFFFFF0] } : State).hoist = 0xFFFFFFF0 :: [] ∧ 0xFFFFFFF0 + 16 ≤ (prism []).now ∧ (prism []).now ∉ (prism []).hoist ∧ (prism []).Canonical ∧
    ({ prism [] with irq := [rec1] } : State).irq = rec1 :: [] ∧ (prism []).hub.irtail + 1 ≠ (prism []).hub.irhead ∧
    ((prism []).modHub fun h => { h with elhead := 1 }).hub.eltail + 1 = ((prism []).modHub fun h => { h with elhead := 1 }).hub.elhead ∧
    (prism []).hub.eltail + 1 ≠ (prism []).hub.elhead := by
  decide +kernel

def ckrec : CkptRecord := ⟨7, FrontEnd.zero, [], [], [], EnergyPage.zero, 0, [], [], []⟩
/-- Extent 0 of object 5 still to be copied into object 9, with one byte set, or none; then the extents of l. -/
def ckLab (l : List (Nat × Nat)) (m : Memory) : State :=
  { prism [] with
    mem := m
    objs := (prism []).objs ++ [(9, ⟨false, 1, 0, 0, kObject, 0x1000000, 0, (List.range 8).map fun i => ⟨1, BitVec.ofNat 64 (0x1000000 + 0x200000 * i), 0, 0⟩⟩)]
    ctxs := [(0, { ctx0 with run := 3, ckptObj := 9, ckpt := some ⟨7, true, (5, 0) :: l, [], 0x1000, 0, ckrec⟩, saved := some ckrec })] }
theorem witness_checkpoint : ∀ l ∈ [[], [(6, 0)]], let s := ckLab l []
    (s.ctx 0).ckpt = some ⟨7, true, (5, 0) :: l, [], 0x1000, 0, ckrec⟩ ∧
    s.copyItem ⟨7, true, (5, 0) :: l, [], 0x1000, 0, ckrec⟩ = some (.inl (5, 0)) ∧ s.copySource (.inl (5, 0)) = (0x200000, []) ∧
    s.copyGranule 0 ⟨7, true, (5, 0) :: l, [], 0x1000, 0, ckrec⟩ 0x200000 [] = none ∧ ((5, 0) :: l).erase (5, 0) = l ∧
    (s.ctx 0).saved = some ckrec ∧ (s.ctx 0).created = true ∧ (s.ctx 0).killed = false ∧ (s.ctx 0).run = 3 ∧ s.alive 0 = [] ∧
    s.ctxOutstanding 0 = false ∧ s.restorable (s.ctx 0) ckrec = true := by decide +kernel
/-- Byte 0x28 of the extent differs from the target's. -/
theorem witness_checkpoint_granule : let s := ckLab [] [(0x200028, 7)]
    let k : Checkpoint := ⟨7, true, [(5, 0)], [], 0x1000, 0, ckrec⟩
    (s.ctx 0).ckpt = some k ∧ s.copyItem k = some (.inl (5, 0)) ∧ s.copySource (.inl (5, 0)) = (0x200000, [(0x28, 7)]) ∧
    s.copyGranule 0 k 0x200000 [(0x28, 7)] = some 0x20 ∧ s.frameHeld 9 0x1020 16 false = none ∧ s.Canonical ∧ 0x1000 % 16 = 0 ∧
    s.frameKey 9 0x1028 = some 0x1001028 := by decide +kernel

/-- 12 R313, 21 R422: a step copies that granule, at its place in the target; the next finds nothing left, and CKDONE takes the tag. -/
theorem test_checkpoint_granule : (answer (.ckptExtentCopied 0) (ckLab [] [(0x200028, 7)])).bind (fun t =>
    (answer (.ckptExtentCopied 0) t).map fun u =>
      (t.mem.read 0x1001028, (t.ctx 0).ckdone, (u.ctx 0).ckpt.isNone, (u.ctx 0).ckdone)) = some (7, 0, true, 7) := by decide +kernel

/-- All extents copied, one published shadow, or two, still to be copied. -/
theorem witness_checkpoint_shadows : ∀ l ∈ ([[], [5]] : List (List Nat)),
    let k : Checkpoint := ⟨7, true, [], 4 :: l, 0x1000, 0, ckrec⟩
    let s : State := { prism [] with ctxs := [(0, { ctx0 with ckpt := some k })] }
    (s.ctx 0).ckpt = some k ∧ s.copyItem k = some (.inr 4) ∧ s.copySource (.inr 4) = (0, []) ∧ s.copyGranule 0 k 0 [] = none := by
  decide +kernel

def link (n : Nat) : State := { prism [] with ports := [(15, ⟨true, 5, n, 3, [⟨1, 0, 0, .load 5 0 8, .hub 2⟩, ⟨2, 0, 0, .load 5 8 8, .hub 2⟩], 2, n⟩)], windows := [(2, ⟨5, 0, 0x200000, true, true⟩)] }
theorem witness_links : (15 : Nat) < 16 ∧ (SMap.get Port.init (link 15).ports 15).up = true ∧ 4 < (SMap.get Port.init (link 15).ports 15).expect ∧
    (SMap.get Port.init (link 15).ports 15).failures < 16 ∧ (SMap.get Port.init (link 15).ports 15).expect < 6 ∧
    16 ≤ (SMap.get Port.init (link 16).ports 15).failures ∧ 16 ≤ (SMap.get Port.init (link 16).ports 15).replays ∧
    (SMap.get Port.init (link 15).ports 15).replays < 16 ∧ (link 16).remotes = [] ∧ ((link 0).reachAll 0 false false ((link 0).extents 5 0x1FFFF8 8)).2 = .ok ∧
    (link 0).readVia 0 5 0x1FFFF8 8 = (List.replicate 8 0, false) ∧ (link 0).peerLoad 5 0x1FFFF8 8 = [] ∧ (link 16).held = [] ∧
    (link 0).peerStore 5 (atAddr 0x1FFFF8 (leBytes 8 7)) = [] ∧ (∀ f ∈ (SMap.get Port.init (link 0).ports 15).buffer, f.use = .hub 2) ∧
    ({ link 0 with objs := [] } : State).windowAccess 2 0 8 false = some (5, 0, 0) ∧
    (({ link 0 with objs := [] } : State).reachAll 0 false false (({ link 0 with objs := [] } : State).extents 5 0 8)).2 = .gone ∧
    (link 0).windowAccess 2 0x1FFFF8 8 true = some (5, 0x1FFFF8, 0) ∧ (link 0).windowAccess 2 0x1FFFF8 8 false = some (5, 0x1FFFF8, 0) ∧
    ((link 0).reachAll 0 true false ((link 0).extents 5 0x1FFFF8 8)).2 = .ok ∧ (link 0).windowAccess 2 0x1FFFF9 8 true = none := by
  decide +kernel

/-- Object 5 at a peer's home, and the same links. -/
def peerObj : State := { link 0 with objs := [(5, ⟨false, 1, 0, 0, kObject, 0x200000, 0, [⟨0x301, 0x200000, 0, 0⟩]⟩)] }
theorem witness_peer_window : ((peerObj.windowAccess 2 0x1FFFF8 8 true).map fun w =>
      let u := peerObj.reachAll w.2.2 true false (peerObj.extents w.1 w.2.1 8)
      (u.2, (u.1.peerStore w.1 (atAddr w.2.1 (leBytes 8 7))).length, (u.1.peerLoad w.1 w.2.1 8).length)) = some (.ok, 1, 1) := by
  decide +kernel

/-- A store and a load whose one flit the next acknowledgement names. -/
def asked (kind : RKind) : State :=
  { farLab (far kind .sent false) with ports := [(15, ⟨true, 5, 0, 3, [⟨1, 0, 0, .load 5 0 8, .access 7⟩], 1, 0⟩)] }
theorem witness_link_access : ∀ kind ∈ ([.store, .load] : List RKind),
    let r := far kind .sent false
    let s := asked kind
    let u : State := { s with ports := SMap.set s.ports 15 ((SMap.get Port.init s.ports 15).acked 2) }
    (SMap.get Port.init s.ports 15).up = true ∧ s.remote 7 = some r ∧ r.stage = .sent ∧ r.slot ≠ hostSlot ∧
      4 < (SMap.get Port.init s.ports 15).expect ∧ u.inFlight (.access 7) = false ∧
      u.readHeld (u.remotePort r) r.owner r.obj r.off r.size (some 7) = (List.replicate 8 0, false) := by decide +kernel

/-- 12 R306: a store to a peer home stands in the replay buffer until the link acknowledges it; then its byte is there. -/
theorem test_peer_store_acknowledged : (answer (.pennantFlitReceive 15 (.good 4 2 0 none)) (asked .store)).map (fun t =>
    (t.mem.read (hbmKey 0 (0x200000 + 0x1FFFF8)), t.remotes.map (·.stage))) = some (1, [.stored]) := by decide +kernel

/-- 21 R429: the peer has taken flits 0 and 1, and flit 2 stays in the replay buffer; a replay sends it again. -/
theorem test_flit_acknowledged : ((answer (.pennantFlitReceive 15 (.good 5 2 0 none)) (link 0)).bind fun t =>
    answer (.pennantFlitReceive 15 .replay) t).map (fun u =>
    let p := SMap.get Port.init u.ports 15
    (p.buffer.map (·.seq), p.sent, p.expect)) = some ([2], 0, 6) := by decide +kernel

/-- 12 R303, 21 R429: an in-sequence flit brings a store of a peer; two steps later its byte stands at its home. -/
theorem test_peer_store : ((answer (.pennantFlitReceive 15 (.good 5 0 0 (some (.store 5 0x1FFFF8 [7])))) (link 0)).bind fun t =>
    (answer (.translationWalk 0) t).bind fun u => answer (.remoteAccessPerform 0) u).map (fun u =>
    ((SMap.get Port.init u.ports 15).expect, u.mem.read (hbmKey 0 (0x200000 + 0x1FFFF8)))) = some (6, 7) := by decide +kernel

/-! ### Ill-formed terms, one for each check: refused by `wellFormed` -/

def ok0 : AtomOp := ⟨0, 0, 0, 0, 1, 0, false, 0, 0, 0, 0⟩
def illTerms : List Instr :=
  [.mfsr 1 0x005 yes, .mtsr 1 0x140 yes, .cnarrow 1 2 63 yes, .cget 1 2 5 yes, .lds 1 1 1 0 0 false yes ⟨0, 3⟩,
   .sts 1 1 1 0 0 yes ⟨0, 3⟩, .vld 384 1 1 0 pyes plain, .vst 1 1 1 0 pyes ⟨0, 3⟩, .vldb 511 1 1 0 pyes plain, .vlds 384 1 1 1 0 pyes plain,
   .vsts 384 1 1 1 0 pyes plain, .vldx 1 1 1 384 false pyes plain, .vstx 384 1 1 0 true pyes plain, .amo { ok0 with d := 1 } eyes,
   .amor { ok0 with fn := 10 } eyes, .amor { ok0 with cmp := 1 } eyes, .amof { ok0 with fn := 1 } eyes, .amor { ok0 with order := 1, scope := 5 } eyes,
   .amo { ok0 with scope := 1 } eyes, .drain 5 false eyes]
def illTerms2 : List Instr :=
  [.cplvl 10 1 2 3 eyes, .cpsrc 1 1 { eyes with waitSem := 1 }, .cpdst 1 1 { eyes with sigInc := 1 },
   .cpgo ⟨0, 0, 0, 0, 0, false, false, 0, 0, 0, false, 0⟩ eyes, .cpgo ⟨0, 1, 0, 0, 3, false, false, 0, 0, 0, false, 0⟩ eyes,
   .cpgo ⟨0, 1, 0, 0, 0, false, false, 0, 0, 0, true, 224⟩ eyes, .cpfill 1 1 1 0 3 eyes, .cppub 4 4 eyes, .semsig eyes,
   .semwait 1 1 1 false { eyes with waitEn := true }, .barinit 0 1 0 0 false eyes, .barinit 0x100 1 0 3 false eyes, .bararr 0x1E0 eyes,
   .barwait 1 eyes, .barexp 0 1 eyes, .barqry 0xFF 1 eyes, .yield 1 1 { eyes with waitEn := true }, .csend 384 1 eyes, .crecv 384 1 eyes,
   .zinject ⟨3, 1, 0, 0, 0, 0, 0, 0⟩ eyes, .zinject ⟨0, 1, 0, 32, 0, 0, 0, 0⟩ eyes, .ctxsave 1 1 0x80 0 eyes, .ctxload 1 1 1 1 eyes, .wdog false 1 eyes]
def illTerms3 : List Instr :=
  [.vadd (vop 1 2 3 0 9 0), .vadd (vop 1 2 3 4 0 0), .vadd (vop 384 2 3 0 0 0), .vand (vop 1 2 3 0 1 0), .vcmp (vop 0x33 2 3 0 0 0),
   .vunpt5 (vop 380 2 0 0 0 0), .vsort (vop 383 2 3 0 0 0), .vget (vop 1 2 128 0 0 0), .pset (vop 1 0 129 0 0 0), .vcvt (vop 1 2 3 0 2 2),
   .mldw { mop 0 0 1 1 with tile := 1 }, .mldw (mop 0 1 1 1), .mstr (mop 0 511 2 1), .mstrv ⟨0, 0, 0, 0, 100, 0, false, 0, 285⟩,
   .mout { mop 0 0 1 1 with scale := 63 }, .moutv ⟨0, 0, 0, 0, 2, 0, false, 0, 0⟩, .mshape ⟨0, 0, 0, 0, 0, 0, false, 0, 16⟩]
def illTerms4 : List Instr :=
  [.sbr 9 0 0 0, .sbr 7 0 1 0, .sshl 0 0 64, .sld ⟨0, false, true, false, 0, 0, 1, 0⟩, .sst ⟨0, true, false, false, 0, 0, 0, 0⟩,
   .bind 0 0 0 0 15 0, .task { tw 0 with cls := 3 }, .task { tw 0 with gang := 7 }, .task { tw 0 with koff := 32 }, .task { tw 0 with prof := 6 },
   .opd ⟨0, 3, 0, false, 0, 1⟩, .opd ⟨1, 3, 0, true, 0, 0x100000000⟩, .opd ⟨0, 0, 0, false, 0, 0⟩, .copy (cw 0), .copy { cw 1 with trans := 3 },
   .copy { cw 1 with sfmt := 14 }, .cdim ⟨10, 1, 0, 0⟩, .cdim ⟨0, 0, 0, 0⟩, .svar 0 4, .quota 0 0 0 0, .quota 0 257 0 0, .quota 0 1 4097 0]

theorem test_ill_formed_terms_1 : illTerms.all (fun i => !wellFormed i) = true := by decide +kernel
theorem test_ill_formed_terms_2 : illTerms2.all (fun i => !wellFormed i) = true := by decide +kernel
theorem test_ill_formed_terms_3 : illTerms3.all (fun i => !wellFormed i) = true := by decide +kernel
theorem test_ill_formed_terms_4 : illTerms4.all (fun i => !wellFormed i) = true := by decide +kernel

/-! ### Single steps: expected results worked out from the rules named -/

/-- What a scalar instruction queues: register, value and latency. -/
def queued (i : Instr) (l : SMap W64) : Option (List (SDest × Nat × Nat × Bool)) :=
  (answer i (lab (withS l))).map fun t => (t.strand 0).pend.map fun p => (p.dst, p.value.toNat, p.due, p.dz)
/-- What an instruction adds to the exposed results of a strand: register, lanes 0 and 1 of the value, latency. -/
def exposes (i : Instr) (st : Strand) : Option (List (EDest × Nat × Nat × Nat)) :=
  (answer i (lab st)).map fun t => (t.strand 0).exposed.map fun x => (x.dst, (lane x.value 0).toNat, (lane x.value 1).toNat, x.due)

/-- 06 R151: addition wraps. -/
theorem test_add_wraps : queued (.add 1 2 3 yes) [(2, BitVec.allOnes 64), (3, 2)] = some [(.s 1, 1, 1, false)] := by decide +kernel
/-- 06 R151: the immediate is sign-extended. -/
theorem test_addi_negative : queued (.addi 1 2 0xFF yes) [(2, 5)] = some [(.s 1, 4, 1, false)] := by decide +kernel
/-- 06 R151: division truncates toward zero, the remainder has the sign of the dividend: -7 / 2 = -3, remainder -1. -/
theorem test_div_negative : queued (.div 1 2 3 yes) [(2, -7), (3, 2)] = some [(.s 1, 2 ^ 64 - 3, 18, false)] := by decide +kernel
theorem test_rem_negative : queued (.rem 1 2 3 yes) [(2, -7), (3, 2)] = some [(.s 1, 2 ^ 64 - 1, 18, false)] := by decide +kernel
/-- 06 R151: a zero divisor gives all ones and sets DZ. -/
theorem test_divn_zero : queued (.divn 1 2 3 yes) [(2, 9)] = some [(.s 1, 2 ^ 64 - 1, 18, true)] := by decide +kernel
/-- 06 R151: the high half of a signed product: -1 × 2 has the high half -1, unsigned 1. -/
theorem test_mulh : queued (.mulh 1 2 3 yes) [(2, -1), (3, 2)] = some [(.s 1, 2 ^ 64 - 1, 3, false)] := by decide +kernel
theorem test_mulhn : queued (.mulhn 1 2 3 yes) [(2, -1), (3, 2)] = some [(.s 1, 1, 3, false)] := by decide +kernel
/-- 06 R154: LIL sign-extends, LIH shifts in 14 bits. -/
theorem test_lil : queued (.lil 7 0x3FFF yes) [] = some [(.s 7, 2 ^ 64 - 1, 1, false)] := by decide +kernel
theorem test_lih : queued (.lih 7 0x3450 yes) [(7, 0x48)] = some [(.s 7, 0x123450, 1, false)] := by decide +kernel
/-- 06 R153: lt is signed, ltn is not. -/
theorem test_cmp_signed : queued (.cmp 2 1 2 3 yes) [(2, -1), (3, 0)] = some [(.q 1, 1, 1, false)] := by decide +kernel
theorem test_cmp_unsigned : queued (.cmp 4 1 2 3 yes) [(2, -1), (3, 0)] = some [(.q 1, 0, 1, false)] := by decide +kernel
/-- 06 R152: leading zeros of zero are 64. -/
theorem test_clz_zero : queued (.clz 1 2 yes) [] = some [(.s 1, 64, 1, false)] := by decide +kernel
/-- 06 R144: under a false guard nothing is queued; SEL writes all the same. -/
theorem test_false_guard : queued (.add 1 2 3 no) [(2, 1)] = some [] := by decide +kernel
theorem test_sel_false : queued (.sel 1 2 3 no) [(2, 5), (3, 6)] = some [(.s 1, 6, 1, false)] := by decide +kernel

def lanes2 (a b : Nat) : VReg := BitVec.ofNat 4096 (a + 2 ^ 32 * b)
def withV (l : SMap VReg) : Strand := { basic with vec := { basic.vec with v := l } }

/-- 09 R225: i32 addition wraps, saturating addition stops at the ends. -/
theorem test_vadd : exposes (.vadd (vop 1 2 3 0 0 0)) (withV [(2, lanes2 0x7FFFFFFF 1), (3, lanes2 1 2)]) = some [(.v 1, 0x80000000, 3, 2)] := by
  decide +kernel
theorem test_vadds : exposes (.vadds (vop 1 2 3 0 0 0)) (withV [(2, lanes2 0x7FFFFFFF 1), (3, lanes2 1 2)]) = some [(.v 1, 0x7FFFFFFF, 3, 2)] := by
  decide +kernel
/-- 09 R235: k + x, k - x by the sign of t. -/
theorem test_vtacc : exposes (.vtacc (vop 4 1 2 3 0 0)) (withV [(1, lanes2 1 0xFFFFFFFF), (2, lanes2 5 7), (3, lanes2 10 10)]) =
    some [(.v 4, 15, 3, 2)] := by decide +kernel
/-- 09 R226: 1.0 + 1.0 = 2.0 and 1.5 × -2.0 = -3.0. -/
theorem test_vfadd : exposes (.vfadd (vop 1 2 3 0 2 0)) (withV [(2, lanes2 0x3F800000 0), (3, lanes2 0x3F800000 0)]) =
    some [(.v 1, 0x40000000, 0, 4)] := by decide +kernel
theorem test_vfmul : exposes (.vfmul (vop 1 2 3 0 2 0)) (withV [(2, lanes2 0x3FC00000 0), (3, lanes2 0xC0000000 0)]) =
    some [(.v 1, 0xC0400000, 0, 4)] := by decide +kernel
/-- 09 R236: a rotation by one lane. -/
theorem test_vrot : exposes (.vrot (vop 1 2 1 0 0 0)) (withV [(2, lanes2 5 6)]) = some [(.v 1, 6, 0, 2)] := by decide +kernel

/-- 07 R172: a byte of 0xFF sign-extends, six cycles from issue. -/
theorem test_lds_sign : (answer (.lds 6 1 0 0 0 true yes plain) { lab basic with mem := [(spadKey 0 0, 0xFF)] }).map
    (fun t => (t.strand 0).exposed.map fun x => (x.dst, x.value.toNat % 2 ^ 64, x.due)) = some [(.s 6, 2 ^ 64 - 1, 6)] := by decide +kernel
/-- 07 R172, R175: AMOR.add on the scratchpad returns the old word and leaves the sum. -/
theorem test_amor_add : (answer (.amor { ok0 with d := 1, v := 3, size := true } eyes)
    { lab (withS [(3, 5)]) with mem := [(spadKey 0 0, 41)] }).map (fun t => ((t.strand 0).pend.map fun p => (p.dst, p.value.toNat, p.due), t.mem)) =
    some ([(.s 1, 41, 6)], [(spadKey 0 0, 46)]) := by decide +kernel

/-- 18 R351, R353: HALT at task level takes PRIV with the opcode as its value, and the handler starts at its code. -/
theorem test_halt_traps : (answer (.halt 5 eyes) (handled basic)).map (fun t =>
    ((t.strand 0).id.hndl, (t.strand 0).id.priv, (t.strand 0).sc.pc, (t.strand 0).tr.trapv.toNat)) = some (true, 1, 0x40, 0x064) := by
  decide +kernel
/-- 18 R383: ERET leaves the handler for the bundle that trapped. -/
theorem test_eret : (answer (.eret false eyes) (lab inHandler)).map (fun t =>
    ((t.strand 0).id.hndl, (t.strand 0).id.priv, (t.strand 0).sc.pc, (t.strand 0).fl.bubbles)) = some (false, 0, 64, 2) := by decide +kernel
/-- 05 R132: stream scalars wrap. -/
theorem test_sadd : (answer (.sadd 1 2 3) (fe { FrontEnd.zero with g := [(2, BitVec.allOnes 64), (3, 2)] })).map (fun t =>
    ((t.ctx 0).fe.reg 1, (t.ctx 0).fe.spc)) = some (1, 16) := by decide +kernel
/-- 05 R131: SBR taken and not. -/
theorem test_sbr : [2, 3].map (fun v => (answer (.sbr 1 2 3 0x40) (fe { FrontEnd.zero with g := [(2, 2), (3, BitVec.ofNat 64 v)] })).map
    fun t => (t.ctx 0).fe.spc) = [some 0x40, some 16] := by decide +kernel
/-- 21 R417: a trip by the external signal keeps TRIPCAUSE alone. -/
theorem test_trip : (answer (.thermalTrip .external) (lab basic)).map (fun t => (t.on, t.hub.tripcause.toNat, t.objs.length)) =
    some (false, 2 ^ 15 + 2 ^ 32, 0) := by decide +kernel

end Sys2Proof.Tests
end

section
/-!
PROOFS. Memory stays in its one form under every step (O4). First the frames: what leaves memory as it is, one lemma
for each operation of the state, in the order of their definitions.
-/

namespace Sys2Proof.Machine

@[simp] theorem State.mem_ite (c : Prop) [Decidable c] (s t : State) :
    (if c then s else t).mem = if c then s.mem else t.mem := apply_ite ..
@[simp] theorem State.foldl_mem {α : Type} {f : State → α → State} (hf : ∀ t x, (f t x).mem = t.mem) (l : List α)
    (s : State) : (l.foldl f s).mem = s.mem := by
  induction l generalizing s with
  | nil => rfl
  | cons x l ih => rw [List.foldl_cons, ih, hf]

@[simp] theorem State.prunePast_mem (s : State) : s.prunePast.mem = s.mem := by
  unfold State.prunePast; split <;> simp
@[simp] theorem State.forgetPast_mem (s : State) : s.forgetPast.mem = s.mem := by simp [State.forgetPast]
@[simp] theorem State.setFull_mem (s : State) (k a b) : (s.setFull k a b).mem = s.mem := rfl
@[simp] theorem State.setFulls_mem (s : State) (k b l) : (s.setFulls k b l).mem = s.mem := by
  induction l generalizing s with
  | nil => rfl
  | cons a l ih => exact ih _
@[simp] theorem State.modEntry_mem (s : State) (tid f) : (s.modEntry tid f).mem = s.mem := rfl
@[simp] theorem State.fireHoist_mem (s : State) (src tag ctx) : (s.fireHoist src tag ctx).mem = s.mem := by
  unfold State.fireHoist
  extract_lets h old put
  have hput (v t) : (put v t).mem = t.mem := State.mem_modHub ..
  split
  · exact hput ..
  · split
    · dsimp only
      rw [State.mem_modHub, hput]
    · split
      · rfl
      · rw [State.mem_modHub, hput]
@[simp] theorem State.writeSR_mem (s : State) (k n v) : (s.writeSR k n v).mem = s.mem := by simp [State.writeSR]
@[simp] theorem State.charge_mem (s : State) (x amt) : (s.charge x amt).mem = s.mem := rfl
@[simp] theorem State.overheadCharge_mem (s : State) (amt) : (s.overheadCharge amt).mem = s.mem := rfl
@[simp] theorem State.chargeStrand_mem (s : State) (st amt) :
    (s.chargeStrand st amt).mem = s.mem := by simp [State.chargeStrand]
@[simp] theorem State.chargeOwner_mem (s : State) (o amt) : (s.chargeOwner o amt).mem = s.mem := by simp [State.chargeOwner]
@[simp] theorem State.escape_mem (s : State) (k x) : (s.escape k x).mem = s.mem := by simp [State.escape]
@[simp] theorem State.enqueue_mem (s : State) (k kind x off size data comparand fn bytes dst sx cls rel acq scope held) :
    (s.enqueue k kind x off size data comparand fn bytes dst sx cls rel acq scope held).mem = s.mem := rfl
@[simp] theorem State.late_mem (s : State) (k f) : (s.late k f).mem = s.mem := rfl
@[simp] theorem State.slotLate_mem (s : State) (k c v) : (s.slotLate k c v).mem = s.mem := rfl
@[simp] theorem State.frameFault_mem (s : State) (k x) : (s.frameFault k x).mem = s.mem := rfl
@[simp] theorem State.storeOut_mem (s : State) (k x bs cls) : (s.storeOut k x bs cls).mem = s.mem := by simp [State.storeOut]
@[simp] theorem State.raiseV_mem (s : State) (k bits resn addr slot) :
    (s.raiseV k bits resn addr slot).mem = s.mem := by simp [State.raiseV]
@[simp] theorem State.raiseM_mem (s : State) (k bits addr) : (s.raiseM k bits addr).mem = s.mem := by simp [State.raiseM]
@[simp] theorem State.mergeNow_mem (s : State) (k) : (s.mergeNow k).mem = s.mem := rfl
@[simp] theorem State.schedule_mem (s : State) (k banks) : (s.schedule k banks).mem = s.mem := rfl
@[simp] theorem State.bufferCells_mem (s : State) (k cs) : (s.bufferCells k cs).mem = s.mem := rfl
@[simp] theorem State.landLoad_mem (s : State) (k x v act f) : (s.landLoad k x v act f).mem = s.mem := by simp [State.landLoad]
@[simp] theorem State.writeBack_mem (s : State) (port c) : (s.writeBack port c).mem = s.mem := by simp [State.writeBack]
@[simp] theorem State.logEntry_mem (s : State) (port obj ext) :
    (s.logEntry port obj ext).mem = s.mem := by simp [State.logEntry]
@[simp] theorem State.notice_mem (s : State) (obj ext acc hw) : (s.notice obj ext acc hw).mem = s.mem := by simp [State.notice]
@[simp] theorem State.reach_mem (s : State) (port obj ext write img) : (s.reach port obj ext write img).1.mem = s.mem := by
  have hw : (if (s.cached port obj ext).isSome then (s, Finding.ok) else s.walk port obj ext).1.mem = s.mem := by
    split <;> simp
  unfold State.reach
  extract_lets frame
  split
  · rfl
  · revert hw
    generalize (if (s.cached port obj ext).isSome then (s, Finding.ok) else s.walk port obj ext) = p
    intro hw
    dsimp only
    split
    · split
      · exact hw
      · split
        · exact hw
        · split_ifs <;> simp [hw]
    · exact hw
@[simp] theorem State.reachAll_mem (s : State) (port write img l) : (s.reachAll port write img l).1.mem = s.mem := by
  induction l generalizing s with
  | nil => rfl
  | cons x l ih =>
    have hr := s.reach_mem port x.1 x.2 write img
    rw [State.reachAll]
    split
    · next t e => rw [ih, ← hr, e]
    · exact hr
@[simp] theorem State.noteLines_mem (s : State) (obj bs) : (s.noteLines obj bs).mem = s.mem := rfl
@[simp] theorem State.countParts_mem (s : State) (a ps) : (s.countParts a ps).mem = s.mem := by simp [State.countParts]
@[simp] theorem State.modPeri_mem (s : State) (ctx f) : (s.modPeri ctx f).mem = s.mem := rfl
@[simp] theorem State.sendPeer_mem (s : State) (use l) : (s.sendPeer use l).mem = s.mem := by simp [State.sendPeer]
@[simp] theorem State.postPeer_mem (s : State) (slot num o core ckind obj bs flits) :
    (s.postPeer slot num o core ckind obj bs flits).mem = s.mem := by simp [State.postPeer]
@[simp] theorem State.imageReach_mem (s : State) (k o a n write) : (s.imageReach k o a n write).1.mem = s.mem := by
  simp only [State.imageReach]; split <;> simp
@[simp] theorem State.sendHeld_mem (s : State) (k o ckind obj off bs cmd) :
    (s.sendHeld k o ckind obj off bs cmd).mem = s.mem := rfl
@[simp] theorem State.dropCommands_mem (s : State) (p) : (s.dropCommands p).mem = s.mem := rfl
@[simp] theorem State.freeDeparted_mem (s : State) (o) : (s.freeDeparted o).mem = s.mem := rfl
@[simp] theorem State.sideReach_mem (s : State) (g o x off n write) : (s.sideReach g o x off n write).1.mem = s.mem := by
  simp only [State.sideReach]
  split
  · split <;> simp
  · split
    · split
      · split
        · rfl
        · split <;> simp
      · rfl
    · simp
@[simp] theorem State.modCmd_mem (s : State) (k id f) : (s.modCmd k id f).mem = s.mem := rfl
@[simp] theorem State.draw_mem (s : State) : s.draw.2.mem = s.mem := by
  unfold State.draw; split <;> simp
@[simp] theorem State.landExposed_mem (s : State) (k e) : (s.landExposed k e).mem = s.mem := by simp [State.landExposed]
@[simp] theorem State.matrixReads_mem (s : State) (k vec) : (s.matrixReads k vec).mem = s.mem := rfl
@[simp] theorem State.startOp_mem (s : State) (k o) : (s.startOp k o).mem = s.mem := rfl
@[simp] theorem State.startStream_mem (s : State) (k kind o prof af) :
    (s.startStream k kind o prof af).mem = s.mem := by simp [State.startStream]
@[simp] theorem State.buildOperand_mem (s : State) (tid role p) : (s.buildOperand tid role p).1.mem = s.mem := by
  unfold State.buildOperand; split <;> simp
@[simp] theorem State.buildOperands_mem (s : State) (tid role l) : (s.buildOperands tid role l).1.mem = s.mem := by
  induction l generalizing s with
  | nil => rfl
  | cons p l ih => simp [State.buildOperands, ih]
@[simp] theorem State.dropViews_mem (s : State) (tid) : (s.dropViews tid).mem = s.mem := rfl
@[simp] theorem State.addSem_mem (s : State) (k n i) : (s.addSem k n i).mem = s.mem := by simp [State.addSem]
@[simp] theorem State.overflow_mem (s : State) (k) : (s.overflow k).mem = s.mem := by simp [State.overflow]
@[simp] theorem State.sendUpdate_mem (s : State) (k b kind waits) : (s.sendUpdate k b kind waits).mem = s.mem := rfl
@[simp] theorem State.setCell_mem (s : State) (n c) : (s.setCell n c).mem = s.mem := rfl
@[simp] theorem State.sendEvent_mem (s : State) (core o a left) : (s.sendEvent core o a left).mem = s.mem := rfl
@[simp] theorem State.countParked_mem (s : State) (n) : (s.countParked n).mem = s.mem := by
  simp only [State.countParked]; split <;> simp
@[simp] theorem State.releaseAll_mem (s : State) (bar phase gang delta left) :
    (s.releaseAll bar phase gang delta left).mem = s.mem := State.foldl_mem (by intros; rfl) _ _
@[simp] theorem State.judgeCell_mem (s : State) (n) : (s.judgeCell n).mem = s.mem := by simp [State.judgeCell]
@[simp] theorem State.parkCell_mem (s : State) (n) : (s.parkCell n).mem = s.mem := by simp [State.parkCell]
@[simp] theorem State.parkCells_mem (s : State) : s.parkCells.mem = s.mem := by simp [State.parkCells]
@[simp] theorem State.unthrottle_mem (s : State) : s.unthrottle.mem = s.mem := by simp [State.unthrottle]
@[simp] theorem State.claimRuns_mem (s : State) (tid ops l) : (s.claimRuns tid ops l).1.mem = s.mem := by
  induction l generalizing s with
  | nil => rfl
  | cons r l ih => simp [State.claimRuns, ih]
@[simp] theorem State.claim_mem (s : State) (tid) : (s.claim tid).1.mem = s.mem := by
  unfold State.claim
  split
  · rfl
  · split <;> simp
@[simp] theorem State.nextClaim_mem (s : State) (k) : (s.nextClaim k).1.mem = s.mem := by
  simp only [State.nextClaim]
  split
  · rfl
  · split_ifs <;> simp
@[simp] theorem State.modRemote_mem (s : State) (id f) : (s.modRemote id f).mem = s.mem := rfl
@[simp] theorem State.stageTo_mem (s : State) (id g) : (s.stageTo id g).mem = s.mem := rfl
@[simp] theorem State.walkAll_mem (s : State) (port l) : (s.walkAll port l).1.mem = s.mem := by
  induction l generalizing s with
  | nil => rfl
  | cons x l ih =>
    have hw := s.walk_mem port x.1 x.2
    rw [State.walkAll]
    split
    · exact ih s
    · split
      · next t e => rw [ih, ← hw, e]
      · exact hw
@[simp] theorem State.decodeFault_mem (s : State) (x r ext buf off) : (s.decodeFault x r ext buf off).mem = s.mem := rfl
@[simp] theorem State.commitFe_mem (s : State) (x fe) : (s.commitFe x fe).mem = s.mem := rfl
@[simp] theorem State.commit_mem (s : State) (x f) : (s.commit x f).mem = s.mem := rfl
@[simp] theorem State.prismRead_mem (s : State) (now obj off n) : (s.prismRead now obj off n).1.mem = s.mem := by
  have hr := s.reachAll_mem (s.hubPort obj off) false false (s.extents obj off n)
  simp only [State.prismRead]
  split
  · next t e => rw [e] at hr; split_ifs <;> exact hr
  · next t r _ e => rw [e] at hr; exact hr
@[simp] theorem State.sldValue_mem (s : State) (x o obj off v) : (s.sldValue x o obj off v).2.mem = s.mem := by
  unfold State.sldValue; split <;> simp
@[simp] theorem State.take_mem (s : State) (x e) : (s.take x e).mem = s.mem := rfl
@[simp] theorem State.simpleEntry_mem (s : State) (x kind prods f) : (s.simpleEntry x kind prods f).mem = s.mem := rfl
@[simp] theorem State.unpark_mem (s : State) (x b v) : (s.unpark x b v).mem = s.mem := rfl
@[simp] theorem State.takeWork_mem (s : State) (x p) : (s.takeWork x p).mem = s.mem := by simp [State.takeWork]
@[simp] theorem State.withWord_mem (s : State) (x p) : (s.withWord x p).mem = s.mem := by simp [State.withWord]
theorem State.takeShadow_mem {s : State} {x seglog tid n t} (e : s.takeShadow x seglog tid = some (n, t)) : t.mem = s.mem := by
  simp only [State.takeShadow] at e
  split at e
  · cases e
  · split_ifs at e
    cases e; rfl
@[simp] theorem State.queueFill_mem (s : State) (tid p j from_ to_) : (s.queueFill tid p j from_ to_).mem = s.mem := rfl
theorem State.renameOne_mem {s t : State} {x} (e : s.renameOne x = some t) : t.mem = s.mem := by
  unfold State.renameOne at e
  extract_lets c at e
  split at e
  · cases e
  split at e
  swap
  · cases e
  split at e
  · cases e
  split at e
  · cases e
  split at e
  · cases e
  next n s1 h1 =>
    extract_lets twin at e
    have htwin (m s2) (h : twin = some (m, s2)) : s2.mem = s1.mem := by
      unfold twin at h
      split_ifs at h
      · exact State.takeShadow_mem h
      · cases h; rfl
    clear_value twin
    split at e
    · cases e
    next m s2 =>
      cases e
      split_ifs <;> simp [htwin m s2 rfl, State.takeShadow_mem h1]
@[simp] theorem State.finishWork_mem (s : State) (x) : (s.finishWork x).mem = s.mem := by
  simp only [State.finishWork]
  split
  · split
    · split <;> simp
    · rfl
  · rfl
@[simp] theorem State.setPrio_mem (s : State) (x level) : (s.setPrio x level).mem = s.mem := rfl
@[simp] theorem State.modTask_mem (s : State) (tid f) : (s.modTask tid f).mem = s.mem := rfl
@[simp] theorem State.updateDeps_mem (s : State) : s.updateDeps.mem = s.mem := by simp [State.updateDeps]
@[simp] theorem State.verify_mem (s : State) (tid) : (s.verify tid).mem = s.mem := by simp [State.verify]
@[simp] theorem State.sendTo_mem (s : State) (k st) : (s.sendTo k st).mem = s.mem := rfl
@[simp] theorem State.startRun_mem (s : State) (e w code role att ks) : (s.startRun e w code role att ks).mem = s.mem := by
  simp only [State.startRun, State.modEntry_mem]
  rw [State.foldl_mem fun t p => t.sendTo_mem _ _]
  exact s.buildOperands_mem ..
@[simp] theorem State.assignEngines_mem (s : State) (l) : (s.assignEngines l).mem = s.mem := by
  induction l generalizing s with
  | nil => rfl
  | cons x l ih => simp only [State.assignEngines]; split <;> simp [ih]
@[simp] theorem State.servedBy_mem (s t : State) (x) : (s.servedBy t x).mem = t.mem := rfl
theorem State.startChild_mem {s t : State} {x p k} (e : s.startChild x p k = some t) : t.mem = s.mem := by
  simp only [State.startChild] at e
  split at e
  · cases e
  · split at e
    · cases e; rfl
    · cases e
theorem State.tryPool_mem {s t : State} {x n} (e : s.tryPool x n = some t) : t.mem = s.mem := by
  simp only [State.tryPool] at e
  split at e
  · cases e
  · split at e
    · cases e
    · exact State.startChild_mem e
    · split at e
      · cases e
      · obtain ⟨u, hu, ht⟩ := Option.bind_eq_some_iff.1 e
        rw [State.startChild_mem ht, State.startChild_mem hu]
@[simp] theorem State.startFirmware_mem (s : State) : s.startFirmware.mem = s.mem := by
  unfold State.startFirmware; split <;> simp
@[simp] theorem State.agePool_mem (s : State) : s.agePool.mem = s.mem := rfl
@[simp] theorem State.becomeReady_mem (s : State) (tid) : (s.becomeReady tid).mem = s.mem := rfl
@[simp] theorem State.queueWritebacks_mem (s : State) (e b) : (s.queueWritebacks e b).mem = s.mem := rfl
@[simp] theorem State.invalidate_mem (s : State) (obj ext) : (s.invalidate obj ext).mem = s.mem := by simp [State.invalidate]
@[simp] theorem State.rewalk_mem (s : State) (obj ext) : (s.rewalk obj ext).mem = s.mem := rfl
@[simp] theorem State.swap0_mem (s : State) (obj ext n m) : (s.swap0 obj ext n m).mem = s.mem := by simp [State.swap0]
@[simp] theorem State.abandonCopy_mem (s : State) (x) : (s.abandonCopy x).mem = s.mem := by
  unfold State.abandonCopy; split <;> simp
@[simp] theorem State.postUnplaceable_mem (s : State) : s.postUnplaceable.mem = s.mem := by simp [State.postUnplaceable]
@[simp] theorem State.releaseShadows_mem (s : State) : s.releaseShadows.mem = s.mem :=
  State.foldl_mem (by intros; rfl) _ _
@[simp] theorem State.keepReads_mem (s : State) (e) : (s.keepReads e).mem = s.mem := by simp [State.keepReads]
@[simp] theorem State.discard_mem (s : State) (ms by_) : (s.discard ms by_).mem = s.mem := rfl
@[simp] theorem State.publish_mem (s : State) (e) : (s.publish e).mem = s.mem := by simp [State.publish]
@[simp] theorem State.sendStore_mem (s : State) (e obj off n v) : (s.sendStore e obj off n v).mem = s.mem := rfl
@[simp] theorem State.forget_mem (s : State) (x tid) : (s.forget x tid).mem = s.mem := rfl
@[simp] theorem State.recordFault_mem (s : State) (x f words) :
    (s.recordFault x f words).mem = s.mem := by simp [State.recordFault]
@[simp] theorem State.enterFault_mem (s : State) (x f) : (s.enterFault x f).mem = s.mem := by simp [State.enterFault]
@[simp] theorem State.restoreFe_mem (s : State) (x before) : (s.restoreFe x before).mem = s.mem := rfl
@[simp] theorem State.runDone_mem (s : State) (tid role) : (s.runDone tid role).mem = s.mem := by
  unfold State.runDone; split <;> simp
@[simp] theorem State.countEnd_mem (s : State) (st) : (s.countEnd st).mem = s.mem := by simp [State.countEnd]
@[simp] theorem State.dropGangs_mem (s : State) : s.dropGangs.mem = s.mem := rfl
@[simp] theorem State.endStrand_mem (s : State) (k) : (s.endStrand k).mem = s.mem := by simp [State.endStrand]
@[simp] theorem State.moveExtent_mem (s : State) (obj ext home unit base) :
    (s.moveExtent obj ext home unit base).mem = s.mem := by simp [State.moveExtent]
@[simp] theorem State.takeNotice_mem (s : State) : s.takeNotice.mem = s.mem := by simp [State.takeNotice]
@[simp] theorem State.answer_mem (s : State) (status result) : (s.answer status result).mem = s.mem := by simp [State.answer]
@[simp] theorem State.putObject_mem (s : State) (id r es) : (s.putObject id r es).mem = s.mem := rfl
@[simp] theorem State.dropObject_mem (s : State) (id o) : (s.dropObject id o).mem = s.mem := by
  unfold State.dropObject
  rw [State.foldl_mem fun t i => t.rewalk_mem id i]
  exact State.foldl_mem (fun t i => t.invalidate_mem id i) _ s
@[simp] theorem State.makeContext_mem (s : State) (x sobj frame heap ckpt d) :
    (s.makeContext x sobj frame heap ckpt d).mem = s.mem := rfl
@[simp] theorem State.emptyPane_mem (s : State) (chip) : (s.emptyPane chip).mem = s.mem := by
  refine State.foldl_mem (fun t p => ?_) _ s
  dsimp only
  split
  · rfl
  · split
    · exact State.foldl_mem (fun u x => u.moveExtent_mem ..) _ t
    · refine State.foldl_mem (fun u x => ?_) _ t
      split <;> simp
@[simp] theorem State.retireChip_mem (s : State) (chip) : (s.retireChip chip).mem = s.mem := by simp [State.retireChip]
@[simp] theorem State.judge_mem (s : State) (chip) : (s.judge chip).mem = s.mem := by simp [State.judge]
@[simp] theorem State.suspect_mem (s : State) (chip n) : (s.suspect chip n).mem = s.mem := by simp [State.suspect]
@[simp] theorem State.leaveRetired_mem (s : State) : s.leaveRetired.mem = s.mem := by simp [State.leaveRetired]
@[simp] theorem State.refill_mem (s : State) (e role) : (s.refill e role).mem = s.mem := by
  refine State.foldl_mem (fun t p => ?_) _ s
  split
  · rfl
  · exact State.foldl_mem (fun u g => u.queueFill_mem ..) _ t
@[simp] theorem State.chargeCheck_mem (s : State) (c) : (s.chargeCheck c).mem = s.mem := by simp [State.chargeCheck]
@[simp] theorem State.discardHeld_mem (s : State) (tid role) : (s.discardHeld tid role).mem = s.mem := rfl
@[simp] theorem State.countVote_mem (s : State) : s.countVote.mem = s.mem := rfl
@[simp] theorem State.restart_mem (s : State) (k) : (s.restart k).mem = s.mem := by simp [State.restart]
@[simp] theorem State.checkFault_mem (s : State) (k f abs mult) : (s.checkFault k f abs mult).mem = s.mem := rfl
@[simp] theorem State.turnDeparted_mem (s : State) (o b old new core) : (s.turnDeparted o b old new core).mem = s.mem := rfl
@[simp] theorem State.beginImage_mem (s : State) (k) : (s.beginImage k).mem = s.mem := by
  simp only [State.beginImage]; split <;> simp
@[simp] theorem State.unplaceGang_mem (s : State) (g) : (s.unplaceGang g).mem = s.mem := by simp [State.unplaceGang]
@[simp] theorem State.beginRestoreBank_mem (s : State) (k) : (s.beginRestoreBank k).mem = s.mem := by
  simp only [State.beginRestoreBank]
  split
  · rfl
  · split
    · rfl
    · split
      · simp
      · split <;> simp
theorem State.placeBarrier_mem {s t : State} {k gang} (e : s.placeBarrier k gang = some t) : t.mem = s.mem := by
  simp only [State.placeBarrier] at e
  split at e
  · cases e; rfl
  · split at e
    · cases e; rfl
    · split_ifs at e
      · cases e; rfl
      · obtain ⟨_, _, rfl⟩ := Option.map_eq_some_iff.1 e; rfl
    · split_ifs at e
      · cases e; rfl
      · obtain ⟨_, _, rfl⟩ := Option.map_eq_some_iff.1 e; rfl
@[simp] theorem State.unparkCell_mem (s : State) (n) : (s.unparkCell n).mem = s.mem := by simp [State.unparkCell]
@[simp] theorem State.endRestore_mem (s : State) (k) : (s.endRestore k).mem = s.mem := by
  simp only [State.endRestore]; split <;> simp
@[simp] theorem State.chargeBallast_mem (s : State) (core n) : (s.chargeBallast core n).mem = s.mem := by
  simp only [State.chargeBallast]; split <;> simp
@[simp] theorem State.endItem_mem (s : State) (x hw i n l) : (s.endItem x hw i n l).mem = s.mem := by
  unfold State.endItem; split <;> simp
@[simp] theorem State.ckptEnd_mem (s : State) (x) : (s.ckptEnd x).mem = s.mem := by
  unfold State.ckptEnd; split <;> simp
@[simp] theorem State.windowMiss_mem (s : State) : s.windowMiss.mem = s.mem := rfl
@[simp] theorem State.loseReads_mem (s : State) (u) : (s.loseReads u).mem = s.mem := by
  unfold State.loseReads; split <;> simp
@[simp] theorem State.takeAccess_mem (s : State) (port a) : (s.takeAccess port a).mem = s.mem := by
  unfold State.takeAccess; split <;> simp
@[simp] theorem State.windowRead_mem (s : State) (port obj off size) :
    (s.windowRead port obj off size).mem = s.mem := by simp [State.windowRead]
@[simp] theorem State.transmit_mem (s : State) : s.transmit.mem = s.mem := rfl
@[simp] theorem State.hostAsks_mem (s : State) (p obj off size fl) :
    (s.hostAsks p obj off size fl).mem = s.mem := by simp [State.hostAsks]
@[simp] theorem State.countFetch_mem (s : State) (obj off) : (s.countFetch obj off).mem = s.mem := by simp [State.countFetch]
@[simp] theorem State.mem_at_ (s : State) (t) : (s.at_ t).mem = s.mem := rfl
@[simp] theorem State.nextCore_mem (s : State) (k) : (s.nextCore k).mem = s.mem := by
  unfold State.nextCore; split <;> simp
@[simp] theorem State.advance_mem (s : State) (k w) : (s.advance k w).mem = s.mem := rfl
@[simp] theorem State.settleResume_mem (s : State) (k) : (s.settleResume k).mem = s.mem := by
  unfold State.settleResume; split <;> simp
@[simp] theorem State.retag_mem (s : State) (a b) : (s.retag a b).mem = s.mem := rfl
@[simp] theorem State.continueTask_mem (s : State) (k tid) : (s.continueTask k tid).mem = s.mem := by simp [State.continueTask]
@[simp] theorem State.afterSlot_mem (s : State) (k) : (s.afterSlot k).mem = s.mem := by
  unfold State.afterSlot
  split
  · rfl
  · split <;> simp
@[simp] theorem State.endBundle_mem (s : State) (k) : (s.endBundle k).mem = s.mem := by
  simp only [State.endBundle]; split <;> simp
@[simp] theorem State.countRefusal_mem (s : State) (k) : (s.countRefusal k).mem = s.mem := by
  simp only [State.countRefusal]; split <;> simp
@[simp] theorem State.countStarved_mem (s : State) : s.countStarved.mem = s.mem := by simp [State.countStarved]
@[simp] theorem State.stalled_mem (s : State) (x k) : (s.stalled x k).mem = s.mem := rfl
theorem State.renameTurn_mem {s t : State} (e : s.renameTurn = some t) : t.mem = s.mem := by
  obtain ⟨_, _, h⟩ := List.exists_of_findSome?_eq_some e
  exact State.renameOne_mem h
@[simp] theorem State.renamed_mem (s : State) : s.renamed.mem = s.mem := by
  refine State.foldl_mem (fun t x => ?_) _ s
  split
  · split_ifs <;> simp
  · rfl

end Sys2Proof.Machine

end

section
/-!
PROOFS. The operations that write memory keep its canonical form (04 R4, 07 R164, R165): each through `putCells`,
`storeCells`, `clearCells`, `putPart` or the moves of extents, whose laws stand in the Laws.
-/

namespace Sys2Proof.Machine

/-- What leaves memory keeps its form. -/
theorem State.canonical_of_mem_eq {s t : State} (h : s.Canonical) (e : t.mem = s.mem) : t.Canonical := by
  unfold State.Canonical; rw [e]; exact h

/-- The state that an operation answers beside a result. -/
theorem State.canonical_of_fst {α : Type} {p : State × α} (h : p.1.Canonical) {t : State} {a : α} (e : p = (t, a)) :
    t.Canonical := by rw [e] at h; exact h

theorem State.canonical_of_fst_mem {α : Type} {p : State × α} {s t : State} {a : α} (h : s.Canonical) (e : p = (t, a))
    (hm : p.1.mem = s.mem) : t.Canonical := State.canonical_of_fst (State.canonical_of_mem_eq h hm) e

theorem State.ite_canonical {c : Prop} [Decidable c] {s t : State} (hs : s.Canonical) (ht : t.Canonical) :
    (if c then s else t).Canonical := by split <;> assumption

theorem State.fst_ite_canonical {α : Type} {c : Prop} [Decidable c] {p q : State × α} (hp : p.1.Canonical)
    (hq : q.1.Canonical) : (if c then p else q).1.Canonical := by split <;> assumption

theorem State.foldl_canonical {α : Type} {f : State → α → State} (hf : ∀ t x, t.Canonical → (f t x).Canonical) (l : List α)
    {s : State} (h : s.Canonical) : (l.foldl f s).Canonical := by
  induction l generalizing s with
  | nil => exact h
  | cons x l ih => exact ih (hf s x h)

theorem State.storeCells_canonical {s : State} (h : s.Canonical) (cells) : (s.storeCells cells).Canonical := by
  unfold State.Canonical
  rw [State.storeCells_mem]
  exact Memory.wf_writeAll h _
theorem State.entryFault_canonical {s : State} (h : s.Canonical) (tid kind r trapc core slot v) :
    (s.entryFault tid kind r trapc core slot v).Canonical := State.abort_canonical h tid none
theorem State.atomSpad_canonical {s : State} (h : s.Canonical) (k kind fn a n v c) :
    (s.atomSpad k kind fn a n v c).1.Canonical := State.putCells_canonical h _
theorem State.doAtom_canonical {s : State} (h : s.Canonical) (k kind o) : (s.doAtom k kind o).Canonical := by
  simp only [State.doAtom]
  split
  · have hf := State.flushSpad_canonical h k false
    split
    · exact hf
    · exact State.atomSpad_canonical (s := (s.flushSpad k false).schedule k _) hf ..
  · exact State.canonical_of_mem_eq h (by simp)
theorem State.writeVia_canonical {s : State} (h : s.Canonical) (port obj bs) : (s.writeVia port obj bs).Canonical :=
  State.storeCells_canonical (s := s.noteWrites ..) h _
theorem State.paneWrite_canonical {s : State} (h : s.Canonical) (k obj bs) : (s.paneWrite k obj bs).Canonical :=
  State.storeCells_canonical (s := s.noteWrites ..) h _
theorem State.flushPane_canonical {s : State} (h : s.Canonical) : s.flushPane.Canonical := State.storeCells_canonical h _
/-- `foldl_canonical` for steps that put parts of a frame, over any such operation: at `putPart` itself the kernel would compute
the pieces of a whole frame. -/
theorem State.foldl_put_canonical {α : Type} {put : State → Nat → Nat → FramePart → State}
    (hput : ∀ {t}, t.Canonical → ∀ o b p, (put t o b p).Canonical) (o : Nat) (b : α → Nat) (p : α → FramePart) (l : List α)
    {s : State} (h : s.Canonical) : (l.foldl (fun s x => put s o (b x) (p x)) s).Canonical :=
  State.foldl_canonical (fun _ _ ht => hput ht ..) l h
theorem State.putRecord_canonical {s : State} (h : s.Canonical) (obj r) : (s.putRecord obj r).Canonical :=
  State.foldl_put_canonical State.putPart_canonical obj _ _ _ (State.putPart_canonical h ..)
theorem State.remirror_canonical {s : State} (h : s.Canonical) : s.remirror.Canonical := by
  unfold State.remirror
  extract_lets l t
  have ht : t.Canonical := State.foldl_canonical (fun _ _ hu => State.markFrame_canonical hu ..) _ (by exact h)
  exact State.foldl_canonical (fun _ a hu => State.mirror_canonical (by exact hu) a) _ ht
theorem State.modAbsent_canonical {s : State} (h : s.Canonical) (o f) : (s.modAbsent o f).Canonical := by
  simp only [State.modAbsent]
  split
  · exact State.mirror_canonical (by exact h) _
  · exact h
theorem State.modOwner_canonical {s : State} (h : s.Canonical) (o f) : (s.modOwner o f).Canonical := by
  unfold State.modOwner
  split
  · exact State.modAbsent_canonical h ..
  · split <;> exact h
theorem State.raiseTo_canonical {s : State} (h : s.Canonical) (o f) : (s.raiseTo o f).Canonical := by
  unfold State.raiseTo
  split
  · split
    · exact State.modOwner_canonical h ..
    · exact h
  · split <;> exact h
theorem State.signalTo_canonical {s : State} (h : s.Canonical) (o x) : (s.signalTo o x).Canonical := by
  simp only [State.signalTo]
  split
  · have hm (f) : (s.modOwner o f).Canonical := State.modOwner_canonical h ..
    split
    · exact State.raiseTo_canonical (by exact hm _) ..
    · exact hm _
  · exact State.modOwner_canonical h ..
  · exact h
theorem State.signalOf_canonical {s : State} (h : s.Canonical) (o x origin) : (s.signalOf o x origin).Canonical :=
  State.signalTo_canonical (State.modOwner_canonical h ..) ..
theorem State.pokeSpad_canonical {s : State} (h : s.Canonical) (k bs full) : (s.pokeSpad k bs full).Canonical :=
  State.canonical_of_mem_eq (State.putCells_canonical h _) (State.setFulls_mem ..)
theorem State.pokeImage_canonical {s : State} (h : s.Canonical) (o bs full) : (s.pokeImage o bs full).Canonical := by
  simp only [State.pokeImage]
  split
  · exact h
  · refine State.foldl_canonical (fun t g ht => ?_) _ (State.canonical_of_mem_eq (State.putCells_canonical h _) (State.dirty_mem ..))
    split
    · exact State.putCells_canonical ht _
    · exact ht
theorem State.engineWrite_canonical {s : State} (h : s.Canonical) (k o bank bs full) :
    (s.engineWrite k o bank bs full).Canonical := by
  simp only [State.engineWrite]
  have poke {t : State} (ht : t.Canonical) (c l) : (t.pokeSpad c l full).Canonical := State.pokeSpad_canonical ht ..
  have diverted {t : State} (ht : t.Canonical) (f n) : (((t.pokeImage o bs full).modPeri o.ctx f).chargeOwner o n).Canonical :=
    State.canonical_of_mem_eq (State.pokeImage_canonical ht o bs full) (State.chargeOwner_mem ..)
  have forward {t : State} (ht : t.Canonical) (c l f n) :
      (((t.pokeSpad c l full).modPeri o.ctx f).chargeOwner o n).Canonical :=
    State.canonical_of_mem_eq (poke ht c l) (State.chargeOwner_mem ..)
  split
  · split
    · exact diverted (poke h ..) ..
    · exact diverted h ..
    · exact forward (diverted h ..) ..
    · exact forward h ..
  · split
    · exact poke h ..
    · exact h
theorem State.passAborts_canonical {s : State} (h : s.Canonical) (o l) : (s.passAborts o l).Canonical := by
  unfold State.passAborts
  split
  · exact State.foldl_canonical (fun _ _ ht => State.signalOf_canonical ht ..) _ h
  · exact h
theorem State.foldRun_canonical {s : State} (h : s.Canonical) (o x bs ends) : (s.foldRun o x bs ends).Canonical := by
  unfold State.foldRun
  split
  · exact h
  · split
    · exact State.modAbsent_canonical h ..
    · exact State.modOwner_canonical h ..
theorem State.writePart_canonical {s : State} (h : s.Canonical) (g c bs ends) : (s.writePart g c bs ends).Canonical := by
  have post {t : State} (ht : t.Canonical) (slot num k kind obj fl) :
      (t.postPeer slot num c.owner k kind obj bs fl).Canonical := State.canonical_of_mem_eq ht (State.postPeer_mem ..)
  unfold State.writePart
  split
  · extract_lets x granules moved t u
    split
    · exact State.engineWrite_canonical h ..
    · have ht : t.Canonical := State.foldRun_canonical h ..
      have hu : u.Canonical := by
        unfold u
        split
        · split <;> exact ht
        · exact ht
      split
      · exact hu
      · split
        · exact State.paneWrite_canonical hu ..
        · split
          · exact State.writeVia_canonical hu ..
          · exact post hu ..
  · split
    · exact State.writeVia_canonical h ..
    · exact post h ..
theorem State.performRun_canonical {s : State} (h : s.Canonical) (g c clamp) : (s.performRun g c clamp).1.Canonical := by
  have reached {t : State} (ht : t.Canonical) {x off n w u f} (e : t.sideReach g c.owner x off n w = (u, f)) : u.Canonical :=
    State.canonical_of_fst_mem ht e (State.sideReach_mem ..)
  unfold State.performRun
  split
  extract_lets len e m ps need lo hi d bits tail
  split
  · exact h
  split
  · exact h
  split
  · next t e =>
    have ht : t.Canonical := reached h e
    extract_lets reads held
    split
    · exact ht
    split
    · split
      · exact State.canonical_of_mem_eq ht (State.sendPeer_mem ..)
      · exact ht
    split
    · exact ht
    split
    · exact ht
    have written {u f} (e' : (if held then (t, Finding.ok) else t.sideReach g c.owner c.dst.cap d len true) = (u, f)) :
        u.Canonical := by
      split at e'
      · cases e'; exact ht
      · exact reached ht e'
    split
    · next u e' =>
      have hu := written e'
      split
      extract_lets old v bs
      have hw := State.writePart_canonical hu g c bs (c.part + len == c.dstBytes)
      exact State.fst_ite_canonical hu hw
    · next u f _ e' => exact written e'
  · next t f _ e => exact reached h e
theorem State.performPart_canonical {s : State} (h : s.Canonical) (g c clamp) : (s.performPart g c clamp).1.Canonical := by
  have reached {t : State} {f} (e : (if c.readsIndex then s.sideReach g c.owner c.idx c.indexAt 4 false else (s, .ok)) = (t, f)) :
      t.Canonical := by
    split at e
    · exact State.canonical_of_fst_mem h e (State.sideReach_mem ..)
    · cases e; exact h
  unfold State.performPart
  split
  · next t e =>
    split
    · exact reached e
    · exact State.performRun_canonical (reached e) ..
  · next t f _ e => exact reached e
theorem State.setLast_canonical {s : State} (h : s.Canonical) (o n) : (s.setLast o n).Canonical :=
  State.modOwner_canonical h ..
theorem State.copyLate_canonical {s : State} (h : s.Canonical) (c code v) : (s.copyLate c code v).Canonical :=
  State.raiseTo_canonical h ..
theorem State.stopCommand_canonical {s : State} (h : s.Canonical) (c) : (s.stopCommand c).Canonical := by
  refine State.passAborts_canonical ?_ _ _
  split
  · exact State.setLast_canonical (by exact h) ..
  · exact h
theorem State.endCommand_canonical {s : State} (h : s.Canonical) (c code v) : (s.endCommand c code v).Canonical :=
  State.copyLate_canonical (State.modOwner_canonical (State.passAborts_canonical
    (State.setLast_canonical (s := s.dropCommands _) h ..) ..) ..) ..
theorem State.copyFault_canonical {s : State} (h : s.Canonical) (hub tid kind r) : (s.copyFault hub tid kind r).Canonical :=
  State.entryFault_canonical (by exact h) ..
theorem State.plainCopy_canonical {s : State} (h : s.Canonical) (hub x) : (s.plainCopy hub x).Canonical := by
  have reached {t u : State} (ht : t.Canonical) {port w l f} (e : t.reachAll port w false l = (u, f)) : u.Canonical :=
    State.canonical_of_fst_mem ht e (State.reachAll_mem ..)
  unfold State.plainCopy
  dsimp only
  split
  · exact h
  split
  · next t e =>
    have ht : t.Canonical := reached h e
    split
    · exact State.canonical_of_mem_eq ht (State.sendPeer_mem ..)
    split
    · next u e' =>
      have hu : u.Canonical := reached ht e'
      split
      · exact State.copyFault_canonical hu ..
      · split
        · exact State.writeVia_canonical hu ..
        · exact State.canonical_of_mem_eq hu (State.postPeer_mem ..)
    · next u _ _ e' => have hq := reached ht e'; exact hq
    · next u e' => have hq := reached ht e'; exact hq
    · next u e' => exact State.copyFault_canonical (reached ht e') ..
  · next t _ _ e => have hq := reached h e; exact hq
  · next t e => have hq := reached h e; exact hq
  · next t e => exact State.copyFault_canonical (reached h e) ..
theorem State.corePart_canonical {s : State} (h : s.Canonical) (k c) : (s.corePart k c).Canonical := by
  have performed {t r} (e : s.performPart (.core k) c false = (t, r)) : t.Canonical :=
    State.canonical_of_fst (State.performPart_canonical h ..) e
  simp only [State.corePart]
  split
  · next t n fl idx e =>
    have ht (f) : (State.modOwner ((t.modCmd k c.id fun _ => c.moved n fl idx).modCore k fun x =>
      { x with engineBanks := x.engineBanks ||| s.partBanks k c, served := some c.owner }) c.owner f).Canonical :=
      State.modOwner_canonical (by have hq := performed e; exact hq) ..
    split
    · exact State.stopCommand_canonical (ht _) _
    · exact ht _
  · next t e => have hq := performed e; exact hq
  · next t e => have hq := performed e; exact hq
  · next t e => have hq := performed e; exact hq
  · next t r _ _ _ _ e =>
    split
    · have hq := performed e; exact hq
    · split <;> exact State.endCommand_canonical (performed e) ..
theorem State.divertSigs_canonical {s : State} (h : s.Canonical) : s.divertSigs.Canonical :=
  State.foldl_canonical (fun _ _ ht => State.foldl_canonical (fun _ _ hu => State.signalOf_canonical hu ..) _
    (State.modAbsent_canonical ht ..)) _ h
theorem State.countRecord_canonical {s : State} (h : s.Canonical) (o bar phase k) : (s.countRecord o bar phase k).Canonical :=
  State.modOwner_canonical h ..
theorem State.answerQuery_canonical {s : State} (h : s.Canonical) (u own pb a at_ rest) :
    (s.answerQuery u own pb a at_ rest).Canonical := by
  unfold State.answerQuery
  split
  · exact State.modOwner_canonical h ..
  · exact h
theorem State.notOwned_canonical {s : State} (h : s.Canonical) (o n origin copy) : (s.notOwned o n origin copy).Canonical :=
  State.raiseTo_canonical h ..

theorem State.applyUpdate_canonical {s : State} (h : s.Canonical) (n u) : (s.applyUpdate n u).Canonical := by
  have record {t : State} (ht : t.Canonical) (bar ph k) : (t.countRecord u.owner bar ph k).Canonical :=
    State.countRecord_canonical ht ..
  have parked {t : State} (ht : t.Canonical) : (t.countParked n).Canonical :=
    State.canonical_of_mem_eq ht (State.countParked_mem ..)
  unfold State.applyUpdate
  extract_lets c mine
  split
  · extract_lets refused t
    have ht : t.Canonical := by
      unfold t
      split
      · exact h
      · exact parked (by exact h)
    exact ht
  · exact h
  · split
    · exact State.notOwned_canonical h ..
    · refine parked ?_
      split
      · exact h
      · exact h
      · exact record (by exact h) ..
      · exact h
theorem State.gangCycle_canonical {s : State} (h : s.Canonical) (g us) : (s.gangCycle g us).Canonical := by
  unfold State.gangCycle
  extract_lets arrive
  have arrivals (us : List BarUpdate) (x : GangBar × State) (hx : x.2.Canonical) : (us.foldl arrive x).2.Canonical := by
    induction us generalizing x with
    | nil => exact hx
    | cons u us ih =>
      refine ih _ ?_
      unfold arrive
      split
      · exact State.countRecord_canonical hx ..
      · exact hx
  have ha := arrivals us (g, s) h
  split
  next g' t e =>
    rw [e] at ha
    extract_lets full g2 u v
    have hv : v.Canonical := by
      unfold v
      split
      · exact State.canonical_of_mem_eq ha (State.releaseAll_mem ..)
      · exact ha
    exact State.foldl_canonical (fun _ x hx => State.answerQuery_canonical hx ..) _ hv
theorem State.loadRegion_canonical {s : State} (h : s.Canonical) (k off frame bs) : (s.loadRegion k off frame bs).Canonical := by
  have put {t : State} (ht : t.Canonical) (n v) : (t.writeSR k n v).Canonical :=
    State.canonical_of_mem_eq ht (State.writeSR_mem ..)
  unfold State.loadRegion
  extract_lets at_ md
  refine State.ite_canonical h (State.ite_canonical h (State.ite_canonical h (State.ite_canonical h
    (State.ite_canonical ?_ (State.ite_canonical ?_ (State.ite_canonical h (State.ite_canonical h (State.ite_canonical h
      (State.ite_canonical h (State.ite_canonical h (State.ite_canonical h (State.ite_canonical h
        (State.ite_canonical ?_ ?_)))))))))))))
  · exact State.foldl_canonical (fun _ i ht => put ht ..) _ h
  · refine State.foldl_canonical (fun t p ht => ?_) _ (by exact h)
    exact State.ite_canonical (put ht ..) ht
  · exact State.pokeSpad_canonical h ..
  · exact State.canonical_of_mem_eq h (State.foldl_mem (fun t g => t.setFull_mem ..) _ _)
theorem State.dropRemote_canonical {s : State} (h : s.Canonical) (r) : (s.dropRemote r).Canonical :=
  State.modOwner_canonical (by exact h) ..
theorem State.revoke_canonical {s : State} (h : s.Canonical) (r) : (s.revoke r).Canonical :=
  State.raiseTo_canonical (State.dropRemote_canonical h r) ..
theorem State.dataFault_canonical {s : State} (h : s.Canonical) (r) : (s.dataFault r).Canonical :=
  State.raiseTo_canonical (State.dropRemote_canonical h r) ..
theorem State.performSpad_canonical {s : State} (h : s.Canonical) (r) : (s.performSpad r).Canonical := by
  unfold State.performSpad
  split
  · exact h
  · exact State.dropRemote_canonical (State.atomSpad_canonical (s := s.schedule ..) h ..) r
theorem State.applyAt_canonical {s : State} (h : s.Canonical) (r) : (s.applyAt r).Canonical := by
  unfold State.applyAt
  extract_lets port
  split
  · exact State.writeVia_canonical h ..
  · dsimp only
    split
    · exact State.dataFault_canonical h r
    · exact h
  · dsimp only
    split
    · exact State.dataFault_canonical h r
    · exact State.writeVia_canonical h ..
theorem State.performAt_canonical {s : State} (h : s.Canonical) (r) : (s.performAt r).Canonical := by
  have reached {t f} (e : s.reachAll (s.remotePort r) r.kind.writes false (s.remoteExtents r) = (t, f)) : t.Canonical :=
    State.canonical_of_fst_mem h e (State.reachAll_mem ..)
  unfold State.performAt
  split
  · next t e => exact State.revoke_canonical (reached e) r
  · next t e => exact State.dataFault_canonical (reached e) r
  · next t _ _ e => have ht := reached e; exact ht
  · next t e =>
    split
    · exact State.applyAt_canonical (reached e) r
    · exact State.canonical_of_mem_eq (reached e) (State.sendPeer_mem ..)
theorem State.releaseHeld_canonical {s : State} (h : s.Canonical) (w) : (s.releaseHeld w).Canonical := by
  unfold State.releaseHeld
  extract_lets port
  have reached {t f} (e : s.reachAll port true false (s.extents w.obj w.off w.size) = (t, f)) : t.Canonical :=
    State.canonical_of_fst_mem h e (State.reachAll_mem ..)
  split
  · next t e =>
    split
    · exact State.canonical_of_mem_eq (reached e) (State.sendPeer_mem ..)
    · exact State.writeVia_canonical (reached e) ..
    · exact State.writeVia_canonical (reached e) ..
  · next t e => exact State.raiseTo_canonical (reached e) ..
  · next t e => exact State.raiseTo_canonical (reached e) ..
  · next t _ _ e => exact reached e
theorem State.releaseAllHeld_canonical {s : State} (h : s.Canonical) (tid role) : (s.releaseAllHeld tid role).Canonical :=
  State.foldl_canonical (fun _ w ht => State.releaseHeld_canonical ht w) _ h
theorem State.releaseFirst_canonical {s : State} (h : s.Canonical) (tid w) : (s.releaseFirst tid w).Canonical :=
  State.releaseHeld_canonical h w
theorem State.releaseFree_canonical {s t : State} (h : s.Canonical) (e : s.releaseFree = some t) : t.Canonical := by
  obtain ⟨x, -, hx⟩ := List.exists_of_findSome?_eq_some e
  split at hx
  · split at hx
    · cases hx; exact State.releaseFirst_canonical h ..
    · cases hx
  · cases hx
theorem State.startCopy_canonical {s : State} (h : s.Canonical) (e w dims hub) : (s.startCopy e w dims hub).Canonical := by
  have hb : (s.buildOperands e.tid 0 e.ops).1.Canonical := State.canonical_of_mem_eq h (State.buildOperands_mem ..)
  unfold State.startCopy
  dsimp only
  split
  · exact State.entryFault_canonical hb ..
  · exact hb
theorem State.tryEntry_canonical {s t : State} (h : s.Canonical) {c} (e : s.tryEntry c = some t) : t.Canonical := by
  have run {u : State} (hu : u.Canonical) (e w code role att ks) : (u.startRun e w code role att ks).Canonical :=
    State.canonical_of_mem_eq hu (State.startRun_mem ..)
  unfold State.tryEntry at e
  split at e
  · split at e
    · cases e
    · split at e
      · split at e
        · cases e
        · cases e
          exact State.foldl_canonical (fun u p hu => run hu ..) _ (by exact h)
      · split at e
        · cases e
        · cases e
          exact State.startCopy_canonical (by exact h) ..
      · cases e
  · split at e
    · cases e
    · split at e
      · extract_lets u at e
        cases e
        refine run ?_ ..
        unfold u
        split <;> exact h
      · cases e
  · cases e
theorem State.mark_canonical {s : State} (h : s.Canonical) (x tag fe) : (s.mark x tag fe).Canonical := by
  unfold State.mark
  extract_lets todo r t shadows
  have ht : t.Canonical := State.canonical_of_mem_eq (State.putRecord_canonical h _ r)
    (State.foldl_mem (fun u p => u.swap0_mem ..) _ _)
  exact ht
theorem State.squashAll_canonical {s : State} (h : s.Canonical) (x es) : (s.squashAll x es).Canonical :=
  State.foldl_canonical (fun _ e ht => State.abort_canonical ht e.tid none) _ h
theorem State.writeRecord_canonical {s : State} (h : s.Canonical) (r) : (s.writeRecord r).Canonical :=
  State.storeCells_canonical h _
theorem State.ownEffect_canonical {s : State} (h : s.Canonical) (e) : (s.ownEffect e).Canonical := by
  unfold State.ownEffect
  split
  · exact h
  · exact State.writeRecord_canonical h _
  · exact State.canonical_of_mem_eq h (State.post_mem ..)
  · exact h
  · exact h
theorem State.moveBytes_canonical {s : State} (h : s.Canonical) (src dst n) : (s.moveBytes src dst n).Canonical :=
  Memory.wf_copyRange h ..
theorem State.endMove_canonical {s : State} (h : s.Canonical) (m) : (s.endMove m).Canonical := by
  unfold State.endMove
  split
  · exact State.canonical_of_mem_eq (State.moveBytes_canonical h ..)
      ((State.rewalk_mem ..).trans ((State.invalidate_mem ..).trans (State.modEntryOf_mem ..)))
  · exact h
theorem State.stepMove_canonical {s : State} (h : s.Canonical) (i) : (s.stepMove i).Canonical := by
  unfold State.stepMove
  extract_lets busy put
  have hput {t : State} (ht : t.Canonical) (m) : (put m t).Canonical := ht
  split
  · exact h
  · split
    · split
      · exact h
      · exact hput (State.canonical_of_mem_eq h (by simp)) _
    · split
      · exact h
      · exact hput (State.canonical_of_mem_eq h (by simp)) _
    · split
      · exact hput h _
      · exact h
    · split <;> exact hput h _
    · split
      · exact h
      · exact hput (State.endMove_canonical h _) _
theorem State.stepMoves_canonical {s : State} (h : s.Canonical) : s.stepMoves.Canonical :=
  State.foldl_canonical (fun _ i ht => State.stepMove_canonical ht i) _ h
theorem State.clearExtents_canonical {s : State} (h : s.Canonical) (page es) : (s.clearExtents page es).Canonical := by
  refine State.foldl_canonical (fun t e ht => ?_) _ h
  split
  · exact State.clearCells_canonical ht ..
  · exact ht
theorem State.loadService_canonical {s : State} (h : s.Canonical) (id n) : (s.loadService id n).Canonical := by
  unfold State.loadService
  split
  · exact h
  · exact State.writeObj_canonical (by exact h) ..
theorem State.renewService_canonical {s : State} (h : s.Canonical) : s.renewService.Canonical := by
  unfold State.renewService
  extract_lets n id d t u
  have hu : u.Canonical := by
    unfold u
    split
    · exact State.canonical_of_mem_eq h (State.dropObject_mem ..)
    · exact h
  exact State.loadService_canonical hu ..
theorem State.rerunTask_canonical {s : State} (h : s.Canonical) (e avoid) : (s.rerunTask e avoid).Canonical :=
  State.canonical_of_mem_eq (State.abort_canonical h e.tid none) (State.refill_mem ..)
theorem State.rerunCopy_canonical {s : State} (h : s.Canonical) (e role avoid) : (s.rerunCopy e role avoid).Canonical :=
  State.canonical_of_mem_eq (State.abort_canonical h e.tid (some role)) (State.refill_mem ..)
theorem State.reexecute_canonical {s : State} (h : s.Canonical) (tid c) : (s.reexecute tid c).Canonical := by
  unfold State.reexecute
  split
  · exact h
  · split
    · exact h
    · split
      · exact State.entryFault_canonical h ..
      · extract_lets chip t u
        have hu : u.Canonical := State.canonical_of_mem_eq h (State.logError_mem ..)
        split
        · exact State.rerunTask_canonical hu ..
        · exact State.rerunCopy_canonical hu ..
theorem State.rerunStranded_canonical {s : State} (h : s.Canonical) : s.rerunStranded.Canonical := by
  refine State.foldl_canonical (fun t a ht => ?_) _ h
  extract_lets d
  split
  · split
    · split
      · exact State.rerunCopy_canonical ht ..
      · exact ht
    · exact ht
  · exact ht
theorem State.undecided_canonical {s : State} (h : s.Canonical) (tid) : (s.undecided tid).Canonical :=
  State.entryFault_canonical (by exact h) ..
theorem State.primaryLost_canonical {s : State} (h : s.Canonical) (e) : (s.primaryLost e).Canonical := by
  unfold State.primaryLost
  extract_lets younger t u v
  have ht : t.Canonical := State.squashAll_canonical h ..
  exact ht
theorem State.takeLate_canonical {s : State} (h : s.Canonical) (k fs abs) : (s.takeLate k fs abs).Canonical := by
  unfold State.takeLate
  extract_lets st t
  have ht : t.Canonical := State.canonical_of_mem_eq h (by simp [t])
  split
  · exact ht
  · exact State.canonical_of_mem_eq ht (State.foldl_mem (fun u c => u.checkFault_mem ..) _ _)
  · exact State.trapTo_canonical (by exact ht) ..
theorem State.deliverAbsent_canonical {s : State} (h : s.Canonical) (k) : (s.deliverAbsent k).Canonical := by
  unfold State.deliverAbsent
  split
  · exact h
  · exact State.takeLate_canonical (by exact h) ..
theorem State.softwareTrap_canonical {s : State} (h : s.Canonical) (k code addr) : (s.softwareTrap k code addr).Canonical :=
  State.trapTo_canonical (by exact h) ..
theorem State.joinSem_canonical {s : State} (h : s.Canonical) (o p) : (s.joinSem o p).Canonical := by
  unfold State.joinSem
  split
  · exact h
  · extract_lets v t
    have ht : t.Canonical := State.modOwner_canonical h ..
    split
    · exact State.raiseTo_canonical ht ..
    · exact ht
theorem State.beginSave_canonical {s : State} (h : s.Canonical) (k) : (s.beginSave k).Canonical := by
  unfold State.beginSave
  -- the kernel would search the frame slots
  obtain ⟨free, hfree⟩ : ∃ f, f = State.freeSlot := ⟨_, rfl⟩
  rw [← hfree]
  extract_lets c st
  split
  · extract_lets a q t u
    have ht : t.Canonical := State.canonical_of_mem_eq (State.mirror_canonical (by exact h) a) (State.mem_modCore ..)
    exact State.foldl_canonical (fun _ f hv => State.raiseTo_canonical hv ..) _
      (State.foldl_canonical (fun _ p hv => State.joinSem_canonical hv ..) _ ht)
  · exact h
theorem State.saveRegisters_canonical {s : State} (h : s.Canonical) (k) : (s.saveRegisters k).Canonical := by
  generalize e : s.saveRegisters k = t
  unfold State.saveRegisters at e
  extract_lets c ps at e
  split at e
  · rw [← e]
    exact State.canonical_of_mem_eq (State.putParts_canonical (State.canonical_of_mem_eq h (State.countParts_mem ..)) ..)
      (State.mem_modCore ..)
  · rw [← e]; exact h
theorem State.tryRecord_canonical {s t : State} (h : s.Canonical) {o} (e : s.tryRecord o = some t) : t.Canonical := by
  unfold State.tryRecord at e
  split at e
  · cases e
  · obtain ⟨l, -, rfl⟩ := Option.map_eq_some_iff.1 e
    refine State.foldl_canonical (fun u p hu => ?_) _ h
    exact State.modAbsent_canonical hu ..
theorem State.preemptFor_canonical {s : State} (h : s.Canonical) (p c) : (s.preemptFor p c).Canonical := by
  unfold State.preemptFor
  extract_lets trial may
  split
  · exact h
  · split
    · exact h
    · refine State.foldl_canonical (fun u k hu => ?_) _ h
      exact hu
theorem State.kill_canonical {s : State} (h : s.Canonical) (x) : (s.kill x).Canonical := by
  unfold State.kill
  split
  · exact h
  · extract_lets gone t u
    have ht : t.Canonical := State.canonical_of_mem_eq (State.foldl_markDiscarded_canonical h gone) (State.abandonCopy_mem ..)
    exact State.squashAll_canonical ht ..
theorem State.dark_canonical {s : State} (h : s.Canonical) : s.dark.Canonical := Memory.wf_filter h _
theorem State.putExtents_canonical {s : State} (h : s.Canonical) (l) : (s.putExtents l).Canonical := by
  refine State.foldl_canonical (fun t p ht => ?_) _ h
  dsimp only
  split
  · split
    · exact Memory.wf_putRange ht ..
    · exact ht
  · exact ht
theorem State.perhapsApplied_canonical {s : State} (h : s.Canonical) (r) : (s.perhapsApplied r).Canonical := by
  unfold State.perhapsApplied
  extract_lets b t port
  split
  · exact h
  · split
    · exact h
    · exact State.writeVia_canonical (by exact h) ..
    · exact State.writeVia_canonical (by exact h) ..
theorem State.cutOff_canonical {s : State} (h : s.Canonical) (r) : (s.cutOff r).Canonical := by
  unfold State.cutOff
  extract_lets t
  have ht : t.Canonical := State.perhapsApplied_canonical h r
  have hd : (t.dropRemote r).Canonical := State.dropRemote_canonical ht r
  split
  · exact State.raiseTo_canonical hd ..
  · split
    · split
      · split
        · exact State.copyFault_canonical hd ..
        · exact hd
      · exact hd
    · split
      · split <;> exact hd
      · exact State.revoke_canonical ht r
theorem State.portDown_canonical {s : State} (h : s.Canonical) (port) : (s.portDown port).Canonical := by
  unfold State.portDown
  extract_lets uses old t u cut hs v w
  have hu : u.Canonical := State.canonical_of_mem_eq h (State.logError_mem ..)
  have hv : v.Canonical := State.foldl_canonical (fun _ r hx => State.cutOff_canonical hx r) _ hu
  have hw : w.Canonical := State.canonical_of_mem_eq hv (State.foldl_mem (fun u a => u.loseReads_mem a) _ _)
  exact State.foldl_canonical (fun _ f hx => State.raiseTo_canonical hx ..) _ (by exact hw)
theorem State.linkPerforms_canonical {s : State} (h : s.Canonical) (u) : (s.linkPerforms u).Canonical := by
  unfold State.linkPerforms
  split
  · split
    · split
      · exact h
      · split
        · exact State.canonical_of_mem_eq (State.dropRemote_canonical h _) (State.windowRead_mem ..)
        · exact State.applyAt_canonical h _
    · exact h
  · exact h
theorem State.firmwareWrite_canonical {s : State} (h : s.Canonical) (off v) : (s.firmwareWrite off v).Canonical := by
  unfold State.firmwareWrite
  split
  · extract_lets x t
    split
    · exact State.kill_canonical (by exact h) _
    · exact h
  · split_ifs <;> exact h
theorem State.receive_canonical {s : State} (h : s.Canonical) (k) : (s.receive k).Canonical := by
  unfold State.receive
  extract_lets st
  split
  · exact State.taskFault_canonical h ..
  · exact h
theorem State.endCycle_canonical {s : State} (h : s.Canonical) (k) : (s.endCycle k).Canonical := by
  unfold State.endCycle
  extract_lets c eng t n w amt land u run amt' save seq last
  have ht : t.Canonical := State.ite_canonical (State.canonical_of_mem_eq h (State.chargeBallast_mem ..)) h
  have hu : u.Canonical := State.canonical_of_mem_eq
    (State.flushSpad_canonical (State.canonical_of_mem_eq ht (State.matrixReads_mem ..)) k true) (State.mergeNow_mem ..)
  have hrun : run.Canonical := State.canonical_of_mem_eq hu (State.mem_modStrand ..)
  have hsave : save.Canonical := State.canonical_of_mem_eq hu (State.mem_modStrand ..)
  have charged {v : State} (hv : v.Canonical) (n) : (v.chargeStrand c.st n).Canonical :=
    State.canonical_of_mem_eq hv (State.chargeStrand_mem ..)
  refine State.canonical_of_mem_eq ?_ (State.nextCore_mem ..)
  unfold last
  split
  · exact charged hrun _
  · exact charged hsave _
  · exact charged ht _
  · exact ht

end Sys2Proof.Machine

end

section
/-!
PROOFS. The moves of the order of work keep the canonical form.  A long chain of conditions is taken apart by
`State.fst_ite_canonical`, one argument per branch.
-/

namespace Sys2Proof.Machine

theorem goes_at_canonical {s : State} (h : s.Canonical) (t) : (goes (s.at_ t)).1.Canonical := h
theorem State.stage_canonical {s : State} (h : s.Canonical) (k n) : (s.stage k n).Canonical := h
theorem goes_stage_canonical {s : State} (h : s.Canonical) (k n) : (goes (s.stage k n)).1.Canonical := h
theorem goes_advance_canonical {s : State} (h : s.Canonical) (k w) : (goes (s.advance k w)).1.Canonical := h

theorem firstOr_canonical {s : State} (h : s.Canonical) (es t) : (firstOr s es t).1.Canonical := by
  cases es <;> exact h
theorem State.before_canonical {s : State} (h : s.Canonical) : s.before.1.Canonical :=
  State.fst_ite_canonical (firstOr_canonical h ..) h
theorem State.outside_canonical {s : State} (h : s.Canonical) : s.outside.1.Canonical := by
  unfold State.outside
  split
  · exact h
  · split
    · split
      · exact h
      · split <;> exact h
    · exact State.before_canonical h
  · exact State.before_canonical h
theorem State.begin_canonical {s : State} (h : s.Canonical) (k) : (s.begin k).1.Canonical := by
  unfold State.begin
  extract_lets c
  split
  · exact State.canonical_of_mem_eq h (State.nextCore_mem ..)
  · split
    · exact h
    · split
      · exact h
      · exact h
      · exact State.receive_canonical (s := s.modNow ..) h k
      all_goals exact h
theorem State.sequence_canonical {s : State} (h : s.Canonical) (k) : (s.sequence k).1.Canonical := by
  have first (es t) : (firstOr s es t).1.Canonical := firstOr_canonical h es t
  unfold State.sequence
  extract_lets c st timeout
  split
  · exact State.fst_ite_canonical h (State.fst_ite_canonical (first ..) (State.fst_ite_canonical (first ..) h))
  · refine State.fst_ite_canonical h ?_
    split
    · exact State.fst_ite_canonical (goes_stage_canonical (State.beginSave_canonical h k) _ _) h
    · exact h
    · refine State.fst_ite_canonical h ?_
      split
      · extract_lets t
        have ht : t.Canonical := State.ite_canonical h (State.saveRegisters_canonical h k)
        exact State.fst_ite_canonical (goes_stage_canonical (State.canonical_of_mem_eq ht (State.beginImage_mem ..)) _ _)
          (State.fst_ite_canonical ht ht)
      all_goals exact h
  · refine State.fst_ite_canonical h ?_
    split
    · exact State.fst_ite_canonical h h
    · exact h
    · refine State.fst_ite_canonical h ?_
      split
      · exact goes_stage_canonical (State.canonical_of_mem_eq h (State.beginRestoreBank_mem ..)) _ _
      · exact h
      · exact State.fst_ite_canonical h h
      · exact goes_stage_canonical (State.canonical_of_mem_eq h (State.endRestore_mem ..)) _ _
      · exact h
  · exact h
theorem State.ending_canonical {s : State} (h : s.Canonical) (k cont) : (s.ending k cont).1.Canonical := by
  unfold State.ending
  extract_lets t st
  have ht : t.Canonical := State.canonical_of_mem_eq h (State.restart_mem ..)
  refine State.fst_ite_canonical ht ?_
  split
  · next tid _ _ =>
    have hc : (t.continueTask k tid).Canonical := State.canonical_of_mem_eq ht (State.continueTask_mem ..)
    exact hc
  · exact goes_stage_canonical (State.canonical_of_mem_eq ht (State.endStrand_mem ..)) _ _
theorem State.runSlot_canonical {s : State} (h : s.Canonical) (k) : (s.runSlot k).1.Canonical := by
  unfold State.runSlot
  split
  · split <;> exact h
  · exact h
theorem State.restart_canonical {s : State} (h : s.Canonical) (k) : (s.restart k).Canonical :=
  State.canonical_of_mem_eq h (s.restart_mem k)
theorem State.openBundle_canonical {s : State} (h : s.Canonical) (k a n slots w) : (s.openBundle k a n slots w).1.Canonical := by
  unfold State.openBundle
  extract_lets t u v
  have ht : t.Canonical := State.canonical_of_mem_eq h (State.countFetch_mem ..)
  have hv : v.Canonical := by unfold v; exact State.restart_canonical (by exact ht) k
  exact State.runSlot_canonical (State.stage_canonical hv k 8) k
theorem State.tryBundle_canonical {s : State} (h : s.Canonical) (k a n slots) : (s.tryBundle k a n slots).1.Canonical := by
  unfold State.tryBundle
  extract_lets c ds w order
  split
  next early t e =>
    have ht : t.Canonical := by
      split at e
      · have hd : s.draw.2.Canonical := State.canonical_of_mem_eq h s.draw_mem
        rw [e] at hd; exact hd
      · cases e; exact h
    refine State.fst_ite_canonical ht (State.fst_ite_canonical ht ?_)
    split
    · exact ht
    · exact ht
    · exact State.fst_ite_canonical ht (State.openBundle_canonical ht ..)
theorem State.fetchFails_canonical {s : State} (h : s.Canonical) (k a c slots) : (s.fetchFails k a c slots).1.Canonical :=
  State.fst_ite_canonical h (State.canonical_of_mem_eq h (State.restart_mem ..))
theorem State.fetchIssue_canonical {s : State} (h : s.Canonical) (k) : (s.fetchIssue k).1.Canonical := by
  have bundle (a n slots) : (s.tryBundle k a n slots).1.Canonical := State.tryBundle_canonical h ..
  unfold State.fetchIssue
  extract_lets st past next
  split
  next a first e =>
    extract_lets lost
    have hnext (p skip) : (next p skip).1.Canonical := h
    have hlost : lost.1.Canonical := State.canonical_of_mem_eq h (State.logEntry_mem ..)
    split
    · exact h
    · exact h
    · exact h
    · exact hlost
    · exact hlost
    · exact State.fst_ite_canonical (hnext ..) (State.fst_ite_canonical h (State.fst_ite_canonical h (bundle ..)))
    · exact hnext ..
    · exact State.fst_ite_canonical (hnext ..) (State.fetchFails_canonical h ..)
    · exact State.fst_ite_canonical (hnext ..) (State.fst_ite_canonical h (bundle ..))
theorem State.yielded_canonical {s : State} (h : s.Canonical) (k) : (s.yielded k).1.Canonical := by
  unfold State.yielded
  split
  · exact State.fst_ite_canonical h h
  · exact h
theorem State.ordinary_canonical {s : State} (h : s.Canonical) (k) : (s.ordinary k).1.Canonical := by
  have limited {c : Prop} [Decidable c] {m : Move} (hm : m.1.Canonical) : (if c then goes (s.frozen k false) else m).1.Canonical :=
    State.fst_ite_canonical h hm
  unfold State.ordinary
  extract_lets c st
  refine State.fst_ite_canonical h (State.fst_ite_canonical h (State.fst_ite_canonical h (State.fst_ite_canonical ?_
    (State.fst_ite_canonical ?_ (State.fst_ite_canonical ?_ (State.fst_ite_canonical ?_ (State.fst_ite_canonical h ?_)))))))
  · exact limited h
  · exact State.fst_ite_canonical h h
  · exact limited (State.canonical_of_mem_eq h (State.restart_mem ..))
  · exact State.yielded_canonical h k
  · exact State.fetchIssue_canonical h k
theorem State.faultNow_canonical {s : State} (h : s.Canonical) (k) : (s.faultNow k).1.Canonical := by
  unfold State.faultNow
  extract_lets c st absent limited t
  have ht : t.Canonical := State.takeLate_canonical (by exact h) ..
  refine State.fst_ite_canonical (State.fst_ite_canonical ht ht) (State.fst_ite_canonical h ?_)
  split
  · exact goes_advance_canonical (State.softwareTrap_canonical h ..) _ _
  · refine State.fst_ite_canonical (goes_advance_canonical (State.deliverAbsent_canonical h k) _ _) ?_
    split
    · exact State.fst_ite_canonical (State.ordinary_canonical h k) (State.ending_canonical h ..)
    · exact State.ordinary_canonical h k
theorem State.attempt_canonical {s : State} (h : s.Canonical) (k) : (s.attempt k).1.Canonical := by
  unfold State.attempt
  extract_lets c st
  refine State.fst_ite_canonical h ?_
  split
  · exact State.fst_ite_canonical h (State.fst_ite_canonical (State.faultNow_canonical h k) h)
  · exact State.faultNow_canonical h k
theorem State.issueAt_canonical {s : State} (h : s.Canonical) (k) : (s.issueAt k).1.Canonical :=
  State.fst_ite_canonical (State.attempt_canonical h k) (State.fst_ite_canonical (State.attempt_canonical h k)
    (State.faultNow_canonical (State.canonical_of_mem_eq h (State.overflow_mem ..)) k))
theorem State.issue_canonical {s : State} (h : s.Canonical) (k) : (s.issue k).1.Canonical :=
  State.fst_ite_canonical (State.issueAt_canonical h k) (State.fst_ite_canonical (firstOr_canonical h ..)
    (State.fst_ite_canonical (firstOr_canonical h ..) (State.fst_ite_canonical h (State.issueAt_canonical h k))))
theorem State.closing_canonical {s : State} (h : s.Canonical) (k) : (s.closing k).1.Canonical :=
  State.fst_ite_canonical h (State.fst_ite_canonical h h)
theorem State.coreTurn_canonical {s : State} (h : s.Canonical) (k n) : (s.coreTurn k n).1.Canonical := by
  unfold State.coreTurn
  split
  · exact State.fst_ite_canonical h (State.begin_canonical h k)
  · exact State.fst_ite_canonical h h
  · exact firstOr_canonical h ..
  · exact h
  · exact firstOr_canonical h ..
  · exact State.fst_ite_canonical h h
  · exact State.sequence_canonical h k
  · exact State.issue_canonical h k
  · exact State.runSlot_canonical h k
  · exact State.canonical_of_mem_eq h (s.afterSlot_mem k)
  · exact State.canonical_of_mem_eq h (s.endBundle_mem k)
  · exact State.closing_canonical h k
  · exact State.endCycle_canonical h k
  · exact State.fst_ite_canonical h h
  · exact State.fst_ite_canonical h (State.canonical_of_mem_eq h (State.nextCore_mem ..))
  · exact State.canonical_of_mem_eq h (State.nextCore_mem ..)
theorem State.varTurn_canonical {s : State} (h : s.Canonical) (n) : (s.varTurn n).1.Canonical := by
  have starved {t : State} (ht : t.Canonical) : t.countStarved.Canonical := State.canonical_of_mem_eq ht t.countStarved_mem
  have hd : s.draw.2.Canonical := State.canonical_of_mem_eq h s.draw_mem
  unfold State.varTurn
  split
  · exact State.flushPane_canonical (State.divertSigs_canonical h)
  · exact firstOr_canonical h ..
  · split
    · exact starved h
    · dsimp only
      split
      · exact hd
      · exact starved hd
  · split <;> exact h
theorem State.dispatchTurn_canonical {s : State} (h : s.Canonical) : s.dispatchTurn.1.Canonical := by
  unfold State.dispatchTurn
  extract_lets cs
  clear_value cs
  split
  · split
    · exact h
    · next o _ =>
      have hr : ((s.tryRecord o).getD s).Canonical := by
        cases e : s.tryRecord o with
        | none => exact h
        | some t => exact State.tryRecord_canonical h e
      exact hr
    · exact h
  · split
    · exact goes_at_canonical (State.preemptFor_canonical h ..) _
    · exact h
theorem State.decodeTurn_canonical {s : State} (h : s.Canonical) (j n) : (s.decodeTurn j n).1.Canonical := by
  unfold State.decodeTurn
  extract_lets x c next off t ext lost
  have hlost {u : State} (hu : u.Canonical) : (lost u).1.Canonical := hu
  have fetched : (t.countFetch c.sobj off).Canonical := State.canonical_of_mem_eq h (State.countFetch_mem ..)
  refine State.fst_ite_canonical h (State.fst_ite_canonical h (State.fst_ite_canonical h ?_))
  split
  · exact h
  · refine State.fst_ite_canonical (hlost (State.canonical_of_mem_eq h (State.logEntry_mem ..))) (State.fst_ite_canonical (hlost h) ?_)
    split
    · exact fetched
    · split
      · exact fetched
      · exact h
theorem State.prismTurn_canonical {s : State} (h : s.Canonical) (n) : (s.prismTurn n).1.Canonical := by
  have first (es t) : (firstOr s es t).1.Canonical := firstOr_canonical h es t
  unfold State.prismTurn
  refine State.fst_ite_canonical (State.fst_ite_canonical h h) (State.fst_ite_canonical (first ..) (State.fst_ite_canonical ?_
    (State.fst_ite_canonical (first ..) (State.fst_ite_canonical (State.dispatchTurn_canonical h) (State.fst_ite_canonical ?_
      (State.fst_ite_canonical (first ..) (State.fst_ite_canonical (State.fst_ite_canonical h h) (State.fst_ite_canonical (first ..)
        (State.fst_ite_canonical (State.decodeTurn_canonical h ..) (State.fst_ite_canonical ?_ ?_))))))))))
  · exact goes_at_canonical (State.canonical_of_mem_eq h s.releaseShadows_mem) _
  · split
    · next t e =>
      exact goes_at_canonical (State.releaseFree_canonical h e) _
    · have placed : (s.unthrottle.assignEngines s.hubQueue).postUnplaceable.Canonical := State.canonical_of_mem_eq h (by simp)
      have moved {t : State} (ht : t.Canonical) : t.leaveRetired.agePool.startFirmware.stepMoves.remirror.Canonical :=
        State.remirror_canonical (State.stepMoves_canonical (State.canonical_of_mem_eq ht (by simp)))
      have sent {t : State} (ht : t.Canonical) : t.takeNotice.transmit.forgetPast.Canonical :=
        State.canonical_of_mem_eq ht (by simp)
      exact goes_at_canonical (sent (moved (State.rerunStranded_canonical placed))) _
  · split
    · next t e =>
      exact goes_at_canonical (State.canonical_of_mem_eq h (State.renameTurn_mem e)) _
    · exact h
  · exact goes_at_canonical (State.canonical_of_mem_eq h s.renamed_mem) _
/-- The next move of the order of work keeps the canonical form. -/
theorem State.next_canonical {s : State} (h : s.Canonical) : s.next.1.Canonical := by
  unfold State.next
  split
  · exact State.outside_canonical h
  · exact State.coreTurn_canonical h ..
  · exact State.varTurn_canonical h _
  · exact State.prismTurn_canonical h _
  · exact h

end Sys2Proof.Machine

end

section
/-!
PROOFS. Meanings of the core slots, and of the events of cores and of accesses, keep the canonical form.
-/

namespace Sys2Proof.Machine

/-- The state that a meaning answers, where it answers one, holds memory in its one form. -/
structure AnswersCanonical (o : Host.Outcome State Fault Refusal) : Prop where
  canonical {t : State} (e : o = .next t) : t.Canonical

theorem next_canonical {t : State} (h : t.Canonical) : AnswersCanonical (.next t) :=
  ⟨fun e => Host.Outcome.next.inj e ▸ h⟩
theorem fault_canonical (r : Fault) : AnswersCanonical (.fault r) := ⟨nofun⟩
theorem ite_canonical {c : Prop} [Decidable c] {o p : Host.Outcome State Fault Refusal} (ho : AnswersCanonical o)
    (hp : AnswersCanonical p) : AnswersCanonical (if c then o else p) := by split <;> assumption

/-- A core slot: whatever core has its turn, what it does there keeps the form. -/
theorem onCore_canonical {s : State} {f : Nat → State} (hf : ∀ k, (f k).Canonical) : AnswersCanonical (onCore s f) := by
  unfold onCore
  split
  · next k _ _ => exact ite_canonical (next_canonical (hf k)) (fault_canonical _)
  · exact fault_canonical _
theorem onCtx_canonical {s : State} {f : Nat → State} (hf : ∀ x, (f x).Canonical) : AnswersCanonical (onCtx s f) :=
  ite_canonical (next_canonical (hf _)) (fault_canonical _)

section
variable {s : State} (h : s.Canonical)
include h

theorem guarded_canonical (g f) : AnswersCanonical (guarded s g f) :=
  onCore_canonical fun k => State.ite_canonical (State.canonical_of_mem_eq h (s.mem_modStrand k f)) h

/-- A trap where a check fails, else what the slot does. -/
theorem trapOr_canonical {t : State} (ht : t.Canonical) (k : Nat) (x : Trap) :
    (match x with
      | some (c, v) => s.issueTrap k c v
      | none => t).Canonical := by
  split
  · exact State.issueTrap_canonical h ..
  · exact ht

theorem engine_canonical {f : Nat → State → State} (hf : ∀ k t, t.Canonical → (f k t).Canonical) (e atIssue check) :
    AnswersCanonical (engine s e atIssue check f) := by
  refine onCore_canonical fun k => trapOr_canonical h ?_ k _
  exact State.ite_canonical (State.ite_canonical (hf _ _ h) (hf _ _ h)) h
theorem counted_canonical {f : Nat → State → State} (hf : ∀ k t, t.Canonical → (f k t).Canonical) (n lat check) :
    AnswersCanonical (counted s n lat check f) :=
  onCore_canonical fun k => trapOr_canonical h (hf k (s.modStrand k fun st => st.count n lat) h) k _
theorem engineCounted_canonical {f : Nat → State → State} (hf : ∀ k t, t.Canonical → (f k t).Canonical)
    (e n lat check) : AnswersCanonical (engineCounted s e n lat check f) := by
  refine onCore_canonical fun k => trapOr_canonical h ?_ k _
  have ht : (s.modStrand k fun st => st.count n lat).Canonical := h
  exact State.ite_canonical (hf _ _ ht) ht
theorem matrixSlot_canonical {f : Nat → State → State} (hf : ∀ k, (f k s).Canonical) (check) :
    AnswersCanonical (matrixSlot s check f) :=
  onCore_canonical fun k => trapOr_canonical h (hf k) k _
omit h in
theorem checkedOp_canonical {calm upset} (hc : AnswersCanonical calm) (hu : ∀ us, AnswersCanonical (upset us)) :
    AnswersCanonical (checkedOp s calm upset) := by
  unfold checkedOp
  split
  · exact ite_canonical hc (hu _)
  · exact hc

end

/-! ### Meanings of the core slots -/

/-- A change of one strand leaves memory as it is. -/
theorem State.modStrand_canonical {s : State} (h : s.Canonical) (k f) : (s.modStrand k f).Canonical :=
  State.canonical_of_mem_eq h (s.mem_modStrand k f)

section
variable {s : State} (h : s.Canonical)
include h

/-- An engine command that changes its strand alone. -/
theorem engine_modStrand_canonical (e atIssue check) (f : Nat → State → Strand → Strand) :
    AnswersCanonical (engine s e atIssue check fun k s => s.modStrand k (f k s)) :=
  engine_canonical h (fun _ _ ht => State.modStrand_canonical ht ..) ..
/-- An instruction with counted destinations that changes its strand alone. -/
theorem counted_modStrand_canonical (n lat check) (f : Nat → State → Strand → Strand) :
    AnswersCanonical (counted s n lat check fun k s => s.modStrand k (f k s)) :=
  counted_canonical h (fun _ _ ht => State.modStrand_canonical ht ..) ..
/-- An M slot that changes its strand alone. -/
theorem matrixSlot_modStrand_canonical (check) (f : Nat → State → Strand → Strand) :
    AnswersCanonical (matrixSlot s check fun k s => s.modStrand k (f k s)) :=
  matrixSlot_canonical h (fun _ => State.modStrand_canonical h ..) _
theorem execLoop_canonical (d imm g) : AnswersCanonical (execLoop d imm g s) :=
  onCore_canonical fun _ => State.ite_canonical (State.issueTrap_canonical h ..)
    (State.ite_canonical h (State.ite_canonical (State.modStrand_canonical h ..) (State.modStrand_canonical h ..)))
theorem execSwpt_canonical (t g) : AnswersCanonical (execSwpt t g s) :=
  have trap (k c v) := State.issueTrap_canonical h k c v
  onCore_canonical fun _ => State.ite_canonical (trap ..) (State.ite_canonical (trap ..) (State.ite_canonical (trap ..)
    (State.ite_canonical (trap ..) (State.ite_canonical h (State.modStrand_canonical h ..)))))
theorem execEndtCont_canonical (g) : AnswersCanonical (execEndtCont g s) :=
  onCore_canonical fun _ => State.ite_canonical (State.issueTrap_canonical h ..)
    (State.ite_canonical (State.modStrand_canonical h ..) h)
theorem execCload_canonical (c a imm g) : AnswersCanonical (execCload c a imm g s) :=
  onCore_canonical fun _ => State.ite_canonical (State.issueTrap_canonical h ..)
    (State.ite_canonical (State.modStrand_canonical h ..) h)
theorem execCnarrow_canonical (c ca b g) : AnswersCanonical (execCnarrow c ca b g s) :=
  onCore_canonical fun _ => State.ite_canonical (State.issueTrap_canonical h ..)
    (State.ite_canonical (State.modStrand_canonical h ..) h)
theorem execScalarResultWrite_canonical (core) : AnswersCanonical (execScalarResultWrite core s) := by
  refine next_canonical ?_
  split
  · exact h
  · exact State.canonical_of_mem_eq h (by simp)
theorem execMfsr_canonical (d n g) : AnswersCanonical (execMfsr d n g s) :=
  onCore_canonical fun k => trapOr_canonical h (State.ite_canonical (State.modStrand_canonical h ..) h) k _
theorem execMtsr_canonical (d n g) : AnswersCanonical (execMtsr d n g s) :=
  onCore_canonical fun k => trapOr_canonical h (State.ite_canonical (State.modStrand_canonical h ..) h) k _

/-! #### Loads and stores -/

theorem execLds_canonical (r cap off imm size sx g q) : AnswersCanonical (execLds r cap off imm size sx g q s) := by
  refine counted_canonical h (fun k t ht => State.ite_canonical ht ?_) ..
  split
  · exact State.canonical_of_mem_eq ht (by simp)
  · exact State.canonical_of_mem_eq ht (by simp)
  · exact State.canonical_of_mem_eq ht (by simp)
theorem execSts_canonical (r cap off imm size g q) : AnswersCanonical (execSts r cap off imm size g q s) :=
  onCore_canonical fun k => trapOr_canonical h (State.canonical_of_mem_eq h (by simp)) k _
theorem execVld_canonical (v cap off imm g q) : AnswersCanonical (execVld v cap off imm g q s) :=
  counted_canonical h (fun _ _ ht => State.canonical_of_mem_eq ht (by simp)) ..
theorem execVst_canonical (v cap off imm g q) : AnswersCanonical (execVst v cap off imm g q s) :=
  onCore_canonical fun k => trapOr_canonical h (State.canonical_of_mem_eq h (by simp)) k _
theorem loadSingles_canonical (v cap g q off one) : AnswersCanonical (loadSingles s v cap g q off one) :=
  counted_canonical h (fun _ _ ht => State.canonical_of_mem_eq ht (by simp)) ..
theorem execVldb_canonical (v cap off imm g q) : AnswersCanonical (execVldb v cap off imm g q s) := loadSingles_canonical h ..
theorem execVlds_canonical (v cap off stride imm g q) : AnswersCanonical (execVlds v cap off stride imm g q s) :=
  loadSingles_canonical h ..
theorem execVldx_canonical (v cap off idx wi g q) : AnswersCanonical (execVldx v cap off idx wi g q s) := loadSingles_canonical h ..
theorem storeSingles_canonical (v cap g q off) : AnswersCanonical (storeSingles s v cap g q off) :=
  onCore_canonical fun k => trapOr_canonical h (State.canonical_of_mem_eq h (by simp)) k _
theorem atom_canonical (kind o e) : AnswersCanonical (engine s e true (fun k => s.checkAtom k kind o) fun k s => s.doAtom k kind o) :=
  engine_canonical h (fun k _ ht => State.doAtom_canonical ht k kind o) ..
theorem execDrain_canonical (scope engineToo e) : AnswersCanonical (execDrain scope engineToo e s) :=
  engine_canonical h (fun _ _ ht => State.ite_canonical (State.modStrand_canonical ht ..) (State.modStrand_canonical ht ..)) ..

/-! #### The copy engine -/

theorem execCpgo_canonical (o e) : AnswersCanonical (execCpgo o e s) :=
  engine_canonical h (fun _ _ ht => State.canonical_of_mem_eq ht (by simp)) ..
theorem execCpfill_canonical (cap off v n full e) : AnswersCanonical (execCpfill cap off v n full e s) := by
  unfold execCpfill
  extract_lets len g
  refine engine_canonical h (fun k t ht => ?_) ..
  extract_lets st a bs u
  have hf := State.flushSpad_canonical ht k false
  have hu : u.Canonical := State.pokeSpad_canonical (State.canonical_of_mem_eq hf (State.schedule_mem ..)) ..
  exact State.ite_canonical hu (State.canonical_of_mem_eq hu (State.setFulls_mem ..))
theorem execCppub_canonical (d b e) : AnswersCanonical (execCppub d b e s) :=
  engine_canonical h (fun _ _ ht => State.modStrand_canonical (State.flushSpad_canonical ht ..) ..) ..
theorem execCpabort_canonical (e) : AnswersCanonical (execCpabort e s) := by
  refine engine_canonical h (fun k t ht => ?_) ..
  extract_lets st o q oldest marked u old stopped v
  have hu : u.Canonical := State.canonical_of_mem_eq ht (by simp [u, marked])
  have hv : v.Canonical := hu
  refine State.ite_canonical ?_ ?_
  · exact State.canonical_of_mem_eq (State.passAborts_canonical hu o old) (by simp)
  · exact State.canonical_of_mem_eq (State.passAborts_canonical hv o _) (State.freeDeparted_mem ..)
theorem execCopyCommandStart_canonical (eng) : AnswersCanonical (execCopyCommandStart eng s) := by
  refine next_canonical ?_
  split
  · split
    · exact State.canonical_of_mem_eq h (by simp)
    · exact h
  · split <;> exact h
theorem execCopyRun_canonical (eng) : AnswersCanonical (execCopyRun eng s) := by
  refine next_canonical ?_
  split
  · have ht : s.draw.2.Canonical := State.canonical_of_mem_eq h s.draw_mem
    dsimp only
    split
    · exact ht
    · exact State.corePart_canonical ht ..
  · split
    · exact h
    · next n _ x _ =>
      split
      · exact State.plainCopy_canonical h ..
      · next c _ =>
        have moved {t r} (e : s.performPart (.hub n) c x.clamp = (t, r)) : t.Canonical :=
          State.canonical_of_fst (State.performPart_canonical h ..) e
        dsimp only
        split
        · next e => exact State.canonical_of_mem_eq (moved e) rfl
        · next e => exact State.canonical_of_mem_eq (moved e) rfl
        · next e => exact State.canonical_of_mem_eq (moved e) rfl
        · next e => exact State.canonical_of_mem_eq (moved e) rfl
        · next e => exact State.copyFault_canonical (moved e) ..
        · next e => exact State.copyFault_canonical (moved e) ..
        · next e => exact State.copyFault_canonical (moved e) ..
theorem execCopyCommandComplete_canonical (eng) : AnswersCanonical (execCopyCommandComplete eng s) := by
  refine next_canonical ?_
  split
  · split
    · exact h
    · next c _ _ =>
      extract_lets t u v te w
      have ht : t.Canonical := State.setLast_canonical (State.canonical_of_mem_eq h (by simp)) ..
      have hu : u.Canonical := State.ite_canonical ht ht
      have hv : v.Canonical := State.passAborts_canonical (State.signalOf_canonical hu ..) ..
      have hw : w.Canonical := State.ite_canonical (State.copyLate_canonical hv ..) hv
      exact State.canonical_of_mem_eq hw (by simp)
  · exact h

/-! #### Results that land -/

theorem execResultLanding_canonical (core) : AnswersCanonical (execResultLanding core s) := by
  refine next_canonical ?_
  split
  · exact h
  · exact State.canonical_of_mem_eq h (by simp)
theorem execInflightEntryLand_canonical (core) : AnswersCanonical (execInflightEntryLand core s) := by
  refine next_canonical ?_
  split
  · exact h
  · exact State.canonical_of_mem_eq h (by simp)

/-! #### The matrix unit -/

theorem matrixSlot_startOp_canonical (check) (op : Nat → State → MatOp) :
    AnswersCanonical (matrixSlot s check fun k s => s.startOp k (op k s)) :=
  matrixSlot_canonical h (fun _ => State.canonical_of_mem_eq h (by simp)) _
theorem matrixSlot_startStream_canonical (check) (kind o prof) (f : Nat → State → Nat) :
    AnswersCanonical (matrixSlot s check fun k s => s.startStream k kind o prof (f k s)) :=
  matrixSlot_canonical h (fun _ => State.canonical_of_mem_eq h (by simp)) _
theorem execMzero_canonical (o) : AnswersCanonical (execMzero o s) :=
  matrixSlot_canonical h (fun _ => State.canonical_of_mem_eq h (by simp)) _
theorem execMldz_canonical (o) : AnswersCanonical (execMldz o s) :=
  matrixSlot_canonical h (fun _ => State.canonical_of_mem_eq h (by simp)) _
theorem execPlaneRowWrite_canonical (core) : AnswersCanonical (execPlaneRowWrite core s) := by
  refine next_canonical ?_
  split
  · exact h
  · exact State.canonical_of_mem_eq h (by simp)
theorem execTileRowLand_canonical (core) : AnswersCanonical (execTileRowLand core s) := by
  refine next_canonical ?_
  split
  · exact h
  · exact State.ite_canonical (State.canonical_of_mem_eq h (by simp)) (State.canonical_of_mem_eq h (by simp))
theorem execTileRowLoad_canonical (core) : AnswersCanonical (execTileRowLoad core s) := by
  refine next_canonical ?_
  split
  · exact h
  · exact State.canonical_of_mem_eq h (by simp)
theorem execTileRowStore_canonical (core) : AnswersCanonical (execTileRowStore core s) := by
  refine next_canonical ?_
  split
  · exact h
  · exact State.canonical_of_mem_eq h (by simp)
theorem execMchkOutcome_canonical (core) : AnswersCanonical (execMchkOutcome core s) := by
  refine next_canonical ?_
  split
  · exact h
  · exact State.canonical_of_mem_eq h (by simp)

/-! #### Semaphores, barriers, spawns and circuits -/

theorem execSemsig_canonical (e) : AnswersCanonical (execSemsig e s) :=
  engine_canonical h (fun _ _ ht => State.ite_canonical (State.modStrand_canonical ht ..) (State.modStrand_canonical ht ..)) ..
theorem execSemaphoreSignal_canonical (core) : AnswersCanonical (execSemaphoreSignal core s) := by
  refine next_canonical (State.canonical_of_mem_eq h ?_)
  rw [State.mem_modStrand, State.foldl_mem (fun t p => t.addSem_mem ..), State.mem_modStrand]
theorem engine_sendUpdate_canonical (e atIssue check bar) (kind : Nat → State → UpdKind) (line) :
    AnswersCanonical (engine s e atIssue check fun k s => s.sendUpdate k bar (kind k s) line) :=
  engine_canonical h (fun _ _ ht => State.canonical_of_mem_eq ht (by simp)) ..
theorem engine_sendUpdate_modStrand_canonical (e atIssue check bar) (kind : Nat → State → UpdKind) (line)
    (f : Nat → State → Strand → Strand) :
    AnswersCanonical (engine s e atIssue check fun k s => (s.sendUpdate k bar (kind k s) line).modStrand k (f k s)) :=
  engine_canonical h (fun _ _ ht => State.canonical_of_mem_eq ht (by simp)) ..
theorem execBarqry_canonical (bar d e) : AnswersCanonical (execBarqry bar d e s) :=
  engine_canonical h (fun _ _ ht => State.canonical_of_mem_eq ht (by simp)) ..
theorem execCellUpdateCycle_canonical (cell) : AnswersCanonical (execCellUpdateCycle cell s) := by
  simp only [execCellUpdateCycle]
  refine next_canonical (State.ite_canonical ?_ ?_)
  · refine State.foldl_canonical (fun _ _ ht => State.answerQuery_canonical ht ..) _ ?_
    refine State.canonical_of_mem_eq ?_ (State.judgeCell_mem ..)
    exact State.foldl_canonical (fun _ _ ht => State.applyUpdate_canonical ht ..) _ (State.canonical_of_mem_eq h (by simp))
  · split
    · exact State.gangCycle_canonical (by exact h) ..
    · exact h
theorem execBarrierRelease_canonical (core) : AnswersCanonical (execBarrierRelease core s) := by
  refine next_canonical ?_
  split
  · exact h
  · dsimp only
    split
    · exact State.modOwner_canonical (by exact h) ..
    · exact h
theorem execBarinitAnswer_canonical (core) : AnswersCanonical (execBarinitAnswer core s) := by
  refine next_canonical ?_
  split
  · exact h
  · dsimp only
    split
    · refine State.ite_canonical (State.notOwned_canonical ?_ ..) (State.signalTo_canonical ?_ ..) <;>
        exact State.modOwner_canonical (State.canonical_of_mem_eq h (by simp)) ..
    · exact h
theorem execSpawn_canonical (qd cap off st after e) : AnswersCanonical (execSpawn qd cap off st after e s) := by
  unfold execSpawn
  extract_lets desc
  exact engine_canonical h (fun _ _ ht =>
    State.ite_canonical (State.modStrand_canonical ht ..) (State.canonical_of_mem_eq ht (by simp))) ..
theorem execNext_canonical (e) : AnswersCanonical (execNext e s) :=
  engineCounted_canonical h (fun _ _ ht => State.canonical_of_mem_eq ht (by simp)) ..
theorem execYield_canonical (n t e) : AnswersCanonical (execYield n t e s) :=
  engine_canonical h (fun _ _ ht => State.canonical_of_mem_eq ht (by simp)) ..
theorem execCtab_canonical (cap off e) : AnswersCanonical (execCtab cap off e s) := by
  unfold execCtab
  exact engine_canonical h (fun _ _ ht => State.modStrand_canonical ht ..) ..
theorem execCrecv_canonical (v src e) : AnswersCanonical (execCrecv v src e s) := by
  refine engineCounted_canonical h (fun k t ht => ?_) ..
  dsimp only
  split
  · exact ht
  · split
    · exact State.canonical_of_mem_eq ht (by simp)
    · exact State.modStrand_canonical ht ..
theorem execCircuitSlot_canonical (core) : AnswersCanonical (execCircuitSlot core s) := by
  refine next_canonical ?_
  split
  · exact h
  · exact State.canonical_of_mem_eq h (by simp)
theorem execCircuitTransferArrival_canonical (core) : AnswersCanonical (execCircuitTransferArrival core s) := by
  refine next_canonical ?_
  split
  · exact h
  · dsimp only
    split
    · exact State.modOwner_canonical (State.canonical_of_mem_eq h (by simp)) ..
    · exact h
theorem execCircuitCreditReturn_canonical (core) : AnswersCanonical (execCircuitCreditReturn core s) := by
  refine next_canonical ?_
  split
  · exact h
  · dsimp only
    split
    · exact State.modOwner_canonical (by exact h) ..
    · exact h

/-! #### Injected faults, handlers, frames and HOIST -/

theorem execZinject_canonical (o e) : AnswersCanonical (execZinject o e s) := by
  unfold execZinject
  extract_lets c offset
  refine engine_canonical h (fun k t ht => State.ite_canonical ht ?_) ..
  split
  · exact State.modStrand_canonical ht ..
  · exact State.canonical_of_mem_eq ht (State.mem_modNow ..)
  · exact State.pokeSpad_canonical (State.canonical_of_mem_eq (State.flushSpad_canonical ht k false) (State.schedule_mem ..)) ..
theorem execEret_canonical (next e) : AnswersCanonical (execEret next e s) :=
  engine_canonical h (fun _ _ ht => State.canonical_of_mem_eq ht (by simp)) ..
theorem execCtxsave_canonical (cap off parts b e) : AnswersCanonical (execCtxsave cap off parts b e s) := by
  refine engine_canonical h (fun k t ht => ?_) ..
  have hf := State.flushSpad_canonical ht k false
  dsimp only
  split
  · next e =>
    have hu := State.canonical_of_fst_mem hf e (State.reachAll_mem ..)
    exact State.modStrand_canonical (State.foldl_canonical (fun _ _ hv => State.writeVia_canonical hv ..) _ hu) ..
  · next e => exact State.canonical_of_mem_eq (State.canonical_of_fst_mem hf e (State.reachAll_mem ..)) (by simp)
  · next e => exact State.canonical_of_mem_eq (State.canonical_of_fst_mem hf e (State.reachAll_mem ..)) (by simp)
theorem execCtxload_canonical (cap off parts b e) : AnswersCanonical (execCtxload cap off parts b e s) := by
  refine engine_canonical h (fun k t ht => ?_) ..
  have hf := State.flushSpad_canonical ht k false
  dsimp only
  split
  · next e =>
    have hu := State.canonical_of_fst_mem hf e (State.reachAll_mem ..)
    exact State.modStrand_canonical (State.foldl_canonical (fun _ _ hv => State.loadRegion_canonical hv ..) _ hu) ..
  · next e => exact State.canonical_of_mem_eq (State.canonical_of_fst_mem hf e (State.reachAll_mem ..)) (by simp)
  · next e => exact State.canonical_of_mem_eq (State.canonical_of_fst_mem hf e (State.reachAll_mem ..)) (by simp)
theorem execHalt_canonical (code e) : AnswersCanonical (execHalt code e s) :=
  engine_canonical h (fun _ _ ht => State.ite_canonical (State.taskFault_canonical ht ..) (State.taskFault_canonical ht ..)) ..
theorem execHoist_canonical (tag e) : AnswersCanonical (execHoist tag e s) :=
  engine_canonical h (fun _ _ ht => State.ite_canonical (State.canonical_of_mem_eq ht (by simp)) ht) ..

/-! #### Accesses beyond the core -/

theorem execRemoteAccessSend_canonical (id) : AnswersCanonical (execRemoteAccessSend id s) := by
  refine next_canonical ?_
  split
  · exact h
  · exact State.canonical_of_mem_eq h (by simp)
theorem execTranslationWalk_canonical (id) : AnswersCanonical (execTranslationWalk id s) := by
  refine next_canonical ?_
  split
  · exact h
  · refine State.ite_canonical h ?_
    split
    · next e => exact State.canonical_of_fst_mem h e (State.walkAll_mem ..)
    · next e => exact State.canonical_of_mem_eq (State.canonical_of_fst_mem h e (State.walkAll_mem ..)) (by simp)
    · next e => exact State.revoke_canonical (State.canonical_of_fst_mem h e (State.walkAll_mem ..)) _
    · next e => exact State.dataFault_canonical (State.canonical_of_fst_mem h e (State.walkAll_mem ..)) _
theorem execRemoteAccessPerform_canonical (id) : AnswersCanonical (execRemoteAccessPerform id s) := by
  refine next_canonical ?_
  split
  · exact h
  · exact State.ite_canonical h (State.ite_canonical (State.performSpad_canonical h _) (State.performAt_canonical h _))
theorem execRemoteReturn_canonical (id) : AnswersCanonical (execRemoteReturn id s) := by
  refine next_canonical ?_
  split
  · exact h
  · split
    · next r _ _ _ _ _ _ _ =>
      have ht := State.dropRemote_canonical h r
      exact State.ite_canonical (State.canonical_of_mem_eq (State.modAbsent_canonical ht ..) (State.modPeri_mem ..))
        (State.modOwner_canonical ht ..)
    · exact h
theorem execRemoteStoreAccept_canonical (id) : AnswersCanonical (execRemoteStoreAccept id s) := by
  refine next_canonical ?_
  split
  · exact h
  · exact State.ite_canonical (State.dropRemote_canonical h _) h
theorem execLoupeAccept_canonical (id) : AnswersCanonical (execLoupeAccept id s) := by
  refine next_canonical ?_
  split
  · exact h
  · refine State.ite_canonical h ?_
    split
    · exact State.dropRemote_canonical h _
    · exact State.canonical_of_mem_eq h (by simp)

end

end Sys2Proof.Machine

end

section
/-!
PROOFS. Meanings of the S-ops, of the Prism's events and of the hub's keep the canonical form.
-/

namespace Sys2Proof.Machine

/-! ### Meanings of the S-ops -/

section
variable {s : State} (h : s.Canonical)
include h

theorem State.decodeFault_canonical (x r ext buf off) : (s.decodeFault x r ext buf off).Canonical :=
  State.canonical_of_mem_eq h (State.decodeFault_mem ..)
theorem State.simpleEntry_canonical (x kind after) (f : FrontEnd → FrontEnd) : (s.simpleEntry x kind after f).Canonical :=
  State.canonical_of_mem_eq h (State.simpleEntry_mem ..)
theorem State.withWord_canonical (x p) : (s.withWord x p).Canonical := State.canonical_of_mem_eq h (State.withWord_mem ..)
theorem State.commit_canonical (x) (f : FrontEnd → FrontEnd) : (s.commit x f).Canonical :=
  State.canonical_of_mem_eq h (State.commit_mem ..)

theorem sop_canonical {f : Nat → State} (hf : ∀ x, (f x).Canonical) : AnswersCanonical (sop s f) := by
  refine onCtx_canonical fun x => ?_
  split
  · exact State.decodeFault_canonical h ..
  · exact hf x
theorem control_canonical (f) : AnswersCanonical (control s f) := by
  refine sop_canonical h fun x => ?_
  split
  · exact State.decodeFault_canonical h ..
  · exact State.canonical_of_mem_eq h (State.commitFe_mem ..)
theorem extension_canonical {f : Nat → PendingSop → State} (hf : ∀ x p, (f x p).Canonical) (want) :
    AnswersCanonical (extension s want f) := by
  refine onCtx_canonical fun x => ?_
  split
  · exact State.decodeFault_canonical h ..
  · exact State.ite_canonical (hf ..) (State.decodeFault_canonical h ..)
theorem service_canonical {f : State → Host.Outcome State Fault Refusal} (hf : AnswersCanonical (f s)) :
    AnswersCanonical (service s f) :=
  ite_canonical hf (sop_canonical h fun _ => State.decodeFault_canonical h ..)

theorem State.canonical_of_prismRead {early obj off n t a} (e : s.prismRead early obj off n = (t, a)) : t.Canonical :=
  State.canonical_of_fst_mem h e (State.prismRead_mem ..)

theorem execSld_canonical (o) : AnswersCanonical (execSld o s) := by
  refine sop_canonical h fun x => ?_
  extract_lets c n fin
  have ended {t : State} (ht : t.Canonical) (v) : (fin t v).Canonical := State.commit_canonical ht ..
  refine State.ite_canonical ?_ ?_
  · exact State.ite_canonical (State.decodeFault_canonical h ..) (State.ite_canonical (State.decodeFault_canonical h ..) (ended h _))
  · split
    · exact State.decodeFault_canonical h ..
    · split
      · next e => exact ended (State.canonical_of_mem_eq (State.canonical_of_prismRead h e) (State.sldValue_mem ..)) _
      · next e => exact State.decodeFault_canonical (State.canonical_of_prismRead h e) ..
      · next e => exact State.decodeFault_canonical (State.canonical_of_prismRead h e) ..
      · next e => exact State.canonical_of_prismRead h e
theorem execSst_canonical (o) : AnswersCanonical (execSst o s) := by
  refine sop_canonical h fun x => ?_
  dsimp only
  split
  · exact State.decodeFault_canonical h ..
  · exact State.simpleEntry_canonical h ..
theorem execPark_canonical (a b c n imm) : AnswersCanonical (execPark a b c n imm s) := by
  refine sop_canonical h fun x => ?_
  dsimp only
  split
  · exact State.decodeFault_canonical h ..
  · exact State.canonical_of_mem_eq h (by simp)
theorem execParkPoll_canonical (ctx) : AnswersCanonical (execParkPoll ctx s) := by
  refine next_canonical ?_
  split
  · exact h
  · next p _ =>
    extract_lets stop again
    have stopped {t : State} (ht : t.Canonical) (r) : (stop t r).Canonical := State.decodeFault_canonical (by exact ht) ..
    split
    · next e =>
      have ht := State.canonical_of_prismRead h e
      exact State.ite_canonical (State.canonical_of_mem_eq ht (State.unpark_mem ..)) ht
    · next e => exact stopped (State.canonical_of_prismRead h e) _
    · next e => exact stopped (State.canonical_of_prismRead h e) _
    · next e =>
      have ht := State.canonical_of_prismRead h e
      exact ht
theorem execBind_canonical (buf a b n seg imm) : AnswersCanonical (execBind buf a b n seg imm s) :=
  have bad (x r off) := State.decodeFault_canonical h x r 0 buf.toNat off
  sop_canonical h fun _ => State.ite_canonical (bad ..) (State.ite_canonical (bad ..) (State.ite_canonical (bad ..)
    (State.commit_canonical (by exact h) ..)))
theorem execUnbind_canonical (buf discard) : AnswersCanonical (execUnbind buf discard s) :=
  sop_canonical h fun _ => State.ite_canonical (State.decodeFault_canonical h ..)
    (State.ite_canonical (State.decodeFault_canonical h ..) (State.simpleEntry_canonical h ..))
theorem execTask_canonical (w) : AnswersCanonical (execTask w s) := by
  refine sop_canonical h fun x => ?_
  split
  · exact State.decodeFault_canonical h ..
  · exact State.withWord_canonical h ..
theorem execCopy_canonical (w) : AnswersCanonical (execCopy w s) :=
  sop_canonical h fun _ => State.ite_canonical (State.decodeFault_canonical h ..) (State.withWord_canonical h ..)
theorem execOpd_canonical (w) : AnswersCanonical (execOpd w s) := by
  refine extension_canonical h (fun x p => State.ite_canonical (State.decodeFault_canonical h ..) ?_) _
  split
  · exact State.decodeFault_canonical h ..
  · exact State.withWord_canonical h ..
theorem execCdim_canonical (w) : AnswersCanonical (execCdim w s) :=
  extension_canonical h (fun _ _ => State.ite_canonical (State.withWord_canonical h ..) (State.decodeFault_canonical h ..)) _
theorem execSfence_canonical (sys) : AnswersCanonical (execSfence sys s) :=
  sop_canonical h fun _ => State.ite_canonical h (State.commit_canonical h ..)
theorem execSvar_canonical (n off) : AnswersCanonical (execSvar n off s) := by
  refine sop_canonical h fun x => ?_
  extract_lets c k entry
  refine State.ite_canonical (State.decodeFault_canonical h ..) ?_
  split
  · next t v _ e =>
    have ht := State.canonical_of_prismRead h e
    have own : (if v ≠ 0 then (t, some v, Finding.ok) else entry t 0).1.Canonical :=
      State.fst_ite_canonical ht (State.canonical_of_mem_eq ht (State.prismRead_mem ..))
    split
    · next e =>
      have hu := State.canonical_of_fst own e
      exact State.ite_canonical (State.canonical_of_mem_eq hu (State.commitFe_mem ..)) (State.decodeFault_canonical hu ..)
    · next e => exact State.decodeFault_canonical (State.canonical_of_fst own e) ..
    · next e => exact State.decodeFault_canonical (State.canonical_of_fst own e) ..
    · next e => exact State.canonical_of_fst own e
  · next e => exact State.decodeFault_canonical (State.canonical_of_prismRead h e) ..
  · next e => exact State.decodeFault_canonical (State.canonical_of_prismRead h e) ..
  · next e => exact State.canonical_of_prismRead h e
theorem execPrio_canonical (ctx level) : AnswersCanonical (execPrio ctx level s) :=
  service_canonical h (sop_canonical h fun _ => State.commit_canonical (State.canonical_of_mem_eq h (State.setPrio_mem ..)) ..)
theorem execQuota_canonical (ctx window pool n) : AnswersCanonical (execQuota ctx window pool n s) :=
  service_canonical h (sop_canonical h fun _ => State.ite_canonical (State.decodeFault_canonical h ..)
    (State.ite_canonical (State.decodeFault_canonical h ..) (State.commit_canonical (by exact h) ..)))
theorem execUnlistedOp_canonical (r) : AnswersCanonical (execUnlistedOp r s) := by
  refine onCtx_canonical fun x => ?_
  split <;> exact State.decodeFault_canonical h ..
theorem execStreamObjectEnd_canonical : AnswersCanonical (execStreamObjectEnd s) := by
  refine onCtx_canonical fun x => ?_
  split <;> exact State.decodeFault_canonical h ..

/-! ### Meanings of the Prism's events -/

theorem State.verify_canonical (tid) : (s.verify tid).Canonical := State.canonical_of_mem_eq h (State.verify_mem ..)

/-- A turn of the servers: the first that can start something answers, else the state stands. -/
theorem State.getD_findSome?_canonical {α : Type} {f : α → Option State} (hf : ∀ a t, f a = some t → t.Canonical)
    (l : List α) : ((l.findSome? f).getD s).Canonical := by
  cases e : l.findSome? f with
  | none => exact h
  | some t =>
    obtain ⟨a, _, ha⟩ := List.exists_of_findSome?_eq_some e
    exact hf a t ha

theorem execDispatch_canonical : AnswersCanonical (execDispatch s) := by
  refine next_canonical (State.getD_findSome?_canonical h (fun c t e => ?_) _)
  obtain ⟨u, hu, rfl⟩ := Option.map_eq_some_iff.1 e
  exact State.canonical_of_mem_eq (State.tryEntry_canonical h hu) (State.servedBy_mem ..)
theorem execPoolEntryDispatch_canonical : AnswersCanonical (execPoolEntryDispatch s) := by
  refine next_canonical (State.getD_findSome?_canonical h (fun c t e => ?_) _)
  split at e
  · obtain ⟨u, hu, rfl⟩ := Option.map_eq_some_iff.1 e
    exact State.canonical_of_mem_eq h ((State.servedBy_mem ..).trans (State.tryPool_mem hu))
  · cases e
theorem execEntryReady_canonical (tid) : AnswersCanonical (execEntryReady tid s) := by
  refine next_canonical ?_
  split
  · exact h
  · refine State.ite_canonical h ?_
    split
    · exact State.ite_canonical (State.verify_canonical h _) (State.canonical_of_mem_eq h (State.queueWritebacks_mem ..))
    · exact State.verify_canonical (State.mark_canonical h ..) _
    · exact State.verify_canonical h _
    · exact State.verify_canonical h _
    · exact State.verify_canonical h _
    · exact State.canonical_of_mem_eq h (State.becomeReady_mem ..)
theorem execAgingPromotion_canonical (tid) : AnswersCanonical (execAgingPromotion tid s) := by
  refine next_canonical ?_
  split
  · exact h
  · exact State.ite_canonical h h
theorem execSquashRemove_canonical (tid) : AnswersCanonical (execSquashRemove tid s) := by
  refine next_canonical ?_
  split
  · exact State.ite_canonical (State.canonical_of_mem_eq h (State.dropViews_mem ..)) h
  · exact h
theorem execRetire_canonical (ctx) : AnswersCanonical (execRetire ctx s) := by
  refine next_canonical ?_
  split
  · exact h
  · next e _ =>
    extract_lets t u v w z
    have ht : t.Canonical := State.canonical_of_mem_eq h (by simp [t])
    have hu : u.Canonical := State.foldl_canonical (fun _ _ hx => State.releaseAllHeld_canonical hx ..) _ ht
    have hv : v.Canonical := State.ownEffect_canonical hu e
    have hz : z.Canonical := State.canonical_of_mem_eq hv (by simp [z, w])
    exact State.canonical_of_mem_eq hz (by simp)
theorem execFaultDelivery_canonical (ctx) : AnswersCanonical (execFaultDelivery ctx s) := by
  refine next_canonical ?_
  split
  · exact h
  · next f e _ =>
    extract_lets younger esc imprecise t u v
    have ht : t.Canonical := State.squashAll_canonical h ..
    have hu : u.Canonical := by
      unfold u
      split
      · exact ht
      · exact State.canonical_of_mem_eq ht (by simp)
    exact State.canonical_of_mem_eq hu (by simp [v])
theorem execHubCopyComplete_canonical (c) : AnswersCanonical (execHubCopyComplete c s) := by
  refine next_canonical ?_
  split
  · exact h
  · split
    · exact State.ite_canonical h (State.verify_canonical (by exact h) _)
    · exact State.ite_canonical h (State.ite_canonical (State.verify_canonical (by exact h) _) h)
    · exact h
theorem execModFillComplete_canonical (c) : AnswersCanonical (execModFillComplete c s) := by
  refine next_canonical ?_
  split
  · exact h
  · split
    · exact State.ite_canonical h h
    · exact h

end

/-! ### Meanings of the hub's events -/

section
variable {s : State} (h : s.Canonical)
include h

theorem State.answer_canonical (status v) : (s.answer status v).Canonical := State.canonical_of_mem_eq h (State.answer_mem ..)
theorem request_canonical {f : State → State} (hf : AnswersCanonical (.next (f s))) (op) :
    AnswersCanonical (.next (s.request op f)) :=
  next_canonical (State.ite_canonical (hf.canonical rfl) h)
theorem State.policy_canonical {f : State → State} (hf : ∀ t, t.Canonical → (f t).Canonical) : (s.policy f).Canonical :=
  State.ite_canonical (hf _ h) (State.answer_canonical (by exact h) ..)

theorem execExtentMigration_canonical (obj ext home unit place) :
    AnswersCanonical (execExtentMigration obj ext home unit place s) := by
  refine next_canonical ?_
  split
  · exact State.ite_canonical (State.canonical_of_mem_eq h (State.moveExtent_mem ..)) h
  · exact h

/-! #### The object table's operations and the host's requests -/

theorem execOtswap_canonical : AnswersCanonical (execOtswap s) := by
  refine next_canonical (State.ite_canonical h ?_)
  split
  · exact h
  · exact State.canonical_of_mem_eq h (by simp)
theorem execOtswapDone_canonical : AnswersCanonical (execOtswapDone s) := by
  refine next_canonical ?_
  split
  · exact State.ite_canonical h h
  · exact h
theorem execOtsync_canonical : AnswersCanonical (execOtsync s) := by
  refine next_canonical (State.ite_canonical h ?_)
  split
  · exact h
  · refine State.ite_canonical h (State.canonical_of_mem_eq h ?_)
    exact State.foldl_mem (fun _ _ => (State.rewalk_mem ..).trans (State.invalidate_mem ..)) _ _
theorem execOtsyncDone_canonical : AnswersCanonical (execOtsyncDone s) := by
  refine next_canonical ?_
  split
  · exact State.ite_canonical h h
  · exact h
theorem execOwedNoticePost_canonical : AnswersCanonical (execOwedNoticePost s) := by
  refine next_canonical ?_
  split
  · exact h
  · exact State.ite_canonical h (State.canonical_of_mem_eq h (State.notice_mem ..))
theorem execCreateObject_canonical : AnswersCanonical (execCreateObject s) := by
  refine request_canonical h (next_canonical ?_) _
  refine State.ite_canonical (State.answer_canonical h ..) (State.policy_canonical h fun t ht => ?_)
  dsimp only
  split
  · exact State.answer_canonical ht ..
  · exact State.ite_canonical (State.answer_canonical ht ..)
      (State.answer_canonical (State.canonical_of_mem_eq (State.clearExtents_canonical ht ..) (State.putObject_mem ..)) ..)
theorem execFreeObject_canonical : AnswersCanonical (execFreeObject s) := by
  refine request_canonical h (next_canonical ?_) _
  refine State.ite_canonical (State.answer_canonical h ..) ?_
  split
  · exact State.answer_canonical h ..
  · exact State.ite_canonical h (State.policy_canonical h fun _ ht =>
      State.answer_canonical (State.canonical_of_mem_eq ht (State.dropObject_mem ..)) ..)
theorem execCreateContext_canonical : AnswersCanonical (execCreateContext s) := by
  have refuse (status) := State.answer_canonical h status 0
  refine next_canonical (State.ite_canonical (State.ite_canonical (refuse _) (State.ite_canonical (refuse _) ?_))
    (State.ite_canonical (State.renewService_canonical h) h))
  split
  · exact refuse _
  · exact State.ite_canonical (refuse _) (State.ite_canonical (refuse _) (State.policy_canonical h fun _ ht =>
      State.answer_canonical (State.canonical_of_mem_eq ht (State.makeContext_mem ..)) ..))
theorem execRestartContext_canonical : AnswersCanonical (execRestartContext s) := by
  have refuse (status) := State.answer_canonical h status 0
  have restarted (x) (f : Context → Context) : (s.policy fun s => (s.modCtx x f).answer 0 0).Canonical :=
    State.policy_canonical h fun _ ht => State.answer_canonical (by exact ht) ..
  refine request_canonical h (next_canonical ?_) _
  refine State.ite_canonical (refuse _) (State.ite_canonical (refuse _)
    (State.ite_canonical (State.ite_canonical (restarted ..) (refuse _)) ?_))
  split
  · exact refuse _
  · exact restarted ..
theorem execWriteCapabilityEntry_canonical : AnswersCanonical (execWriteCapabilityEntry s) := by
  have refuse (status) := State.answer_canonical h status 0
  refine request_canonical h ?_ _
  extract_lets r x n c
  refine next_canonical ?_
  exact State.ite_canonical (refuse _) (State.ite_canonical (refuse _)
    (State.ite_canonical (refuse _) (State.policy_canonical h fun _ ht =>
      State.answer_canonical (State.canonical_of_mem_eq ht (State.mem_modCtx ..)) ..)))
theorem execBadRequest_canonical (op) : AnswersCanonical (execBadRequest op s) :=
  next_canonical (State.ite_canonical ((request_canonical h (next_canonical (State.answer_canonical h ..)) _).canonical rfl) h)
theorem execHostWindowAccess_canonical (win off size store) : AnswersCanonical (execHostWindowAccess win off size store s) := by
  have missed {t : State} (ht : t.Canonical) : t.windowMiss.Canonical := State.canonical_of_mem_eq ht (State.windowMiss_mem _)
  refine next_canonical ?_
  split
  · exact State.ite_canonical h (missed h)
  · have reached {p w q l t r} (e : s.reachAll p w q l = (t, r)) : t.Canonical :=
      State.canonical_of_fst_mem h e (State.reachAll_mem ..)
    split
    · next e =>
      dsimp only
      split
      · exact State.writeVia_canonical (reached e) ..
      · exact State.canonical_of_mem_eq (reached e) (by simp)
    · next e =>
      split
      · exact State.canonical_of_mem_eq (reached e) (by simp)
      · exact State.canonical_of_mem_eq (reached e) (by simp)
    · next e => exact reached e
    · next e => exact missed (reached e)
theorem execRegisterWrite_canonical (who off v) : AnswersCanonical (execRegisterWrite who off v s) := by
  refine next_canonical ?_
  extract_lets t u
  have ht : t.Canonical := h
  have hu : u.Canonical := State.ite_canonical (State.firmwareWrite_canonical (by exact ht) ..) ht
  exact State.ite_canonical (State.canonical_of_mem_eq hu (State.fireHoist_mem ..)) hu

/-! #### Errors, checks and votes -/

theorem execSuspicionDecay_canonical : AnswersCanonical (execSuspicionDecay s) :=
  next_canonical (State.canonical_of_mem_eq h (State.foldl_mem (fun _ _ => State.judge_mem ..) _ _))
theorem execSramUncorrectableError_canonical (chip) : AnswersCanonical (execSramUncorrectableError chip s) :=
  next_canonical (State.ite_canonical h (State.canonical_of_mem_eq h (by simp)))
theorem execChipletReadmission_canonical (chip) : AnswersCanonical (execChipletReadmission chip s) :=
  next_canonical (State.ite_canonical h h)
theorem execChipletRetirementRequest_canonical (chip) : AnswersCanonical (execChipletRetirementRequest chip s) :=
  next_canonical (State.ite_canonical h (State.canonical_of_mem_eq h (State.retireChip_mem ..)))
theorem execCorrectedError_canonical (chip addr) : AnswersCanonical (execCorrectedError chip addr s) :=
  next_canonical (State.canonical_of_mem_eq h (State.logError_mem ..))
theorem execCheckFaultReexecution_canonical (tid) : AnswersCanonical (execCheckFaultReexecution tid s) := by
  refine next_canonical ?_
  split
  · exact h
  · refine State.foldl_canonical (fun _ _ ht => State.reexecute_canonical ht ..) _ (State.canonical_of_mem_eq h ?_)
    exact State.foldl_mem (fun _ _ => State.chargeCheck_mem ..) _ _
theorem execVoteCompare_canonical (tid) : AnswersCanonical (execVoteCompare tid s) := by
  refine next_canonical ?_
  split
  · exact h
  · have hc : s.countVote.Canonical := State.canonical_of_mem_eq h (State.countVote_mem _)
    refine State.ite_canonical h (State.ite_canonical ?_ (State.ite_canonical (State.undecided_canonical hc _) ?_))
    · exact State.canonical_of_mem_eq hc (by simp)
    · exact State.canonical_of_mem_eq hc (by simp)
theorem execThirdRunCompare_canonical (tid) : AnswersCanonical (execThirdRunCompare tid s) := by
  refine next_canonical ?_
  split
  · exact h
  · next e _ =>
    extract_lets c sig losers
    have hc : c.Canonical := State.canonical_of_mem_eq h (State.countVote_mem _)
    have lost {t : State} (ht : t.Canonical) (r) : (losers r t).Canonical :=
      State.canonical_of_mem_eq ht (State.foldl_mem (fun _ _ => State.suspect_mem ..) _ _)
    refine State.ite_canonical h (State.ite_canonical (lost ?_ _)
      (State.ite_canonical (lost (State.verify_canonical (State.primaryLost_canonical hc e) _) _) (State.undecided_canonical hc _)))
    exact State.canonical_of_mem_eq hc (by simp)
theorem execHeadOnlyMode_canonical (tid) : AnswersCanonical (execHeadOnlyMode tid s) := by
  refine next_canonical (State.ite_canonical h ?_)
  split
  · exact State.canonical_of_mem_eq (State.releaseFirst_canonical h ..) (State.modEntry_mem ..)
  · exact State.canonical_of_mem_eq h (by simp)
theorem onCore_issueTrap_canonical (code v) : AnswersCanonical (onCore s fun k => s.issueTrap k code v) :=
  onCore_canonical fun k => State.issueTrap_canonical h k code v

/-! #### Saves, restores and kills -/

theorem execPreemptStop_canonical (core) : AnswersCanonical (execPreemptStop core s) := next_canonical (State.ite_canonical h h)
theorem execPageAbsentSuspend_canonical (core) : AnswersCanonical (execPageAbsentSuspend core s) := by
  refine next_canonical ?_
  extract_lets c
  split
  · exact State.ite_canonical h h
  · exact h
theorem State.modCore_canonical (k f) : (s.modCore k f).Canonical := State.canonical_of_mem_eq h (s.mem_modCore k f)
theorem State.turnDeparted_canonical (o b old new core) : (s.turnDeparted o b old new core).Canonical :=
  State.canonical_of_mem_eq h (State.turnDeparted_mem ..)
theorem State.countParts_putParts_canonical (a ps obj base) : ((s.countParts a ps).putParts obj base ps).Canonical :=
  State.putParts_canonical (State.canonical_of_mem_eq h (State.countParts_mem ..)) ..
theorem execSaveBankStart_canonical (core) : AnswersCanonical (execSaveBankStart core s) := by
  refine next_canonical ?_
  extract_lets c
  split
  · exact h
  · split
    · exact h
    · extract_lets t u ps
      have hu : u.Canonical := State.canonical_of_mem_eq h (by simp [u, t])
      split
      · exact hu
      · exact State.countParts_putParts_canonical hu ..
theorem execSaveBankEnd_canonical (core) : AnswersCanonical (execSaveBankEnd core s) := by
  refine next_canonical ?_
  extract_lets c
  split
  · exact h
  · split
    · exact State.ite_canonical h h
    · exact h
theorem execSaveEnd_canonical (core) : AnswersCanonical (execSaveEnd core s) := by
  unfold execSaveEnd
  extract_lets c st p t u v
  have saved (a) : ((s.countParts a [p]).putPart (s.frameOf a).1 (s.frameOf a).2 p).Canonical :=
    State.putPart_canonical (State.canonical_of_mem_eq h (State.countParts_mem ..)) ..
  have parted : t = s ∨ ∃ a, t = (s.countParts a [p]).putPart (s.frameOf a).1 (s.frameOf a).2 p := by
    unfold t
    split
    · exact .inr ⟨_, rfl⟩
    · exact .inl rfl
  have ht : t.Canonical := by
    rcases parted with e | ⟨a, e⟩
    · rw [e]; exact h
    · rw [e]; exact saved a
  clear_value t
  have hu : u.Canonical := State.modAbsent_canonical ht ..
  have hv : v.Canonical := State.canonical_of_mem_eq hu (by simp [v])
  refine next_canonical ?_
  split
  · exact h
  · exact State.ite_canonical h (State.canonical_of_mem_eq hv (by simp))
theorem execRestoreStart_canonical (core) : AnswersCanonical (execRestoreStart core s) := by
  refine next_canonical ?_
  extract_lets c t src u
  have hu : u.Canonical := State.clearCells_canonical (State.modAbsent_canonical h ..) ..
  split
  · exact h
  · exact State.canonical_of_mem_eq hu (State.mem_modCore ..)
theorem execRestoreBankEnd_canonical (core) : AnswersCanonical (execRestoreBankEnd core s) := by
  refine next_canonical ?_
  extract_lets c o
  split
  · exact h
  · split
    · refine State.ite_canonical h ?_
      dsimp only
      split
      · exact h
      · refine State.modCore_canonical (State.turnDeparted_canonical (State.pokeSpad_canonical ?_ ..) ..) ..
        exact State.canonical_of_mem_eq h ((State.countSpan_mem ..).trans (State.countSpan_mem ..))
    · exact h
theorem execResumeMerge_canonical (core) : AnswersCanonical (execResumeMerge core s) := by
  refine next_canonical ?_
  extract_lets c
  split
  · refine State.ite_canonical h ?_
    split
    · exact h
    · next t e =>
      have ht : t.Canonical := State.canonical_of_mem_eq h (State.placeBarrier_mem e)
      refine State.canonical_of_mem_eq ht ?_
      rw [State.parkCells_mem, State.foldl_mem (fun _ _ => State.unparkCell_mem ..), State.mem_modStrand, State.mem_modCore]
  · exact h
theorem execWatchdogExpiry_canonical (core) : AnswersCanonical (execWatchdogExpiry core s) :=
  next_canonical (State.ite_canonical (State.taskFault_canonical h ..) h)
theorem execKillComplete_canonical (ctx) : AnswersCanonical (execKillComplete ctx s) :=
  next_canonical (State.ite_canonical (State.canonical_of_mem_eq h (by simp)) h)
theorem execSaveTimeout_canonical (core) : AnswersCanonical (execSaveTimeout core s) := by
  refine next_canonical ?_
  extract_lets c st x t u f
  have hu : u.Canonical := State.canonical_of_mem_eq h (by simp [u, t])
  split
  · exact h
  · exact State.ite_canonical h (State.kill_canonical (State.canonical_of_mem_eq hu (State.recordFault_mem ..)) _)
theorem execWindowLost_canonical (ctx) : AnswersCanonical (execWindowLost ctx s) := by
  refine next_canonical ?_
  split
  · exact h
  · extract_lets esc t u
    have hu : u.Canonical := State.canonical_of_mem_eq (State.squashAll_canonical h ..) (State.restoreFe_mem ..)
    exact State.ite_canonical hu (State.canonical_of_mem_eq hu (by simp))

/-! #### Power -/

theorem execDroopAlarm_canonical (domain) : AnswersCanonical (execDroopAlarm domain s) :=
  next_canonical (State.ite_canonical h (State.canonical_of_mem_eq h (State.foldl_mem (fun _ _ => State.mem_modCore ..) _ _)))
theorem execBallastEnd_canonical (core) : AnswersCanonical (execBallastEnd core s) :=
  next_canonical (State.ite_canonical h (State.canonical_of_mem_eq h (by simp)))
theorem execThermalTrip_canonical (src) : AnswersCanonical (execThermalTrip src s) := by
  refine next_canonical ?_
  split
  · exact h
  · exact State.canonical_of_mem_eq (State.dark_canonical h) (State.mem_modHub ..)
theorem execBoot_canonical : AnswersCanonical (execBoot s) := by
  refine next_canonical ?_
  extract_lets n dark t w p u
  have ht : t.Canonical := State.dark_canonical h
  have hu : u.Canonical := State.loadService_canonical (by exact ht) ..
  exact State.ite_canonical ht (State.canonical_of_mem_eq hu (by simp))
theorem execOverQuota_canonical (ctx) : AnswersCanonical (execOverQuota ctx s) := next_canonical (State.ite_canonical h h)
theorem execEnergyQuotaWrite_canonical (ctx v) : AnswersCanonical (execEnergyQuotaWrite ctx v s) :=
  next_canonical (State.ite_canonical h h)

/-! #### Checkpoints, the Hoist, interrupts and links -/

theorem execCkptExtentCopied_canonical (ctx) : AnswersCanonical (execCkptExtentCopied ctx s) := by
  refine next_canonical ?_
  split
  · exact h
  · refine State.ite_canonical h ?_
    split
    · exact State.canonical_of_mem_eq h (State.ckptEnd_mem ..)
    · dsimp only
      split
      · exact State.canonical_of_mem_eq h (by simp)
      · exact State.canonical_of_mem_eq (State.putPart_canonical h ..) (State.mem_modCtx ..)
theorem execCheckpointRestart_canonical (ctx) : AnswersCanonical (execCheckpointRestart ctx s) := by
  refine next_canonical ?_
  extract_lets c
  split
  · exact h
  · next r _ =>
    refine State.ite_canonical h ?_
    extract_lets t u kept ms v w mine x
    have ht : t.Canonical := State.putExtents_canonical (State.canonical_of_mem_eq h (State.abandonCopy_mem ..)) _
    have hu : u.Canonical := State.foldl_put_canonical State.putPart_canonical _ _ _ _ ht
    have hv : v.Canonical := hu
    have hw : w.Canonical :=
      State.foldl_canonical (fun _ _ hy => State.writeVia_canonical (State.writeObj_canonical hy ..) ..) _ hv
    exact State.canonical_of_mem_eq hw (State.mem_modCtx ..)
theorem execHoistFire_canonical : AnswersCanonical (execHoistFire s) :=
  next_canonical (State.canonical_of_mem_eq h (State.fireHoist_mem ..))
theorem execHoistPin_canonical : AnswersCanonical (execHoistPin s) :=
  next_canonical (State.ite_canonical (State.canonical_of_mem_eq h (State.fireHoist_mem ..)) h)
theorem execHoistSnapshot_canonical : AnswersCanonical (execHoistSnapshot s) := by
  refine next_canonical ?_
  split
  · exact h
  · exact State.ite_canonical h h
theorem execInterruptRecordPost_canonical : AnswersCanonical (execInterruptRecordPost s) := by
  refine next_canonical ?_
  split
  · exact h
  · exact State.ite_canonical h (State.writeRecord_canonical (by exact h) _)
theorem execPennantFlitReceive_canonical (port f) : AnswersCanonical (execPennantFlitReceive port f s) := by
  refine next_canonical ?_
  extract_lets p set acks failed
  have hset (q) : (set q).Canonical := h
  have hacks {t : State} (ht : t.Canonical) (n) : (acks t n).Canonical :=
    State.foldl_canonical (fun _ _ hu => State.linkPerforms_canonical hu _) _ ht
  have hfailed : failed.Canonical := State.ite_canonical (hset _) (State.portDown_canonical h _)
  refine State.ite_canonical h ?_
  split
  · exact State.ite_canonical (State.canonical_of_mem_eq (hacks (hset _) _) (State.takeAccess_mem ..))
      (State.ite_canonical (hacks (hset _) _) hfailed)
  · exact State.ite_canonical (hset _) (State.portDown_canonical h _)
  · exact hfailed

end

end Sys2Proof.Machine

end

section
/-!
PROOFS. Every row of the dispatch keeps the canonical form, and so does a step.
-/

namespace Sys2Proof.Machine

/-! ### The common forms of the slots -/

section
variable {s : State} (h : s.Canonical)
include h

theorem regOp_canonical (f lat d a b g) : AnswersCanonical (regOp f lat d a b g s) := guarded_canonical h ..
theorem immOp_canonical (f d a b g) : AnswersCanonical (immOp f d a b g s) := guarded_canonical h ..
theorem divOp_canonical (f d a b g) : AnswersCanonical (divOp f d a b g s) := guarded_canonical h ..

theorem laneOp_canonical (o lat r) : AnswersCanonical (laneOp s o lat r) := counted_modStrand_canonical h ..
theorem upsetOp_canonical (o lat r) : AnswersCanonical (upsetOp s o lat r) := counted_modStrand_canonical h ..
theorem abcOp_canonical (o lat f) : AnswersCanonical (abcOp s o lat f) := laneOp_canonical h ..
theorem intOp_canonical (o lat sat r) : AnswersCanonical (intOp s o lat sat r) := abcOp_canonical h ..
theorem patOp_canonical (o lat r) : AnswersCanonical (patOp s o lat r) := abcOp_canonical h ..
theorem bitOp_canonical (o f) : AnswersCanonical (bitOp s o f) := abcOp_canonical h ..
theorem fpOp_canonical (o lat r) : AnswersCanonical (fpOp s o lat r) := abcOp_canonical h ..
theorem codeOp_canonical (o r) : AnswersCanonical (codeOp s o r) := abcOp_canonical h ..
theorem checkedInt_canonical (o lat sat r post) : AnswersCanonical (checkedInt s o lat sat r post) :=
  checkedOp_canonical (intOp_canonical h ..) fun _ => upsetOp_canonical h ..
theorem execVtacc_canonical (o) : AnswersCanonical (execVtacc o s) := by
  unfold execVtacc
  exact checkedOp_canonical (abcOp_canonical h ..) fun _ => upsetOp_canonical h ..
theorem execVclamp_canonical (o) : AnswersCanonical (execVclamp o s) := ite_canonical (codeOp_canonical h ..) (intOp_canonical h ..)
theorem compareOp_canonical (o r) : AnswersCanonical (compareOp s o r) := counted_modStrand_canonical h ..
theorem unpackOp_canonical (o lat w k val) : AnswersCanonical (unpackOp s o lat w k val) := laneOp_canonical h ..
theorem packOp_canonical (o w k fmt sat) : AnswersCanonical (packOp s o w k fmt sat) := counted_modStrand_canonical h ..
theorem reduceOp_canonical (o op) : AnswersCanonical (reduceOp s o op) := counted_modStrand_canonical h ..
theorem predOp_canonical (o f) : AnswersCanonical (predOp s o f) := counted_modStrand_canonical h ..

theorem setG_canonical (a v) : AnswersCanonical (setG s a v) := control_canonical h _

end

/-! ### Every step -/

/-- Every instruction and every event of the order of work keeps the canonical form, one row of the dispatch at a time. -/
theorem exec_canonical {s : State} (h : s.Canonical) (i : Instr) : AnswersCanonical (exec i s) := by
  unfold exec
  cases i with
  | nop | cmp | cmpi | qlog | lil | lih | br | brx | call | nopw | rot | endt | crights | cget | cmov =>
    exact guarded_canonical h ..
  | add | sub | mul | mulh | mulhn | and | or | xor | andn | shl | shr | sar | rotl | min | max | minn | maxn =>
    exact regOp_canonical h ..
  | div | divn | rem | remn => exact divOp_canonical h ..
  | sel => exact onCore_canonical fun _ => State.modStrand_canonical h ..
  | addi | andi | ori | xori | shli | shri | sari | sext | zext | clz | popc | mov => exact immOp_canonical h ..
  | mfsr => exact execMfsr_canonical h ..
  | mtsr => exact execMtsr_canonical h ..
  | loop => exact execLoop_canonical h ..
  | nopwCountExpiry | longOpStep | bandPowerUpEnd => exact next_canonical (State.modStrand_canonical h ..)
  | swpt => exact execSwpt_canonical h ..
  | endtCont => exact execEndtCont_canonical h ..
  | cload => exact execCload_canonical h ..
  | cnarrow => exact execCnarrow_canonical h ..
  | lds => exact execLds_canonical h ..
  | sts => exact execSts_canonical h ..
  | vld => exact execVld_canonical h ..
  | vst => exact execVst_canonical h ..
  | vldb => exact execVldb_canonical h ..
  | vlds => exact execVlds_canonical h ..
  | vsts | vstx => exact storeSingles_canonical h ..
  | vldx => exact execVldx_canonical h ..
  | amo | amor | amof => exact atom_canonical h ..
  | drain => exact execDrain_canonical h ..
  | vadd | vsub | vadds | vsubs | vmul | vmulh | vmac | vaddi => exact checkedInt_canonical h ..
  | vand | vor | vxor | vandn => exact bitOp_canonical h ..
  | vshl | vmin | vmax | vabs | vneg => exact intOp_canonical h ..
  | vshr | vsar | vclz | vpopc => exact patOp_canonical h ..
  | vfadd | vfsub | vrcp | vrsq | vexp2 | vlog2 | vfdiv => exact fpOp_canonical h ..
  | vfmul | vfma => exact checkedOp_canonical (fpOp_canonical h ..) fun _ => upsetOp_canonical h ..
  | vfmin | vfmax | vfabs | vfneg => exact codeOp_canonical h ..
  | vclamp => exact execVclamp_canonical h ..
  | vcmp | vfcmp => exact compareOp_canonical h ..
  | vsel | vget | vput | vunpt5 | pcnt | pfirst | vsort | vscan | moutv => exact counted_modStrand_canonical h ..
  | vmov | vcvt => exact abcOp_canonical h ..
  | vbcast | viota | vperm | vrot | vzip | vunzip => exact laneOp_canonical h ..
  | vunp4 | vunp6 | vdpx => exact unpackOp_canonical h ..
  | vpack4 | vpack6 | vdpq => exact packOp_canonical h ..
  | vtacc => exact execVtacc_canonical h ..
  | vredadd => exact checkedOp_canonical (reduceOp_canonical h ..) fun _ => counted_modStrand_canonical h ..
  | vredfadd | vredmax | vredmin => exact reduceOp_canonical h ..
  | plog | pnot | pset => exact predOp_canonical h ..
  | resultLanding => exact execResultLanding_canonical h ..
  | scalarResultWrite => exact execScalarResultWrite_canonical h ..
  | inflightEntryLand => exact execInflightEntryLand_canonical h ..
  | mldw | mout | mchk => exact matrixSlot_startOp_canonical h ..
  | mswap | mshape => exact matrixSlot_modStrand_canonical h ..
  | mstr | mstrv => exact matrixSlot_startStream_canonical h ..
  | mzero => exact execMzero_canonical h ..
  | mldz => exact execMldz_canonical h ..
  | planeRowWrite => exact execPlaneRowWrite_canonical h ..
  | tileRowLand => exact execTileRowLand_canonical h ..
  | tileRowLoad => exact execTileRowLoad_canonical h ..
  | tileRowStore => exact execTileRowStore_canonical h ..
  | mchkOutcome => exact execMchkOutcome_canonical h ..
  | cplvl | cpsrc | cpdst | cpqry | semwait | barwait | csend | sigrd | sigfold | sigclr | trap | wdog =>
    exact engine_modStrand_canonical h ..
  | cpgo => exact execCpgo_canonical h ..
  | cpfill => exact execCpfill_canonical h ..
  | cppub => exact execCppub_canonical h ..
  | cpabort => exact execCpabort_canonical h ..
  | copyCommandStart => exact execCopyCommandStart_canonical h ..
  | copyRun => exact execCopyRun_canonical h ..
  | copyCommandComplete => exact execCopyCommandComplete_canonical h ..
  | starvationGuard => exact next_canonical (State.canonical_of_mem_eq h (by simp))
  | nopE => exact engine_canonical h (fun _ _ ht => ht) ..
  | semsig => exact execSemsig_canonical h ..
  | semaphoreSignal => exact execSemaphoreSignal_canonical h ..
  | barinit | bararr => exact engine_sendUpdate_modStrand_canonical h ..
  | barinitAnswer => exact execBarinitAnswer_canonical h ..
  | barexp => exact engine_sendUpdate_canonical h ..
  | barqry => exact execBarqry_canonical h ..
  | cellUpdateCycle => exact execCellUpdateCycle_canonical h ..
  | barrierRelease => exact execBarrierRelease_canonical h ..
  | spawn => exact execSpawn_canonical h ..
  | next => exact execNext_canonical h ..
  | yield => exact execYield_canonical h ..
  | crecv => exact execCrecv_canonical h ..
  | ctab => exact execCtab_canonical h ..
  | circuitSlot => exact execCircuitSlot_canonical h ..
  | circuitTransferArrival => exact execCircuitTransferArrival_canonical h ..
  | circuitCreditReturn => exact execCircuitCreditReturn_canonical h ..
  | zinject => exact execZinject_canonical h ..
  | eret => exact execEret_canonical h ..
  | ctxsave => exact execCtxsave_canonical h ..
  | ctxload => exact execCtxload_canonical h ..
  | halt => exact execHalt_canonical h ..
  | hoist => exact execHoist_canonical h ..
  | remoteAccessSend => exact execRemoteAccessSend_canonical h ..
  | translationWalk => exact execTranslationWalk_canonical h ..
  | remoteAccessPerform => exact execRemoteAccessPerform_canonical h ..
  | remoteReturn => exact execRemoteReturn_canonical h ..
  | remoteStoreAccept => exact execRemoteStoreAccept_canonical h ..
  | loupeAccept => exact execLoupeAccept_canonical h ..
  | pageAbsentSuspend => exact execPageAbsentSuspend_canonical h ..
  | snop | sjmp | sbr | scall | sret | sloop | sendl | faultv => exact control_canonical h _
  | shalt | notify | ckpt => exact sop_canonical h fun _ => State.simpleEntry_canonical h ..
  | sli | sadd | saddi | smul | sshl | sand | smov => exact setG_canonical h ..
  | sld => exact execSld_canonical h ..
  | sst => exact execSst_canonical h ..
  | park => exact execPark_canonical h ..
  | parkPoll => exact execParkPoll_canonical h ..
  | bind => exact execBind_canonical h ..
  | unbind => exact execUnbind_canonical h ..
  | task => exact execTask_canonical h ..
  | opd => exact execOpd_canonical h ..
  | copy => exact execCopy_canonical h ..
  | cdim => exact execCdim_canonical h ..
  | sfence => exact execSfence_canonical h ..
  | svar => exact execSvar_canonical h ..
  | prio => exact execPrio_canonical h ..
  | quota => exact execQuota_canonical h ..
  | dispatch => exact execDispatch_canonical h
  | entryReady => exact execEntryReady_canonical h ..
  | agingPromotion => exact execAgingPromotion_canonical h ..
  | persistentHandoffTimeout => exact next_canonical (State.canonical_of_mem_eq h (State.modEntry_mem ..))
  | poolEntryDispatch => exact execPoolEntryDispatch_canonical h
  | hubCopyComplete => exact execHubCopyComplete_canonical h ..
  | modFillComplete => exact execModFillComplete_canonical h ..
  | retire => exact execRetire_canonical h ..
  | headOnlyMode => exact execHeadOnlyMode_canonical h ..
  | faultDelivery => exact execFaultDelivery_canonical h ..
  | squashRemove => exact execSquashRemove_canonical h ..
  | checkFaultReexecution => exact execCheckFaultReexecution_canonical h ..
  | voteCompare => exact execVoteCompare_canonical h ..
  | thirdRunCompare => exact execThirdRunCompare_canonical h ..
  | suspicionDecay => exact execSuspicionDecay_canonical h
  | sramUncorrectableError => exact execSramUncorrectableError_canonical h ..
  | chipletReadmission => exact execChipletReadmission_canonical h ..
  | preemptStop => exact execPreemptStop_canonical h ..
  | saveBankStart => exact execSaveBankStart_canonical h ..
  | saveBankEnd => exact execSaveBankEnd_canonical h ..
  | saveEnd => exact execSaveEnd_canonical h ..
  | restoreStart => exact execRestoreStart_canonical h ..
  | restoreBankEnd => exact execRestoreBankEnd_canonical h ..
  | resumeMerge => exact execResumeMerge_canonical h ..
  | watchdogExpiry => exact execWatchdogExpiry_canonical h ..
  | saveTimeout => exact execSaveTimeout_canonical h ..
  | windowLost => exact execWindowLost_canonical h ..
  | ctxkill => exact next_canonical (State.kill_canonical h _)
  | killComplete => exact execKillComplete_canonical h ..
  | otswap => exact execOtswap_canonical h
  | otswapDone => exact execOtswapDone_canonical h
  | otsync => exact execOtsync_canonical h
  | otsyncDone => exact execOtsyncDone_canonical h
  | mnqheadWrite | tripcauseClear | hoistArm | irheadWrite | elheadWrite =>
    exact next_canonical (State.canonical_of_mem_eq h (State.mem_modHub ..))
  | owedNoticePost => exact execOwedNoticePost_canonical h
  | extentMigration => exact execExtentMigration_canonical h ..
  | ckptExtentCopied => exact execCkptExtentCopied_canonical h ..
  | droopAlarm => exact execDroopAlarm_canonical h ..
  | droopStretchEnd | droopHalvingEnd | ballastStart => exact next_canonical (State.modCore_canonical h ..)
  | ballastEnd => exact execBallastEnd_canonical h ..
  | thermalTrip => exact execThermalTrip_canonical h ..
  | overQuota => exact execOverQuota_canonical h ..
  | energyQuotaWrite => exact execEnergyQuotaWrite_canonical h ..
  | hoistFire => exact execHoistFire_canonical h
  | hoistPin => exact execHoistPin_canonical h
  | hoistSnapshot => exact execHoistSnapshot_canonical h
  | createObject => exact execCreateObject_canonical h
  | freeObject => exact execFreeObject_canonical h
  | createContext => exact execCreateContext_canonical h
  | restartContext => exact execRestartContext_canonical h
  | writeCapabilityEntry => exact execWriteCapabilityEntry_canonical h
  | interruptRecordPost => exact execInterruptRecordPost_canonical h
  | pennantFlitReceive => exact execPennantFlitReceive_canonical h ..
  | boot => exact execBoot_canonical h
  | registerWrite => exact execRegisterWrite_canonical h ..
  | illegalOpcode | fetchFault => exact onCore_issueTrap_canonical h ..
  | unlistedOp => exact execUnlistedOp_canonical h ..
  | streamObjectEnd => exact execStreamObjectEnd_canonical h
  | hostWindowAccess => exact execHostWindowAccess_canonical h ..
  | badRequest => exact execBadRequest_canonical h ..
  | otBadOp => exact next_canonical (State.ite_canonical h h)
  | correctedError => exact execCorrectedError_canonical h ..
  | chipletRetirementRequest => exact execChipletRetirementRequest_canonical h ..
  | checkpointRestart => exact execCheckpointRestart_canonical h ..

/-- A step answers the state that the next move leaves, or what its instruction or its event's row does there. -/
theorem step_canonical {s : State} (h : s.Canonical) : AnswersCanonical (step s) := by
  have hn := State.next_canonical h
  unfold step
  split
  · next e => exact next_canonical (State.canonical_of_fst hn e)
  · next e => exact exec_canonical (State.canonical_of_fst hn e) _
  · next e =>
    rw [Event.run_eq]
    exact exec_canonical (State.canonical_of_fst hn e) _

end Sys2Proof.Machine

end

section
open Sys2Proof Sys2Proof.Machine

/-- Settles O4: the canonical form is kept by the next move of the order of work (`State.next_canonical`) and by every
instruction and event (`exec_canonical`). -/
theorem stepKeepsMemory : Obligations.StepKeepsMemory := by
  unfold Obligations.StepKeepsMemory
  exact fun s t h e => (step_canonical h).canonical e

end

section
/-!
PROOFS. The module and the host's requests (O59). First what the table of objects and the memory hold after the operations that the
requests, the trip and boot share.
-/

namespace Sys2Proof

variable {α β : Type}

/-- A map over the values of sparse data goes through an update. -/
theorem SMap.map_set (f : α → β) (m : SMap α) (k : Nat) (v : α) :
    (SMap.set m k v).map (fun p => (p.1, f p.2)) = SMap.set (m.map fun p => (p.1, f p.2)) k (f v) := by
  induction m with
  | nil => rfl
  | cons p m ih =>
    obtain ⟨j, w⟩ := p
    by_cases h : k = j
    · simp [SMap.set, h]
    · by_cases h' : k < j <;> simp [SMap.set, h, h', ih]

end Sys2Proof

namespace Sys2Proof.Machine

/-! ### Objects and their places -/

theorem State.obj_congr {s t : State} (h : t.objs = s.objs) (i : Nat) : t.obj i = s.obj i := by simp only [State.obj, h]

/-- Entering an object, or replacing it, leaves every other number. -/
theorem State.obj_of_objs_set {s t : State} {id : Nat} {o : Obj} (h : t.objs = SMap.set s.objs id o) (i : Nat) :
    t.obj i = if i = id then some o else s.obj i := by
  rw [State.obj, h, SMap.map_set, SMap.get_set]; rfl

theorem State.obj_of_objs_filter {s t : State} {id : Nat} (h : t.objs = s.objs.filter (·.1 != id)) (i : Nat) :
    t.obj i = if i = id then none else s.obj i := by
  have := SMap.get_filter none (s.objs.map fun p => (p.1, some p.2)) (fun k => k != id) i
  rw [List.filter_map] at this
  rw [State.obj, h, State.obj]
  simpa [Function.comp_def, ite_not] using this

theorem State.obj_modEntryOf_other (s : State) {obj i : Nat} (h : i ≠ obj) (ext : Nat) (f : OtEntry → OtEntry) :
    (s.modEntryOf obj ext f).obj i = s.obj i := by
  unfold State.modEntryOf
  split
  · rfl
  · rw [State.obj_of_objs_set rfl, if_neg h]

theorem State.obj_invalidate_other (s : State) {obj i : Nat} (h : i ≠ obj) (ext : Nat) :
    (s.invalidate obj ext).obj i = s.obj i := by
  have fold (l : List (Nat × Cached)) (hl : ∀ p ∈ l, p.2.obj = obj) (t : State) :
      (l.foldl (fun t p => t.writeBack p.1 p.2) t).obj i = t.obj i := by
    induction l generalizing t with
    | nil => rfl
    | cons p l ih =>
      rw [List.foldl_cons, ih fun q hq => hl q (List.mem_cons_of_mem _ hq)]
      unfold State.writeBack
      split
      · exact t.obj_modEntryOf_other (hl p List.mem_cons_self ▸ h) ..
      · rfl
  refine fold _ (fun p hp => ?_) _
  simp only [List.mem_flatMap, List.mem_map, List.mem_filter, Bool.and_eq_true, beq_iff_eq] at hp
  obtain ⟨q, -, c, ⟨-, hc, -⟩, rfl⟩ := hp
  exact hc

/-- An object that is dropped is gone; every other one stands (19 R392). -/
theorem State.obj_dropObject (s : State) (id : Nat) (o : Obj) (i : Nat) :
    (s.dropObject id o).obj i = if i = id then none else s.obj i := by
  have walks (l : List Nat) (t : State) : (l.foldl (fun t j => t.rewalk id j) t).obj i = t.obj i := by
    induction l generalizing t with
    | nil => rfl
    | cons j l ih => rw [List.foldl_cons, ih]; rfl
  have drops (h : i ≠ id) (l : List Nat) (t : State) : (l.foldl (fun t j => t.invalidate id j) t).obj i = t.obj i := by
    induction l generalizing t with
    | nil => rfl
    | cons j l ih => rw [List.foldl_cons, ih, t.obj_invalidate_other h]
  unfold State.dropObject
  rw [walks, State.obj_of_objs_filter rfl]
  split
  · rfl
  · next h => exact drops h _ s

theorem State.obj_putObject (s : State) (id : Nat) (r : ObjReq) (es : List OtEntry) (i : Nat) :
    (s.putObject id r es).obj i = if i = id then
      some ⟨r.frame, r.pcode, r.owner, r.migthr, r.kind, r.size, (Config.freeValue s.freeCtr).setWidth 48, es⟩ else s.obj i :=
  State.obj_of_objs_set rfl i

/-- A place depends on the objects and on the views. -/
theorem State.place_congr {s t : State} (ho : t.objs = s.objs) (hv : t.views = s.views) (id off : Nat) :
    t.place id off = s.place id off := by
  have hr : t.resolve id off = s.resolve id off := by simp only [State.resolve, hv]
  simp only [State.place, hr, State.obj_congr ho]

theorem State.objCells_congr {s t : State} (ho : t.objs = s.objs) (hv : t.views = s.views) (id off : Nat) (bs : List Byte) :
    t.objCells id off bs = s.objCells id off bs := by
  induction bs generalizing off with
  | nil => rfl
  | cons b bs ih => simp only [State.objCells, State.place_congr ho hv, ih]

theorem State.frameKey_congr {s t : State} {id : Nat} (h : t.obj id = s.obj id) (off : Nat) :
    t.frameKey id off = s.frameKey id off := by
  simp only [State.frameKey, h]

/-- Of an object that is no operand view, a byte's place is where hardware reaches it. -/
theorem State.place_eq_at_iff {s : State} {id : Nat} (h : isView id = false) (off a : Nat) :
    s.place id off = .at a ↔ s.frameKey id off = some a := by
  simp only [State.place, State.frameKey, State.resolve, h, Bool.false_eq_true, if_false]
  cases s.obj id with
  | none => simp
  | some o =>
    dsimp only
    cases o.exts[off / 2 ^ pageLog o.pcode]? with
    | none => simp
    | some e => by_cases hp : e.p = true <;> simp [hp]

theorem State.mem_objCells {s : State} {id off : Nat} {bs : List Byte} {c : Nat × Byte} (h : c ∈ s.objCells id off bs) :
    ∃ i < bs.length, s.place id (off + i) = .at c.1 := by
  induction bs generalizing off with
  | nil => simp [State.objCells] at h
  | cons b bs ih =>
    have later (h : c ∈ s.objCells id (off + 1) bs) : ∃ i < (b :: bs).length, s.place id (off + i) = .at c.1 := by
      obtain ⟨i, hi, e⟩ := ih h
      exact ⟨i + 1, by simpa using hi, by rw [← e]; congr 1; omega⟩
    rw [State.objCells] at h
    split at h
    · next k e =>
      obtain rfl | h := List.mem_cons.1 h
      · exact ⟨0, by simp, e⟩
      · exact later h
    · exact later h

/-! ### Reads of memory -/

theorem Memory.read_write_other (m : Memory) {a i : Nat} (h : i ≠ a) (b : Byte) : (m.write a b).read i = m.read i := by
  unfold Memory.write Memory.read
  split
  · exact SMap.get_erase_other _ m h
  · exact SMap.get_set_other _ _ m h

/-- Bytes that no write of a list names read as before, in any form of memory. -/
theorem Memory.read_writeAll_of_forall_ne (m : Memory) {cs : List (Nat × Byte)} {i : Nat} (h : ∀ c ∈ cs, c.1 ≠ i) :
    (m.writeAll cs).read i = m.read i := by
  induction cs generalizing m with
  | nil => rfl
  | cons c cs ih =>
    rw [Memory.writeAll, ih _ fun c hc => h c (List.mem_cons_of_mem _ hc), m.read_write_other (h c List.mem_cons_self).symm]

theorem Memory.read_clear (m : Memory) (a n i : Nat) : (m.clear a n).read i = if a ≤ i ∧ i < a + n then 0 else m.read i := by
  have := SMap.get_filter (0 : Byte) m (fun k => !(decide (a ≤ k) && decide (k < a + n))) i
  rw [Memory.read, Memory.clear, this]
  by_cases h : a ≤ i ∧ i < a + n
  · simp [h]
  · rw [if_neg h, if_pos (by rw [Bool.not_eq_true', ← Bool.decide_and, decide_eq_false h])]; rfl

/-- Of an object's bytes that are written in order, the last one at a key stands. -/
theorem Memory.read_writeAll_objCells {m : Memory} (hm : m.wf = true) {s : State} {id off i a : Nat} {bs : List Byte}
    (hi : i < bs.length) (ha : s.place id (off + i) = .at a)
    (hlast : ∀ j < bs.length, i < j → s.place id (off + j) ≠ .at a) :
    (m.writeAll (s.objCells id off bs)).read a = bs.getD i 0 := by
  induction bs generalizing m off i with
  | nil => simp at hi
  | cons b bs ih =>
    cases i with
    | zero =>
      have hne : ∀ c ∈ s.objCells id (off + 1) bs, c.1 ≠ a := by
        rintro c hc rfl
        obtain ⟨j, hj, e⟩ := State.mem_objCells hc
        exact hlast (j + 1) (by simpa using hj) (by omega) (by rw [← e]; congr 1; omega)
      rw [State.objCells, show s.place id off = .at a from ha]
      rw [Memory.writeAll, Memory.read_writeAll_of_forall_ne _ hne, Memory.read_write hm, if_pos rfl]
      rfl
    | succ i =>
      have shift (j : Nat) : off + 1 + j = off + (j + 1) := by omega
      have rest {m : Memory} (hm : m.wf = true) : (m.writeAll (s.objCells id (off + 1) bs)).read a = bs.getD i 0 :=
        ih hm (by simpa using hi) (by rw [shift]; exact ha)
          fun j hj hij => by rw [shift]; exact hlast (j + 1) (by simpa using hj) (by omega)
      rw [State.objCells, List.getD_cons_succ]
      split
      · exact rest (Memory.wf_write hm ..)
      · exact rest hm

/-- The places of a new object read zero (19 R392). -/
theorem State.read_clearExtents (s : State) {page : Nat} {es : List OtEntry} {e : OtEntry} (he : e ∈ es) (hh : e.home ≠ 2)
    {i : Nat} (hi : i < page) : (s.clearExtents page es).mem.read (e.key page 0 + i) = 0 := by
  have keeps (l : List OtEntry) {t : State} {a : Nat} (h : t.mem.read a = 0) : (t.clearExtents page l).mem.read a = 0 := by
    induction l generalizing t with
    | nil => exact h
    | cons x l ih =>
      refine ih ?_
      dsimp only
      split
      · rw [State.clearCells_mem, Memory.read_clear]; split <;> simp [h]
      · exact h
  induction es generalizing s with
  | nil => cases he
  | cons x l ih =>
    obtain rfl | he := List.mem_cons.1 he
    · refine keeps l ?_
      simp only [hh, ne_eq, not_false_eq_true, if_true, State.clearCells_mem, Memory.read_clear]
      rw [if_pos (by omega)]
    · exact ih _ he

end Sys2Proof.Machine

end

section
/-!
PROOFS. The host's requests (21 R427, R428, 03 R44; O59): what a request's end leaves, then one lemma for each request.
-/

namespace Sys2Proof.Machine

/-! ### How a request ends -/

@[simp] theorem State.objs_post (s : State) (r : IntRec) : (s.post r).objs = s.objs := by unfold State.post; split <;> rfl
@[simp] theorem State.ctxs_post (s : State) (r : IntRec) : (s.post r).ctxs = s.ctxs := by unfold State.post; split <;> rfl
@[simp] theorem State.mbStatus_post (s : State) (r : IntRec) : (s.post r).hub.mbStatus = s.hub.mbStatus := by
  unfold State.post; split <;> rfl
@[simp] theorem State.mbResult_post (s : State) (r : IntRec) : (s.post r).hub.mbResult = s.hub.mbResult := by
  unfold State.post; split <;> rfl

variable (s : State)

@[simp] theorem State.objs_answer (status : BitVec 8) (v : W64) : (s.answer status v).objs = s.objs := State.objs_post ..
@[simp] theorem State.ctxs_answer (status : BitVec 8) (v : W64) : (s.answer status v).ctxs = s.ctxs := State.ctxs_post ..
@[simp] theorem State.mbStatus_answer (status : BitVec 8) (v : W64) : (s.answer status v).hub.mbStatus = status :=
  State.mbStatus_post ..
@[simp] theorem State.mbResult_answer (v : W64) : (s.answer 0 v).hub.mbResult = v := State.mbResult_post ..
@[simp] theorem State.obj_answer (status : BitVec 8) (v : W64) (i : Nat) : (s.answer status v).obj i = s.obj i :=
  State.obj_congr (s.objs_answer status v) i
@[simp] theorem State.ctx_answer (status : BitVec 8) (v : W64) (x : Nat) : (s.answer status v).ctx x = s.ctx x := by
  simp only [State.ctx, s.ctxs_answer]

/-- A request that the firmware's policy decides on: done with STATUS 0 and g, or refused with STATUS 2 and no object changed. -/
def State.Ends (j : Instr) (g : State → Prop) : Prop :=
  ∃ t, Answers j s t ∧
    if Config.policyAllows s.freeCtr = true then t.hub.mbStatus = 0 ∧ g t else t.hub.mbStatus = 2 ∧ t.objs = s.objs

/-- A request whose arguments break a range: STATUS 3 and g. -/
def State.Fails (j : Instr) (g : State → Prop) : Prop := ∃ t, Answers j s t ∧ t.hub.mbStatus = 3 ∧ g t

variable {s}

/-- What the firmware does for a request that it allows it does on the state in which its decision was taken. -/
theorem State.ends_of_policy {j : Instr} {f : State → State} {g : State → Prop} (he : exec j s = .next (s.policy f)) {u : State}
    {v : W64} (hu : f { s with freeCtr := s.freeCtr + 1 } = u.answer 0 v) (hg : g (u.answer 0 v)) : s.Ends j g := by
  refine ⟨_, he, ?_⟩
  by_cases h : Config.policyAllows s.freeCtr = true
  · simpa only [State.policy, h, hu, if_true] using ⟨u.mbStatus_answer 0 v, hg⟩
  · simp [State.policy, h]

theorem State.fails_of_answer {j : Instr} {g : State → Prop} (he : exec j s = .next (s.answer 3 0)) (hg : g (s.answer 3 0)) :
    s.Fails j g := ⟨_, he, s.mbStatus_answer 3 0, hg⟩

/-- A request that was started is carried out. -/
theorem State.request_eq {op : BitVec 8} (hs : s.hub.mbStatus = 1) (hr : s.hub.mbRun = op) (f : State → State) :
    s.request op f = f s := if_pos ⟨hs, hr⟩

/-! ### Objects (OP 1 and 2) -/

theorem createObject_ends (hs : s.hub.mbStatus = 1) (hr : s.hub.mbRun = 1) (hok : (objReq s.hub).ok = true)
    (hid : freeKey (s.objs.map (·.1)) 1 s.objs.length ≤ 0xFFDFFFF) {es : List OtEntry}
    (hes : ({ s with freeCtr := s.freeCtr + 1 } : State).newExtents (objReq s.hub) = some es) :
    let req := objReq s.hub
    let id := freeKey (s.objs.map (·.1)) 1 s.objs.length
    s.Ends .createObject fun t => t.hub.mbResult = BitVec.ofNat 64 id ∧
      (∃ a, t.obj id = some ⟨req.frame, req.pcode, req.owner, req.migthr, req.kind, req.size, a, es⟩) ∧
      (s.Canonical → ∀ e ∈ es, e.home < 2 → ∀ i < req.page, t.mem.read (e.key req.page 0 + i) = 0) := by
  intro req id
  refine State.ends_of_policy
    (congrArg Host.Outcome.next ((State.request_eq hs hr _).trans (if_neg (by rw [hok]; exact Bool.false_ne_true))))
    (u := (({ s with freeCtr := s.freeCtr + 1 } : State).clearExtents req.page es).putObject id req es) (v := BitVec.ofNat 64 id)
    ?_ ⟨State.mbResult_answer .., ?_, fun _ e he hh i hi => ?_⟩
  · dsimp only
    rw [hes]
    exact if_neg (Nat.not_lt.2 hid)
  · exact ⟨_, (State.obj_answer ..).trans ((State.obj_putObject ..).trans (if_pos rfl))⟩
  · rw [State.answer_mem, State.putObject_mem]
    exact State.read_clearExtents _ he (by omega) hi

theorem createObject_fails (hs : s.hub.mbStatus = 1) (hr : s.hub.mbRun = 1) (hok : (objReq s.hub).ok = false) :
    s.Fails .createObject fun t => t.objs = s.objs :=
  State.fails_of_answer (congrArg Host.Outcome.next ((State.request_eq hs hr _).trans (if_pos (by simp [hok])))) (s.objs_answer ..)

theorem freeObject_fails (hs : s.hub.mbStatus = 1) (hr : s.hub.mbRun = 2) (h : s.hub.arg 0 = 0 ∨ 0xFFDFFFF < s.hub.arg 0) :
    s.Fails .freeObject fun t => t.objs = s.objs :=
  State.fails_of_answer (congrArg Host.Outcome.next ((State.request_eq hs hr _).trans (if_pos h))) (s.objs_answer ..)

section
variable {o : Obj} (hs : s.hub.mbStatus = 1) (hr : s.hub.mbRun = 2) (h0 : s.hub.arg 0 ≠ 0) (hn : s.hub.arg 0 ≤ 0xFFDFFFF)
  (ho : s.obj (s.hub.arg 0) = some o)
include hs hr h0 hn ho

/-- A free request of an object that is there waits for its owner, and then asks the policy. -/
theorem execFreeObject_eq : execFreeObject s = .next (if s.ctxOutstanding o.owner then s
    else s.policy fun t => (t.dropObject (s.hub.arg 0) o).answer 0 0) := by
  have hrange : ¬(s.hub.arg 0 = 0 ∨ 0xFFDFFFF < s.hub.arg 0) := by omega
  simp only [execFreeObject, State.request_eq hs hr, if_neg hrange, ho, State.freeWaits, Option.any_some]

theorem freeObject_waits (hw : s.ctxOutstanding o.owner = true) : Answers .freeObject s s :=
  (execFreeObject_eq hs hr h0 hn ho).trans (by rw [if_pos hw])

theorem freeObject_ends (hw : s.ctxOutstanding o.owner = false) : s.Ends .freeObject fun t =>
    (∀ i, t.obj i = if i = s.hub.arg 0 then none else s.obj i) ∧ t.mem = s.mem := by
  refine State.ends_of_policy ((execFreeObject_eq hs hr h0 hn ho).trans
    (congrArg Host.Outcome.next (if_neg (by rw [hw]; exact Bool.false_ne_true)))) rfl ⟨fun i => ?_, ?_⟩
  · rw [State.obj_answer, State.obj_dropObject]; rfl
  · rw [State.answer_mem, State.dropObject_mem]
end

/-! ### Contexts (OP 3 and 4) and capabilities (OP 5) -/

@[simp] theorem State.ctx_setCtx (s : State) (x y : Nat) (c : Context) : (s.setCtx x c).ctx y = if y = x then c else s.ctx y := by
  simp [State.setCtx, State.ctx]

theorem createContext_ends (hs : s.hub.mbStatus = 1) (hr : s.hub.mbRun = 3) {d : Desc}
    (h0 : s.hub.arg 0 % 16 ≠ 0) (hsobj : (s.obj (s.hub.arg 1)).isSome = true)
    (hdobj : (s.obj (s.hub.arg 2 % 2 ^ 28)).isSome = true)
    (hd : s.desc (s.hub.arg 2 % 2 ^ 28) (s.hub.arg 2 / 2 ^ 32) (s.hub.arg 1) = some d)
    (hfree : s.ctxFree (s.hub.arg 0 % 16) = true) (hq : s.quotasOk (s.hub.arg 0 % 16) d.window d.pool = true)
    (hown : ∀ i ∈ [1, 3, 4, 5], s.ownObj (s.hub.arg i) (s.hub.arg 0 % 16) = true)
    (hframe : s.hub.arg 3 = 0 ∨ ∃ o, s.obj (s.hub.arg 3) = some o ∧ o.frame = true ∧ frameStride ≤ o.size) :
    s.Ends .createContext fun t => let c := t.ctx (s.hub.arg 0 % 16)
      c.created = true ∧ c.run = 3 ∧ c.sobj = s.hub.arg 1 ∧ c.fe.spc = 0 ∧ c.fe.prio = d.prio ∧ c.fe.wquota = d.window ∧
      c.fe.pquota = d.pool ∧ c.fe.fvec = d.fvec ∧ c.caps = [] ∧ c.count = 0 := by
  have hthere : ¬((s.obj (s.hub.arg 1)).isNone = true ∨ (s.obj (s.hub.arg 2 % 2 ^ 28)).isNone = true) := by
    simp only [Option.isNone_iff_eq_none, not_or]
    exact ⟨Option.isSome_iff_ne_none.1 hsobj, Option.isSome_iff_ne_none.1 hdobj⟩
  have hisframe : (s.hub.arg 3 != 0 && !((s.obj (s.hub.arg 3)).any (·.frame))) = false := by
    rcases hframe with h | ⟨o, ho, hf, -⟩
    · simp [h]
    · simp [ho, hf]
  have hlarge : (s.hub.arg 3 != 0 && (s.obj (s.hub.arg 3)).any (·.size < frameStride)) = false := by
    rcases hframe with h | ⟨o, ho, -, hl⟩
    · simp [h]
    · simp [ho, hl]
  have he : execCreateContext s = .next (s.policy fun t =>
      (t.makeContext (s.hub.arg 0 % 16) (s.hub.arg 1) (s.hub.arg 3) (s.hub.arg 4) (s.hub.arg 5) d).answer 0 0) := by
    have h1 := hown 1 (by simp)
    have h3 := hown 3 (by simp)
    have h4 := hown 4 (by simp)
    have h5 := hown 5 (by simp)
    simp only [execCreateContext, hs, hr, and_self, if_true, if_neg h0, if_neg hthere, hd, hfree, hq, h1, h3, h4, h5, hisframe,
      hlarge, Bool.not_true, Bool.or_false, Bool.false_eq_true, if_false]
  refine State.ends_of_policy he rfl ?_
  simp only [State.ctx_answer, State.makeContext, State.ctx_setCtx, if_true]
  exact ⟨rfl, rfl, rfl, rfl, rfl, rfl, rfl, rfl, rfl, rfl⟩

section
variable (hs : s.hub.mbStatus = 1) (hr : s.hub.mbRun = 4) (hc : (s.ctx (s.hub.arg 0 % 16)).created = true)
  (hk : (s.ctx (s.hub.arg 0 % 16)).killed = false) (h3 : (s.ctx (s.hub.arg 0 % 16)).run = 3)
include hs hr hc hk h3

/-- A stopped context goes on where its host says (R428). -/
theorem execRestartContext_at (hm : s.hub.arg 2 % 4 = 2) (ht : s.target (s.hub.arg 0 % 16) (s.hub.arg 1 % 2 ^ 48) = true) :
    execRestartContext s = .next (s.policy fun t =>
      (t.modCtx (s.hub.arg 0 % 16) (·.restart 2 (s.hub.arg 1 % 2 ^ 48))).answer 0 0) := by
  simp only [execRestartContext, State.request_eq hs hr, hc, hk, h3, hm, ht, Bool.not_true, bne_self_eq_false, Bool.or_self,
    Bool.false_eq_true, if_false, if_true, Nat.reduceEqDiff]

/-- A stopped context goes on at its last fault, or behind the S-op of it (R428). -/
theorem execRestartContext_fault {mode f dest : Nat} (hm : s.hub.arg 2 % 4 = mode) (h2 : mode < 2)
    (hf : (s.ctx (s.hub.arg 0 % 16)).lastFault = some f)
    (hdest : (if mode = 0 then f else f + 16 * (1 + s.extWords (s.hub.arg 0 % 16) f)) = dest) :
    execRestartContext s = .next (s.policy fun t => (t.modCtx (s.hub.arg 0 % 16) (·.restart mode dest)).answer 0 0) := by
  have hn : mode ≠ 3 ∧ mode ≠ 2 := by omega
  simp only [execRestartContext, State.request_eq hs hr, hc, hk, h3, hm, hn, hf, hdest, Bool.not_true, bne_self_eq_false,
    Bool.or_self, Bool.false_eq_true, if_false]

theorem restartContext_at_ends (hm : s.hub.arg 2 % 4 = 2) (ht : s.target (s.hub.arg 0 % 16) (s.hub.arg 1 % 2 ^ 48) = true) :
    s.Ends .restartContext fun t => (t.ctx (s.hub.arg 0 % 16)).fe.spc = s.hub.arg 1 % 2 ^ 48 ∧
      (t.ctx (s.hub.arg 0 % 16)).run = 1 ∧ (t.ctx (s.hub.arg 0 % 16)).fe.handler = (s.ctx (s.hub.arg 0 % 16)).fe.handler := by
  refine State.ends_of_policy (execRestartContext_at hs hr hc hk h3 hm ht) rfl ?_
  simp only [State.ctx_answer, State.ctx_modCtx, if_true]
  exact ⟨rfl, rfl, rfl⟩

theorem restartContext_fault_ends {mode f dest : Nat} (hm : s.hub.arg 2 % 4 = mode) (h2 : mode < 2)
    (hf : (s.ctx (s.hub.arg 0 % 16)).lastFault = some f)
    (hdest : (if mode = 0 then f else f + 16 * (1 + s.extWords (s.hub.arg 0 % 16) f)) = dest) :
    s.Ends .restartContext fun t => (t.ctx (s.hub.arg 0 % 16)).fe.spc = dest ∧
      (t.ctx (s.hub.arg 0 % 16)).run = 1 ∧ (t.ctx (s.hub.arg 0 % 16)).fe.handler = false := by
  refine State.ends_of_policy (execRestartContext_fault hs hr hc hk h3 hm h2 hf hdest) rfl ?_
  have hn : mode ≠ 2 := by omega
  simp only [State.ctx_answer, State.ctx_modCtx, if_true, Context.restart, if_neg hn, and_self]
end

theorem writeCapabilityEntry_ends (hs : s.hub.mbStatus = 1) (hr : s.hub.mbRun = 5) {c : CapBits}
    (hc : c = BitVec.ofNat 128 (s.hub.arg 2 + s.hub.arg 3 * 2 ^ 64)) (hok : capOk c = true)
    (hx : (s.ctx (s.hub.arg 0 % 16)).created = true)
    (ho : c = 0 ∨ capKind c = kScratch ∨ ∃ o, s.obj (capObj c) = some o ∧ o.owner = s.hub.arg 0 % 16 ∧ o.kind = capKind c) :
    s.Ends .writeCapabilityEntry fun t => (t.ctx (s.hub.arg 0 % 16)).cap (s.hub.arg 1 % 4096) = c := by
  have hfits : ¬(c ≠ 0 ∧ capKind c ≠ kScratch ∧
      (!(s.obj (capObj c)).any fun o => o.owner == s.hub.arg 0 % 16 && o.kind == capKind c) = true) := by
    rcases ho with h | h | ⟨o, ho, hown, hkind⟩
    · exact fun n => n.1 h
    · exact fun n => n.2.1 h
    · simp [ho, hown, hkind]
  have he : execWriteCapabilityEntry s = .next (s.policy fun t =>
      (t.modCtx (s.hub.arg 0 % 16) fun k => { k with caps := SMap.set k.caps (s.hub.arg 1 % 4096) c }).answer 0 0) := by
    simp only [execWriteCapabilityEntry, State.request_eq hs hr, ← hc, hok, hx, if_neg hfits, Bool.not_true, Bool.false_eq_true,
      if_false]
  refine State.ends_of_policy he rfl ?_
  simp [Context.cap]

theorem badRequest_fails {op : BitVec 8} (hs : s.hub.mbStatus = 1) (hr : s.hub.mbRun = op) (h : op = 0 ∨ 5 < op.toNat) :
    s.Fails (.badRequest op) fun t => t.objs = s.objs ∧ t.ctxs = s.ctxs :=
  State.fails_of_answer (congrArg Host.Outcome.next ((if_pos h).trans (State.request_eq hs hr _)))
    ⟨s.objs_answer .., s.ctxs_answer ..⟩

end Sys2Proof.Machine

end

section
/-!
PROOFS. Droop and ballast, the trip and boot (21 R413, R415, R417, R418, R432; O59).
-/

namespace Sys2Proof.Machine

variable {s : State}

/-! ### Droop and ballast -/

theorem State.modCore_congr {f g : Core → Core} {k : Nat} (h : f (s.core k) = g (s.core k)) : s.modCore k f = s.modCore k g := by
  simp only [State.modCore, h]

/-- One update of n cores in a row. -/
theorem State.core_foldl_modCore (f : Core → Core) (b n : Nat) (s : State) (j : Nat) :
    ((List.range n).foldl (fun t i => t.modCore (b + i) f) s).core j = if b ≤ j ∧ j < b + n then f (s.core j) else s.core j := by
  induction n with
  | zero => rw [if_neg (by omega)]; rfl
  | succ n ih =>
    rw [List.range_succ, List.foldl_append, List.foldl_cons, List.foldl_nil, State.core_modCore]
    by_cases h : j = b + n
    · subst h
      rw [if_pos rfl, ih, if_neg (by omega), if_pos (by omega)]
    · rw [if_neg h, ih]
      exact if_congr (by omega) rfl rfl

theorem State.hub_foldl_modCore (f : Core → Core) (b : Nat) (l : List Nat) (s : State) :
    (l.foldl (fun t i => t.modCore (b + i) f) s).hub = s.hub := by
  induction l generalizing s with
  | nil => rfl
  | cons i l ih => rw [List.foldl_cons, ih]; rfl

/-- An alarm counts, and each core of its domain answers it (R415). -/
theorem droopAlarm_answers {d : Nat} (hd : d < 4) (hen : (SMap.get 0x10C s.hub.drpthr d).getLsbD 8 = true) :
    ∃ t, Answers (.droopAlarm d) s t ∧ s.SameMemory t ∧ SMap.get 0 t.hub.drpcnt d = SMap.get 0 s.hub.drpcnt d + 1 ∧
      ∀ j, t.core j = if j / 16 = d then (s.core j).alarm else s.core j := by
  refine ⟨_, congrArg Host.Outcome.next (if_neg (by rw [hen]; simp [hd])), fun a => ?_, ?_, fun j => ?_⟩
  · rw [State.foldl_mem fun t i => State.mem_modCore ..]; rfl
  · rw [State.hub_foldl_modCore, State.hub_modHub, SMap.get_set_same]
  · rw [State.core_foldl_modCore]
    exact if_congr (by omega) rfl rfl

theorem Core.alarm_stretch {c : Core} (h : c.stretch = 0) (h' : c.halve = 0) : c.alarm.stretch = 10 := by simp [Core.alarm, h, h']
theorem Core.alarm_halve {c : Core} (h : c.stretch = 0) (h' : c.halve ≠ 0) : c.alarm.halve = 65 := by simp [Core.alarm, h, h']

theorem droopStretchEnd_answers {k : Nat} (h : (s.core k).stretch = 1) : Answers (.droopStretchEnd k) s
    (s.modCore k fun c => { c with stretch := 0, halve := 65, halvePhase := false }) :=
  congrArg Host.Outcome.next (State.modCore_congr (if_pos h))

theorem droopHalvingEnd_answers {k : Nat} (h : (s.core k).halve = 1) : Answers (.droopHalvingEnd k) s
    (s.modCore k fun c => { c with halve := 0, halvePhase := false }) :=
  congrArg Host.Outcome.next (State.modCore_congr (if_pos h))

theorem ballastStart_answers {k : Nat} (h : (s.core k).ballast = 0) (hw : (s.core k).weights.sum + 1024 < (s.core k).lastSum) :
    Answers (.ballastStart k) s (s.modCore k fun c =>
      { c with ballast := 32, ballastFrom := c.lastSum, ballastTo := c.weights.sum,
               ballastCtx := if c.holds then some c.st.id.ctx else c.lastCtx }) :=
  congrArg Host.Outcome.next (State.modCore_congr (if_neg (by simp [Core.ballastDue, Core.windowSum, h, hw])))

theorem State.core_chargeBallast (s : State) (k n j : Nat) : (s.chargeBallast k n).core j = s.core j := by
  simp only [State.chargeBallast]; split <;> rfl

theorem State.ballast_chargeBallast {k x : Nat} (n : Nat) (h : (s.core k).ballastCtx = some x) :
    ((s.chargeBallast k n).ctx x).energy.ballast = (s.ctx x).energy.ballast +
      25600 * ballastWeight (s.core k).ballastFrom (s.core k).ballastTo (31 - n) := by
  simp [State.chargeBallast, h]

/-- The last ballast cycle is charged and ends the ballast (R413, R418). -/
theorem ballastEnd_answers {k : Nat} (h : (s.core k).ballast = 1) : ∃ t, Answers (.ballastEnd k) s t ∧ s.SameMemory t ∧
    t.core k = { s.core k with ballast := 0, ballastFrom := 0, ballastTo := 0, ballastCtx := none } ∧
    ∀ x, (s.core k).ballastCtx = some x → (t.ctx x).energy.ballast =
      (s.ctx x).energy.ballast + 25600 * ballastWeight (s.core k).ballastFrom (s.core k).ballastTo 31 := by
  refine ⟨_, congrArg Host.Outcome.next (if_neg (not_not_intro h)), fun a => ?_, ?_, fun x hx => ?_⟩
  · rw [State.mem_modCore, State.chargeBallast_mem]
  · rw [State.core_modCore, if_pos rfl, State.core_chargeBallast]
  · exact State.ballast_chargeBallast 0 hx

/-! ### The trip -/

/-- What a dark module remembers: the memory of the host and of peers (R417). -/
theorem State.read_dark (s : State) (a : Nat) : s.dark.mem.read a = if a < hostKey 0 then 0 else s.mem.read a := by
  have := SMap.get_filter (0 : Byte) s.mem (fun k => decide (hostKey 0 ≤ k)) a
  rw [Memory.read, State.dark, this]
  by_cases h : a < hostKey 0
  · rw [if_pos h, if_neg (by simpa using h)]
  · rw [if_neg h, if_pos (by simpa using h)]; rfl

theorem TripSource.bit_lt {src : TripSource} {b : Nat} (h : src.bit = some b) : b < 16 := by
  cases src <;> simp only [TripSource.bit, Option.ite_none_right_eq_some, Option.some.injEq] at h <;> omega

/-- TRIPCAUSE after a trip, in its two parts: the count above, the causes below. -/
def tripped (old : W64) (b : Nat) : W64 :=
  BitVec.ofNat 64 (min (old.toNat / 2 ^ 32 + 1) (2 ^ 32 - 1) * 2 ^ 32) ||| ((old &&& 0xFFFF) ||| ((1 : W64) <<< b))

theorem tripped_low (old : W64) {b i : Nat} (hi : i < 16) :
    (tripped old b).getLsbD i = (old.getLsbD i || decide (i = b)) := by
  have hcount : (BitVec.ofNat 64 (min (old.toNat / 2 ^ 32 + 1) (2 ^ 32 - 1) * 2 ^ 32)).getLsbD i = false := by
    rw [BitVec.getLsbD_ofNat, Nat.testBit_mul_two_pow]
    simp [show ¬32 ≤ i by omega]
  have hmask : (0xFFFF : W64).getLsbD i = true := by
    rw [show (0xFFFF : W64) = BitVec.ofNat 64 (2 ^ 16 - 1) from rfl, BitVec.getLsbD_ofNat, Nat.testBit_two_pow_sub_one]
    simp [hi, show i < 64 by omega]
  have hbit : ((1 : W64) <<< b).getLsbD i = decide (i = b) := by
    rw [show (1 : W64) = BitVec.twoPow 64 0 from rfl, BitVec.twoPow_zero, BitVec.getLsbD_shiftLeft, BitVec.getLsbD_one,
      Bool.eq_iff_iff]
    simp only [Bool.and_eq_true, Bool.not_eq_true', decide_eq_true_eq, decide_eq_false_iff_not]
    omega
  rw [tripped, BitVec.getLsbD_or, BitVec.getLsbD_or, BitVec.getLsbD_and, hcount, hmask, hbit, Bool.false_or, Bool.and_true]

theorem tripped_count (old : W64) {b : Nat} (hb : b < 16) :
    (tripped old b).toNat / 2 ^ 32 = min (old.toNat / 2 ^ 32 + 1) (2 ^ 32 - 1) := by
  have hlow : ((old &&& 0xFFFF) ||| ((1 : W64) <<< b)).toNat < 2 ^ 32 := by
    rw [BitVec.toNat_or]
    refine Nat.or_lt_two_pow ?_ ?_
    · rw [BitVec.toNat_and]; exact Nat.lt_of_le_of_lt Nat.and_le_right (by decide)
    · rw [BitVec.toNat_shiftLeft, show (1 : W64).toNat = 1 from rfl, Nat.one_shiftLeft]
      exact Nat.lt_of_le_of_lt (Nat.mod_le ..) (Nat.pow_lt_pow_right (by decide) (by omega))
  have hcount : min (old.toNat / 2 ^ 32 + 1) (2 ^ 32 - 1) * 2 ^ 32 < 2 ^ 64 := by omega
  rw [tripped, BitVec.toNat_or, ← Nat.shiftRight_eq_div_pow, Nat.shiftRight_or_distrib, Nat.shiftRight_eq_div_pow,
    Nat.shiftRight_eq_div_pow, Nat.div_eq_of_lt hlow, Nat.or_zero, BitVec.toNat_ofNat, Nat.mod_eq_of_lt hcount,
    Nat.mul_div_cancel _ (by decide)]

/-- Of the module a trip keeps TRIPCAUSE alone, and what lies outside of it (R417). -/
theorem thermalTrip_answers {src : TripSource} {b : Nat} (h : src.bit = some b) : ∃ t, Answers (.thermalTrip src) s t ∧
    t.on = false ∧ ((∀ a < hostKey 0, t.mem.read a = 0) ∧ ∀ a, hostKey 0 ≤ a → t.mem.read a = s.mem.read a) ∧ t.cores = [] ∧
    t.ctxs = [] ∧ t.hub.tripcause.getLsbD b = true ∧
    (∀ i < 16, i ≠ b → t.hub.tripcause.getLsbD i = s.hub.tripcause.getLsbD i) ∧
    t.hub.tripcause.toNat / 2 ^ 32 = min (s.hub.tripcause.toNat / 2 ^ 32 + 1) (2 ^ 32 - 1) := by
  have hlt := TripSource.bit_lt h
  have he : execThermalTrip src s = .next (s.dark.modHub fun h => { h with tripcause := tripped s.hub.tripcause b }) := by
    rw [execThermalTrip, h]; rfl
  refine ⟨_, he, rfl, ⟨fun a ha => ?_, fun a ha => ?_⟩, rfl, rfl, ?_, fun i hi hib => ?_, tripped_count _ hlt⟩
  · rw [State.mem_modHub, s.read_dark, if_pos ha]
  · rw [State.mem_modHub, s.read_dark, if_neg (by omega)]
  · rw [State.hub_modHub, tripped_low _ hlt, decide_eq_true rfl, Bool.or_true]
  · rw [State.hub_modHub, tripped_low _ hi, decide_eq_false hib, Bool.or_false]

theorem tripcauseClear_answers (m : BitVec 16) : ∃ t, Answers (.tripcauseClear m) s t ∧ t.mem = s.mem ∧ ∀ i < 64,
    t.hub.tripcause.getLsbD i = (s.hub.tripcause.getLsbD i && !(decide (i < 16) && m.getLsbD i)) := by
  refine ⟨_, rfl, rfl, fun i hi => ?_⟩
  have hm : m.getLsbD i = (decide (i < 16) && m.getLsbD i) := by
    by_cases h : i < 16
    · simp [h]
    · simp [h, BitVec.getLsbD_of_ge m i (by omega)]
  simp [hi, ← hm]

end Sys2Proof.Machine

end

section
/-!
PROOFS. Boot, and the new start of context 0 after its kill (21 R432, R433; O59): what loading the service stream changes.
-/

namespace Sys2Proof.Machine

variable {s : State} {id n : Nat}

/-! ### Loading the service stream -/

theorem State.writeObj_frame (s : State) (id off : Nat) (bs : List Byte) :
    s.writeObj id off bs = { s with mem := s.mem.writeAll (s.objCells id off bs), past := (s.writeObj id off bs).past,
                                    poison := (s.writeObj id off bs).poison, lines := (s.writeObj id off bs).lines } := by
  rw [State.writeObj, State.storeCells, State.keepPast_frame]; rfl

/-- The service stream is loaded as a new object with its image in it, or where no memory remains not at all. -/
theorem State.loadService_cases (s : State) (id n : Nat) : s.loadService id n = s ∨
    ∃ es, s.loadService id n = (s.putObject id (serviceReq n) es).writeObj id 0 (Config.serviceImage n) := by
  unfold State.loadService
  split
  · exact .inl rfl
  · next es _ => exact .inr ⟨es, rfl⟩

theorem State.loadService_frame (s : State) (id n : Nat) : let t := s.loadService id n
    t = { s with objs := t.objs, freeCtr := t.freeCtr, badEntries := t.badEntries, mem := t.mem, past := t.past,
                 poison := t.poison, lines := t.lines } := by
  intro t
  rcases s.loadService_cases id n with e | ⟨es, e⟩
  · simp only [t, e]
  · simp only [t, e]; rw [State.writeObj_frame]; rfl

theorem State.obj_loadService_other {i : Nat} (h : i ≠ id) : (s.loadService id n).obj i = s.obj i := by
  rcases s.loadService_cases id n with e | ⟨es, e⟩
  · rw [e]
  · rw [e, State.writeObj_frame]
    exact (s.obj_putObject ..).trans (if_neg h)

/-- Loading changes no byte but those that its image has a place for. -/
theorem State.read_loadService_other {a : Nat}
    (h : ∀ p ∈ (s.loadService id n).objCells id 0 (Config.serviceImage n), p.1 ≠ a) :
    (s.loadService id n).mem.read a = s.mem.read a := by
  rcases s.loadService_cases id n with e | ⟨es, e⟩
  · rw [e]
  · have hcells : (s.loadService id n).objCells id 0 (Config.serviceImage n) =
        (s.putObject id (serviceReq n) es).objCells id 0 (Config.serviceImage n) := by
      rw [e]; exact State.objCells_congr (by rw [State.writeObj_frame]) (by rw [State.writeObj_frame]) ..
    rw [hcells] at h
    rw [e, State.writeObj_frame]
    exact Memory.read_writeAll_of_forall_ne _ h

/-- The image stands in its object, as long as its number is not that of an operand view. -/
theorem State.read_loadService_image (hs : s.Canonical) (hn : s.obj id = none) (hv : isView id = false) {i a : Nat}
    (hi : i < (Config.serviceImage n).length) (ha : (s.loadService id n).frameKey id i = some a)
    (hlast : ∀ j < (Config.serviceImage n).length, i < j → (s.loadService id n).frameKey id j ≠ some a) :
    (s.loadService id n).mem.read a = (Config.serviceImage n).getD i 0 := by
  rcases s.loadService_cases id n with e | ⟨es, e⟩
  · rw [e, State.frameKey, hn] at ha; cases ha
  · rw [e, State.writeObj_frame] at ha hlast ⊢
    have key (j : Nat) : (s.putObject id (serviceReq n) es).place id (0 + j) = .at a ↔
        (s.putObject id (serviceReq n) es).frameKey id j = some a := by
      rw [Nat.zero_add]; exact State.place_eq_at_iff hv j a
    exact Memory.read_writeAll_objCells hs hi ((key i).2 ha) fun j hj hij h => hlast j hj hij ((key j).1 h)

/-! ### The new start of context 0 -/

/-- Context 0 is created over the object of its stream, and runs. -/
def State.startService (s : State) (id : Nat) (d : Desc) : State :=
  (s.makeContext 0 id 0 0 0 d).modCtx 0 fun c => { c with run := 1 }

theorem State.ctx_startService_other (s : State) (id : Nat) (d : Desc) {x : Nat} (h : x ≠ 0) :
    (s.startService id d).ctx x = s.ctx x := by
  rw [State.startService, State.ctx_modCtx, if_neg h, State.makeContext, State.ctx_setCtx, if_neg h]

/-- It runs from the start of its stream. -/
theorem State.ctx_startService (s : State) (id : Nat) (d : Desc) : let c := (s.startService id d).ctx 0
    c.created = true ∧ c.killed = false ∧ c.run = 1 ∧ c.fe.spc = 0 ∧ c.sobj = id := by
  rw [State.startService, State.ctx_modCtx, if_pos rfl, State.makeContext, State.ctx_setCtx, if_pos rfl]
  exact ⟨rfl, rfl, rfl, rfl, rfl⟩

/-- The machine in which the firmware loads its new image: the old object of the service stream is gone. -/
def State.unserved (s : State) : State :=
  let u : State := { s with freeCtr := s.freeCtr + 1 }
  match s.obj (s.ctx 0).sobj with
  | some o => u.dropObject (s.ctx 0).sobj o
  | none => u

/-- What the firmware asks of the new context 0: the quotas of the old one. -/
def State.renewedDesc (s : State) : Desc := ⟨0, false, 0, (s.ctx 0).fe.wquota, (s.ctx 0).fe.pquota, 0⟩

theorem State.renewService_eq (s : State) : s.renewService =
    (s.unserved.loadService (s.ctx 0).sobj s.freeCtr).startService (s.ctx 0).sobj s.renewedDesc := rfl

@[simp] theorem State.mem_unserved (s : State) : s.unserved.mem = s.mem := by
  unfold State.unserved; split <;> simp
theorem State.obj_unserved (s : State) (i : Nat) : s.unserved.obj i = if i = (s.ctx 0).sobj then none else s.obj i := by
  unfold State.unserved
  split
  · exact State.obj_dropObject ..
  · next h =>
    split
    · next e => rw [e]; exact h
    · rfl

/-- After its kill context 0 runs again from the start of its stream, on the firmware's new image (R433).  That image reaches the
places of its object where its number is no operand view's, or where there is nothing to place. -/
theorem createContext_restarts (hmb : s.hub.mbStatus ≠ 1) (hk : (s.ctx 0).killed = true) (hr : (s.ctx 0).run = 3)
    (hv : isView (s.ctx 0).sobj = false ∨ Config.serviceImage s.freeCtr = []) : ∃ t, Answers .createContext s t ∧
      (t.ctx 0).created = true ∧ (t.ctx 0).killed = false ∧ (t.ctx 0).run = 1 ∧ (t.ctx 0).fe.spc = 0 ∧
      let o := (s.ctx 0).sobj
      let image := Config.serviceImage s.freeCtr
      (t.ctx 0).sobj = o ∧ (∀ i, i ≠ o → t.obj i = s.obj i) ∧
      (∀ a, (∀ i, t.frameKey o i ≠ some a) → t.mem.read a = s.mem.read a) ∧
      (s.Canonical → ∀ i < image.length, ∀ a, t.frameKey o i = some a →
        (∀ j < image.length, i < j → t.frameKey o j ≠ some a) → t.mem.read a = image.getD i 0) := by
  have he := s.renewService_eq
  have hx : execCreateContext s = .next s.renewService := by
    simp only [execCreateContext, hmb, hk, hr, false_and, and_self, if_false, if_true]
  obtain ⟨hcreated, hkilled, hrun, hspc, hsobj⟩ := State.ctx_startService
    (s.unserved.loadService (s.ctx 0).sobj s.freeCtr) (s.ctx 0).sobj s.renewedDesc
  rw [← he] at hcreated hkilled hrun hspc hsobj
  refine ⟨s.renewService, hx, hcreated, hkilled, hrun, hspc, hsobj, fun i hi => ?_, fun a ha => ?_, fun hs i hi a ha hlast => ?_⟩
  · rw [he]
    exact (State.obj_loadService_other hi).trans ((s.obj_unserved i).trans (if_neg hi))
  · rw [he] at ha ⊢
    refine (State.read_loadService_other fun p hp hpa => ?_).trans (by rw [State.mem_unserved])
    rcases hv with hv | hv
    · obtain ⟨i, -, hi⟩ := State.mem_objCells hp
      exact ha (0 + i) ((State.place_eq_at_iff hv ..).1 (hpa ▸ hi))
    · rw [hv] at hp; cases hp
  · rcases hv with hv | hv
    · rw [he] at ha hlast ⊢
      have hu : s.unserved.Canonical := by rw [State.Canonical, State.mem_unserved]; exact hs
      exact State.read_loadService_image hu ((s.obj_unserved _).trans (if_pos rfl)) hv hi ha hlast
    · rw [hv] at hi; cases hi

/-! ### Boot -/

/-- The module that boot starts from: dark, with GCYC 0. -/
def State.starting (s : State) : State :=
  { s.dark with gcyc := 0, freeCtr := s.freeCtr + 5, measure := Config.freeValue s.freeCtr }

theorem execBoot_unsigned (h : Config.signatureOk s.freeCtr = false) : execBoot s = .next s.starting := by
  simp only [execBoot, h]; rfl

/-- The module as the firmware's signature has been checked: it has power, and its interrupt ring a base. -/
def State.powered (s : State) : State :=
  { s.starting with on := true }.modHub fun h =>
    { h with ringBase := BitVec.ofNat 64 ((Config.freeValue (s.freeCtr + 4)).toNat % 2 ^ 43 * 32) }

/-- With the firmware's signature boot loads the service stream, and context 0 starts on it. -/
theorem execBoot_signed (h : Config.signatureOk s.freeCtr = true) : ∃ d : Desc,
    execBoot s = .next ((s.powered.loadService (serviceObj (s.freeCtr + 3)) (s.freeCtr + 3)).startService
      (serviceObj (s.freeCtr + 3)) d) :=
  ⟨_, congrArg Host.Outcome.next (if_neg (by rw [h]; decide))⟩

/-- After boot (R432). -/
theorem boot_answers (s : State) : let service := serviceObj (s.freeCtr + 3)
    ∃ t, Answers .boot s t ∧ t.gcyc = 0 ∧ t.window = [] ∧ t.cores = [] ∧ (∀ o, o ≠ service → t.obj o = none) ∧
      t.hub.tripcause = s.hub.tripcause ∧ (∀ x, x ≠ 0 → (t.ctx x).created = false) ∧
      (∀ a, (∀ p ∈ t.objCells service 0 (Config.serviceImage (s.freeCtr + 3)), p.1 ≠ a) →
        t.mem.read a = if a < hostKey 0 then 0 else s.mem.read a) ∧
      if Config.signatureOk s.freeCtr = true then t.on = true ∧ (t.ctx 0).created = true ∧ (t.ctx 0).run = 1 ∧
        (t.ctx 0).sobj = service ∧ (t.ctx 0).fe.spc = 0
      else t.on = false ∧ (t.ctx 0).created = false ∧ t.objs = [] ∧
        (∀ a < hostKey 0, t.mem.read a = 0) ∧ ∀ a, hostKey 0 ≤ a → t.mem.read a = s.mem.read a := by
  intro service
  by_cases h : Config.signatureOk s.freeCtr = true
  · obtain ⟨d, he⟩ := execBoot_signed h
    have hl := s.powered.loadService_frame service (s.freeCtr + 3)
    obtain ⟨hcreated, -, hrun, hspc, hsobj⟩ := State.ctx_startService (s.powered.loadService service (s.freeCtr + 3)) service d
    refine ⟨_, he, ?_⟩
    rw [if_pos h]
    refine ⟨?_, ?_, ?_, fun o ho => ?_, ?_, fun x hx => ?_, fun a ha => ?_, ?_, hcreated, hrun, hsobj, hspc⟩
    · exact (congrArg State.gcyc hl).trans rfl
    · exact (congrArg State.window hl).trans rfl
    · exact (congrArg State.cores hl).trans rfl
    · exact (State.obj_loadService_other ho).trans rfl
    · exact (congrArg (·.hub.tripcause) hl).trans rfl
    · rw [State.ctx_startService_other _ _ _ hx]
      exact congrArg (fun t : State => (t.ctx x).created) hl
    · have hcells := State.objCells_congr (s := s.powered.loadService service (s.freeCtr + 3))
        (t := (s.powered.loadService service (s.freeCtr + 3)).startService service d) rfl rfl service 0
      exact (State.read_loadService_other fun p hp => ha p ((hcells _).symm ▸ hp)).trans (s.read_dark a)
    · exact (congrArg State.on hl).trans rfl
  · refine ⟨_, execBoot_unsigned (by simpa using h), rfl, rfl, rfl, fun _ _ => rfl, rfl, fun _ _ => rfl,
      fun a _ => s.read_dark a, ?_⟩
    rw [if_neg h]
    exact ⟨rfl, rfl, rfl, fun a ha => (s.read_dark a).trans (if_pos ha), fun a ha => (s.read_dark a).trans (if_neg (by omega))⟩

end Sys2Proof.Machine

end

section
/-!
PROOFS. What O59 comes to.  All of its parts hold as the lemmas above say, but for the new start of context 0 where its stream
object's number is an operand view's (0xFFF0000 and above, 19 R391): there `State.loadService` places the image's bytes by
`State.place`, which looks through the view, while the statement looks for them by `State.frameKey`, which does not.  So O59 holds
if the firmware's images are all empty, and fails if one of them has from 1 to 65536 bytes; and `Config.serviceImage` is a free value
that no proof can see: neither O59 nor its negation has a proof.  With `isView (s.ctx 0).sobj = false` among the hypotheses of that
part, `createContext_restarts` proves it.
-/

namespace Sys2Proof.Machine

/-- Context 0 killed and stopped over a stream object with a view's number; of memory byte 0 of HBM stack 0 alone is not 0. -/
def killedOverView (n : Nat) (b : Byte) : State :=
  { State.reset with
    freeCtr := n, mem := [(0, b)]
    ctxs := [(0, { Context.none with killed := true, run := 3, sobj := 0xFFF0000 })] }

theorem killedOverView_canonical (n : Nat) {b : Byte} (h : b ≠ 0) : (killedOverView n b).Canonical := by
  have : (b != 0) = true := bne_iff_ne.2 h
  simp only [State.Canonical, killedOverView, Memory.wf, Memory.wfAbove, this, Option.all_none, Bool.and_true]

theorem killedOverView_unserved (n : Nat) (b : Byte) :
    (killedOverView n b).unserved = { killedOverView n b with freeCtr := n + 1 } := rfl

variable {n : Nat} (h0 : 0 < (Config.serviceImage n).length) (h1 : (Config.serviceImage n).length ≤ 2 ^ 16)

include h1 in
/-- The object of an image that fits a page of 64 KiB has pages of that size. -/
theorem serviceReq_pcode : (serviceReq n).pcode = 0 := if_pos (by omega)

include h0 h1

/-- An image of up to a page lands on the first one of HBM stack 0. -/
theorem newExtents_killedOverView (b : Byte) :
    (killedOverView n b).unserved.newExtents (serviceReq n) = some [newExtent 0 0 0 0] := by
  have hpage : (serviceReq n).page = 65536 := by rw [ObjReq.page, serviceReq_pcode h1]; rfl
  have hcount : (serviceReq n).count = 1 := by
    rw [ObjReq.count, hpage, show (serviceReq n).size = max 1 (Config.serviceImage n).length from rfl]
    omega
  rw [killedOverView_unserved]
  simp only [State.newExtents, hcount, hpage]
  rfl

theorem loadService_killedOverView (b : Byte) : (killedOverView n b).unserved.loadService 0xFFF0000 n =
    ((killedOverView n b).unserved.putObject 0xFFF0000 (serviceReq n) [newExtent 0 0 0 0]).writeObj 0xFFF0000 0
      (Config.serviceImage n) := by
  rw [State.loadService, newExtents_killedOverView h0 h1]

/-- The image is written nowhere: no view has the number. -/
theorem mem_renewService_killedOverView (b : Byte) : (killedOverView n b).renewService.mem = [(0, b)] := by
  have hgone (off : Nat) (bs : List Byte) : ((killedOverView n b).unserved.putObject 0xFFF0000 (serviceReq n)
      [newExtent 0 0 0 0]).objCells 0xFFF0000 off bs = [] := by
    induction bs generalizing off with
    | nil => rfl
    | cons c bs ih => exact ih (off + 1)
  rw [State.renewService_eq]
  show ((killedOverView n b).unserved.loadService 0xFFF0000 n).mem = _
  rw [loadService_killedOverView h0 h1, State.writeObj_frame, hgone]
  rfl

theorem frameKey_renewService_killedOverView (b : Byte) {i : Nat} (hi : i < 65536) :
    (killedOverView n b).renewService.frameKey 0xFFF0000 i = some i := by
  have hobj : (killedOverView n b).renewService.obj 0xFFF0000 =
      ((killedOverView n b).unserved.putObject 0xFFF0000 (serviceReq n) [newExtent 0 0 0 0]).obj 0xFFF0000 := by
    rw [State.renewService_eq]
    show ((killedOverView n b).unserved.loadService 0xFFF0000 n).obj 0xFFF0000 = _
    rw [loadService_killedOverView h0 h1, State.writeObj_frame]
    rfl
  rw [State.frameKey_congr hobj, State.frameKey, State.obj_putObject, if_pos rfl]
  simp only [serviceReq_pcode h1]
  rw [show 2 ^ pageLog 0 = 65536 from rfl, Nat.div_eq_of_lt hi, Nat.mod_eq_of_lt hi]
  show some (0 * 2 ^ 36 + (0 + i)) = some i
  simp

end Sys2Proof.Machine

open Sys2Proof Sys2Proof.Machine

/-- O59 would hold if the firmware's images, which are free values (log 12), were all empty. -/
theorem moduleAndRequests_of_empty_images (h : ∀ n, Config.serviceImage n = []) : Obligations.ModuleAndRequests := by
  unfold Obligations.ModuleAndRequests
  refine ⟨fun s op hs hr => ?_, fun s k d => ?_, fun s src m => ?_⟩
  · subst hr
    refine ⟨?createObject, ?_, ?_, ?freeObject, ?createContext, ?restartContext, ?_, fun h => badRequest_fails hs rfl h⟩
    case createObject => exact fun hr hok hid es hes => createObject_ends hs hr hok hid hes
    · exact fun hr hok => createObject_fails hs hr hok
    · exact fun hr h => freeObject_fails hs hr h
    case freeObject => exact fun hr o h0 hn ho => ⟨freeObject_waits hs hr h0 hn ho, freeObject_ends hs hr h0 hn ho⟩
    case createContext =>
      exact fun hr d h0 hsobj hdobj hd hfree hq hown hframe => createContext_ends hs hr h0 hsobj hdobj hd hfree hq hown hframe
    case restartContext =>
      exact fun hr hc hk h3 => ⟨restartContext_at_ends hs hr hc hk h3,
        fun f hm hf => restartContext_fault_ends hs hr hc hk h3 hm (by decide) hf (if_pos rfl),
        fun f hm hf => restartContext_fault_ends hs hr hc hk h3 hm (by decide) hf (if_neg (by decide))⟩
    · exact fun hr hok hx ho => writeCapabilityEntry_ends hs hr rfl hok hx ho
  · refine ⟨fun hd hen => ?_, droopStretchEnd_answers, droopHalvingEnd_answers, ballastStart_answers, ballastEnd_answers⟩
    obtain ⟨t, ht, hmem, hcnt, hcore⟩ := droopAlarm_answers hd hen
    refine ⟨t, ht, hmem, hcnt, fun j _ => ⟨fun e hst hha => ?_, fun e hst hha => ?_, fun e => ?_⟩⟩
    · rw [hcore, if_pos e, Core.alarm_stretch hst hha]
    · rw [hcore, if_pos e, Core.alarm_halve hst hha]
    · rw [hcore, if_neg e]
  · exact ⟨fun b hb => thermalTrip_answers hb, tripcauseClear_answers m,
      fun hmb hk hr => createContext_restarts hmb hk hr (.inr (h _)), boot_answers s⟩

/-- O59 would fail with an image of one byte up to a page: from `killedOverView n b` the statement has byte 0 of memory read as the
image's first byte, where it still reads b, whatever b is. -/
theorem not_moduleAndRequests_of_image {n : Nat} (h0 : 0 < (Config.serviceImage n).length)
    (h1 : (Config.serviceImage n).length ≤ 2 ^ 16) : ¬ Obligations.ModuleAndRequests := by
  unfold Obligations.ModuleAndRequests
  rintro ⟨-, -, h⟩
  have first (b : Byte) (hb : b ≠ 0) : b = (Config.serviceImage n).getD 0 0 := by
    obtain ⟨-, -, restarts, -⟩ := h (killedOverView n b) .external 0
    obtain ⟨t, ht, -, -, -, -, -, -, -, himage⟩ := restarts (show (0 : BitVec 8) ≠ 1 by decide) rfl rfl
    obtain rfl : (killedOverView n b).renewService = t := Host.Outcome.next.inj ht
    have hlast (j : Nat) (hj : j < (Config.serviceImage n).length) (hpos : 0 < j) :
        (killedOverView n b).renewService.frameKey 0xFFF0000 j ≠ some 0 := by
      rw [frameKey_renewService_killedOverView h0 h1 b (by omega), ne_eq, Option.some.injEq]
      omega
    have hread := himage (killedOverView_canonical n hb) 0 h0 0 (frameKey_renewService_killedOverView h0 h1 b (by decide)) hlast
    rw [mem_renewService_killedOverView h0 h1] at hread
    exact hread
  exact absurd ((first 1 (by decide)).trans (first 2 (by decide)).symm) (by decide)

end

section
/-!
PROOFS. Decode and encode agree (O9, O10; 03 R50-R63). One lemma for each shape of a word; the dispatch over the instructions cites
the shape and reads the decoder's arm.
-/

namespace Sys2Proof

/-! ### Fields that share a word -/

/-- The low field of two. -/
theorem ofNat_add_mul {n : Nat} (x : BitVec n) (y : Nat) : BitVec.ofNat n (x.toNat + 2 ^ n * y) = x := by
  apply BitVec.eq_of_toNat_eq
  rw [BitVec.toNat_ofNat, Nat.add_mul_mod_self_left, Nat.mod_eq_of_lt x.isLt]

/-- The high field of two. -/
theorem toNat_add_mul_div {n : Nat} (x : BitVec n) (y : Nat) : (x.toNat + 2 ^ n * y) / 2 ^ n = y := by
  rw [Nat.add_mul_div_left _ _ (Nat.two_pow_pos n), Nat.div_eq_of_lt x.isLt, Nat.zero_add]

/-- A field above the first of a packed word. -/
@[simp] theorem pack_cons_div {n v k : Nat} {r : List (Nat × Nat)} (hv : v < 2 ^ n) (hk : n ≤ k) :
    pack ((n, v) :: r) / 2 ^ k = pack r / 2 ^ (k - n) := by
  rw [pack, ← Nat.pow_sub_mul_pow 2 hk, Nat.mul_comm (2 ^ (k - n)), ← Nat.div_div_eq_div_mul,
    Nat.add_mul_div_left _ _ (Nat.two_pow_pos n), Nat.div_eq_of_lt hv, Nat.zero_add]

@[simp] theorem pack_cons_div_two {v : Nat} {r : List (Nat × Nat)} (hv : v < 2) : pack ((1, v) :: r) / 2 = pack r := by
  simpa using pack_cons_div (n := 1) (k := 1) (r := r) (by simpa using hv) le_rfl

/-- The first field of a packed word. -/
@[simp] theorem ofNat_pack_cons {n : Nat} (x : BitVec n) (r : List (Nat × Nat)) : BitVec.ofNat n (pack ((n, x.toNat) :: r)) = x :=
  ofNat_add_mul x _

theorem pack_cons_mod {n v : Nat} {r : List (Nat × Nat)} (hv : v < 2 ^ n) : pack ((n, v) :: r) % 2 ^ n = v := by
  rw [pack, Nat.add_mul_mod_self_left, Nat.mod_eq_of_lt hv]

/-- Bits of a first field that is zero. -/
theorem pack_zero_mod {n k : Nat} (r : List (Nat × Nat)) (hk : k ≤ n) : pack ((n, 0) :: r) % 2 ^ k = 0 := by
  rw [pack, Nat.zero_add, ← Nat.pow_sub_mul_pow 2 hk, Nat.mul_comm (2 ^ (n - k)), Nat.mul_assoc, Nat.mul_mod_right]

@[simp] theorem pack_zero_mod_two (r : List (Nat × Nat)) : pack ((1, 0) :: r) % 2 = 0 := pack_zero_mod r (k := 1) le_rfl

@[simp] theorem bit_le_one (b : Bool) : bit b ≤ 1 := Nat.le_of_lt_succ (bit_lt b)

@[simp] theorem pack_bit_mod_two (b : Bool) (r : List (Nat × Nat)) : pack ((1, bit b) :: r) % 2 = bit b :=
  pack_cons_mod (n := 1) (bit_lt b)

theorem ofNat_mod {m n : Nat} (x : Nat) (h : n ≤ m) : BitVec.ofNat n (x % 2 ^ m) = BitVec.ofNat n x := by
  apply BitVec.eq_of_toNat_eq
  rw [BitVec.toNat_ofNat, BitVec.toNat_ofNat, Nat.mod_mod_of_dvd _ (Nat.pow_dvd_pow 2 h)]

theorem mod_div_pow (x : Nat) {k m : Nat} (h : k ≤ m) : x % 2 ^ m / 2 ^ k = x / 2 ^ k % 2 ^ (m - k) := by
  rw [← Nat.add_sub_cancel' h, Nat.pow_add, Nat.add_sub_cancel_left, Nat.mod_mul_right_div_self]

theorem div_div_pow (x j k : Nat) : x / 2 ^ j / 2 ^ k = x / 2 ^ (j + k) := by rw [Nat.div_div_eq_div_mul, Nat.pow_add]

theorem toNat_lt_8 (x : BitVec 3) : x.toNat < 8 := x.isLt
theorem toNat_lt_16 (x : BitVec 4) : x.toNat < 16 := x.isLt
theorem toNat_lt_64 (x : BitVec 6) : x.toNat < 64 := x.isLt
theorem toNat_lt_512 (x : BitVec 9) : x.toNat < 512 := x.isLt

/-- An instruction whose word, as the encoder writes it, reads back. -/
theorem decodeSlot_of_encode {i : Instr} {p : SlotKind × Nat} {k : SlotKind} {w : Nat} (he : encode i = some (k, w))
    (e : encode i = some p) (h : decodeSlot p.1 p.2 = .ok i) : decodeSlot k w = .ok i := by
  rw [e] at he; cases he; exact h

theorem encode_ne_of_kind {i : Instr} {k : SlotKind} {w : Nat} (h : ((encode i).map Prod.fst == some k) = false) :
    encode i ≠ some (k, w) := fun e => by simp [e] at h

/-! ### Scalar slots (03 R51, R67) -/

theorem decodeSlot_scalar {i : Instr} {op d a b : Nat} {g : Guard} (hs : slotCheck i = none) (ho : op < 2 ^ 8) (hd : d < 2 ^ 6)
    (ha : a < 2 ^ 6) (hb : b < 2 ^ 8)
    (arm : ∀ w, unpack scalarWidths w = [op, g.q.toNat, bit g.neg, d, a, b] → decodeScalar false w = formed true i) :
    decodeSlot .s (packScalar op g d a b) = .ok i := by
  simp only [decodeSlot, arm _ (unpack_scalar g ho hd ha hb), formed_ok hs]

/-- Three registers. -/
theorem decodeSlot_registers {op : Nat} {mk : BitVec 6 → BitVec 6 → BitVec 6 → Guard → Instr} {d a b : BitVec 6} {g : Guard}
    (hs : slotCheck (mk d a b g) = none) (ho : op < 2 ^ 8)
    (arm : ∀ w q n d a b, unpack scalarWidths w = [op, q, n, d, a, b] → decodeScalar false w =
      formed (b < 64) (mk (BitVec.ofNat 6 d) (BitVec.ofNat 6 a) (BitVec.ofNat 6 b) (mkGuard q n))) :
    decodeSlot .s (packScalar op g d.toNat a.toNat b.toNat) = .ok (mk d a b g) :=
  decodeSlot_scalar hs ho d.isLt a.isLt (b.isLt.trans (by decide)) fun w h => by
    have hb : b.toNat < 64 := b.isLt
    simp [arm _ _ _ _ _ _ h, hb]

/-- Two registers and an immediate byte. -/
theorem decodeSlot_immediate {op : Nat} {mk : BitVec 6 → BitVec 6 → BitVec 8 → Guard → Instr} {d a : BitVec 6} {b : BitVec 8}
    {g : Guard} (hs : slotCheck (mk d a b g) = none) (ho : op < 2 ^ 8)
    (arm : ∀ w q n d a b, unpack scalarWidths w = [op, q, n, d, a, b] → decodeScalar false w =
      formed true (mk (BitVec.ofNat 6 d) (BitVec.ofNat 6 a) (BitVec.ofNat 8 b) (mkGuard q n))) :
    decodeSlot .s (packScalar op g d.toNat a.toNat b.toNat) = .ok (mk d a b g) :=
  decodeSlot_scalar hs ho d.isLt a.isLt b.isLt fun w h => by simp [arm _ _ _ _ _ _ h]

/-- Two registers. -/
theorem decodeSlot_pair {op : Nat} {mk : BitVec 6 → BitVec 6 → Guard → Instr} {d a : BitVec 6} {g : Guard}
    (hs : slotCheck (mk d a g) = none) (ho : op < 2 ^ 8)
    (arm : ∀ w q n d a b, unpack scalarWidths w = [op, q, n, d, a, b] → decodeScalar false w =
      formed (b == 0) (mk (BitVec.ofNat 6 d) (BitVec.ofNat 6 a) (mkGuard q n))) :
    decodeSlot .s (packScalar op g d.toNat a.toNat 0) = .ok (mk d a g) :=
  decodeSlot_scalar hs ho d.isLt a.isLt (by decide) fun w h => by simp [arm _ _ _ _ _ _ h]

/-- A register and an immediate of fourteen bits. -/
theorem decodeSlot_wide {op : Nat} {mk : BitVec 6 → BitVec 14 → Guard → Instr} {d : BitVec 6} {x : BitVec 14} {g : Guard}
    (hs : slotCheck (mk d x g) = none) (ho : op < 2 ^ 8)
    (arm : ∀ w q n d a b, unpack scalarWidths w = [op, q, n, d, a, b] → decodeScalar false w =
      formed true (mk (BitVec.ofNat 6 d) (BitVec.ofNat 14 (a + 64 * b)) (mkGuard q n))) :
    decodeSlot .s (packWide op g d.toNat x.toNat) = .ok (mk d x g) :=
  decodeSlot_scalar hs ho d.isLt (Nat.mod_lt _ (by decide)) (by have := x.isLt; omega) fun w h => by
    simp [arm _ _ _ _ _ _ h, Nat.mod_add_div]

/-- A register and a special register. -/
theorem decodeSlot_special {op : Nat} {mk : BitVec 6 → BitVec 12 → Guard → Instr} {d : BitVec 6} {x : BitVec 12} {g : Guard}
    (hs : slotCheck (mk d x g) = none) (ho : op < 2 ^ 8)
    (arm : ∀ w q n d a b, unpack scalarWidths w = [op, q, n, d, a, b] → decodeScalar false w =
      formed (b < 64) (mk (BitVec.ofNat 6 d) (BitVec.ofNat 12 (a + 64 * b)) (mkGuard q n))) :
    decodeSlot .s (packWide op g d.toNat x.toNat) = .ok (mk d x g) := by
  have hx : x.toNat / 64 < 64 := by have := x.isLt; omega
  exact decodeSlot_scalar hs ho d.isLt (Nat.mod_lt _ (by decide)) (by omega) fun w h => by
    simp [arm _ _ _ _ _ _ h, hx, Nat.mod_add_div]

/-- An offset of twenty bits. -/
theorem decodeSlot_offset {op : Nat} {mk : BitVec 20 → Guard → Instr} {x : BitVec 20} {g : Guard}
    (hs : slotCheck (mk x g) = none) (ho : op < 2 ^ 8)
    (arm : ∀ w q n d a b, unpack scalarWidths w = [op, q, n, d, a, b] → decodeScalar false w =
      formed true (mk (BitVec.ofNat 20 (d + 64 * a + 4096 * b)) (mkGuard q n))) :
    decodeSlot .s (packWide op g (x.toNat % 64) (x.toNat / 64)) = .ok (mk x g) :=
  decodeSlot_scalar hs ho (Nat.mod_lt _ (by decide)) (Nat.mod_lt _ (by decide)) (by have := x.isLt; omega) fun w h => by
    have e : x.toNat % 64 + 64 * (x.toNat / 64 % 64) + 4096 * (x.toNat / 64 / 64) = x.toNat := by omega
    simp [arm _ _ _ _ _ _ h, e]

/-- Two predicate flags or fields of three bits in a field of six. -/
theorem three_add_three_lt (x y : BitVec 3) : x.toNat + 8 * y.toNat < 64 := by have := x.isLt; have := y.isLt; omega
theorem ofNat_three (x y : BitVec 3) : BitVec.ofNat 3 (x.toNat + 8 * y.toNat) = x := ofNat_add_mul x _
theorem three_div (x y : BitVec 3) : (x.toNat + 8 * y.toNat) / 8 = y.toNat := toNat_add_mul_div x _

theorem decodeSlot_encode_scalar {i : Instr} {w : Nat} (hs : slotCheck i = none) (he : encode i = some (.s, w)) :
    decodeSlot .s w = .ok i := by
  cases i with
  | nop g => exact decodeSlot_of_encode he rfl (decodeSlot_scalar hs (by decide) (by decide) (by decide) (by decide) fun w h => by
      simp [decodeScalar, h])
  | add d a b g | sub d a b g | mul d a b g | mulh d a b g | mulhn d a b g | div d a b g | divn d a b g | rem d a b g
  | remn d a b g | and d a b g | or d a b g | xor d a b g | andn d a b g | shl d a b g | shr d a b g | sar d a b g
  | rotl d a b g | min d a b g | max d a b g | minn d a b g | maxn d a b g | sel d a b g
  | shli d a b g | shri d a b g | sari d a b g | sext d a b g | zext d a b g =>
    exact decodeSlot_of_encode he rfl (decodeSlot_registers hs (by decide) fun _ _ _ _ _ _ h => by rw [decodeScalar, h]; rfl)
  | addi d a i g | andi d a i g | ori d a i g | xori d a i g =>
    exact decodeSlot_of_encode he rfl (decodeSlot_immediate hs (by decide) fun _ _ _ _ _ _ h => by rw [decodeScalar, h]; rfl)
  | clz d a g | popc d a g | mov d a g | brx d a g =>
    exact decodeSlot_of_encode he rfl (decodeSlot_pair hs (by decide) fun _ _ _ _ _ _ h => by rw [decodeScalar, h]; rfl)
  | lil d n g | lih d n g | loop d n g =>
    exact decodeSlot_of_encode he rfl (decodeSlot_wide hs (by decide) fun _ _ _ _ _ _ h => by rw [decodeScalar, h]; rfl)
  | mfsr d n g | mtsr d n g =>
    exact decodeSlot_of_encode he rfl (decodeSlot_special hs (by decide) fun _ _ _ _ _ _ h => by rw [decodeScalar, h]; rfl)
  | br o g | call o g =>
    exact decodeSlot_of_encode he rfl (decodeSlot_offset hs (by decide) fun _ _ _ _ _ _ h => by rw [decodeScalar, h]; rfl)
  | cmp c q a b g =>
    exact decodeSlot_of_encode he rfl (decodeSlot_scalar hs (by decide) (three_add_three_lt ..) a.isLt (b.isLt.trans (by decide))
      fun w h => by simp [decodeScalar, h, toNat_lt_64, ofNat_three, three_div])
  | cmpi c q a b g =>
    exact decodeSlot_of_encode he rfl (decodeSlot_scalar hs (by decide) (three_add_three_lt ..) a.isLt b.isLt
      fun w h => by simp [decodeScalar, h, ofNat_three, three_div])
  | qlog f qd qa qb g =>
    exact decodeSlot_of_encode he rfl (decodeSlot_scalar hs (by decide) (qd.isLt.trans (by decide)) (qa.isLt.trans (by decide))
      ((three_add_three_lt ..).trans (by decide)) fun w h => by
        simp [decodeScalar, h, toNat_lt_8, three_add_three_lt, ofNat_three, three_div])
  | nopw n g =>
    exact decodeSlot_of_encode he rfl (decodeSlot_scalar hs (by decide) (by decide) (Nat.mod_lt _ (by decide))
      (by have := n.isLt; omega) fun w h => by simp [decodeScalar, h, Nat.mod_add_div])
  | rot n g | swpt n g =>
    exact decodeSlot_of_encode he rfl (decodeSlot_scalar hs (by decide) (by decide) (by decide) n.isLt fun w h => by
      simp [decodeScalar, h])
  | endt g | endtCont g =>
    exact decodeSlot_of_encode he rfl (decodeSlot_scalar hs (by decide) (by decide) (by decide) (by decide) fun w h => by
      simp [decodeScalar, h])
  | cload c a n g =>
    exact decodeSlot_of_encode he rfl (decodeSlot_scalar hs (by decide) (c.isLt.trans (by decide)) a.isLt n.isLt fun w h => by
      simp [decodeScalar, h, toNat_lt_16])
  | cnarrow c a b g =>
    exact decodeSlot_of_encode he rfl (decodeSlot_scalar hs (by decide) (c.isLt.trans (by decide)) (a.isLt.trans (by decide))
      (b.isLt.trans (by decide)) fun w h => by simp [decodeScalar, h, toNat_lt_16, toNat_lt_64])
  | crights c a m g =>
    exact decodeSlot_of_encode he rfl (decodeSlot_scalar hs (by decide) (c.isLt.trans (by decide)) (a.isLt.trans (by decide))
      m.isLt fun w h => by simp [decodeScalar, h, toNat_lt_16])
  | cget d a f g =>
    exact decodeSlot_of_encode he rfl (decodeSlot_scalar hs (by decide) d.isLt (a.isLt.trans (by decide))
      (f.isLt.trans (by decide)) fun w h => by simp [decodeScalar, h, toNat_lt_16, toNat_lt_8])
  | cmov c a g =>
    exact decodeSlot_of_encode he rfl (decodeSlot_scalar hs (by decide) (c.isLt.trans (by decide)) (a.isLt.trans (by decide))
      (by decide) fun w h => by simp [decodeScalar, h, toNat_lt_16])
  | _ => exact absurd he (encode_ne_of_kind rfl)

/-! ### Load and store slots (03 R53, R68) -/

theorem decodeSlot_load {i : Instr} {op p n r c o x f : Nat} {q : MemQ} (hs : slotCheck i = none) (ho : op < 2 ^ 6) (hp : p < 2 ^ 4)
    (hn : n < 2) (hr : r < 2 ^ 9) (hc : c < 2 ^ 4) (hf : o < 2 ^ 6) (hx : x < 2 ^ 12) (hb : f < 2)
    (arm : ∀ w, unpack memoryWidths w = [op, p, n, r, c, o, x, q.cls.toNat, q.qual.toNat, f] → decodeMemory false w = formed true i) :
    decodeSlot .l (packMemory op p n r c o x q f) = .ok i := by
  simp only [decodeSlot, arm _ (unpack_memory q ho hp hn hr hc hf hx hb), formed_ok hs]

theorem decodeSlot_store {i : Instr} {op p n r c o x f : Nat} {q : MemQ} (hs : slotCheck i = none) (ho : op < 2 ^ 6) (hp : p < 2 ^ 4)
    (hn : n < 2) (hr : r < 2 ^ 9) (hc : c < 2 ^ 4) (hf : o < 2 ^ 6) (hx : x < 2 ^ 12) (hb : f < 2)
    (arm : ∀ w, unpack memoryWidths w = [op, p, n, r, c, o, x, q.cls.toNat, q.qual.toNat, f] → decodeMemory true w = formed true i) :
    decodeSlot .w (packMemory op p n r c o x q f) = .ok i := by
  simp only [decodeSlot, arm _ (unpack_memory q ho hp hn hr hc hf hx hb), formed_ok hs]

/-- A stride register and an offset of six bits each. -/
theorem six_add_six_lt (x y : BitVec 6) : x.toNat + 64 * y.toNat < 4096 := by have := x.isLt; have := y.isLt; omega
theorem ofNat_six (x y : BitVec 6) : BitVec.ofNat 6 (x.toNat + 64 * y.toNat) = x := ofNat_add_mul x _
theorem six_div (x y : BitVec 6) : (x.toNat + 64 * y.toNat) / 64 = y.toNat := toNat_add_mul_div x _

/-- The size, the extension bit and the offset of a scalar load in its field of twelve bits. -/
theorem size_field (z : BitVec 2) (b : Bool) (x : BitVec 6) (v : Nat) (hv : v = z.toNat + 4 * bit b + 64 * x.toNat) :
    v < 4096 ∧ BitVec.ofNat 2 v = z ∧ (v / 4 % 2 == 1) = b ∧ v / 4 % 2 = bit b ∧ v / 8 % 8 = 0 ∧ v / 64 = x.toNat := by
  have hz := z.isLt
  have hb := bit_lt b
  have hx := x.isLt
  have hm : v / 4 % 2 = bit b := by omega
  refine ⟨by omega, BitVec.eq_of_toNat_eq ?_, by simp [hm], hm, by omega, by omega⟩
  rw [BitVec.toNat_ofNat]; omega

theorem decodeSlot_encode_load {i : Instr} {w : Nat} (hs : slotCheck i = none) (he : encode i = some (.l, w)) :
    decodeSlot .l w = .ok i := by
  cases i with
  | lds r c o x z sx g q =>
    obtain ⟨hx, hz, hb, -, h8, h64⟩ := size_field z sx x _ rfl
    exact decodeSlot_of_encode he rfl (decodeSlot_load hs (by decide) (g.q.isLt.trans (by decide)) (bit_lt _)
      (r.isLt.trans (by decide)) c.isLt o.isLt hx (by decide) fun w h => by
        simp [decodeMemory, h, hz, hb, h8, h64, toNat_lt_8, toNat_lt_64])
  | vld v c o x g q | vldb v c o x g q =>
    exact decodeSlot_of_encode he rfl (decodeSlot_load hs (by decide) g.p.isLt (bit_lt _) v.isLt c.isLt o.isLt x.isLt (by decide)
      fun w h => by simp [decodeMemory, h])
  | vlds v c o t x g q =>
    exact decodeSlot_of_encode he rfl (decodeSlot_load hs (by decide) g.p.isLt (bit_lt _) v.isLt c.isLt o.isLt
      (six_add_six_lt t x) (by decide) fun w h => by simp [decodeMemory, h, ofNat_six, six_div])
  | vldx v c o x wi g q =>
    exact decodeSlot_of_encode he rfl (decodeSlot_load hs (by decide) g.p.isLt (bit_lt _) v.isLt c.isLt o.isLt
      (x.isLt.trans (by decide)) (bit_lt _) fun w h => by simp [decodeMemory, h, toNat_lt_512])
  | _ => exact absurd he (encode_ne_of_kind rfl)

theorem decodeSlot_encode_store {i : Instr} {w : Nat} (hs : slotCheck i = none) (he : encode i = some (.w, w)) :
    decodeSlot .w w = .ok i := by
  cases i with
  | sts r c o x z g q =>
    obtain ⟨hx, hz, -, hb, h8, h64⟩ := size_field z false x (z.toNat + 64 * x.toNat) (by simp [bit])
    exact decodeSlot_of_encode he rfl (decodeSlot_store hs (by decide) (g.q.isLt.trans (by decide)) (bit_lt _)
      (r.isLt.trans (by decide)) c.isLt o.isLt hx (by decide) fun w h => by
        simp [decodeMemory, h, hz, hb, h8, h64, show bit false = 0 from rfl, toNat_lt_8, toNat_lt_64])
  | vst v c o x g q =>
    exact decodeSlot_of_encode he rfl (decodeSlot_store hs (by decide) g.p.isLt (bit_lt _) v.isLt c.isLt o.isLt x.isLt (by decide)
      fun w h => by simp [decodeMemory, h])
  | vsts v c o t x g q =>
    exact decodeSlot_of_encode he rfl (decodeSlot_store hs (by decide) g.p.isLt (bit_lt _) v.isLt c.isLt o.isLt
      (six_add_six_lt t x) (by decide) fun w h => by simp [decodeMemory, h, ofNat_six, six_div])
  | vstx v c o x wi g q =>
    exact decodeSlot_of_encode he rfl (decodeSlot_store hs (by decide) g.p.isLt (bit_lt _) v.isLt c.isLt o.isLt
      (x.isLt.trans (by decide)) (bit_lt _) fun w h => by simp [decodeMemory, h, toNat_lt_512])
  | _ => exact absurd he (encode_ne_of_kind rfl)

/-! ### Vector and matrix slots (03 R55, R56, R69, R70) -/

/-- The opcode of a vector form gives the form's instruction. -/
theorem vectorOp_of_form {i : Instr} {r : VForm} {o : VOp} (h : vectorForm i = some (r, o)) :
    ∃ mk, vectorOp r.op = some mk ∧ mk o = i ∧ 0 < r.op ∧ r.op < 2 ^ 8 := by
  revert h
  fun_cases vectorForm i <;> intro h <;> cases h <;> exact ⟨_, rfl, rfl, by decide, by decide⟩

theorem matrixOp_of_form {i : Instr} {r : MForm} {o : MOp} (h : matrixForm i = some (r, o)) :
    ∃ mk, matrixOp r.op = some mk ∧ mk o = i ∧ 0 < r.op ∧ r.op < 2 ^ 8 := by
  revert h
  fun_cases matrixForm i <;> intro h <;> cases h <;> exact ⟨_, rfl, rfl, by decide, by decide⟩

theorem decodeSlot_vector {i : Instr} {r : VForm} {o : VOp} (h : vectorForm i = some (r, o)) (hs : slotCheck i = none) :
    decodeSlot .v (packVector r.op o) = .ok i := by
  obtain ⟨mk, hop, rfl, h0, h8⟩ := vectorOp_of_form h
  simp [decodeSlot, decodeVector, unpack_vector o h8, hop, Nat.ne_of_gt h0, formed_ok hs]

theorem decodeSlot_matrix {i : Instr} {r : MForm} {o : MOp} (h : matrixForm i = some (r, o)) (hs : slotCheck i = none) :
    decodeSlot .m (packMatrix r.op o) = .ok i := by
  obtain ⟨mk, hop, rfl, h0, h8⟩ := matrixOp_of_form h
  simp [decodeSlot, decodeMatrix, unpack_matrix o h8, hop, Nat.ne_of_gt h0, formed_ok hs]

/-! ### Engine slots (03 R57, R71) -/

theorem decodeSlot_engine {i : Instr} {op x : Nat} {e : ESync} (hs : slotCheck i = none) (ho : op < 2 ^ 10) (hx : x < 2 ^ 52)
    (arm : ∀ w, unpack engineWidths w = [op, e.g.q.toNat, bit e.g.neg, bit e.waitEn, e.waitSem.toNat, e.waitThr.toNat,
      bit e.sigEn, e.sigSem.toNat, e.sigInc.toNat, x] → decodeEngine w = formed true i) :
    decodeSlot .e (packEngine op e x) = .ok i := by
  simp only [decodeSlot, arm _ (unpack_engine e ho hx), formed_ok hs]

/-- Operands of n bits in all. -/
theorem decodeSlot_operands {i : Instr} {op : Nat} {e : ESync} {fs : List (Nat × Nat)} (hs : slotCheck i = none)
    (ho : op < 2 ^ 10) (hf : ∀ f ∈ fs, f.2 < 2 ^ f.1) (n : Nat) (hw : (fs.map (·.1)).sum = n) (hn : n ≤ 52)
    (arm : ∀ w, unpack engineWidths w = [op, e.g.q.toNat, bit e.g.neg, bit e.waitEn, e.waitSem.toNat, e.waitThr.toNat,
      bit e.sigEn, e.sigSem.toNat, e.sigInc.toNat, pack fs] → pack fs < 2 ^ n → decodeEngine w = formed true i) :
    decodeSlot .e (packEngine op e (pack fs)) = .ok i := by
  have hp : pack fs < 2 ^ n := hw ▸ pack_lt fs hf
  exact decodeSlot_engine hs ho (hp.trans_le (Nat.pow_le_pow_right (by decide) hn)) fun w h => arm w h hp

/-- One operand. -/
theorem decodeSlot_operand {n op : Nat} {mk : BitVec n → ESync → Instr} {x : BitVec n} {e : ESync} (hs : slotCheck (mk x e) = none)
    (ho : op < 2 ^ 10) (hn : n ≤ 52)
    (arm : ∀ w q c we ws wt se ss si x, unpack engineWidths w = [op, q, c, we, ws, wt, se, ss, si, x] → decodeEngine w =
      formed (x < 2 ^ n) (mk (BitVec.ofNat n x) ⟨mkGuard q c, we == 1, BitVec.ofNat 8 ws, BitVec.ofNat 8 wt, se == 1,
        BitVec.ofNat 8 ss, BitVec.ofNat 4 si⟩)) :
    decodeSlot .e (packEngine op e x.toNat) = .ok (mk x e) :=
  decodeSlot_engine hs ho (x.isLt.trans_le (Nat.pow_le_pow_right (by decide) hn)) fun w h => by
    simp [arm _ _ _ _ _ _ _ _ _ _ h, x.isLt]

/-- No operand. -/
theorem decodeSlot_bare {op : Nat} {mk : ESync → Instr} {e : ESync} (hs : slotCheck (mk e) = none) (ho : op < 2 ^ 10)
    (arm : ∀ w q c we ws wt se ss si x, unpack engineWidths w = [op, q, c, we, ws, wt, se, ss, si, x] → decodeEngine w =
      formed (x == 0) (mk ⟨mkGuard q c, we == 1, BitVec.ofNat 8 ws, BitVec.ofNat 8 wt, se == 1,
        BitVec.ofNat 8 ss, BitVec.ofNat 4 si⟩)) :
    decodeSlot .e (packEngine op e 0) = .ok (mk e) :=
  decodeSlot_engine hs ho (by decide) fun w h => by simp [arm _ _ _ _ _ _ _ _ _ _ h]

theorem decodeSlot_encode_engine {i : Instr} {w : Nat} (hs : slotCheck i = none) (he : encode i = some (.e, w)) :
    decodeSlot .e w = .ok i := by
  cases i with
  | nopE e | cpabort e | semsig e | next e =>
    exact decodeSlot_of_encode he rfl (decodeSlot_bare hs (by decide) fun _ _ _ _ _ _ _ _ _ _ h => by rw [decodeEngine, h]; rfl)
  | bararr x e | barwait x e | sigclr x e | trap x e | halt x e | hoist x e =>
    exact decodeSlot_of_encode he rfl (decodeSlot_operand hs (by decide) (by decide) fun _ _ _ _ _ _ _ _ _ _ h => by
      rw [decodeEngine, h]; rfl)
  | amo o e | amor o e | amof o e =>
    exact decodeSlot_of_encode he rfl (decodeSlot_operands hs (by decide) (by simp [-Nat.reducePow, BitVec.isLt]) 52 rfl
      (by decide) fun w h _ => by simp [decodeEngine, h, -Nat.reducePow, BitVec.isLt])
  | cplvl l c s d e =>
    exact decodeSlot_of_encode he rfl (decodeSlot_operands hs (by decide) (by simp [-Nat.reducePow, BitVec.isLt]) 22 rfl
      (by decide) fun w h hp => by simp [decodeEngine, h, hp, -Nat.reducePow, BitVec.isLt])
  | cpsrc c o e | cpdst c o e | ctab c o e =>
    exact decodeSlot_of_encode he rfl (decodeSlot_operands hs (by decide) (by simp [-Nat.reducePow, BitVec.isLt]) 10 rfl
      (by decide) fun w h hp => by simp [decodeEngine, h, hp, -Nat.reducePow, BitVec.isLt])
  | cpgo o e =>
    exact decodeSlot_of_encode he rfl (decodeSlot_operands hs (by decide) (by simp [-Nat.reducePow, BitVec.isLt]) 45 rfl
      (by decide) fun w h hp => by simp [decodeEngine, h, hp, -Nat.reducePow, BitVec.isLt])
  | cpfill c o v n f e =>
    exact decodeSlot_of_encode he rfl (decodeSlot_operands hs (by decide) (by simp [-Nat.reducePow, BitVec.isLt]) 24 rfl
      (by decide) fun w h hp => by simp [decodeEngine, h, hp, -Nat.reducePow, BitVec.isLt])
  | cppub d h e | sigfold d h e =>
    exact decodeSlot_of_encode he rfl (decodeSlot_operands hs (by decide) (by simp [-Nat.reducePow, BitVec.isLt]) 12 rfl
      (by decide) fun w h hp => by simp [decodeEngine, h, hp, -Nat.reducePow, BitVec.isLt])
  | cpqry d x e =>
    exact decodeSlot_of_encode he rfl (decodeSlot_operands hs (by decide) (by simp [-Nat.reducePow, BitVec.isLt]) 9 rfl
      (by decide) fun w h hp => by simp [decodeEngine, h, hp, -Nat.reducePow, BitVec.isLt])
  | drain c n e =>
    exact decodeSlot_of_encode he rfl (decodeSlot_operands hs (by decide) (by simp [-Nat.reducePow, BitVec.isLt]) 4 rfl
      (by decide) fun w h hp => by simp [decodeEngine, h, hp, -Nat.reducePow, BitVec.isLt])
  | semwait n t d nc e =>
    exact decodeSlot_of_encode he rfl (decodeSlot_operands hs (by decide) (by simp [-Nat.reducePow, BitVec.isLt]) 31 rfl
      (by decide) fun w h hp => by simp [decodeEngine, h, hp, -Nat.reducePow, BitVec.isLt])
  | barinit b t d m f e =>
    exact decodeSlot_of_encode he rfl (decodeSlot_operands hs (by decide) (by simp [-Nat.reducePow, BitVec.isLt]) 26 rfl
      (by decide) fun w h hp => by simp [decodeEngine, h, hp, -Nat.reducePow, BitVec.isLt])
  | barexp b s e | barqry b s e | csend b s e | crecv b s e =>
    exact decodeSlot_of_encode he rfl (decodeSlot_operands hs (by decide) (by simp [-Nat.reducePow, BitVec.isLt]) 15 rfl
      (by decide) fun w h hp => by simp [decodeEngine, h, hp, -Nat.reducePow, BitVec.isLt])
  | spawn q c o st af e =>
    exact decodeSlot_of_encode he rfl (decodeSlot_operands hs (by decide) (by simp [-Nat.reducePow, BitVec.isLt]) 20 rfl
      (by decide) fun w h hp => by simp [decodeEngine, h, hp, -Nat.reducePow, BitVec.isLt])
  | yield n t e =>
    exact decodeSlot_of_encode he rfl (decodeSlot_operands hs (by decide) (by simp [-Nat.reducePow, BitVec.isLt]) 16 rfl
      (by decide) fun w h hp => by simp [decodeEngine, h, hp, -Nat.reducePow, BitVec.isLt])
  | sigrd d x sy e =>
    exact decodeSlot_of_encode he rfl (decodeSlot_operands hs (by decide) (by simp [-Nat.reducePow, BitVec.isLt]) 9 rfl
      (by decide) fun w h hp => by simp [decodeEngine, h, hp, -Nat.reducePow, BitVec.isLt])
  | zinject o e =>
    exact decodeSlot_of_encode he rfl (decodeSlot_operands hs (by decide) (by simp [-Nat.reducePow, BitVec.isLt]) 50 rfl
      (by decide) fun w h hp => by simp [decodeEngine, h, hp, -Nat.reducePow, BitVec.isLt])
  | eret nx e =>
    exact decodeSlot_of_encode he rfl (decodeSlot_engine hs (by decide) ((bit_lt nx).trans (by decide)) fun w h => by
      have := bit_lt nx
      simp [decodeEngine, h, this, Nat.mod_eq_of_lt this])
  | ctxsave c o p b e | ctxload c o p b e =>
    exact decodeSlot_of_encode he rfl (decodeSlot_operands hs (by decide) (by simp [-Nat.reducePow, BitVec.isLt]) 24 rfl
      (by decide) fun w h hp => by simp [decodeEngine, h, hp, -Nat.reducePow, BitVec.isLt])
  | wdog rd d e =>
    exact decodeSlot_of_encode he rfl (decodeSlot_operands hs (by decide) (by simp [-Nat.reducePow, BitVec.isLt]) 7 rfl
      (by decide) fun w h hp => by simp [decodeEngine, h, hp, -Nat.reducePow])
  | _ => exact absurd he (encode_ne_of_kind rfl)

/-! ### S-ops and extension words (03 R58-R63, R72) -/

theorem decodeSlot_stream {i : Instr} {op fl a b c cd x j : Nat} (hs : streamCheck i = none) (ho : op < 2 ^ 8) (hf : fl < 2 ^ 8)
    (ha : a < 2 ^ 4) (hb : b < 2 ^ 4) (hc : c < 2 ^ 4) (hd : cd < 2 ^ 4) (hx : x < 2 ^ 32) (hj : j < 2 ^ 64)
    (arm : ∀ w, unpack streamWidths w = [op, fl, a, b, c, cd, x, j] → decodeStream w = formedS true i) :
    decodeSlot .sop (packStream op fl a b c cd x j) = .ok i := by
  simp only [decodeSlot, arm _ (unpack_stream ho hf ha hb hc hd hx hj), formedS_ok hs]

/-- The flags of SLD and SST (05 R133). -/
theorem flags_fields (o : SmemOp) : o.flags < 32 ∧ BitVec.ofNat 2 o.flags = o.size ∧ (o.flags / 4 % 2 == 1) = o.sx ∧
    (o.flags / 8 % 2 == 1) = o.stat ∧ (o.flags / 16 % 2 == 1) = o.early := by
  have h : o.flags = o.size.toNat + 4 * bit o.sx + 8 * bit o.stat + 16 * bit o.early := by simp [SmemOp.flags, pack]; ring
  have hz := o.size.isLt
  have h1 := bit_lt o.sx
  have h2 := bit_lt o.stat
  have h3 := bit_lt o.early
  have e1 : o.flags / 4 % 2 = bit o.sx := by omega
  have e2 : o.flags / 8 % 2 = bit o.stat := by omega
  have e3 : o.flags / 16 % 2 = bit o.early := by omega
  refine ⟨by omega, BitVec.eq_of_toNat_eq ?_, by simp [e1], by simp [e2], by simp [e3]⟩
  rw [BitVec.toNat_ofNat]; omega

/-- Two fields in the immediate, the second from bit 16 on (03 R58; 05 R134, R137). -/
theorem apart_fields {m n : Nat} (x : BitVec m) (y : BitVec n) (hm : m ≤ 16) (v : Nat) (hv : v = x.toNat + 2 ^ 16 * y.toNat) :
    v < 2 ^ (16 + n) ∧ BitVec.ofNat m v = x ∧ v / 2 ^ m % 2 ^ (16 - m) = 0 ∧ BitVec.ofNat n (v / 2 ^ 16) = y := by
  have e : v = pack [(m, x.toNat), (16 - m, 0), (n, y.toNat)] := by
    rw [hv]
    simp only [pack, Nat.zero_add, Nat.mul_zero, Nat.add_zero, ← Nat.mul_assoc, ← Nat.pow_add, Nat.add_sub_cancel' hm]
  have hx := x.isLt.trans_le (Nat.pow_le_pow_right (n := 2) (by decide) hm)
  refine ⟨?_, by rw [e, ofNat_pack_cons], ?_, ?_⟩
  · rw [hv, Nat.pow_add]; have := y.isLt; nlinarith
  · rw [e, pack_cons_div x.isLt le_rfl, Nat.sub_self, Nat.pow_zero, Nat.div_one, pack, Nat.add_mul_mod_self_left, Nat.zero_mod]
  · rw [hv, Nat.add_mul_div_left _ _ (by decide), Nat.div_eq_of_lt hx, Nat.zero_add, BitVec.ofNat_toNat, BitVec.setWidth_eq]

theorem decodeSlot_extension {i : Instr} {w : Nat} (hs : streamCheck i = none) (h : decodeStream w = formedS true i) :
    decodeSlot .sop w = .ok i := by
  simp only [decodeSlot, h, formedS_ok hs]

/-- The flags of the COPY word. -/
def copyFlags (o : CopyWord) : Nat := o.ncdim.toNat + 16 * o.esize.toNat + 64 * o.trans.toNat
/-- The immediate of the COPY word. -/
def copyFormats (o : CopyWord) : Nat := o.sfmt.toNat + 2 ^ 8 * o.dfmt.toNat + 2 ^ 13 * bit o.clamp

theorem pack_copyWord (o : CopyWord) : pack [(8, 0x42), (4, o.ncdim.toNat), (2, o.esize.toNat), (2, o.trans.toNat), (16, 0),
    (5, o.sfmt.toNat), (3, 0), (5, o.dfmt.toNat), (1, bit o.clamp)] = packStream 0x42 (copyFlags o) 0 0 0 0 (copyFormats o) 0 := by
  simp only [pack, packStream, copyFlags, copyFormats]; ring

theorem copyFlags_fields (o : CopyWord) : copyFlags o < 2 ^ 8 ∧ BitVec.ofNat 4 (copyFlags o) = o.ncdim ∧
    BitVec.ofNat 2 (copyFlags o / 16) = o.esize ∧ BitVec.ofNat 2 (copyFlags o / 64) = o.trans := by
  have h1 := o.ncdim.isLt
  have h2 := o.esize.isLt
  have h3 := o.trans.isLt
  unfold copyFlags
  refine ⟨by omega, BitVec.eq_of_toNat_eq ?_, BitVec.eq_of_toNat_eq ?_, BitVec.eq_of_toNat_eq ?_⟩ <;>
    rw [BitVec.toNat_ofNat] <;> omega

theorem copyFormats_fields (o : CopyWord) : copyFormats o < 2 ^ 14 ∧ BitVec.ofNat 5 (copyFormats o) = o.sfmt ∧
    copyFormats o / 2 ^ 5 % 8 = 0 ∧ BitVec.ofNat 5 (copyFormats o / 2 ^ 8) = o.dfmt ∧ copyFormats o / 2 ^ 13 = bit o.clamp := by
  have h1 := o.sfmt.isLt
  have h2 := o.dfmt.isLt
  have h3 := bit_lt o.clamp
  unfold copyFormats
  refine ⟨by omega, BitVec.eq_of_toNat_eq ?_, by omega, BitVec.eq_of_toNat_eq ?_, by omega⟩ <;>
    rw [BitVec.toNat_ofNat] <;> omega

theorem decodeSlot_encode_stream {i : Instr} {w : Nat} (hs : streamCheck i = none) (he : encode i = some (.sop, w)) :
    decodeSlot .sop w = .ok i := by
  have z {n : Nat} : 0 < 2 ^ n := Nat.two_pow_pos n
  have div4 (x : Nat) : x % 2 ^ 8 / 4 = x / 2 ^ 2 % 2 ^ 6 := mod_div_pow (k := 2) x (by decide)
  have div16 (x : Nat) : x % 2 ^ 8 / 16 = x / 2 ^ 4 % 2 ^ 4 := mod_div_pow (k := 4) x (by decide)
  have div64 (x : Nat) : x % 2 ^ 8 / 64 = x / 2 ^ 6 % 2 ^ 2 := mod_div_pow (k := 6) x (by decide)
  cases i with
  | snop => exact decodeSlot_of_encode he rfl (by decide)
  | sendl => exact decodeSlot_of_encode he rfl (decodeSlot_stream hs (by decide) z z z z z z z fun w h => by
      simp [decodeStream, h])
  | sjmp t | scall t | faultv t => exact decodeSlot_of_encode he rfl (decodeSlot_stream hs (by decide) z z z z z z t.isLt fun w h => by
      simp [decodeStream, h])
  | sbr cd a b t => exact decodeSlot_of_encode he rfl (decodeSlot_stream hs (by decide) z a.isLt b.isLt z cd.isLt z t.isLt fun w h => by
      simp [decodeStream, h])
  | sret b | sfence b =>
    exact decodeSlot_of_encode he rfl (decodeSlot_stream hs (by decide) ((bit_lt b).trans (by decide)) z z z z z z fun w h => by
      simp [decodeStream, h])
  | sloop a x | sli a x => exact decodeSlot_of_encode he rfl (decodeSlot_stream hs (by decide) z a.isLt z z z z x.isLt fun w h => by
      simp [decodeStream, h])
  | shalt c | ckpt c => exact decodeSlot_of_encode he rfl (decodeSlot_stream hs (by decide) z z z z z c.isLt z fun w h => by
      simp [decodeStream, h])
  | sadd a b c | smul a b c | sand a b c =>
    exact decodeSlot_of_encode he rfl (decodeSlot_stream hs (by decide) z a.isLt b.isLt c.isLt z z z fun w h => by
      simp [decodeStream, h])
  | saddi a b x | sshl a b x =>
    exact decodeSlot_of_encode he rfl (decodeSlot_stream hs (by decide) z a.isLt b.isLt z z x.isLt z fun w h => by
      simp [decodeStream, h])
  | smov a b => exact decodeSlot_of_encode he rfl (decodeSlot_stream hs (by decide) z a.isLt b.isLt z z z z fun w h => by
      simp [decodeStream, h])
  | park a b c n x =>
    have hn : n.toNat < 4096 := n.isLt
    exact decodeSlot_of_encode he rfl (decodeSlot_stream hs (by decide) z a.isLt b.isLt c.isLt z (n.isLt.trans (by decide)) x.isLt
      fun w h => by
      simp [decodeStream, h, hn])
  | notify v a p =>
    exact decodeSlot_of_encode he rfl (decodeSlot_stream hs (by decide) (v.isLt.trans (by decide)) a.isLt z z z p.isLt z fun w h => by
      simp [decodeStream, h, toNat_lt_64])
  | svar n o =>
    have hn : n.toNat < 4096 := n.isLt
    exact decodeSlot_of_encode he rfl (decodeSlot_stream hs (by decide) z z z z z (n.isLt.trans (by decide)) o.isLt fun w h => by
      simp [decodeStream, h, hn])
  | prio c l =>
    exact decodeSlot_of_encode he rfl (decodeSlot_stream hs (by decide) (c.isLt.trans (by decide)) z z z z (l.isLt.trans (by decide)) z
      fun w h => by
      simp [decodeStream, h, toNat_lt_16, toNat_lt_8])
  | sld o =>
    have hn : o.n.toNat < 4096 := o.n.isLt
    obtain ⟨hf, hz, hx, ht, hy⟩ := flags_fields o
    exact decodeSlot_of_encode he rfl (decodeSlot_stream hs (by decide) (hf.trans (by decide)) o.a.isLt o.b.isLt z z
      (hn.trans (by decide)) o.imm.isLt fun w h => by simp [decodeStream, h, hn, hf, hz, hx, ht, hy])
  | sst o =>
    have hn : o.n.toNat < 4096 := o.n.isLt
    obtain ⟨hf, hz, hx, ht, hy⟩ := flags_fields o
    have h4 : o.flags < 4 := by
      obtain ⟨h1, h2, h3⟩ : o.sx = false ∧ o.stat = false ∧ o.early = false := by simpa [streamCheck] using hs
      have := o.size.isLt
      simp [SmemOp.flags, pack, h1, h2, h3, bit]; omega
    exact decodeSlot_of_encode he rfl (decodeSlot_stream hs (by decide) (hf.trans (by decide)) o.a.isLt o.b.isLt z z
      (hn.trans (by decide)) o.imm.isLt fun w h => by simp [decodeStream, h, hn, h4, hz, hx, ht, hy])
  | bind bf a b n s x =>
    obtain ⟨hlt, hn, h0, hs'⟩ := apart_fields n s (by decide) _ rfl
    have h0 : (n.toNat + 2 ^ 16 * s.toNat) / 2 ^ 12 % 16 = 0 := h0
    exact decodeSlot_of_encode he rfl (decodeSlot_stream hs (by decide) (bf.isLt.trans (by decide)) a.isLt b.isLt z z
      (hlt.trans (by decide)) x.isLt fun w h => by
        simp [-Nat.reducePow, decodeStream, h, hlt, hn, h0, hs', toNat_lt_64])
  | unbind bf d =>
    have hb := bf.isLt
    have hd := bit_lt d
    have e : (bf.toNat + 64 * bit d) / 64 = bit d := toNat_add_mul_div bf _
    have e' : BitVec.ofNat 6 (bf.toNat + 64 * bit d) = bf := ofNat_add_mul bf _
    have hlt : bf.toNat + 64 * bit d < 128 := by omega
    exact decodeSlot_of_encode he rfl (decodeSlot_stream hs (by decide) (hlt.trans (by decide)) z z z z z z fun w h => by
      simp [decodeStream, h, e, e', hlt])
  | quota c w p n =>
    obtain ⟨hlt, hw, h0, hp⟩ := apart_fields w p (by decide) _ rfl
    have hn : n.toNat < 4096 := n.isLt
    exact decodeSlot_of_encode he rfl (decodeSlot_stream hs (by decide) (c.isLt.trans (by decide)) z z z z
      (hlt.trans (by decide)) (n.isLt.trans (by decide)) fun w h => by
        simp [-Nat.reducePow, decodeStream, h, hlt, hn, hw, h0, hp, toNat_lt_16])
  | task o =>
    have h8 : 0x40 < 2 ^ 8 := by decide
    have h6 (r) : pack ((6, 0) :: r) % 64 = 0 := pack_zero_mod r (k := 6) (by decide)
    exact decodeSlot_of_encode he rfl (decodeSlot_extension hs (by
      simp only [-Nat.reducePow, decodeStream, streamWidths, unpack, div_div_pow, Nat.reduceAdd]
      rw [pack_cons_mod h8]
      simp [-Nat.reducePow, BitVec.isLt, ofNat_mod, mod_div_pow, pack_zero_mod, div4, h8, h6]))
  | opd o =>
    have h8 : 0x41 < 2 ^ 8 := by decide
    exact decodeSlot_of_encode he rfl (decodeSlot_extension hs (by
      simp only [-Nat.reducePow, decodeStream, streamWidths, unpack, div_div_pow, Nat.reduceAdd]
      rw [pack_cons_mod h8]
      simp [-Nat.reducePow, BitVec.isLt, ofNat_mod, div64, h8]))
  | cdim o =>
    have h8 : 0x43 < 2 ^ 8 := by decide
    exact decodeSlot_of_encode he rfl (decodeSlot_extension hs (by
      simp only [-Nat.reducePow, decodeStream, streamWidths, unpack, div_div_pow, Nat.reduceAdd]
      rw [pack_cons_mod h8]
      simp [-Nat.reducePow, BitVec.isLt, ofNat_mod, pack_zero_mod, div16, h8]))
  | copy o =>
    obtain ⟨hf, hn, he', ht⟩ := copyFlags_fields o
    obtain ⟨hx, hs', h0, hd, hc⟩ := copyFormats_fields o
    exact decodeSlot_of_encode he rfl (pack_copyWord o ▸ decodeSlot_stream hs (by decide) hf z z z z (hx.trans (by decide)) z
      fun w h => by simp [-Nat.reducePow, decodeStream, h, hn, he', ht, hx, hs', h0, hd, hc])
  | _ => exact absurd he (encode_ne_of_kind rfl)

/-! ### Every instruction -/

/-- Words of the V slot are those of the vector forms, words of M those of the matrix forms, and no word is encoded for X or Y. -/
theorem encode_kind_vector (i : Instr) : ((encode i).map Prod.fst == some .v) = (vectorForm i).isSome := by cases i <;> rfl
theorem encode_kind_matrix (i : Instr) : ((encode i).map Prod.fst == some .m) = (matrixForm i).isSome := by cases i <;> rfl
theorem encode_kind_not_twin (i : Instr) : ((encode i).all fun p => p.1 != .x && p.1 != .y) = true := by cases i <;> rfl

theorem encode_of_vectorForm {i : Instr} {r : VForm} {o : VOp} (h : vectorForm i = some (r, o)) :
    encode i = some (.v, packVector r.op o) := by
  unfold encode; rw [h]
theorem encode_of_matrixForm {i : Instr} {r : MForm} {o : MOp} (h : matrixForm i = some (r, o)) :
    encode i = some (.m, packMatrix r.op o) := by
  have hv : vectorForm i = none := by revert h; fun_cases matrixForm i <;> intro h <;> cases h <;> rfl
  unfold encode; rw [h, hv]

/-- The word of a well-formed instruction decodes to it. -/
theorem decodeSlot_encode {i : Instr} {k : SlotKind} {w : Nat} (hi : wellFormed i = true) (he : encode i = some (k, w)) :
    decodeSlot k w = .ok i := by
  obtain ⟨hs, hss⟩ := (wellFormed_iff i).1 hi
  cases k with
  | s => exact decodeSlot_encode_scalar hs he
  | l => exact decodeSlot_encode_load hs he
  | w => exact decodeSlot_encode_store hs he
  | e => exact decodeSlot_encode_engine hs he
  | sop => exact decodeSlot_encode_stream hss he
  | v =>
    obtain ⟨⟨r, o⟩, h⟩ := Option.isSome_iff_exists.1 ((encode_kind_vector i).symm.trans (by simp [he]))
    exact decodeSlot_of_encode he (encode_of_vectorForm h) (decodeSlot_vector h hs)
  | m =>
    obtain ⟨⟨r, o⟩, h⟩ := Option.isSome_iff_exists.1 ((encode_kind_matrix i).symm.trans (by simp [he]))
    exact decodeSlot_of_encode he (encode_of_matrixForm h) (decodeSlot_matrix h hs)
  | x | y => simpa [he] using encode_kind_not_twin i

end Sys2Proof

/-- Settles O9: `decodeSlot_encode`, a lemma for each shape of a word. -/
theorem slotRoundTrip : Obligations.SlotRoundTrip := by
  unfold Obligations.SlotRoundTrip
  exact fun i k w hi he _ _ => Sys2Proof.decodeSlot_encode hi he

/-- Settles O10, as O9. -/
theorem engineAndStreamRoundTrip : Obligations.EngineAndStreamRoundTrip := by
  unfold Obligations.EngineAndStreamRoundTrip
  exact fun i k w hi he _ => Sys2Proof.decodeSlot_encode hi he

end

section
/-!
PROOFS. What the decoder accepts is well-formed and of the kind of its word (O11; 03 R49), and the words written out decode (O2).
Each arm of the decoder passes its instruction through the checks of its slot; the checks of the other kind of word hold of its form.
-/

namespace Sys2Proof

/-- Whatever instruction the outcome names is well-formed and of a kind. -/
def Decoded.Sound {ε : Type} (d : Decoded ε) (kind : Instr → Bool) : Prop := ∀ i, d = .ok i → wellFormed i = true ∧ kind i = true

theorem Decoded.sound_bad {ε : Type} {kind} (c : ε) : (Decoded.bad c).Sound kind := nofun

theorem unlisted_sound {kind} (op ext : Nat) : (unlisted op ext).Sound kind := by
  unfold unlisted; split <;> exact Decoded.sound_bad _

theorem Decoded.sound_ite {ε : Type} {p : Prop} [Decidable p] {d e : Decoded ε} {kind} (hd : d.Sound kind) (he : e.Sound kind) :
    (if p then d else e).Sound kind := by
  split
  · exact hd
  · exact he

/-- What passes its checks of a core slot is well-formed when it is no S-op. -/
theorem formed_sound {z : Bool} {i : Instr} (hs : streamCheck i = none) (hi : i.isSlot = true) :
    (formed z i).Sound Instr.isSlot := by
  intro j h
  unfold formed at h
  split at h
  · split at h
    · next hc => cases h; exact ⟨(wellFormed_iff _).2 ⟨hc, hs⟩, hi⟩
    · cases h
  · cases h

/-- What passes its checks of an S-op is well-formed when it is no form of a core slot. -/
theorem formedS_sound {z : Bool} {i : Instr} (hs : slotCheck i = none) (hi : i.isStream = true) :
    (formedS z i).Sound Instr.isStream := by
  intro j h
  unfold formedS at h
  split at h
  · split at h
    · next hc => cases h; exact ⟨(wellFormed_iff _).2 ⟨hs, hc⟩, hi⟩
    · cases h
  · cases h

theorem streamCheck_ite {p : Prop} [Decidable p] {i j : Instr} (hi : streamCheck i = none) (hj : streamCheck j = none) :
    streamCheck (if p then i else j) = none := by split <;> assumption

theorem isSlot_ite {p : Prop} [Decidable p] {i j : Instr} (hi : i.isSlot = true) (hj : j.isSlot = true) :
    (if p then i else j).isSlot = true := by split <;> assumption

theorem decodeScalar_sound (isX : Bool) (w : Nat) : (decodeScalar isX w).Sound Instr.isSlot := by
  unfold decodeScalar
  split
  · dsimp only
    split
    -- The jumps, which no X slot holds; ENDT; an opcode with no form.
    case h_43 | h_44 | h_45 | h_46 | h_49 =>
      exact Decoded.sound_ite (Decoded.sound_bad _) (formed_sound rfl rfl)
    case h_50 => exact Decoded.sound_ite (Decoded.sound_bad _) (formed_sound (streamCheck_ite rfl rfl) (isSlot_ite rfl rfl))
    case h_56 => exact unlisted_sound _ _
    all_goals exact formed_sound rfl rfl
  · exact Decoded.sound_bad _

theorem decodeMemory_sound (isW : Bool) (w : Nat) : (decodeMemory isW w).Sound Instr.isSlot := by
  unfold decodeMemory
  split
  · dsimp only
    split
    · exact formed_sound rfl rfl
    · exact Decoded.sound_ite (formed_sound rfl rfl) (formed_sound rfl rfl)
    · exact formed_sound (streamCheck_ite rfl rfl) (isSlot_ite rfl rfl)
    · exact formed_sound (streamCheck_ite rfl rfl) (isSlot_ite rfl rfl)
    · exact formed_sound (streamCheck_ite rfl rfl) (isSlot_ite rfl rfl)
    · exact Decoded.sound_ite (Decoded.sound_bad _) (formed_sound rfl rfl)
    · exact unlisted_sound _ _
  · exact Decoded.sound_bad _

theorem streamCheck_of_vectorOp {op : Nat} {mk : VOp → Instr} (h : vectorOp op = some mk) (o : VOp) : streamCheck (mk o) = none := by
  revert h
  fun_cases vectorOp op <;> intro h <;> cases h <;> rfl

theorem isSlot_of_vectorOp {op : Nat} {mk : VOp → Instr} (h : vectorOp op = some mk) (o : VOp) : (mk o).isSlot = true := by
  revert h
  fun_cases vectorOp op <;> intro h <;> cases h <;> rfl

theorem streamCheck_of_matrixOp {op : Nat} {mk : MOp → Instr} (h : matrixOp op = some mk) (o : MOp) : streamCheck (mk o) = none := by
  revert h
  fun_cases matrixOp op <;> intro h <;> cases h <;> rfl

theorem isSlot_of_matrixOp {op : Nat} {mk : MOp → Instr} (h : matrixOp op = some mk) (o : MOp) : (mk o).isSlot = true := by
  revert h
  fun_cases matrixOp op <;> intro h <;> cases h <;> rfl

theorem decodeVector_sound (isY : Bool) (w : Nat) : (decodeVector isY w).Sound Instr.isSlot := by
  unfold decodeVector
  split
  · refine Decoded.sound_ite (formed_sound rfl rfl) (Decoded.sound_ite (Decoded.sound_bad _) ?_)
    split
    · next h => exact formed_sound (streamCheck_of_vectorOp h _) (isSlot_of_vectorOp h _)
    · exact unlisted_sound _ _
  · exact Decoded.sound_bad _

theorem decodeMatrix_sound (w : Nat) : (decodeMatrix w).Sound Instr.isSlot := by
  unfold decodeMatrix
  split
  · refine Decoded.sound_ite (formed_sound rfl rfl) ?_
    split
    · next h => exact formed_sound (streamCheck_of_matrixOp h _) (isSlot_of_matrixOp h _)
    · exact unlisted_sound _ _
  · exact Decoded.sound_bad _

theorem decodeEngine_sound (w : Nat) : (decodeEngine w).Sound Instr.isSlot := by
  unfold decodeEngine
  split
  · dsimp only
    split
    case h_38 => exact unlisted_sound _ _
    all_goals exact formed_sound rfl rfl
  · exact Decoded.sound_bad _

theorem decodeStream_sound (w : Nat) : (decodeStream w).Sound Instr.isStream := by
  unfold decodeStream
  split
  · dsimp only
    split
    case h_32 => exact Decoded.sound_ite (Decoded.sound_bad _) (Decoded.sound_bad _)
    all_goals exact formedS_sound rfl rfl
  · exact Decoded.sound_bad _

/-- What the decoder accepts is well-formed: the decoder of the slot's kind says so, and `decodeSlot` only names the causes. -/
theorem decodeSlot_wellFormed {k : SlotKind} {w : Nat} {i : Instr} (h : decodeSlot k w = .ok i) : wellFormed i = true := by
  unfold decodeSlot at h
  cases k <;> dsimp only at h <;> split at h <;> cases h
  next h => exact (decodeScalar_sound _ _ _ h).1
  next h => exact (decodeScalar_sound _ _ _ h).1
  next h => exact (decodeMemory_sound _ _ _ h).1
  next h => exact (decodeMemory_sound _ _ _ h).1
  next h => exact (decodeVector_sound _ _ _ h).1
  next h => exact (decodeVector_sound _ _ _ h).1
  next h => exact (decodeMatrix_sound _ _ h).1
  next h => exact (decodeEngine_sound _ _ h).1
  next h => exact (decodeStream_sound _ _ h).1

/-- What a slot of a bundle decodes to is an instruction of the core's slots. -/
theorem decodeSlot_isSlot {k : SlotKind} {w : Nat} {i : Instr} (hk : k ≠ .sop) (h : decodeSlot k w = .ok i) : i.isSlot = true := by
  unfold decodeSlot at h
  cases k <;> dsimp only at h <;> split at h <;> cases h
  next h => exact (decodeScalar_sound _ _ _ h).2
  next h => exact (decodeScalar_sound _ _ _ h).2
  next h => exact (decodeMemory_sound _ _ _ h).2
  next h => exact (decodeMemory_sound _ _ _ h).2
  next h => exact (decodeVector_sound _ _ _ h).2
  next h => exact (decodeVector_sound _ _ _ h).2
  next h => exact (decodeMatrix_sound _ _ h).2
  next h => exact (decodeEngine_sound _ _ h).2
  next h => exact absurd rfl hk

theorem decodeStream_isStream {w : Nat} {i : Instr} (h : decodeStream w = .ok i) : i.isStream = true := (decodeStream_sound _ _ h).2

end Sys2Proof

open Sys2Proof

/-- Settles O11: `decodeSlot_wellFormed`. -/
theorem decodedWellFormed : Obligations.DecodedWellFormed := by
  unfold Obligations.DecodedWellFormed
  exact fun _ _ _ => decodeSlot_wellFormed

/-- Settles O2: the decoder is run on each word. -/
theorem decodeWords : Obligations.DecodeWords := by
  unfold Obligations.DecodeWords
  decide

end

section
/-!
PROOFS. Scalar and engine instructions under a false guard, and NOP (O15; 06 R144, 03 R57). A NOP under a true guard writes the record of
its core back as it was. That leaves the state as it was where the list of cores rises by key, but not on every state.
-/

namespace Sys2Proof

theorem SMap.Above.lt_of_mem {α : Type} {m : SMap α} {j k : Nat} (hm : SMap.Above (some j) m) (hk : k ∈ m.map Prod.fst) : j < k := by
  induction m generalizing j with
  | nil => cases hk
  | cons p m ih =>
    obtain ⟨hj, hm⟩ := hm
    rcases List.mem_cons.1 hk with rfl | hk
    · exact hj j rfl
    · exact (hj j rfl).trans (ih hm hk)

/-- Writing back what a rising map holds at a listed key changes nothing. -/
theorem SMap.set_get {α : Type} (d : α) {m : SMap α} {lo : Option Nat} (hm : SMap.Above lo m) {k : Nat} (hk : k ∈ m.map Prod.fst) :
    SMap.set m k (SMap.get d m k) = m := by
  induction m generalizing lo with
  | nil => cases hk
  | cons p m ih =>
    obtain ⟨j, w⟩ := p
    obtain ⟨-, hm⟩ := hm
    rcases List.mem_cons.1 hk with rfl | hk
    · simp [SMap.set, SMap.get]
    · have hlt := hm.lt_of_mem hk
      simp [SMap.set, SMap.get, hlt.ne', hlt.not_gt, ih hm hk]

theorem SMap.get_of_not_mem {α : Type} (d : α) {m : SMap α} {k : Nat} (hk : k ∉ m.map Prod.fst) : SMap.get d m k = d := by
  induction m with
  | nil => rfl
  | cons p m ih =>
    have hj : k ≠ p.1 := fun e => hk (e ▸ List.mem_cons_self)
    rw [SMap.get, if_neg hj, ih fun h => hk (List.mem_cons_of_mem _ h)]

end Sys2Proof

namespace Sys2Proof.Machine

/-- A core that runs is listed: one that is not holds no strand. -/
theorem State.Issues.mem_cores {s : State} {k : Nat} (h : s.Issues k) : k ∈ s.cores.map Prod.fst := by
  by_contra hk
  obtain ⟨-, hr⟩ := h
  rw [State.core, SMap.get_of_not_mem _ hk] at hr
  cases hr

/-- With the cores in order a NOP changes nothing, whatever its guard holds. -/
theorem nop_answers {s : State} {k : Nat} (h : s.Issues k) (hs : SMap.Above none s.cores) (g : Guard) : Answers (.nop g) s s := by
  show guarded s g _ = _
  cases hg : (s.strand k).guard g with
  | false => exact guarded_false h hg _
  | true =>
    rw [guarded_true h hg]
    exact congrArg (fun c => Host.Outcome.next { s with cores := c }) (SMap.set_get Core.idle hs h.mem_cores)

/-- Core 3 runs, and its record stands behind the one of core 5. -/
def coresOutOfOrder : State :=
  { State.reset with turn := .core 3 0, cores := [(5, Core.idle), (3, { Core.idle with mode := .running })] }

theorem issues_coresOutOfOrder : coresOutOfOrder.Issues 3 := ⟨⟨0, rfl⟩, rfl⟩

/-- There a NOP lists core 3 a second time. -/
theorem nop_coresOutOfOrder : ¬ Answers (.nop ⟨0, false⟩) coresOutOfOrder coresOutOfOrder := by
  intro h
  have hid : (coresOutOfOrder.modStrand 3 fun st => st) = coresOutOfOrder :=
    Host.Outcome.next.inj ((guarded_true issues_coresOutOfOrder (g := ⟨0, false⟩) rfl _).symm.trans h)
  exact absurd (congrArg (fun s => s.cores.length) hid) (by decide)

end Sys2Proof.Machine

open Sys2Proof Sys2Proof.Machine

/-- Refutes O15: its clause on NOP speaks of every state, also of one whose cores are not in order (`nop_coresOutOfOrder`). Where they
are, that clause holds (`nop_answers`). -/
theorem not_falseGuards : ¬ Obligations.FalseGuards := by
  unfold Obligations.FalseGuards
  rintro ⟨h, -⟩
  obtain ⟨hnop, -⟩ := h coresOutOfOrder 3 0 0 0 0 0 0 0 0 0 0 0 0 0 0 0 ⟨0, false⟩ issues_coresOutOfOrder
  exact nop_coresOutOfOrder hnop

end

section
/-!
PROOFS. Control S-ops and stream scalars that end at decode, and refused words (O50; 05 R129-R132, R137).
-/

namespace Sys2Proof.Machine

variable {s : State} {x : Nat}

/-! ### S-ops that end at decode -/

theorem sop_decodes (h : s.Decodes x) (f : Nat → State) : sop s f = .next (f x) := by
  obtain ⟨rfl, hr, hp⟩ := h
  rw [sop, onCtx_decodes hr, hp]

theorem control_commits (h : s.Decodes x) {f : Nat → FrontEnd → Reason ⊕ FrontEnd} {fe : FrontEnd}
    (hf : f x (s.ctx x).fe = .inr fe) : control s f = .next (s.commitFe x fe) := by
  rw [control, sop_decodes h, hf]

theorem setG_commits (h : s.Decodes x) (a : BitVec 4) {v : FrontEnd → W64} {w : W64} (hv : v (s.ctx x).fe = w) :
    setG s a v = .next (s.commitFe x ((s.ctx x).fe.after.setReg a w)) := control_commits h (hv ▸ rfl)

theorem State.target_iff (t : Nat) : s.target x t = true ↔ t % 16 = 0 ∧ t + 16 ≤ s.streamSize x := by simp [State.target]

/-- The condition that SBR tests (03 R59). -/
theorem streamCond_iff {c : BitVec 4} (hc : c.toNat ≤ 8) (A B : W64) : streamCond c A B = true ↔
    c = 0 ∨ (c = 1 ∧ A = B) ∨ (c = 2 ∧ A ≠ B) ∨ (c = 3 ∧ A.toInt < B.toInt) ∨ (c = 4 ∧ B.toInt ≤ A.toInt) ∨
      (c = 5 ∧ A.toNat < B.toNat) ∨ (c = 6 ∧ B.toNat ≤ A.toNat) ∨ (c = 7 ∧ A = 0) ∨ (c = 8 ∧ A ≠ 0) := by
  have : c = 0 ∨ c = 1 ∨ c = 2 ∨ c = 3 ∨ c = 4 ∨ c = 5 ∨ c = 6 ∨ c = 7 ∨ c = 8 := by
    revert hc; revert c; decide
  rcases this with rfl | rfl | rfl | rfl | rfl | rfl | rfl | rfl | rfl <;> simp [streamCond]

theorem mul_eq_ofNat (A B : W64) : A * B = BitVec.ofNat 64 (A.toNat * B.toNat) := by
  apply BitVec.eq_of_toNat_eq; simp
theorem shiftLeft_eq_ofNat (A : W64) (n : Nat) : A <<< n = BitVec.ofNat 64 (A.toNat * 2 ^ n) := by
  apply BitVec.eq_of_toNat_eq; simp [Nat.shiftLeft_eq]
theorem ushiftRight_eq_ofNat (A : W64) {n : Int} (hn : n ≤ 0) :
    A >>> n.natAbs = BitVec.ofNat 64 (A.toNat / 2 ^ (-n).toNat) := by
  have e : (-n).toNat = n.natAbs := by omega
  apply BitVec.eq_of_toNat_eq
  rw [e, BitVec.toNat_ofNat, BitVec.toNat_ushiftRight, Nat.shiftRight_eq_div_pow,
    Nat.mod_eq_of_lt ((Nat.div_le_self ..).trans_lt A.isLt)]

/-- No loop was entered in the frame that SRET leaves. -/
theorem loops_any_eq_false {F : FrontEnd} (hl : ∀ l ∈ F.loops, l.2.2 ≠ F.calls.length) :
    (F.loops.any fun l => l.2.2 == F.calls.length) = false := by
  rw [List.any_eq_false]
  exact fun l h => by simpa using hl l h

section
variable (h : s.Decodes x)
include h

theorem snop_commits : execSnop s = .next (s.commitFe x (s.ctx x).fe.after) := control_commits h rfl

theorem sjmp_commits {t : BitVec 64} (ht : s.target x t.toNat = true) :
    execSjmp t s = .next (s.commitFe x ((s.ctx x).fe.goto t.toNat)) := control_commits h (if_pos ht)

theorem sbr_commits {t : BitVec 64} (ht : s.target x t.toNat = true) (c a b : BitVec 4) :
    execSbr c a b t s = .next (s.commitFe x (if streamCond c ((s.ctx x).fe.reg a) ((s.ctx x).fe.reg b) then
      (s.ctx x).fe.goto t.toNat else (s.ctx x).fe.after)) :=
  control_commits h (by simp only [ht, Bool.not_true, Bool.false_eq_true, if_false]; split <;> rfl)

theorem scall_commits {t : BitVec 64} (ht : s.target x t.toNat = true) (hc : (s.ctx x).fe.calls.length < 16) :
    execScall t s = .next (s.commitFe x { (s.ctx x).fe with
      calls := ((s.ctx x).fe.spc + 16, false) :: (s.ctx x).fe.calls, spc := t.toNat }) :=
  control_commits h (by simp [ht, hc])

theorem sloop_exits {t : BitVec 64} (ht : s.target x t.toNat = true) {a : BitVec 4} (ha : (s.ctx x).fe.reg a = 0) :
    execSloop a t s = .next (s.commitFe x ((s.ctx x).fe.goto t.toNat)) := control_commits h (by simp [ht, ha])

theorem sloop_enters {t : BitVec 64} (ht : s.target x t.toNat = true) {a : BitVec 4} (ha : (s.ctx x).fe.reg a ≠ 0)
    (hl : (s.ctx x).fe.loops.length < 4) :
    execSloop a t s = .next (s.commitFe x { (s.ctx x).fe.after with
      loops := ((s.ctx x).fe.spc + 16, (s.ctx x).fe.reg a, (s.ctx x).fe.calls.length) :: (s.ctx x).fe.loops }) :=
  control_commits h (by
    simp only [ht, Bool.not_true, Bool.false_eq_true, if_false, if_neg ha, if_neg hl.not_ge, FrontEnd.after, FrontEnd.goto])

theorem sret_call {pc : Nat} {r : List (Nat × Bool)} (hl : ∀ l ∈ (s.ctx x).fe.loops, l.2.2 ≠ (s.ctx x).fe.calls.length)
    (hc : (s.ctx x).fe.calls = (pc, false) :: r) :
    execSret false s = .next (s.commitFe x { (s.ctx x).fe with calls := r, spc := pc }) :=
  control_commits h (by
    rw [loops_any_eq_false hl, hc]
    rfl)

theorem sret_handler {pc : Nat} {r : List (Nat × Bool)} (hl : ∀ l ∈ (s.ctx x).fe.loops, l.2.2 ≠ (s.ctx x).fe.calls.length)
    (hc : (s.ctx x).fe.calls = (pc, true) :: r) (next : Bool) :
    execSret next s = .next (s.commitFe x { (s.ctx x).fe with
      calls := r, handler := false, spc := if next then pc + 16 * (1 + s.extWords x pc) else pc }) :=
  control_commits h (by
    rw [loops_any_eq_false hl, hc]
    rfl)

theorem sendl_repeats {start : Nat} {n : W64} {r : List (Nat × W64 × Nat)}
    (hl : (s.ctx x).fe.loops = (start, n, (s.ctx x).fe.calls.length) :: r) (hn : n ≠ 1) :
    execSendl s = .next (s.commitFe x { (s.ctx x).fe with
      loops := (start, n - 1, (s.ctx x).fe.calls.length) :: r, spc := start }) :=
  control_commits h (by simpa [hl, BitVec.sub_eq_iff_eq_add] using hn)

theorem sendl_leaves {start : Nat} {r : List (Nat × W64 × Nat)}
    (hl : (s.ctx x).fe.loops = (start, 1, (s.ctx x).fe.calls.length) :: r) :
    execSendl s = .next (s.commitFe x { (s.ctx x).fe.after with loops := r }) :=
  control_commits h (by simp [hl])

theorem faultv_commits {t : BitVec 64} (ht : t = 0 ∨ s.target x t.toNat = true) :
    execFaultv t s = .next (s.commitFe x { (s.ctx x).fe.after with fvec := t.toNat }) := control_commits h (if_pos ht)

end

/-! ### Words in the place of an extension word, and refused words -/

/-- The outcome leaves context x with a decode fault for r at the stream PC, at the word of this index. -/
def FaultsAtDecode (s : State) (x : Nat) (r : Reason) (ext : Nat) (o : Host.Outcome State Fault Refusal) : Prop :=
  ∃ t y, o = .next t ∧ (t.ctx x).fault = some y ∧ y.reason = r ∧ y.kind = 1 ∧ y.sop = (s.ctx x).fe.spc ∧ y.ext = ext ∧
    (t.ctx x).pending = none ∧ (t.ctx x).fe = (s.ctx x).fe ∧ t.window = s.window

theorem decodeFault_faults (s : State) (x : Nat) (r : Reason) (ext buf off : Nat) :
    FaultsAtDecode s x r ext (.next (s.decodeFault x r ext buf off)) :=
  ⟨_, _, rfl, by simp [State.decodeFault]; rfl, by simp [State.decodeFault]⟩

section
variable (h : s.Decodes x)
include h

theorem unlistedOp_faults (r : Reason) : FaultsAtDecode s x r 0 (execUnlistedOp r s) := by
  obtain ⟨rfl, hr, hp⟩ := h
  rw [execUnlistedOp, onCtx_decodes hr, hp]
  exact decodeFault_faults ..

theorem streamObjectEnd_faults : FaultsAtDecode s x .target 0 (execStreamObjectEnd s) := by
  obtain ⟨rfl, hr, hp⟩ := h
  rw [execStreamObjectEnd, onCtx_decodes hr, hp]
  exact decodeFault_faults ..

theorem extension_faults (want) (f : Nat → PendingSop → State) : FaultsAtDecode s x .orphan 0 (extension s want f) := by
  obtain ⟨rfl, hr, hp⟩ := h
  rw [extension, onCtx_decodes hr, hp]
  exact decodeFault_faults ..
theorem opd_faults (w : OpdWord) : FaultsAtDecode s x .orphan 0 (execOpd w s) := extension_faults h _ _
theorem cdim_faults (w : CdimWord) : FaultsAtDecode s x .orphan 0 (execCdim w s) := extension_faults h _ _

end

section
variable {p : PendingSop} (hx : s.curCtx = x) (hr : (s.ctx x).run = 1) (hp : (s.ctx x).pending = some p)
include hx hr hp

theorem sop_pending (f : Nat → State) : FaultsAtDecode s x .orphan (p.seen + 1) (sop s f) := by
  subst hx
  rw [sop, onCtx_decodes hr, hp]
  exact decodeFault_faults ..

theorem control_pending (f : Nat → FrontEnd → Reason ⊕ FrontEnd) : FaultsAtDecode s x .orphan (p.seen + 1) (control s f) :=
  sop_pending hx hr hp _

theorem setG_pending (a v) : FaultsAtDecode s x .orphan (p.seen + 1) (setG s a v) := control_pending hx hr hp _

theorem service_pending (f : Nat → State) : FaultsAtDecode s x .orphan (p.seen + 1) (service s fun s => sop s f) := by
  unfold service
  split <;> exact sop_pending hx hr hp _

theorem extension_unwanted {want : PendingSop → Bool} (hw : want p = false) (f : Nat → PendingSop → State) :
    FaultsAtDecode s x .orphan (p.seen + 1) (extension s want f) := by
  subst hx
  rw [extension, onCtx_decodes hr, hp]
  simp only [hw]
  exact decodeFault_faults ..

theorem opd_pending (w : OpdWord) (hw : p.wantsOpd = false) : FaultsAtDecode s x .orphan (p.seen + 1) (execOpd w s) :=
  extension_unwanted hx hr hp hw _
theorem cdim_pending (w : CdimWord) (hw : p.wantsCdim = false) : FaultsAtDecode s x .orphan (p.seen + 1) (execCdim w s) :=
  extension_unwanted hx hr hp hw _

theorem unlistedOp_pending (r : Reason) : FaultsAtDecode s x r (p.seen + 1) (execUnlistedOp r s) := by
  subst hx
  rw [execUnlistedOp, onCtx_decodes hr, hp]
  exact decodeFault_faults ..

theorem streamObjectEnd_pending : FaultsAtDecode s x .orphan (p.seen + 1) (execStreamObjectEnd s) := by
  subst hx
  rw [execStreamObjectEnd, onCtx_decodes hr, hp]
  exact decodeFault_faults ..

/-- An S-op that is no extension word is an ORPHAN in the place of one, whatever it is (03 R64). -/
theorem stream_pending {i : Instr} (hi : i.isStream = true) (ho : ∀ w, i ≠ .opd w) (hc : ∀ w, i ≠ .cdim w) :
    FaultsAtDecode s x .orphan (p.seen + 1) (exec i s) := by
  unfold exec
  cases i with
  | opd w => exact absurd rfl (ho w)
  | cdim w => exact absurd rfl (hc w)
  | prio ctx level => exact service_pending hx hr hp _
  | quota ctx window pool n => exact service_pending hx hr hp _
  | snop | sjmp | sbr | scall | sret | sloop | sendl | faultv => exact control_pending hx hr hp _
  | sli | sadd | saddi | smul | sshl | sand | smov => exact setG_pending hx hr hp ..
  | shalt | sld | sst | park | bind | unbind | task | copy | sfence | notify | ckpt | svar => exact sop_pending hx hr hp _
  | _ => exact absurd hi Bool.false_ne_true
end
end Sys2Proof.Machine

open Sys2Proof Sys2Proof.Machine

/-- Settles O50: one lemma for each S-op that ends at decode, and `FaultsAtDecode` for each refusal. -/
theorem streamFrontEnd : Obligations.StreamFrontEnd := by
  unfold Obligations.StreamFrontEnd
  refine ⟨fun s x c a b d t i h => ?_, fun s x r ow dw => ⟨fun h => ?_, fun p hx hr hp => ?_⟩⟩
  · extract_lets F ends legal A B D cond next set
    have target (ht : legal t.toNat) : s.target x t.toNat = true := (State.target_iff _).2 ht
    refine ⟨snop_commits h, fun ht => ?control, fun hl pc r => ?sret, fun start n r hl => ?sendl, fun ht => ?faultv, ?_, ?_, ?_, ?_, ?_,
      ?_, ?_, ?_⟩
    case control =>
      refine ⟨sjmp_commits h (target ht), fun hc => ⟨fun hcond => ?_, fun hcond => ?_⟩, scall_commits h (target ht),
        sloop_exits h (target ht), sloop_enters h (target ht)⟩
      · exact (sbr_commits h (target ht) c a b).trans (by rw [if_pos ((streamCond_iff hc A B).2 hcond)]; rfl)
      · exact (sbr_commits h (target ht) c a b).trans (by rw [if_neg (mt (streamCond_iff hc A B).1 hcond)]; rfl)
    case sret =>
      exact ⟨sret_call h hl, fun hc => ⟨sret_handler h hl hc false, sret_handler h hl hc true⟩⟩
    case sendl =>
      exact ⟨sendl_repeats h hl, fun hn => sendl_leaves h (hn ▸ hl)⟩
    case faultv => exact faultv_commits h (ht.imp_right target)
    · exact (setG_commits h a rfl : execSli a t s = _)
    · exact (setG_commits h a rfl : execSadd a b d s = _)
    · exact (setG_commits h a rfl : execSaddi a b i s = _)
    · exact (setG_commits h a (mul_eq_ofNat B D) : execSmul a b d s = _)
    · exact fun h0 _ => (setG_commits h a ((if_pos h0).trans (shiftLeft_eq_ofNat B _)) : execSshl a b i s = _)
    · exact fun h0 _ => (setG_commits h a ((if_neg h0.not_ge).trans (ushiftRight_eq_ofNat B h0.le)) : execSshl a b i s = _)
    · exact (setG_commits h a rfl : execSand a b d s = _)
    · exact (setG_commits h a rfl : execSmov a b s = _)
  · exact ⟨unlistedOp_faults h r, streamObjectEnd_faults h, opd_faults h ow, cdim_faults h dw⟩
  · exact ⟨fun i hi => stream_pending hx hr hp hi, opd_pending hx hr hp ow, cdim_pending hx hr hp dw,
      streamObjectEnd_pending hx hr hp, unlistedOp_pending hx hr hp r⟩

end

section
/-!
PROOFS. What the state's operations leave unchanged: the turn, and what is still to come from outside.  One lemma per operation, in
the order of the model; only the order of work itself moves the turn.
-/

namespace Sys2Proof.Machine

/-- t stands at the turn of s, and the same is to come from outside.  No `abbrev`: the kernel then compares two of these by their states,
and does not run the operations down to a field. -/
@[simp, reducible] def State.Keeps (t s : State) : Prop := t.turn = s.turn ∧ t.env = s.env

theorem State.Keeps.trans {s t u : State} (h : u.Keeps t) (h' : t.Keeps s) : u.Keeps s := ⟨h.1.trans h'.1, h.2.trans h'.2⟩

theorem State.Keeps.of_fst {α : Type} {p : State × α} {s t : State} {a : α} (h : p.1.Keeps s) (e : p = (t, a)) : t.Keeps s := by
  rw [e] at h; exact h

theorem State.Keeps.fst_ite {α : Type} {c : Prop} [Decidable c] {p q : State × α} {s : State} (hp : p.1.Keeps s) (hq : q.1.Keeps s) :
    (if c then p else q).1.Keeps s := by split <;> assumption

@[simp] theorem State.turn_ite (c : Prop) [Decidable c] (s t : State) :
    (if c then s else t).turn = if c then s.turn else t.turn := apply_ite ..
@[simp] theorem State.env_ite (c : Prop) [Decidable c] (s t : State) :
    (if c then s else t).env = if c then s.env else t.env := apply_ite ..
theorem State.foldl_keeps {α : Type} {f : State → α → State} (hf : ∀ t x, (f t x).Keeps t) (l : List α) (s : State) :
    (l.foldl f s).Keeps s := by
  induction l generalizing s with
  | nil => exact ⟨rfl, rfl⟩
  | cons x l ih => exact (ih _).trans (hf s x)
@[simp] theorem State.foldl_turn {α : Type} {f : State → α → State} (hf : ∀ t x, (f t x).turn = t.turn) (l : List α)
    (s : State) : (l.foldl f s).turn = s.turn := by
  induction l generalizing s with
  | nil => rfl
  | cons x l ih => rw [List.foldl_cons, ih, hf]
@[simp] theorem State.foldl_env {α : Type} {f : State → α → State} (hf : ∀ t x, (f t x).env = t.env) (l : List α)
    (s : State) : (l.foldl f s).env = s.env := by
  induction l generalizing s with
  | nil => rfl
  | cons x l ih => rw [List.foldl_cons, ih, hf]

@[simp] theorem State.modCore_keeps (s : State) (k f) : (s.modCore k f).Keeps s := ⟨rfl, rfl⟩
@[simp] theorem State.modStrand_keeps (s : State) (k f) : (s.modStrand k f).Keeps s := ⟨rfl, rfl⟩
@[simp] theorem State.modNow_keeps (s : State) (k f) : (s.modNow k f).Keeps s := ⟨rfl, rfl⟩
@[simp] theorem State.modCtx_keeps (s : State) (x f) : (s.modCtx x f).Keeps s := ⟨rfl, rfl⟩
@[simp] theorem State.modHub_keeps (s : State) (f) : (s.modHub f).Keeps s := ⟨rfl, rfl⟩
@[simp] theorem State.modEntryOf_keeps (s : State) (obj ext f) : (s.modEntryOf obj ext f).Keeps s := by
  unfold State.modEntryOf; split <;> simp
@[simp] theorem State.dirty_keeps (s : State) (es) : (s.dirty es).Keeps s := by simp [State.dirty]
@[simp] theorem State.noteWrites_keeps (s : State) (port engine keys) : (s.noteWrites port engine keys).Keeps s := ⟨rfl, rfl⟩
@[simp] theorem State.keepPast_keeps (s : State) (keys) : (s.keepPast keys).Keeps s := by simp [State.keepPast]
@[simp] theorem State.prunePast_keeps (s : State) : s.prunePast.Keeps s := by
  unfold State.prunePast; split <;> simp
@[simp] theorem State.forgetPast_keeps (s : State) : s.forgetPast.Keeps s := by simp [State.forgetPast]
@[simp] theorem State.putCells_keeps (s : State) (cells) : (s.putCells cells).Keeps s := ⟨rfl, rfl⟩
@[simp] theorem State.clearCells_keeps (s : State) (a n) : (s.clearCells a n).Keeps s := ⟨rfl, rfl⟩
@[simp] theorem State.storeCells_keeps (s : State) (cells) : (s.storeCells cells).Keeps s := by simp [State.storeCells]
@[simp] theorem State.writeObj_keeps (s : State) (obj off bs) : (s.writeObj obj off bs).Keeps s := by simp [State.writeObj]
@[simp] theorem State.setFull_keeps (s : State) (k a b) : (s.setFull k a b).Keeps s := ⟨rfl, rfl⟩
@[simp] theorem State.setFulls_keeps (s : State) (k b l) : (s.setFulls k b l).Keeps s := by
  induction l generalizing s with
  | nil => simp [State.setFulls]
  | cons a l ih => exact (ih _).trans (s.setFull_keeps k a b)
@[simp] theorem State.flushSpad_keeps (s : State) (k matrixToo) : (s.flushSpad k matrixToo).Keeps s := by simp [State.flushSpad]
@[simp] theorem State.modEntry_keeps (s : State) (tid f) : (s.modEntry tid f).Keeps s := ⟨rfl, rfl⟩
@[simp] theorem State.post_keeps (s : State) (r) : (s.post r).Keeps s := by simp [State.post]
@[simp] theorem State.logError_keeps (s : State) (ws) : (s.logError ws).Keeps s := by simp [State.logError]
@[simp] theorem State.fireHoist_keeps (s : State) (src tag ctx) : (s.fireHoist src tag ctx).Keeps s := by
  unfold State.fireHoist
  extract_lets h old put
  have hput (v t) : (put v t).Keeps t := ⟨State.turn_modHub .., State.env_modHub ..⟩
  have hmod (v f) : ((put v s).modHub f).Keeps s := State.Keeps.trans ⟨State.turn_modHub .., State.env_modHub ..⟩ (hput v s)
  clear_value put
  split
  · exact hput ..
  · split
    · have hu := hmod (old / 2 ^ 32 * 2 ^ 32 + s.now % 2 ^ 16 * 2 ^ 16 + ctx % 16 * 2 ^ 12 + src * 2 ^ 8 + tag % 256) fun h =>
        { h with harm := false }
      exact ⟨hu.1, hu.2⟩
    · split
      · simp
      · exact hmod ..
@[simp] theorem State.markFrame_keeps (s : State) (obj off b) : (s.markFrame obj off b).Keeps s := by
  unfold State.markFrame; split <;> simp
@[simp] theorem State.markDiscarded_keeps (s : State) (a) : (s.markDiscarded a).Keeps s := by simp [State.markDiscarded]
@[simp] theorem State.abort_keeps (s : State) (tid role) : (s.abort tid role).Keeps s := by simp [State.abort]
@[simp] theorem State.entryFault_keeps (s : State) (tid kind r trapc core slot trapv) :
    (s.entryFault tid kind r trapc core slot trapv).Keeps s := by simp [State.entryFault]
@[simp] theorem State.taskFault_keeps (s : State) (k r trapc slot trapv) :
    (s.taskFault k r trapc slot trapv).Keeps s := by simp [State.taskFault]
@[simp] theorem State.writeSR_keeps (s : State) (k n v) : (s.writeSR k n v).Keeps s := by simp [State.writeSR]
@[simp] theorem State.applyDeferred_keeps (s : State) (k) : (s.applyDeferred k).Keeps s :=
  State.foldl_keeps (fun t d => by split <;> simp) _ s
@[simp] theorem State.trapTo_keeps (s : State) (k ret trapc trapv place emuslot) :
    (s.trapTo k ret trapc trapv place emuslot).Keeps s := by
  obtain ⟨kn, -, -, e⟩ | e := s.trapTo_cases k ret trapc trapv place emuslot <;> simp [e]
@[simp] theorem State.issueTrap_keeps (s : State) (k code v) : (s.issueTrap k code v).Keeps s := by simp [State.issueTrap]
@[simp] theorem State.charge_keeps (s : State) (x amt) : (s.charge x amt).Keeps s := ⟨rfl, rfl⟩
@[simp] theorem State.overheadCharge_keeps (s : State) (amt) : (s.overheadCharge amt).Keeps s := ⟨rfl, rfl⟩
@[simp] theorem State.chargeStrand_keeps (s : State) (st amt) : (s.chargeStrand st amt).Keeps s := by simp [State.chargeStrand]
@[simp] theorem State.chargeOwner_keeps (s : State) (o amt) : (s.chargeOwner o amt).Keeps s := by simp [State.chargeOwner]
@[simp] theorem State.escape_keeps (s : State) (k x) : (s.escape k x).Keeps s := by simp [State.escape]
@[simp] theorem State.enqueue_keeps (s : State) (k kind x off size data comparand fn bytes dst sx cls rel acq scope held) :
    (s.enqueue k kind x off size data comparand fn bytes dst sx cls rel acq scope held).Keeps s := ⟨rfl, rfl⟩
@[simp] theorem State.late_keeps (s : State) (k f) : (s.late k f).Keeps s := ⟨rfl, rfl⟩
@[simp] theorem State.slotLate_keeps (s : State) (k c v) : (s.slotLate k c v).Keeps s := ⟨rfl, rfl⟩
@[simp] theorem State.frameFault_keeps (s : State) (k x) : (s.frameFault k x).Keeps s := ⟨rfl, rfl⟩
@[simp] theorem State.storeOut_keeps (s : State) (k x bs cls) : (s.storeOut k x bs cls).Keeps s := by simp [State.storeOut]
@[simp] theorem State.raiseV_keeps (s : State) (k bits resn addr slot) :
    (s.raiseV k bits resn addr slot).Keeps s := by simp [State.raiseV]
@[simp] theorem State.raiseM_keeps (s : State) (k bits addr) : (s.raiseM k bits addr).Keeps s := by simp [State.raiseM]
@[simp] theorem State.mergeNow_keeps (s : State) (k) : (s.mergeNow k).Keeps s := ⟨rfl, rfl⟩
@[simp] theorem State.schedule_keeps (s : State) (k banks) : (s.schedule k banks).Keeps s := ⟨rfl, rfl⟩
@[simp] theorem State.bufferCells_keeps (s : State) (k cs) : (s.bufferCells k cs).Keeps s := ⟨rfl, rfl⟩
@[simp] theorem State.landLoad_keeps (s : State) (k x v act f) : (s.landLoad k x v act f).Keeps s := by simp [State.landLoad]
@[simp] theorem State.atomSpad_keeps (s : State) (k kind fn a n v c) : (s.atomSpad k kind fn a n v c).1.Keeps s := ⟨rfl, rfl⟩
@[simp] theorem State.doAtom_keeps (s : State) (k kind o) : (s.doAtom k kind o).Keeps s := by simp [State.doAtom]
@[simp] theorem State.modCached_keeps (s : State) (port obj ext f) : (s.modCached port obj ext f).Keeps s := ⟨rfl, rfl⟩
@[simp] theorem State.writeBack_keeps (s : State) (port c) : (s.writeBack port c).Keeps s := by simp [State.writeBack]
@[simp] theorem State.fillCache_keeps (s : State) (port c) : (s.fillCache port c).Keeps s := by
  simp only [State.fillCache]
  split
  · simp
  · split <;> simp
@[simp] theorem State.logEntry_keeps (s : State) (port obj ext) : (s.logEntry port obj ext).Keeps s := by simp [State.logEntry]
@[simp] theorem State.walk_keeps (s : State) (port obj ext) : (s.walk port obj ext).1.Keeps s := by
  simp only [State.walk]
  split
  · simp
  · split
    · simp
    · split <;> simp
      split_ifs <;> simp
@[simp] theorem State.notice_keeps (s : State) (obj ext acc hw) : (s.notice obj ext acc hw).Keeps s := by simp [State.notice]
@[simp] theorem State.crossing_keeps (s : State) (obj ext acc) : (s.crossing obj ext acc).Keeps s := by
  unfold State.crossing; split <;> simp
@[simp] theorem State.countAccess_keeps (s : State) (obj ext) : (s.countAccess obj ext).Keeps s := by
  unfold State.countAccess; dsimp only; split <;> simp
@[simp] theorem State.reach_keeps (s : State) (port obj ext write img) : (s.reach port obj ext write img).1.Keeps s := by
  have walked : (if (s.cached port obj ext).isSome then (s, Finding.ok) else s.walk port obj ext).1.Keeps s := by
    split <;> simp
  unfold State.reach
  extract_lets frame
  split
  · simp
  · split
    next t f e =>
      have ht : t.Keeps s := walked.of_fst e
      split
      · split
        · exact ht
        · split
          · exact ht
          · split_ifs <;> simp [ht]
      · exact ht
@[simp] theorem State.reachAll_keeps (s : State) (port write img l) : (s.reachAll port write img l).1.Keeps s := by
  induction l generalizing s with
  | nil => simp [State.reachAll]
  | cons x l ih =>
    have hr := s.reach_keeps port x.1 x.2 write img
    rw [State.reachAll]
    split
    · next t e => exact (ih t).trans (hr.of_fst e)
    · exact hr
@[simp] theorem State.noteLines_keeps (s : State) (obj bs) : (s.noteLines obj bs).Keeps s := ⟨rfl, rfl⟩
@[simp] theorem State.writeVia_keeps (s : State) (port obj bs) : (s.writeVia port obj bs).Keeps s := by simp [State.writeVia]
@[simp] theorem State.paneWrite_keeps (s : State) (k obj bs) : (s.paneWrite k obj bs).Keeps s := by simp [State.paneWrite]
@[simp] theorem State.flushPane_keeps (s : State) : s.flushPane.Keeps s := by simp [State.flushPane]
@[simp] theorem State.putPart_keeps (s : State) (obj base p) : (s.putPart obj base p).Keeps s :=
  State.foldl_keeps (fun t c => by split <;> simp) _ s
@[simp] theorem State.countSpan_keeps (s : State) (obj off n) : (s.countSpan obj off n).Keeps s :=
  State.foldl_keeps (fun t c => State.foldl_keeps (fun u x => by
    split
    · exact State.foldl_keeps (fun v _ => v.countAccess_keeps ..) _ u
    · simp) _ t) _ s
@[simp] theorem State.putParts_keeps (s : State) (obj base ps) : (s.putParts obj base ps).Keeps s := by simp [State.putParts]
@[simp] theorem State.putRecord_keeps (s : State) (obj r) : (s.putRecord obj r).Keeps s :=
  (State.foldl_keeps (fun t _ => t.putPart_keeps ..) _ _).trans (s.putPart_keeps ..)
@[simp] theorem State.mirror_keeps (s : State) (a) : (s.mirror a).Keeps s := by simp [State.mirror]
@[simp] theorem State.countParts_keeps (s : State) (a ps) : (s.countParts a ps).Keeps s := by simp [State.countParts]
@[simp] theorem State.remirror_keeps (s : State) : s.remirror.Keeps s := by simp [State.remirror]
@[simp] theorem State.modAbsent_keeps (s : State) (o f) : (s.modAbsent o f).Keeps s := by
  unfold State.modAbsent; dsimp only; split <;> simp
@[simp] theorem State.modOwner_keeps (s : State) (o f) : (s.modOwner o f).Keeps s := by
  unfold State.modOwner
  split
  · simp
  · split <;> simp
@[simp] theorem State.modPeri_keeps (s : State) (ctx f) : (s.modPeri ctx f).Keeps s := ⟨rfl, rfl⟩
@[simp] theorem State.raiseTo_keeps (s : State) (o f) : (s.raiseTo o f).Keeps s := by
  unfold State.raiseTo
  split
  · split <;> simp
  · split <;> simp
@[simp] theorem State.signalTo_keeps (s : State) (o x) : (s.signalTo o x).Keeps s := by
  unfold State.signalTo; split <;> simp
@[simp] theorem State.signalOf_keeps (s : State) (o x origin) : (s.signalOf o x origin).Keeps s := by simp [State.signalOf]
@[simp] theorem State.sendPeer_keeps (s : State) (use l) : (s.sendPeer use l).Keeps s := by simp [State.sendPeer]
@[simp] theorem State.postPeer_keeps (s : State) (slot num o core ckind obj bs flits) :
    (s.postPeer slot num o core ckind obj bs flits).Keeps s := by simp [State.postPeer]
@[simp] theorem State.imageReach_keeps (s : State) (k o a n write) : (s.imageReach k o a n write).1.Keeps s := by
  unfold State.imageReach; dsimp only; split <;> simp
@[simp] theorem State.pokeSpad_keeps (s : State) (k bs full) : (s.pokeSpad k bs full).Keeps s := by simp [State.pokeSpad]
@[simp] theorem State.pokeImage_keeps (s : State) (o bs full) : (s.pokeImage o bs full).Keeps s := by
  simp only [State.pokeImage]
  split
  · simp
  · exact (State.foldl_keeps (fun t g => by split <;> simp) _ _).trans (by simp)
@[simp] theorem State.engineWrite_keeps (s : State) (k o bank bs full) : (s.engineWrite k o bank bs full).Keeps s := by
  simp only [State.engineWrite]
  split
  · split <;> simp
  · split <;> simp
@[simp] theorem State.sendHeld_keeps (s : State) (k o ckind obj off bs cmd) : (s.sendHeld k o ckind obj off bs cmd).Keeps s := ⟨rfl, rfl⟩
@[simp] theorem State.dropCommands_keeps (s : State) (p) : (s.dropCommands p).Keeps s := ⟨rfl, rfl⟩
@[simp] theorem State.freeDeparted_keeps (s : State) (o) : (s.freeDeparted o).Keeps s := ⟨rfl, rfl⟩
@[simp] theorem State.passAborts_keeps (s : State) (o l) : (s.passAborts o l).Keeps s := by
  unfold State.passAborts; split <;> simp
@[simp] theorem State.sideReach_keeps (s : State) (g o x off n write) : (s.sideReach g o x off n write).1.Keeps s := by
  simp only [State.sideReach]
  split
  · split <;> simp
  · split
    · split
      · split
        · simp
        · split <;> simp
      · simp
    · simp
@[simp] theorem State.foldRun_keeps (s : State) (o x bs ends) : (s.foldRun o x bs ends).Keeps s := by
  unfold State.foldRun
  split
  · simp
  · split <;> simp
@[simp] theorem State.writePart_keeps (s : State) (g c bs ends) : (s.writePart g c bs ends).Keeps s := by
  unfold State.writePart
  split
  · extract_lets x granules moved t u
    split
    · simp
    · have hu : u.Keeps s := by
        unfold u t
        split
        · split <;> simp
        · simp
      split
      · simpa using hu
      · split
        · simpa using hu
        · split <;> simpa using hu
  · split <;> simp
@[simp] theorem State.performRun_keeps (s : State) (g c clamp) : (s.performRun g c clamp).1.Keeps s := by
  unfold State.performRun
  split
  extract_lets len e m ps need lo hi d bits tail
  split
  · simp
  split
  · simp
  split
  · next t e =>
    have ht : t.Keeps s := (s.sideReach_keeps ..).of_fst e
    extract_lets reads held
    split
    · exact ht
    split
    · split
      · simpa using ht
      · exact ht
    split
    · exact ht
    split
    · exact ht
    have written : (if held then (t, Finding.ok) else t.sideReach g c.owner c.dst.cap d len true).1.Keeps t := by
      split <;> simp
    split
    · next u e' =>
      have hu : u.Keeps s := (written.of_fst e').trans ht
      split
      extract_lets old v bs
      have hw := (u.writePart_keeps g c bs (c.part + len == c.dstBytes)).trans hu
      exact State.Keeps.fst_ite hu hw
    · next u f _ e' => exact (written.of_fst e').trans ht
  · next t f _ e => exact (s.sideReach_keeps ..).of_fst e
@[simp] theorem State.performPart_keeps (s : State) (g c clamp) : (s.performPart g c clamp).1.Keeps s := by
  have reached : (if c.readsIndex then s.sideReach g c.owner c.idx c.indexAt 4 false else (s, .ok)).1.Keeps s := by
    split <;> simp
  unfold State.performPart
  split
  · next t e =>
    split
    · exact reached.of_fst e
    · exact (t.performRun_keeps ..).trans (reached.of_fst e)
  · next t f _ e => exact reached.of_fst e
@[simp] theorem State.modCmd_keeps (s : State) (k id f) : (s.modCmd k id f).Keeps s := ⟨rfl, rfl⟩
@[simp] theorem State.setLast_keeps (s : State) (o n) : (s.setLast o n).Keeps s := by simp [State.setLast]
@[simp] theorem State.copyLate_keeps (s : State) (c code v) : (s.copyLate c code v).Keeps s := by simp [State.copyLate]
@[simp] theorem State.stopCommand_keeps (s : State) (c) : (s.stopCommand c).Keeps s := by simp [State.stopCommand]
@[simp] theorem State.endCommand_keeps (s : State) (c code v) : (s.endCommand c code v).Keeps s := by simp [State.endCommand]
@[simp] theorem State.draw_keeps (s : State) : s.draw.2.Keeps s := by
  unfold State.draw; split <;> simp
@[simp] theorem State.copyFault_keeps (s : State) (h tid kind r) : (s.copyFault h tid kind r).Keeps s := by simp [State.copyFault]
@[simp] theorem State.plainCopy_keeps (s : State) (h x) : (s.plainCopy h x).Keeps s := by
  have reached {t u : State} {port w l f} (e : t.reachAll port w false l = (u, f)) : u.Keeps t := (t.reachAll_keeps ..).of_fst e
  unfold State.plainCopy
  dsimp only
  split
  · simp
  split
  · next t e =>
    split
    · simpa using reached e
    split
    · next u e' =>
      have hu : u.Keeps s := (reached e').trans (reached e)
      split
      · simpa using hu
      · split <;> simpa using hu
    · next u _ _ e' => simpa using (reached e').trans (reached e)
    · next u e' => simpa using (reached e').trans (reached e)
    · next u e' => simpa using (reached e').trans (reached e)
  · next t _ _ e => simpa using reached e
  · next t e => simpa using reached e
  · next t e => simpa using reached e
@[simp] theorem State.corePart_keeps (s : State) (k c) : (s.corePart k c).Keeps s := by
  have performed {t r} (e : s.performPart (.core k) c false = (t, r)) : t.Keeps s := (s.performPart_keeps ..).of_fst e
  simp only [State.corePart]
  split
  · next t n fl idx e => split <;> simpa using performed e
  · next t e => simpa using performed e
  · next t e => simpa using performed e
  · next t e => simpa using performed e
  · next t r _ _ _ _ e =>
    split
    · simpa using performed e
    · split <;> simpa using performed e
@[simp] theorem State.landExposed_keeps (s : State) (k e) : (s.landExposed k e).Keeps s := by simp [State.landExposed]
@[simp] theorem State.matrixReads_keeps (s : State) (k vec) : (s.matrixReads k vec).Keeps s := ⟨rfl, rfl⟩
@[simp] theorem State.startOp_keeps (s : State) (k o) : (s.startOp k o).Keeps s := ⟨rfl, rfl⟩
@[simp] theorem State.startStream_keeps (s : State) (k kind o prof af) :
    (s.startStream k kind o prof af).Keeps s := by simp [State.startStream]
@[simp] theorem State.buildOperand_keeps (s : State) (tid role p) : (s.buildOperand tid role p).1.Keeps s := by
  unfold State.buildOperand; split <;> simp
@[simp] theorem State.buildOperands_keeps (s : State) (tid role l) : (s.buildOperands tid role l).1.Keeps s := by
  induction l generalizing s with
  | nil => simp [State.buildOperands]
  | cons p l ih => exact (ih _).trans (s.buildOperand_keeps tid role p)
@[simp] theorem State.dropViews_keeps (s : State) (tid) : (s.dropViews tid).Keeps s := ⟨rfl, rfl⟩
@[simp] theorem State.addSem_keeps (s : State) (k n i) : (s.addSem k n i).Keeps s := by simp [State.addSem]
@[simp] theorem State.overflow_keeps (s : State) (k) : (s.overflow k).Keeps s := by simp [State.overflow]
@[simp] theorem State.divertSigs_keeps (s : State) : s.divertSigs.Keeps s := by simp [State.divertSigs]
@[simp] theorem State.sendUpdate_keeps (s : State) (k b kind waits) : (s.sendUpdate k b kind waits).Keeps s := ⟨rfl, rfl⟩
@[simp] theorem State.setCell_keeps (s : State) (n c) : (s.setCell n c).Keeps s := ⟨rfl, rfl⟩
@[simp] theorem State.countRecord_keeps (s : State) (o bar phase k) : (s.countRecord o bar phase k).Keeps s := by simp [State.countRecord]
@[simp] theorem State.sendEvent_keeps (s : State) (core o a left) : (s.sendEvent core o a left).Keeps s := ⟨rfl, rfl⟩
@[simp] theorem State.answerQuery_keeps (s : State) (u own pb a at_ rest) : (s.answerQuery u own pb a at_ rest).Keeps s := by
  unfold State.answerQuery; split <;> simp
@[simp] theorem State.countParked_keeps (s : State) (n) : (s.countParked n).Keeps s := by
  unfold State.countParked; dsimp only; split <;> simp
@[simp] theorem State.notOwned_keeps (s : State) (o n origin copy) : (s.notOwned o n origin copy).Keeps s := by simp [State.notOwned]
@[simp] theorem State.applyUpdate_keeps (s : State) (n u) : (s.applyUpdate n u).Keeps s := by
  unfold State.applyUpdate
  extract_lets c mine
  split
  · extract_lets refused t
    have ht : t.Keeps s := by unfold t; split <;> simp
    exact ht
  · simp
  · split
    · simp
    · extract_lets t
      have ht : t.Keeps s := by unfold t; split <;> simp
      simpa using ht
@[simp] theorem State.releaseAll_keeps (s : State) (bar phase gang delta left) :
    (s.releaseAll bar phase gang delta left).Keeps s := by simp [State.releaseAll]
@[simp] theorem State.judgeCell_keeps (s : State) (n) : (s.judgeCell n).Keeps s := by simp [State.judgeCell]
@[simp] theorem State.gangCycle_keeps (s : State) (g us) : (s.gangCycle g us).Keeps s := by
  unfold State.gangCycle
  extract_lets arrive
  have arrivals (us : List BarUpdate) (x : GangBar × State) : (us.foldl arrive x).2.Keeps x.2 := by
    induction us generalizing x with
    | nil => simp
    | cons u us ih =>
      refine (ih _).trans ?_
      unfold arrive
      split <;> simp
  have ha := arrivals us (g, s)
  split
  next g' t e =>
    rw [e] at ha
    extract_lets full g2 u v
    have hv : v.Keeps s := by
      unfold v u
      split <;> simpa using ha
    exact (State.foldl_keeps (fun w x => w.answerQuery_keeps ..) _ _).trans hv
@[simp] theorem State.parkCell_keeps (s : State) (n) : (s.parkCell n).Keeps s := by simp [State.parkCell]
@[simp] theorem State.parkCells_keeps (s : State) : s.parkCells.Keeps s := by simp [State.parkCells]
@[simp] theorem State.unthrottle_keeps (s : State) : s.unthrottle.Keeps s := by simp [State.unthrottle]
@[simp] theorem State.claimRuns_keeps (s : State) (tid ops l) : (s.claimRuns tid ops l).1.Keeps s := by
  induction l generalizing s with
  | nil => simp [State.claimRuns]
  | cons r l ih => exact (ih _).trans (s.buildOperands_keeps tid r.role ops)
@[simp] theorem State.claim_keeps (s : State) (tid) : (s.claim tid).1.Keeps s := by
  unfold State.claim
  split
  · simp
  · split <;> simp
@[simp] theorem State.nextClaim_keeps (s : State) (k) : (s.nextClaim k).1.Keeps s := by
  simp only [State.nextClaim]
  split
  · simp
  · split_ifs <;> simp
@[simp] theorem State.loadRegion_keeps (s : State) (k off frame bs) : (s.loadRegion k off frame bs).Keeps s := by simp [State.loadRegion]
@[simp] theorem State.modRemote_keeps (s : State) (id f) : (s.modRemote id f).Keeps s := ⟨rfl, rfl⟩
@[simp] theorem State.stageTo_keeps (s : State) (id g) : (s.stageTo id g).Keeps s := ⟨rfl, rfl⟩
@[simp] theorem State.dropRemote_keeps (s : State) (r) : (s.dropRemote r).Keeps s := by simp [State.dropRemote]
@[simp] theorem State.revoke_keeps (s : State) (r) : (s.revoke r).Keeps s := by simp [State.revoke]
@[simp] theorem State.dataFault_keeps (s : State) (r) : (s.dataFault r).Keeps s := by simp [State.dataFault]
@[simp] theorem State.walkAll_keeps (s : State) (port l) : (s.walkAll port l).1.Keeps s := by
  induction l generalizing s with
  | nil => simp [State.walkAll]
  | cons x l ih =>
    have hw := s.walk_keeps port x.1 x.2
    rw [State.walkAll]
    split
    · exact ih s
    · split
      · next t e => exact (ih t).trans (hw.of_fst e)
      · exact hw
@[simp] theorem State.performSpad_keeps (s : State) (r) : (s.performSpad r).Keeps s := by
  unfold State.performSpad; split <;> simp
@[simp] theorem State.applyAt_keeps (s : State) (r) : (s.applyAt r).Keeps s := by
  unfold State.applyAt; split <;> simp
@[simp] theorem State.performAt_keeps (s : State) (r) : (s.performAt r).Keeps s := by
  have reached {t f} (e : s.reachAll (s.remotePort r) r.kind.writes false (s.remoteExtents r) = (t, f)) : t.Keeps s :=
    (s.reachAll_keeps ..).of_fst e
  unfold State.performAt
  split
  · next t e => simpa using reached e
  · next t e => simpa using reached e
  · next t _ _ e => simpa using reached e
  · next t e => split <;> simpa using reached e
@[simp] theorem State.releaseHeld_keeps (s : State) (h) : (s.releaseHeld h).Keeps s := by
  unfold State.releaseHeld
  extract_lets port
  have reached {t f} (e : s.reachAll port true false (s.extents h.obj h.off h.size) = (t, f)) : t.Keeps s :=
    (s.reachAll_keeps ..).of_fst e
  split
  · next t e => split <;> simpa using reached e
  · next t e => simpa using reached e
  · next t e => simpa using reached e
  · next t _ _ e => exact reached e
@[simp] theorem State.releaseAllHeld_keeps (s : State) (tid role) : (s.releaseAllHeld tid role).Keeps s := by simp [State.releaseAllHeld]
@[simp] theorem State.releaseFirst_keeps (s : State) (tid h) : (s.releaseFirst tid h).Keeps s := by simp [State.releaseFirst]
@[simp] theorem State.decodeFault_keeps (s : State) (x r ext buf off) : (s.decodeFault x r ext buf off).Keeps s := ⟨rfl, rfl⟩
@[simp] theorem State.commitFe_keeps (s : State) (x fe) : (s.commitFe x fe).Keeps s := ⟨rfl, rfl⟩
@[simp] theorem State.commit_keeps (s : State) (x f) : (s.commit x f).Keeps s := ⟨rfl, rfl⟩
@[simp] theorem State.prismRead_keeps (s : State) (now obj off n) : (s.prismRead now obj off n).1.Keeps s := by
  have hr := s.reachAll_keeps (s.hubPort obj off) false false (s.extents obj off n)
  simp only [State.prismRead]
  split
  · next t e => split_ifs <;> exact hr.of_fst e
  · next t r _ e => exact hr.of_fst e
@[simp] theorem State.sldValue_keeps (s : State) (x o obj off v) : (s.sldValue x o obj off v).2.Keeps s := by
  unfold State.sldValue; split <;> simp
@[simp] theorem State.take_keeps (s : State) (x e) : (s.take x e).Keeps s := ⟨rfl, rfl⟩
@[simp] theorem State.simpleEntry_keeps (s : State) (x kind prods f) : (s.simpleEntry x kind prods f).Keeps s := ⟨rfl, rfl⟩
@[simp] theorem State.unpark_keeps (s : State) (x b v) : (s.unpark x b v).Keeps s := ⟨rfl, rfl⟩
@[simp] theorem State.takeWork_keeps (s : State) (x p) : (s.takeWork x p).Keeps s := by simp [State.takeWork]
@[simp] theorem State.withWord_keeps (s : State) (x p) : (s.withWord x p).Keeps s := by simp [State.withWord]
theorem State.takeShadow_keeps {s t : State} {m : Nat} {x seglog tid} (e : s.takeShadow x seglog tid = some (m, t)) : t.Keeps s := by
  simp only [State.takeShadow] at e
  split at e
  · cases e
  · split_ifs at e
    cases e; exact ⟨rfl, rfl⟩
@[simp] theorem State.queueFill_keeps (s : State) (tid p j from_ to_) : (s.queueFill tid p j from_ to_).Keeps s := ⟨rfl, rfl⟩
theorem State.renameOne_keeps {s t : State} {x} (e : s.renameOne x = some t) : t.Keeps s := by
  unfold State.renameOne at e
  extract_lets c at e
  split at e
  · cases e
  split at e
  swap
  · cases e
  split at e
  · cases e
  split at e
  · cases e
  split at e
  · cases e
  next n s1 h1 =>
    extract_lets twin at e
    have htwin (m s2) (h : twin = some (m, s2)) : s2.Keeps s1 := by
      unfold twin at h
      split_ifs at h
      · exact State.takeShadow_keeps h
      · cases h; simp
    clear_value twin
    split at e
    · cases e
    next m s2 =>
      cases e
      have hs := (htwin m s2 rfl).trans (State.takeShadow_keeps h1)
      split_ifs <;> exact hs
@[simp] theorem State.finishWork_keeps (s : State) (x) : (s.finishWork x).Keeps s := by
  simp only [State.finishWork]
  split
  · split
    · split <;> simp
    · simp
  · simp
@[simp] theorem State.setPrio_keeps (s : State) (x level) : (s.setPrio x level).Keeps s := ⟨rfl, rfl⟩
@[simp] theorem State.modTask_keeps (s : State) (tid f) : (s.modTask tid f).Keeps s := ⟨rfl, rfl⟩
@[simp] theorem State.updateDeps_keeps (s : State) : s.updateDeps.Keeps s := by simp [State.updateDeps]
theorem State.releaseFree_keeps {s t : State} (e : s.releaseFree = some t) : t.Keeps s := by
  obtain ⟨x, -, hx⟩ := List.exists_of_findSome?_eq_some e
  split at hx
  · split at hx
    · cases hx; exact State.releaseFirst_keeps ..
    · cases hx
  · cases hx
@[simp] theorem State.verify_keeps (s : State) (tid) : (s.verify tid).Keeps s := by simp [State.verify]
@[simp] theorem State.sendTo_keeps (s : State) (k st) : (s.sendTo k st).Keeps s := ⟨rfl, rfl⟩
@[simp] theorem State.startRun_keeps (s : State) (e w code role att ks) :
    (s.startRun e w code role att ks).Keeps s := by simp [State.startRun]
@[simp] theorem State.startCopy_keeps (s : State) (e w dims h) : (s.startCopy e w dims h).Keeps s := by simp [State.startCopy]
@[simp] theorem State.assignEngines_keeps (s : State) (l) : (s.assignEngines l).Keeps s := by
  induction l generalizing s with
  | nil => simp [State.assignEngines]
  | cons x l ih => simp only [State.assignEngines]; split <;> exact ih _
theorem State.tryEntry_keeps {s t : State} {c} (e : s.tryEntry c = some t) : t.Keeps s := by
  unfold State.tryEntry at e
  split at e
  · split at e
    · cases e
    · split at e
      · split at e
        · cases e
        · cases e
          exact State.foldl_keeps (fun u p => u.startRun_keeps ..) _ _
      · split at e
        · cases e
        · cases e
          simp
      · cases e
  · split at e
    · cases e
    · split at e
      · extract_lets u at e
        cases e
        unfold u
        split <;> simp
      · cases e
  · cases e
theorem State.startChild_keeps {s t : State} {x p k} (e : s.startChild x p k = some t) : t.Keeps s := by
  simp only [State.startChild] at e
  split at e
  · cases e
  · split at e
    · cases e; exact ⟨rfl, rfl⟩
    · cases e
theorem State.tryPool_keeps {s t : State} {x n} (e : s.tryPool x n = some t) : t.Keeps s := by
  simp only [State.tryPool] at e
  split at e
  · cases e
  · split at e
    · cases e
    · exact State.startChild_keeps e
    · split at e
      · cases e
      · obtain ⟨u, hu, ht⟩ := Option.bind_eq_some_iff.1 e
        exact (State.startChild_keeps ht).trans (State.startChild_keeps hu)
@[simp] theorem State.startFirmware_keeps (s : State) : s.startFirmware.Keeps s := by
  unfold State.startFirmware; split <;> simp
@[simp] theorem State.agePool_keeps (s : State) : s.agePool.Keeps s := ⟨rfl, rfl⟩
@[simp] theorem State.becomeReady_keeps (s : State) (tid) : (s.becomeReady tid).Keeps s := ⟨rfl, rfl⟩
@[simp] theorem State.queueWritebacks_keeps (s : State) (e b) : (s.queueWritebacks e b).Keeps s := ⟨rfl, rfl⟩
@[simp] theorem State.invalidate_keeps (s : State) (obj ext) : (s.invalidate obj ext).Keeps s := by simp [State.invalidate]
@[simp] theorem State.rewalk_keeps (s : State) (obj ext) : (s.rewalk obj ext).Keeps s := ⟨rfl, rfl⟩
@[simp] theorem State.swap0_keeps (s : State) (obj ext n m) : (s.swap0 obj ext n m).Keeps s := by simp [State.swap0]
@[simp] theorem State.mark_keeps (s : State) (x tag fe) : (s.mark x tag fe).Keeps s := by simp [State.mark]
@[simp] theorem State.abandonCopy_keeps (s : State) (x) : (s.abandonCopy x).Keeps s := by
  unfold State.abandonCopy; split <;> simp
@[simp] theorem State.postUnplaceable_keeps (s : State) : s.postUnplaceable.Keeps s := by simp [State.postUnplaceable]
@[simp] theorem State.releaseShadows_keeps (s : State) : s.releaseShadows.Keeps s := by
  refine State.foldl_keeps (fun t p => ?_) _ _
  exact ⟨rfl, rfl⟩
@[simp] theorem State.keepReads_keeps (s : State) (e) : (s.keepReads e).Keeps s := by simp [State.keepReads]
@[simp] theorem State.discard_keeps (s : State) (ms by_) : (s.discard ms by_).Keeps s := ⟨rfl, rfl⟩
@[simp] theorem State.squashAll_keeps (s : State) (x es) : (s.squashAll x es).Keeps s := by simp [State.squashAll]
@[simp] theorem State.writeRecord_keeps (s : State) (r) : (s.writeRecord r).Keeps s := by simp [State.writeRecord]
@[simp] theorem State.publish_keeps (s : State) (e) : (s.publish e).Keeps s := by simp [State.publish]
@[simp] theorem State.sendStore_keeps (s : State) (e obj off n v) : (s.sendStore e obj off n v).Keeps s := ⟨rfl, rfl⟩
@[simp] theorem State.ownEffect_keeps (s : State) (e) : (s.ownEffect e).Keeps s := by
  unfold State.ownEffect; split <;> simp
@[simp] theorem State.forget_keeps (s : State) (x tid) : (s.forget x tid).Keeps s := ⟨rfl, rfl⟩
@[simp] theorem State.recordFault_keeps (s : State) (x f words) : (s.recordFault x f words).Keeps s := by simp [State.recordFault]
@[simp] theorem State.enterFault_keeps (s : State) (x f) : (s.enterFault x f).Keeps s := by simp [State.enterFault]
@[simp] theorem State.restoreFe_keeps (s : State) (x before) : (s.restoreFe x before).Keeps s := ⟨rfl, rfl⟩
@[simp] theorem State.runDone_keeps (s : State) (tid role) : (s.runDone tid role).Keeps s := by
  unfold State.runDone; split <;> simp
@[simp] theorem State.countEnd_keeps (s : State) (st) : (s.countEnd st).Keeps s := by simp [State.countEnd]
@[simp] theorem State.dropGangs_keeps (s : State) : s.dropGangs.Keeps s := ⟨rfl, rfl⟩
@[simp] theorem State.endStrand_keeps (s : State) (k) : (s.endStrand k).Keeps s := by simp [State.endStrand]
@[simp] theorem State.moveExtent_keeps (s : State) (obj ext home unit base) :
    (s.moveExtent obj ext home unit base).Keeps s := by simp [State.moveExtent]
@[simp] theorem State.moveBytes_keeps (s : State) (src dst n) : (s.moveBytes src dst n).Keeps s := ⟨rfl, rfl⟩
@[simp] theorem State.endMove_keeps (s : State) (m) : (s.endMove m).Keeps s := by
  unfold State.endMove; split <;> simp
@[simp] theorem State.stepMove_keeps (s : State) (i) : (s.stepMove i).Keeps s := by
  unfold State.stepMove
  extract_lets busy put
  split
  · simp
  · split
    · split <;> simp [put]
    · split <;> simp [put]
    · split <;> simp [put]
    · split <;> simp [put]
    · split <;> simp [put]
@[simp] theorem State.stepMoves_keeps (s : State) : s.stepMoves.Keeps s := by simp [State.stepMoves]
@[simp] theorem State.takeNotice_keeps (s : State) : s.takeNotice.Keeps s := by simp [State.takeNotice]
@[simp] theorem State.answer_keeps (s : State) (status result) : (s.answer status result).Keeps s := by simp [State.answer]
@[simp] theorem State.clearExtents_keeps (s : State) (page es) : (s.clearExtents page es).Keeps s := by simp [State.clearExtents]
@[simp] theorem State.putObject_keeps (s : State) (id r es) : (s.putObject id r es).Keeps s := ⟨rfl, rfl⟩
@[simp] theorem State.dropObject_keeps (s : State) (id o) : (s.dropObject id o).Keeps s := by simp [State.dropObject]
@[simp] theorem State.makeContext_keeps (s : State) (x sobj frame heap ckpt d) :
    (s.makeContext x sobj frame heap ckpt d).Keeps s := ⟨rfl, rfl⟩
@[simp] theorem State.loadService_keeps (s : State) (id n) : (s.loadService id n).Keeps s := by
  unfold State.loadService; split <;> simp
@[simp] theorem State.renewService_keeps (s : State) : s.renewService.Keeps s := by
  unfold State.renewService; dsimp only; split <;> simp
@[simp] theorem State.emptyPane_keeps (s : State) (chip) : (s.emptyPane chip).Keeps s := by
  refine State.foldl_keeps (fun t p => ?_) _ s
  dsimp only
  split
  · simp
  · split
    · exact State.foldl_keeps (fun u x => u.moveExtent_keeps ..) _ t
    · refine State.foldl_keeps (fun u x => ?_) _ t
      split <;> simp
@[simp] theorem State.retireChip_keeps (s : State) (chip) : (s.retireChip chip).Keeps s := by simp [State.retireChip]
@[simp] theorem State.judge_keeps (s : State) (chip) : (s.judge chip).Keeps s := by simp [State.judge]
@[simp] theorem State.suspect_keeps (s : State) (chip n) : (s.suspect chip n).Keeps s := by simp [State.suspect]
@[simp] theorem State.leaveRetired_keeps (s : State) : s.leaveRetired.Keeps s := by simp [State.leaveRetired]
@[simp] theorem State.refill_keeps (s : State) (e role) : (s.refill e role).Keeps s := by simp [State.refill]
@[simp] theorem State.rerunTask_keeps (s : State) (e avoid) : (s.rerunTask e avoid).Keeps s := by simp [State.rerunTask]
@[simp] theorem State.rerunCopy_keeps (s : State) (e role avoid) : (s.rerunCopy e role avoid).Keeps s := by simp [State.rerunCopy]
@[simp] theorem State.chargeCheck_keeps (s : State) (c) : (s.chargeCheck c).Keeps s := by simp [State.chargeCheck]
@[simp] theorem State.reexecute_keeps (s : State) (tid c) : (s.reexecute tid c).Keeps s := by
  unfold State.reexecute; split <;> simp
@[simp] theorem State.rerunStranded_keeps (s : State) : s.rerunStranded.Keeps s := by
  refine State.foldl_keeps (fun t a => ?_) _ s
  extract_lets d
  split
  · split
    · split <;> simp
    · simp
  · simp
@[simp] theorem State.discardHeld_keeps (s : State) (tid role) : (s.discardHeld tid role).Keeps s := ⟨rfl, rfl⟩
@[simp] theorem State.countVote_keeps (s : State) : s.countVote.Keeps s := ⟨rfl, rfl⟩
@[simp] theorem State.undecided_keeps (s : State) (tid) : (s.undecided tid).Keeps s := by simp [State.undecided]
@[simp] theorem State.primaryLost_keeps (s : State) (e) : (s.primaryLost e).Keeps s := by simp [State.primaryLost]
@[simp] theorem State.restart_keeps (s : State) (k) : (s.restart k).Keeps s := by simp [State.restart]
@[simp] theorem State.checkFault_keeps (s : State) (k f abs mult) : (s.checkFault k f abs mult).Keeps s := ⟨rfl, rfl⟩
@[simp] theorem State.takeLate_keeps (s : State) (k fs abs) : (s.takeLate k fs abs).Keeps s := by
  unfold State.takeLate; dsimp only; split <;> simp
@[simp] theorem State.deliverAbsent_keeps (s : State) (k) : (s.deliverAbsent k).Keeps s := by
  unfold State.deliverAbsent; split <;> simp
@[simp] theorem State.softwareTrap_keeps (s : State) (k code addr) : (s.softwareTrap k code addr).Keeps s := by simp [State.softwareTrap]
@[simp] theorem State.joinSem_keeps (s : State) (o p) : (s.joinSem o p).Keeps s := by
  unfold State.joinSem; split <;> simp
@[simp] theorem State.beginSave_keeps (s : State) (k) : (s.beginSave k).Keeps s := by
  unfold State.beginSave
  -- the kernel would search the frame slots
  obtain ⟨free, hfree⟩ : ∃ f, f = State.freeSlot := ⟨_, rfl⟩
  rw [← hfree]
  extract_lets c st
  split
  · extract_lets a q t u
    have ht : t.Keeps s := by simp [t]
    exact (State.foldl_keeps (fun v f => v.raiseTo_keeps ..) _ _).trans
      ((State.foldl_keeps (fun v p => v.joinSem_keeps ..) _ _).trans ht)
  · simp
@[simp] theorem State.saveRegisters_keeps (s : State) (k) : (s.saveRegisters k).Keeps s := by
  unfold State.saveRegisters; dsimp only; split <;> simp
@[simp] theorem State.turnDeparted_keeps (s : State) (o b old new core) : (s.turnDeparted o b old new core).Keeps s := ⟨rfl, rfl⟩
@[simp] theorem State.beginImage_keeps (s : State) (k) : (s.beginImage k).Keeps s := by
  unfold State.beginImage; dsimp only; split <;> simp
@[simp] theorem State.unplaceGang_keeps (s : State) (g) : (s.unplaceGang g).Keeps s := by simp [State.unplaceGang]
theorem State.tryRecord_keeps {s t : State} {o} (e : s.tryRecord o = some t) : t.Keeps s := by
  unfold State.tryRecord at e
  split at e
  · cases e
  · obtain ⟨l, -, rfl⟩ := Option.map_eq_some_iff.1 e
    refine State.foldl_keeps (fun u p => ?_) _ s
    simp
@[simp] theorem State.preemptFor_keeps (s : State) (p c) : (s.preemptFor p c).Keeps s := by
  unfold State.preemptFor
  extract_lets trial may
  split
  · simp
  · split
    · simp
    · refine State.foldl_keeps (fun u p => ?_) _ s
      simp
@[simp] theorem State.beginRestoreBank_keeps (s : State) (k) : (s.beginRestoreBank k).Keeps s := by
  simp only [State.beginRestoreBank]
  split
  · simp
  · split
    · simp
    · split
      · simp
      · split <;> simp
theorem State.placeBarrier_keeps {s t : State} {k gang} (e : s.placeBarrier k gang = some t) : t.Keeps s := by
  simp only [State.placeBarrier] at e
  split at e
  · cases e; simp
  · split at e
    · cases e; simp
    · split_ifs at e
      · cases e; simp
      · obtain ⟨_, _, rfl⟩ := Option.map_eq_some_iff.1 e; exact ⟨rfl, rfl⟩
    · split_ifs at e
      · cases e; exact ⟨rfl, rfl⟩
      · obtain ⟨_, _, rfl⟩ := Option.map_eq_some_iff.1 e; exact ⟨rfl, rfl⟩
@[simp] theorem State.unparkCell_keeps (s : State) (n) : (s.unparkCell n).Keeps s := by simp [State.unparkCell]
@[simp] theorem State.endRestore_keeps (s : State) (k) : (s.endRestore k).Keeps s := by
  unfold State.endRestore; dsimp only; split <;> simp
@[simp] theorem State.kill_keeps (s : State) (x) : (s.kill x).Keeps s := by simp [State.kill]
@[simp] theorem State.chargeBallast_keeps (s : State) (core n) : (s.chargeBallast core n).Keeps s := by
  unfold State.chargeBallast; dsimp only; split <;> simp
@[simp] theorem State.endItem_keeps (s : State) (x hw i n l) : (s.endItem x hw i n l).Keeps s := by
  unfold State.endItem; split <;> simp
@[simp] theorem State.ckptEnd_keeps (s : State) (x) : (s.ckptEnd x).Keeps s := by
  unfold State.ckptEnd; split <;> simp
@[simp] theorem State.putExtents_keeps (s : State) (l) : (s.putExtents l).Keeps s := by
  refine State.foldl_keeps (fun t p => ?_) _ s
  split
  · split <;> simp
  · simp
@[simp] theorem State.perhapsApplied_keeps (s : State) (r) : (s.perhapsApplied r).Keeps s := by
  unfold State.perhapsApplied; split <;> simp
@[simp] theorem State.windowMiss_keeps (s : State) : s.windowMiss.Keeps s := ⟨rfl, rfl⟩
@[simp] theorem State.cutOff_keeps (s : State) (r) : (s.cutOff r).Keeps s := by
  unfold State.cutOff
  extract_lets t
  have ht : t.Keeps s := s.perhapsApplied_keeps r
  split
  · simpa using ht
  · split
    · split
      · split <;> simpa using ht
      · simpa using ht
    · split
      · split <;> simpa using ht
      · simpa using ht
@[simp] theorem State.loseReads_keeps (s : State) (u) : (s.loseReads u).Keeps s := by
  unfold State.loseReads; split <;> simp
@[simp] theorem State.portDown_keeps (s : State) (port) : (s.portDown port).Keeps s := by simp [State.portDown]
@[simp] theorem State.takeAccess_keeps (s : State) (port a) : (s.takeAccess port a).Keeps s := by
  unfold State.takeAccess; split <;> simp
@[simp] theorem State.windowRead_keeps (s : State) (port obj off size) :
    (s.windowRead port obj off size).Keeps s := by simp [State.windowRead]
@[simp] theorem State.linkPerforms_keeps (s : State) (u) : (s.linkPerforms u).Keeps s := by
  unfold State.linkPerforms
  split
  · split
    · split
      · simp
      · split <;> simp
    · simp
  · simp
@[simp] theorem State.transmit_keeps (s : State) : s.transmit.Keeps s := ⟨rfl, rfl⟩
@[simp] theorem State.hostAsks_keeps (s : State) (p obj off size fl) : (s.hostAsks p obj off size fl).Keeps s := by simp [State.hostAsks]
@[simp] theorem State.firmwareWrite_keeps (s : State) (off v) : (s.firmwareWrite off v).Keeps s := by simp [State.firmwareWrite]
@[simp] theorem State.countFetch_keeps (s : State) (obj off) : (s.countFetch obj off).Keeps s := by simp [State.countFetch]
@[simp] theorem State.receive_keeps (s : State) (k) : (s.receive k).Keeps s := by
  unfold State.receive
  extract_lets st
  split <;> simp
@[simp] theorem State.settleResume_keeps (s : State) (k) : (s.settleResume k).Keeps s := by
  unfold State.settleResume; split <;> simp
@[simp] theorem State.retag_keeps (s : State) (a b) : (s.retag a b).Keeps s := ⟨rfl, rfl⟩
@[simp] theorem State.continueTask_keeps (s : State) (k tid) : (s.continueTask k tid).Keeps s := by simp [State.continueTask]
@[simp] theorem State.countRefusal_keeps (s : State) (k) : (s.countRefusal k).Keeps s := by
  unfold State.countRefusal; dsimp only; split <;> simp
@[simp] theorem State.countStarved_keeps (s : State) : s.countStarved.Keeps s := by simp [State.countStarved]
@[simp] theorem State.stalled_keeps (s : State) (x k) : (s.stalled x k).Keeps s := ⟨rfl, rfl⟩
theorem State.renameTurn_keeps {s t : State} (e : s.renameTurn = some t) : t.Keeps s := by
  obtain ⟨_, _, h⟩ := List.exists_of_findSome?_eq_some e
  exact State.renameOne_keeps h
@[simp] theorem State.renamed_keeps (s : State) : s.renamed.Keeps s := by
  refine State.foldl_keeps (fun t x => ?_) _ s
  split
  · split_ifs <;> simp
  · simp

end Sys2Proof.Machine
end

section
/-!
PROOFS. What every row of the dispatch answers: a state with the turn and the outside of the one it acts on, or a module whose rails are
cut; a fault only where no core, or no context, runs that could have the row's instruction.
-/

namespace Sys2Proof.Machine

/-! ### Outcomes, and the common forms of the slots and the S-ops -/

/-- The same is to come from outside as in s, and the turn is that of s, or that of a module whose rails are cut. -/
def State.Follows (t s : State) : Prop := t.env = s.env ∧ (t.turn = s.turn ∨ t.turn = .outside)

/-- Some core has the turn, and its strand runs. -/
def State.RunsCore (s : State) : Prop := ∃ k, s.Issues k
/-- The context that decodes runs. -/
def State.RunsCtx (s : State) : Prop := (s.ctx s.curCtx).run = 1

/-- The outcome is a state that follows s, or a fault where `runs` does not hold. -/
inductive Proceeds (runs : Prop) (s : State) : Host.Outcome State Fault Refusal → Prop
  | next {t : State} (h : t.Follows s) : Proceeds runs s (.next t)
  | fault (r : Fault) (h : ¬ runs) : Proceeds runs s (.fault r)

section
variable {p q : Prop} {s t : State} {o : Host.Outcome State Fault Refusal}

theorem Proceeds.of (h : Proceeds p s o) (hp : q → p) : Proceeds q s o := by
  cases h with
  | next h => exact .next h
  | fault r h => exact .fault r (mt hp h)
/-- What keeps the turn and the list from outside follows what follows s. -/
theorem State.Keeps.follows {u : State} (h : u.Keeps t) (ht : t.Follows s) : u.Follows s :=
  ⟨h.2.trans ht.1, ht.2.imp h.1.trans h.1.trans⟩
theorem State.dark_follows (s : State) : s.dark.Follows s := ⟨rfl, .inr rfl⟩
theorem State.keeps_ite {c : Prop} [Decidable c] {u : State} (h : t.Keeps s) (h' : u.Keeps s) : (if c then t else u).Keeps s := by
  split <;> assumption
theorem next_proceeds (h : t.Keeps s) : Proceeds p s (.next t) := .next ⟨h.2, .inl h.1⟩
theorem ite_proceeds {c : Prop} [Decidable c] {o o' : Host.Outcome State Fault Refusal} (h : Proceeds p s o) (h' : Proceeds p s o') :
    Proceeds p s (if c then o else o') := by split <;> assumption
theorem onCore_proceeds {f : Nat → State} (hf : ∀ k, (f k).Keeps s) : Proceeds s.RunsCore s (onCore s f) := by
  unfold onCore
  split
  · next k n ht =>
    split
    · exact next_proceeds (hf k)
    · next hr =>
      refine .fault _ ?_
      rintro ⟨j, ⟨m, hj⟩, hm⟩
      rw [ht] at hj; cases hj
      exact hr hm
  · next ht =>
    refine .fault _ ?_
    rintro ⟨j, ⟨m, hj⟩, -⟩
    exact ht _ _ hj
theorem onCtx_proceeds {f : Nat → State} (hf : ∀ x, (f x).Keeps s) : Proceeds s.RunsCtx s (onCtx s f) := by
  unfold onCtx
  split
  · exact next_proceeds (hf _)
  · next hr => exact .fault _ hr

/-- A trap where a check fails, else what the slot does. -/
theorem trapOr_keeps (ht : t.Keeps s) (k : Nat) (x : Trap) :
    (match x with
      | some (c, v) => s.issueTrap k c v
      | none => t).Keeps s := by
  split
  · simp
  · exact ht

theorem guarded_proceeds (s g f) : Proceeds s.RunsCore s (guarded s g f) := onCore_proceeds fun k => by split <;> simp
theorem engine_proceeds {f : Nat → State → State} (hf : ∀ k t, (f k t).Keeps t) (s e atIssue check) :
    Proceeds s.RunsCore s (engine s e atIssue check f) := by
  refine onCore_proceeds fun k => trapOr_keeps ?_ k _
  have hw : (f k (s.modStrand k fun st => st.consumeWait e)).Keeps s := (hf k _).trans (by simp)
  split
  · dsimp only
    split <;> simpa using hw
  · simp
theorem counted_proceeds {f : Nat → State → State} (hf : ∀ k t, (f k t).Keeps t) (s n lat check) :
    Proceeds s.RunsCore s (counted s n lat check f) :=
  onCore_proceeds fun k => trapOr_keeps ((hf k _).trans (by simp)) k _
theorem matrixSlot_proceeds {f : Nat → State → State} (hf : ∀ k t, (f k t).Keeps t) (s check) :
    Proceeds s.RunsCore s (matrixSlot s check f) :=
  onCore_proceeds fun k => trapOr_keeps (hf k s) k _
theorem checkedOp_proceeds {calm upset} (hc : Proceeds p s calm) (hu : ∀ us, Proceeds p s (upset us)) :
    Proceeds p s (checkedOp s calm upset) := by
  unfold checkedOp
  split
  · exact ite_proceeds hc (hu _)
  · exact hc
theorem sop_proceeds {f : Nat → State} (hf : ∀ x, (f x).Keeps s) : Proceeds s.RunsCtx s (sop s f) := by
  refine onCtx_proceeds fun x => ?_
  split
  · simp
  · exact hf x
theorem control_proceeds (s f) : Proceeds s.RunsCtx s (control s f) :=
  sop_proceeds fun x => by split <;> simp
theorem setG_proceeds (s a v) : Proceeds s.RunsCtx s (setG s a v) := control_proceeds s _
theorem extension_proceeds {f : Nat → PendingSop → State} (hf : ∀ x p, (f x p).Keeps s) (want) :
    Proceeds s.RunsCtx s (extension s want f) := by
  refine onCtx_proceeds fun x => ?_
  split
  · simp
  · split
    · exact hf ..
    · simp
theorem service_proceeds {f : State → Host.Outcome State Fault Refusal} (hf : Proceeds s.RunsCtx s (f s)) :
    Proceeds s.RunsCtx s (service s f) :=
  ite_proceeds hf (sop_proceeds fun _ => by simp)
theorem State.request_keeps {op : BitVec 8} {f : State → State} (hf : (f s).Keeps s) : (s.request op f).Keeps s := by
  unfold State.request
  split
  · exact hf
  · simp
theorem State.policy_keeps {f : State → State} (hf : ∀ t, (f t).Keeps t) : (s.policy f).Keeps s := by
  unfold State.policy
  dsimp only
  split
  · exact (hf _).trans ⟨rfl, rfl⟩
  · simp
theorem engine_modStrand_proceeds (s e atIssue check) (f : Nat → State → Strand → Strand) :
    Proceeds s.RunsCore s (engine s e atIssue check fun k t => t.modStrand k (f k t)) := engine_proceeds (fun _ _ => by simp) ..
theorem counted_modStrand_proceeds (s n lat check) (f : Nat → State → Strand → Strand) :
    Proceeds s.RunsCore s (counted s n lat check fun k t => t.modStrand k (f k t)) := counted_proceeds (fun _ _ => by simp) ..
theorem matrixSlot_modStrand_proceeds (s check) (f : Nat → State → Strand → Strand) :
    Proceeds s.RunsCore s (matrixSlot s check fun k t => t.modStrand k (f k t)) := matrixSlot_proceeds (fun _ _ => by simp) ..
end

/-! ### One lemma per row -/

theorem execLoop_proceeds (s : State) (d imm g) : Proceeds s.RunsCore s (execLoop d imm g s) := onCore_proceeds fun _ => by simp
theorem execSwpt_proceeds (s : State) (t g) : Proceeds s.RunsCore s (execSwpt t g s) := onCore_proceeds fun _ => by simp
theorem execEndtCont_proceeds (s : State) (g) : Proceeds s.RunsCore s (execEndtCont g s) := onCore_proceeds fun _ => by simp
theorem execCload_proceeds (s : State) (c a imm g) : Proceeds s.RunsCore s (execCload c a imm g s) := onCore_proceeds fun _ => by simp
theorem execCnarrow_proceeds (s : State) (c ca b g) : Proceeds s.RunsCore s (execCnarrow c ca b g s) := onCore_proceeds fun _ => by simp
theorem execScalarResultWrite_proceeds {p : Prop} (s : State) (core) : Proceeds p s (execScalarResultWrite core s) :=
  next_proceeds (by split <;> simp)
theorem execMfsr_proceeds (s : State) (d n g) : Proceeds s.RunsCore s (execMfsr d n g s) := by
  unfold execMfsr
  refine onCore_proceeds fun k => ?_
  split <;> simp
theorem execMtsr_proceeds (s : State) (d n g) : Proceeds s.RunsCore s (execMtsr d n g s) := by
  unfold execMtsr
  refine onCore_proceeds fun k => ?_
  dsimp only
  split <;> simp
theorem execLds_proceeds (s : State) (r cap off imm size sx g q) : Proceeds s.RunsCore s (execLds r cap off imm size sx g q s) := by
  refine counted_proceeds (fun k t => ?_) ..
  dsimp only
  (repeat' split) <;> simp
theorem execSts_proceeds (s : State) (r cap off imm size g q) : Proceeds s.RunsCore s (execSts r cap off imm size g q s) := by
  refine onCore_proceeds fun k => ?_
  extract_lets st x n o
  split
  · simp
  · next a bs t _ _ =>
    have ht : t.Keeps s := by simp [t]
    split
    · simp
    · split
      · split
        · exact (State.setFull_keeps ..).trans ht
        · exact ht
      · simp
theorem execVld_proceeds (s : State) (v cap off imm g q) : Proceeds s.RunsCore s (execVld v cap off imm g q s) := by
  refine counted_proceeds (fun k t => ?_) ..
  extract_lets st x o a f w act n u v
  have hu : u.Keeps t := by simp [u]
  split
  · split <;> simpa [v] using hu
  · exact hu
theorem execVst_proceeds (s : State) (v cap off imm g q) : Proceeds s.RunsCore s (execVst v cap off imm g q s) := by
  refine onCore_proceeds fun k => ?_
  extract_lets st x o
  split
  · simp
  · next a f w act r code n bs t u _ _ =>
    split
    · simp
    · split
      · have ht : t.Keeps s := by simp [t]
        have hu : u.Keeps s := State.keeps_ite ((State.setFulls_keeps ..).trans ht) ht
        simpa using hu
      · simp
theorem execVldb_proceeds (s : State) (v cap off imm g q) : Proceeds s.RunsCore s (execVldb v cap off imm g q s) :=
  onCore_proceeds fun _ => by split <;> simp
theorem execVlds_proceeds (s : State) (v cap off stride imm g q) : Proceeds s.RunsCore s (execVlds v cap off stride imm g q s) :=
  onCore_proceeds fun _ => by split <;> simp
theorem execVldx_proceeds (s : State) (v cap off idx wi g q) : Proceeds s.RunsCore s (execVldx v cap off idx wi g q s) :=
  onCore_proceeds fun _ => by split <;> simp
theorem storeSingles_proceeds (s : State) (v cap g q off) : Proceeds s.RunsCore s (storeSingles s v cap g q off) := by
  refine onCore_proceeds fun k => ?_
  dsimp only
  split <;> simp
theorem execDrain_proceeds (s : State) (scope engineToo e) : Proceeds s.RunsCore s (execDrain scope engineToo e s) := by
  refine engine_proceeds (fun k t => ?_) ..
  extract_lets st copies
  split <;> simp
theorem execCpgo_proceeds (s : State) (o e) : Proceeds s.RunsCore s (execCpgo o e s) := engine_proceeds (fun _ _ => by simp) ..
theorem execCpfill_proceeds (s : State) (cap off v n full e) : Proceeds s.RunsCore s (execCpfill cap off v n full e s) :=
  onCore_proceeds fun _ => by split <;> simp
theorem execCppub_proceeds (s : State) (d h e) : Proceeds s.RunsCore s (execCppub d h e s) := engine_proceeds (fun _ _ => by simp) ..
theorem execCpabort_proceeds (s : State) (e) : Proceeds s.RunsCore s (execCpabort e s) := engine_proceeds (fun _ _ => by simp) ..
theorem execCopyCommandStart_proceeds {p : Prop} (s : State) (eng) : Proceeds p s (execCopyCommandStart eng s) :=
  next_proceeds (by (repeat' split) <;> simp)
theorem execCopyRun_proceeds {p : Prop} (s : State) (eng) : Proceeds p s (execCopyRun eng s) := by
  refine next_proceeds ?_
  split
  · have hd := s.draw_keeps
    dsimp only
    split
    · exact hd
    · exact (State.corePart_keeps ..).trans hd
  · split
    · simp
    · split
      · simp
      · rename_i i _ x _ _ c _
        extract_lets put
        have hput (t c n) : (put t c n).Keeps t := ⟨rfl, rfl⟩
        have performed {t r} (e : s.performPart (.hub i) c x.clamp = (t, r)) : t.Keeps s := (s.performPart_keeps ..).of_fst e
        split
        · next e => exact (State.charge_keeps ..).trans ((hput ..).trans (performed e))
        · next e => exact (hput ..).trans (performed e)
        · next e => exact (hput ..).trans (performed e)
        · next e => exact (hput ..).trans (performed e)
        · next e => simpa using performed e
        · next e => simpa using performed e
        · next e => simpa using performed e
theorem execCopyCommandComplete_proceeds {p : Prop} (s : State) (eng) : Proceeds p s (execCopyCommandComplete eng s) :=
  next_proceeds (by (repeat' split) <;> simp)
theorem execResultLanding_proceeds {p : Prop} (s : State) (core) : Proceeds p s (execResultLanding core s) :=
  next_proceeds (by split <;> simp)
theorem execInflightEntryLand_proceeds {p : Prop} (s : State) (core) : Proceeds p s (execInflightEntryLand core s) :=
  next_proceeds (by split <;> simp)
theorem execMzero_proceeds (s : State) (o) : Proceeds s.RunsCore s (execMzero o s) := matrixSlot_proceeds (fun _ _ => by simp) _ _
theorem execMldz_proceeds (s : State) (o) : Proceeds s.RunsCore s (execMldz o s) := matrixSlot_proceeds (fun _ _ => by simp) _ _
theorem execPlaneRowWrite_proceeds {p : Prop} (s : State) (core) : Proceeds p s (execPlaneRowWrite core s) :=
  next_proceeds (by split <;> simp)
theorem execTileRowLand_proceeds {p : Prop} (s : State) (core) : Proceeds p s (execTileRowLand core s) :=
  next_proceeds (by split <;> simp)
theorem execTileRowLoad_proceeds {p : Prop} (s : State) (core) : Proceeds p s (execTileRowLoad core s) :=
  next_proceeds (by split <;> simp)
theorem execTileRowStore_proceeds {p : Prop} (s : State) (core) : Proceeds p s (execTileRowStore core s) :=
  next_proceeds (by split <;> simp)
theorem execMchkOutcome_proceeds {p : Prop} (s : State) (core) : Proceeds p s (execMchkOutcome core s) :=
  next_proceeds (by split <;> simp)
theorem execSemsig_proceeds (s : State) (e) : Proceeds s.RunsCore s (execSemsig e s) := engine_proceeds (fun _ _ => by simp) ..
theorem execSemaphoreSignal_proceeds {p : Prop} (s : State) (core) : Proceeds p s (execSemaphoreSignal core s) := next_proceeds (by simp)
theorem execBarqry_proceeds (s : State) (bar d e) : Proceeds s.RunsCore s (execBarqry bar d e s) :=
  engine_proceeds (fun _ _ => by simp) ..
theorem execCellUpdateCycle_proceeds {p : Prop} (s : State) (cell) : Proceeds p s (execCellUpdateCycle cell s) :=
  next_proceeds (by (repeat' split) <;> simp)
theorem execBarrierRelease_proceeds {p : Prop} (s : State) (core) : Proceeds p s (execBarrierRelease core s) := by
  refine next_proceeds ?_
  split
  · simp
  · extract_lets t
    split <;> simp [t]
theorem execBarinitAnswer_proceeds {p : Prop} (s : State) (core) : Proceeds p s (execBarinitAnswer core s) :=
  next_proceeds (by (repeat' split) <;> simp)
theorem execSpawn_proceeds (s : State) (qd cap off st' after e) : Proceeds s.RunsCore s (execSpawn qd cap off st' after e s) := by
  unfold execSpawn
  extract_lets desc
  refine engine_proceeds (fun k t => ?_) ..
  extract_lets st d writes status u n node p v w
  have hu : u.Keeps t := State.modStrand_keeps ..
  have hv : v.Keeps u := State.modStrand_keeps ..
  have hw : w.Keeps t := (State.modCtx_keeps ..).trans ((State.unthrottle_keeps v).trans (hv.trans hu))
  split
  · exact hu
  · exact ⟨hw.1, hw.2⟩
theorem execNext_proceeds (s : State) (e) : Proceeds s.RunsCore s (execNext e s) := onCore_proceeds fun _ => by split <;> simp
theorem execYield_proceeds (s : State) (n t e) : Proceeds s.RunsCore s (execYield n t e s) := by
  refine engine_proceeds (fun k t => ?_) ..
  split <;> simp
theorem execCtab_proceeds (s : State) (cap off e) : Proceeds s.RunsCore s (execCtab cap off e s) :=
  onCore_proceeds fun _ => by split <;> simp
theorem execCrecv_proceeds (s : State) (v src e) : Proceeds s.RunsCore s (execCrecv v src e s) := by
  refine onCore_proceeds fun k => ?_
  dsimp only
  (repeat' split) <;> simp
theorem execCircuitSlot_proceeds {p : Prop} (s : State) (core) : Proceeds p s (execCircuitSlot core s) :=
  next_proceeds (by split <;> simp)
theorem execCircuitTransferArrival_proceeds {p : Prop} (s : State) (core) : Proceeds p s (execCircuitTransferArrival core s) :=
  next_proceeds (by (repeat' split) <;> simp)
theorem execCircuitCreditReturn_proceeds {p : Prop} (s : State) (core) : Proceeds p s (execCircuitCreditReturn core s) := by
  refine next_proceeds ?_
  split
  · simp
  · extract_lets t
    split <;> simp [t]
theorem execZinject_proceeds (s : State) (o e) : Proceeds s.RunsCore s (execZinject o e s) := by
  unfold execZinject
  extract_lets c at_
  refine engine_proceeds (fun k t => ?_) ..
  refine State.keeps_ite ⟨rfl, rfl⟩ ?_
  split
  · exact State.modStrand_keeps ..
  · exact State.modNow_keeps ..
  · exact (State.pokeSpad_keeps ..).trans ((State.schedule_keeps ..).trans (State.flushSpad_keeps ..))
theorem execEret_proceeds (s : State) (next e) : Proceeds s.RunsCore s (execEret next e s) := engine_proceeds (fun _ _ => by simp) ..
theorem execCtxsave_proceeds (s : State) (cap off parts b e) : Proceeds s.RunsCore s (execCtxsave cap off parts b e s) := by
  refine engine_proceeds (fun k t => ?_) ..
  extract_lets u st x o spans frame
  have hu : u.Keeps t := by simp [u]
  have reached {v f} (e : u.reachAll (u.corePort k x (capBase x + o)) true true (u.frameExtents x o spans) = (v, f)) : v.Keeps t :=
    ((u.reachAll_keeps ..).of_fst e).trans hu
  split
  · next e => simpa using reached e
  · next e => simpa using reached e
  · next e => simpa using reached e
theorem execCtxload_proceeds (s : State) (cap off parts b e) : Proceeds s.RunsCore s (execCtxload cap off parts b e s) := by
  refine engine_proceeds (fun k t => ?_) ..
  extract_lets u st x o spans frame
  have hu : u.Keeps t := by simp [u]
  have reached {v f} (e : u.reachAll (u.corePort k x (capBase x + o)) false true (u.frameExtents x o spans) = (v, f)) : v.Keeps t :=
    ((u.reachAll_keeps ..).of_fst e).trans hu
  split
  · next e => simpa using reached e
  · next e => simpa using reached e
  · next e => simpa using reached e
theorem execHalt_proceeds (s : State) (code e) : Proceeds s.RunsCore s (execHalt code e s) := engine_proceeds (fun _ _ => by simp) ..
theorem execHoist_proceeds (s : State) (tag e) : Proceeds s.RunsCore s (execHoist tag e s) := engine_proceeds (fun _ _ => by simp) ..
theorem execRemoteAccessSend_proceeds {p : Prop} (s : State) (id) : Proceeds p s (execRemoteAccessSend id s) :=
  next_proceeds (by split <;> simp)
theorem execTranslationWalk_proceeds {p : Prop} (s : State) (id) : Proceeds p s (execTranslationWalk id s) := by
  refine next_proceeds ?_
  split
  · simp
  · next r _ =>
    have walked {t f} (e : s.walkAll (s.remotePort r) (s.remoteExtents r) = (t, f)) : t.Keeps s := (s.walkAll_keeps ..).of_fst e
    split
    · simp
    · split
      · next e => exact walked e
      · next e => simpa using walked e
      · next e => simpa using walked e
      · next e => simpa using walked e
theorem execRemoteAccessPerform_proceeds {p : Prop} (s : State) (id) : Proceeds p s (execRemoteAccessPerform id s) :=
  next_proceeds (by split <;> simp)
theorem execRemoteReturn_proceeds {p : Prop} (s : State) (id) : Proceeds p s (execRemoteReturn id s) :=
  next_proceeds (by (repeat' split) <;> simp)
theorem execRemoteStoreAccept_proceeds {p : Prop} (s : State) (id) : Proceeds p s (execRemoteStoreAccept id s) :=
  next_proceeds (by split <;> simp)
theorem execLoupeAccept_proceeds {p : Prop} (s : State) (id) : Proceeds p s (execLoupeAccept id s) := by
  refine next_proceeds ?_
  split
  · simp
  · split
    · simp
    · split
      · simp
      · split
        · split <;> simp
        · simp
theorem execSld_proceeds (s : State) (o) : Proceeds s.RunsCtx s (execSld o s) := by
  refine sop_proceeds fun x => ?_
  extract_lets c n fin
  have hfin (t v) : (fin t v).Keeps t := by simp [fin]
  split
  next k a _ =>
    split
    · split
      · simp
      · split
        · simp
        · exact hfin ..
    · split
      · simp
      · have read {t r} (e : s.prismRead o.early (capObj k) (capBase k + a) n = (t, r)) : t.Keeps s := (s.prismRead_keeps ..).of_fst e
        split
        · next e => exact (hfin ..).trans ((State.sldValue_keeps ..).trans (read e))
        · next e => simpa using read e
        · next e => simpa using read e
        · next e => exact read e
theorem execSst_proceeds (s : State) (o) : Proceeds s.RunsCtx s (execSst o s) := by
  refine sop_proceeds fun x => ?_
  dsimp only
  split <;> simp
theorem execPark_proceeds (s : State) (a b cc n imm) : Proceeds s.RunsCtx s (execPark a b cc n imm s) := by
  refine sop_proceeds fun x => ?_
  dsimp only
  split <;> simp
theorem execParkPoll_proceeds {p : Prop} (s : State) (ctx) : Proceeds p s (execParkPoll ctx s) := by
  refine next_proceeds ?_
  split
  · simp
  · next p _ =>
    extract_lets stop again
    have hstop (t r) : (stop t r).Keeps t := by simp [stop]
    have hagain (t) : (again t).Keeps t := by simp [again]
    have read {t r} (e : s.prismRead false p.obj p.off 8 = (t, r)) : t.Keeps s := (s.prismRead_keeps ..).of_fst e
    split
    · next e =>
      split
      · simpa using read e
      · exact (hagain _).trans (read e)
    · next e => exact (hstop ..).trans (read e)
    · next e => exact (hstop ..).trans (read e)
    · next e => exact (hagain _).trans (read e)
theorem execBind_proceeds (s : State) (buf a b n seg imm) : Proceeds s.RunsCtx s (execBind buf a b n seg imm s) :=
  sop_proceeds fun _ => by simp
theorem execUnbind_proceeds (s : State) (buf discard) : Proceeds s.RunsCtx s (execUnbind buf discard s) := sop_proceeds fun _ => by simp
theorem execTask_proceeds (s : State) (w) : Proceeds s.RunsCtx s (execTask w s) := sop_proceeds fun _ => by split <;> simp
theorem execCopy_proceeds (s : State) (w) : Proceeds s.RunsCtx s (execCopy w s) := sop_proceeds fun _ => by simp
theorem execOpd_proceeds (s : State) (w) : Proceeds s.RunsCtx s (execOpd w s) :=
  extension_proceeds (fun _ _ => by (repeat' split) <;> simp) _
theorem execCdim_proceeds (s : State) (w) : Proceeds s.RunsCtx s (execCdim w s) := extension_proceeds (fun _ _ => by simp) _
theorem execSfence_proceeds (s : State) (sys) : Proceeds s.RunsCtx s (execSfence sys s) := sop_proceeds fun _ => by simp
theorem execSvar_proceeds (s : State) (n off) : Proceeds s.RunsCtx s (execSvar n off s) := by
  refine sop_proceeds fun x => ?_
  extract_lets c k word
  have hword {t u : State} {i r} (e : word t i = (u, r)) : u.Keeps t := (t.prismRead_keeps ..).of_fst e
  split
  · simp
  · split
    · next t v _ e =>
      have ht : t.Keeps s := hword e
      have hzero {u r} (e' : (if v ≠ 0 then (t, some v, Finding.ok) else word t 0) = (u, r)) : u.Keeps s := by
        split at e'
        · cases e'; exact ht
        · exact (hword e').trans ht
      split
      · next e' => split <;> simpa using hzero e'
      · next e' => simpa using hzero e'
      · next e' => simpa using hzero e'
      · next e' => exact hzero e'
    · next e => simpa using hword e
    · next e => simpa using hword e
    · next e => exact hword e
theorem execPrio_proceeds (s : State) (ctx level) : Proceeds s.RunsCtx s (execPrio ctx level s) :=
  service_proceeds (sop_proceeds fun _ => by simp)
theorem execQuota_proceeds (s : State) (ctx window pool n) : Proceeds s.RunsCtx s (execQuota ctx window pool n s) :=
  service_proceeds (sop_proceeds fun _ => by simp)
theorem execUnlistedOp_proceeds (s : State) (r) : Proceeds s.RunsCtx s (execUnlistedOp r s) := onCtx_proceeds fun _ => by split <;> simp
theorem execStreamObjectEnd_proceeds (s : State) : Proceeds s.RunsCtx s (execStreamObjectEnd s) := sop_proceeds fun _ => by simp
theorem execDispatch_proceeds {p : Prop} (s : State) : Proceeds p s (execDispatch s) := by
  refine next_proceeds ?_
  cases e : s.served.findSome? fun c => (s.tryEntry c.2).map fun t => s.servedBy t c.1 with
  | none => exact ⟨rfl, rfl⟩
  | some t =>
    obtain ⟨c, -, hc⟩ := List.exists_of_findSome?_eq_some e
    obtain ⟨u, hu, rfl⟩ := Option.map_eq_some_iff.1 hc
    have ht := State.tryEntry_keeps hu
    exact ⟨ht.1, ht.2⟩
theorem execPoolEntryDispatch_proceeds {p : Prop} (s : State) : Proceeds p s (execPoolEntryDispatch s) := by
  refine next_proceeds ?_
  cases e : s.served.findSome? fun c => match c.2 with
      | .pool x n => (s.tryPool x n).map fun t => s.servedBy t c.1
      | _ => none with
  | none => exact ⟨rfl, rfl⟩
  | some t =>
    obtain ⟨c, -, hc⟩ := List.exists_of_findSome?_eq_some e
    split at hc
    · obtain ⟨u, hu, rfl⟩ := Option.map_eq_some_iff.1 hc
      have ht := State.tryPool_keeps hu
      exact ⟨ht.1, ht.2⟩
    · cases hc
theorem execEntryReady_proceeds {p : Prop} (s : State) (tid) : Proceeds p s (execEntryReady tid s) :=
  next_proceeds (by (repeat' split) <;> simp)
theorem execAgingPromotion_proceeds {p : Prop} (s : State) (tid) : Proceeds p s (execAgingPromotion tid s) :=
  next_proceeds (by split <;> simp)
theorem execSquashRemove_proceeds {p : Prop} (s : State) (tid) : Proceeds p s (execSquashRemove tid s) :=
  next_proceeds (by split <;> simp)
theorem execRetire_proceeds {p : Prop} (s : State) (ctx) : Proceeds p s (execRetire ctx s) := next_proceeds (by split <;> simp)
theorem execFaultDelivery_proceeds {p : Prop} (s : State) (ctx) : Proceeds p s (execFaultDelivery ctx s) :=
  next_proceeds (by (repeat' split) <;> simp)
theorem execHubCopyComplete_proceeds {p : Prop} (s : State) (h) : Proceeds p s (execHubCopyComplete h s) :=
  next_proceeds (by (repeat' split) <;> simp)
theorem execModFillComplete_proceeds {p : Prop} (s : State) (h) : Proceeds p s (execModFillComplete h s) :=
  next_proceeds (by (repeat' split) <;> simp)
theorem execExtentMigration_proceeds {p : Prop} (s : State) (obj ext home unit place) :
    Proceeds p s (execExtentMigration obj ext home unit place s) :=
  next_proceeds (by split <;> simp)
theorem execOtswap_proceeds {p : Prop} (s : State) : Proceeds p s (execOtswap s) := by
  refine next_proceeds ?_
  dsimp only
  (repeat' split) <;> simp
theorem execOtswapDone_proceeds {p : Prop} (s : State) : Proceeds p s (execOtswapDone s) := next_proceeds (by split <;> simp)
theorem execOtsync_proceeds {p : Prop} (s : State) : Proceeds p s (execOtsync s) := by
  refine next_proceeds ?_
  dsimp only
  (repeat' split) <;> simp
theorem execOtsyncDone_proceeds {p : Prop} (s : State) : Proceeds p s (execOtsyncDone s) := next_proceeds (by split <;> simp)
theorem execOwedNoticePost_proceeds {p : Prop} (s : State) : Proceeds p s (execOwedNoticePost s) := next_proceeds (by split <;> simp)
theorem execCreateObject_proceeds {p : Prop} (s : State) : Proceeds p s (execCreateObject s) := by
  refine next_proceeds (State.request_keeps ?_)
  extract_lets r
  split
  · simp
  · refine State.policy_keeps fun t => ?_
    dsimp only
    split
    · simp
    · split <;> simp
theorem execFreeObject_proceeds {p : Prop} (s : State) : Proceeds p s (execFreeObject s) := by
  refine next_proceeds (State.request_keeps ?_)
  extract_lets id
  split
  · simp
  · split
    · simp
    · split
      · simp
      · exact State.policy_keeps fun t => by simp
theorem execCreateContext_proceeds {p : Prop} (s : State) : Proceeds p s (execCreateContext s) := by
  refine next_proceeds ?_
  split
  · extract_lets h x sobj dobj frame heap ckpt
    refine State.keeps_ite (s.answer_keeps ..) <| State.keeps_ite (s.answer_keeps ..) ?_
    split
    · exact s.answer_keeps ..
    · exact State.keeps_ite (s.answer_keeps ..) <| State.keeps_ite (s.answer_keeps ..) <| State.policy_keeps fun t => by simp
  · split <;> simp
theorem execRestartContext_proceeds {p : Prop} (s : State) : Proceeds p s (execRestartContext s) := by
  refine next_proceeds (State.request_keeps ?_)
  extract_lets h x a mode c
  split
  · simp
  split
  · simp
  split
  · split
    · exact State.policy_keeps fun t => by simp
    · simp
  · split
    · simp
    · exact State.policy_keeps fun t => by simp
theorem execWriteCapabilityEntry_proceeds {p : Prop} (s : State) : Proceeds p s (execWriteCapabilityEntry s) := by
  refine next_proceeds (State.request_keeps ?_)
  extract_lets h x n c
  split
  · simp
  split
  · simp
  split
  · simp
  · exact State.policy_keeps fun t => by simp
theorem execBadRequest_proceeds {p : Prop} (s : State) (op) : Proceeds p s (execBadRequest op s) := by
  refine next_proceeds ?_
  split
  · exact State.request_keeps (by simp)
  · simp
theorem execHostWindowAccess_proceeds {p : Prop} (s : State) (win off size store) :
    Proceeds p s (execHostWindowAccess win off size store s) := by
  refine next_proceeds ?_
  split
  · split <;> simp
  · next o a p _ =>
    have reached {t f} (e : s.reachAll p store.isSome false (s.extents o a size) = (t, f)) : t.Keeps s := (s.reachAll_keeps ..).of_fst e
    split
    · next e =>
      dsimp only
      split <;> simpa using reached e
    · next e => split <;> simpa using reached e
    · next e => exact reached e
    · next e => simpa using reached e
theorem execRegisterWrite_proceeds {p : Prop} (s : State) (who off v) : Proceeds p s (execRegisterWrite who off v s) :=
  next_proceeds (by simp)
theorem execSuspicionDecay_proceeds {p : Prop} (s : State) : Proceeds p s (execSuspicionDecay s) := next_proceeds (by simp)
theorem execSramUncorrectableError_proceeds {p : Prop} (s : State) (chip) : Proceeds p s (execSramUncorrectableError chip s) :=
  next_proceeds (by simp)
theorem execChipletReadmission_proceeds {p : Prop} (s : State) (chip) : Proceeds p s (execChipletReadmission chip s) :=
  next_proceeds (by simp)
theorem execChipletRetirementRequest_proceeds {p : Prop} (s : State) (chip) : Proceeds p s (execChipletRetirementRequest chip s) :=
  next_proceeds (by simp)
theorem execCorrectedError_proceeds {p : Prop} (s : State) (chip addr) : Proceeds p s (execCorrectedError chip addr s) :=
  next_proceeds (by simp)
theorem execCheckFaultReexecution_proceeds {p : Prop} (s : State) (tid) : Proceeds p s (execCheckFaultReexecution tid s) :=
  next_proceeds (by split <;> simp)
theorem execVoteCompare_proceeds {p : Prop} (s : State) (tid) : Proceeds p s (execVoteCompare tid s) := next_proceeds (by split <;> simp)
theorem execThirdRunCompare_proceeds {p : Prop} (s : State) (tid) : Proceeds p s (execThirdRunCompare tid s) :=
  next_proceeds (by split <;> simp)
theorem execHeadOnlyMode_proceeds {p : Prop} (s : State) (tid) : Proceeds p s (execHeadOnlyMode tid s) :=
  next_proceeds (by (repeat' split) <;> simp)
theorem execPreemptStop_proceeds {p : Prop} (s : State) (core) : Proceeds p s (execPreemptStop core s) := next_proceeds (by simp)
theorem execPageAbsentSuspend_proceeds {p : Prop} (s : State) (core) : Proceeds p s (execPageAbsentSuspend core s) := by
  refine next_proceeds ?_
  dsimp only
  split <;> simp
theorem execSaveBankStart_proceeds {p : Prop} (s : State) (core) : Proceeds p s (execSaveBankStart core s) := by
  refine next_proceeds ?_
  dsimp only
  (repeat' split) <;> simp
theorem execSaveBankEnd_proceeds {p : Prop} (s : State) (core) : Proceeds p s (execSaveBankEnd core s) := by
  refine next_proceeds ?_
  dsimp only
  (repeat' split) <;> simp
theorem execSaveEnd_proceeds {p : Prop} (s : State) (core) : Proceeds p s (execSaveEnd core s) := by
  refine next_proceeds ?_
  extract_lets c
  split
  · exact ⟨rfl, rfl⟩
  · next st image t u v _ q _ =>
    refine State.keeps_ite ⟨rfl, rfl⟩ ?_
    extract_lets w
    have ht : t.Keeps s := by
      unfold t
      split
      · exact (State.putPart_keeps ..).trans (State.countParts_keeps ..)
      · exact ⟨rfl, rfl⟩
    have hu : u.Keeps t := State.modAbsent_keeps ..
    have hv : v.Keeps u := (State.modPeri_keeps ..).trans (State.modCore_keeps ..)
    have hw : w.Keeps v := State.keeps_ite (State.unplaceGang_keeps ..) ⟨rfl, rfl⟩
    exact (State.parkCells_keeps w).trans (hw.trans (hv.trans (hu.trans ht)))
theorem execRestoreStart_proceeds {p : Prop} (s : State) (core) : Proceeds p s (execRestoreStart core s) := by
  refine next_proceeds ?_
  dsimp only
  split <;> simp
theorem execRestoreBankEnd_proceeds {p : Prop} (s : State) (core) : Proceeds p s (execRestoreBankEnd core s) := by
  refine next_proceeds ?_
  extract_lets c
  split
  · exact ⟨rfl, rfl⟩
  · split
    · refine State.keeps_ite ⟨rfl, rfl⟩ ?_
      split
      · exact ⟨rfl, rfl⟩
      · extract_lets lo f bytes full t u v
        have ht : t.Keeps s := (State.countSpan_keeps ..).trans (State.countSpan_keeps ..)
        have hu : u.Keeps t := State.pokeSpad_keeps ..
        have hv : v.Keeps u := State.turnDeparted_keeps ..
        exact (State.modCore_keeps ..).trans (hv.trans (hu.trans ht))
    · exact ⟨rfl, rfl⟩
theorem execResumeMerge_proceeds {p : Prop} (s : State) (core) : Proceeds p s (execResumeMerge core s) := by
  refine next_proceeds ?_
  extract_lets c
  split
  · split
    · simp
    · split
      · simp
      · next t e =>
        have ht : t.Keeps s := State.placeBarrier_keeps e
        simpa using ht
  · simp
theorem execWatchdogExpiry_proceeds {p : Prop} (s : State) (core) : Proceeds p s (execWatchdogExpiry core s) := next_proceeds (by simp)
theorem execKillComplete_proceeds {p : Prop} (s : State) (ctx) : Proceeds p s (execKillComplete ctx s) := next_proceeds (by simp)
theorem execSaveTimeout_proceeds {p : Prop} (s : State) (core) : Proceeds p s (execSaveTimeout core s) := by
  refine next_proceeds ?_
  dsimp only
  split <;> simp
theorem execWindowLost_proceeds {p : Prop} (s : State) (ctx) : Proceeds p s (execWindowLost ctx s) := next_proceeds (by split <;> simp)
theorem execDroopAlarm_proceeds {p : Prop} (s : State) (domain) : Proceeds p s (execDroopAlarm domain s) := by
  refine next_proceeds ?_
  split
  · simp
  · exact (State.foldl_keeps (fun t i => by simp) _ _).trans (by simp)
theorem execBallastEnd_proceeds {p : Prop} (s : State) (core) : Proceeds p s (execBallastEnd core s) := next_proceeds (by simp)
theorem execThermalTrip_proceeds {p : Prop} (s : State) (src) : Proceeds p s (execThermalTrip src s) := by
  unfold execThermalTrip
  split
  · exact next_proceeds ⟨rfl, rfl⟩
  · exact .next (State.Keeps.follows (State.modHub_keeps ..) s.dark_follows)
theorem execBoot_proceeds {p : Prop} (s : State) : Proceeds p s (execBoot s) := by
  refine .next ?_
  extract_lets n _ t
  have ht : t.Follows s := ⟨rfl, .inr rfl⟩
  split
  · exact ht
  · next w q u _ =>
    have hu : u.Keeps t := (State.loadService_keeps ..).trans ((State.modHub_keeps ..).trans ⟨rfl, rfl⟩)
    exact State.Keeps.follows ((State.modCtx_keeps ..).trans ((State.makeContext_keeps ..).trans hu)) ht
theorem execOverQuota_proceeds {p : Prop} (s : State) (ctx) : Proceeds p s (execOverQuota ctx s) := next_proceeds (by simp)
theorem execEnergyQuotaWrite_proceeds {p : Prop} (s : State) (ctx v) : Proceeds p s (execEnergyQuotaWrite ctx v s) :=
  next_proceeds (by simp)
theorem execCkptExtentCopied_proceeds {p : Prop} (s : State) (ctx) : Proceeds p s (execCkptExtentCopied ctx s) :=
  next_proceeds (by (repeat' split) <;> simp)
theorem execCheckpointRestart_proceeds {p : Prop} (s : State) (ctx) : Proceeds p s (execCheckpointRestart ctx s) := by
  refine next_proceeds ?_
  extract_lets c
  split
  · simp
  · next r _ =>
    refine State.keeps_ite ⟨rfl, rfl⟩ ?_
    extract_lets t u kept ms v w mine z
    have ht : t.Keeps s := (State.putExtents_keeps ..).trans (State.abandonCopy_keeps ..)
    have hu : u.Keeps t := State.foldl_keeps (fun _ _ => State.putPart_keeps ..) _ _
    have hv : v.Keeps u := ⟨rfl, rfl⟩
    have hw : w.Keeps v := State.foldl_keeps (fun _ _ => (State.writeVia_keeps ..).trans (State.writeObj_keeps ..)) _ _
    have hz : z.Keeps w := ⟨rfl, rfl⟩
    exact (State.modCtx_keeps ..).trans (hz.trans (hw.trans (hv.trans (hu.trans ht))))
theorem execHoistFire_proceeds {p : Prop} (s : State) : Proceeds p s (execHoistFire s) := next_proceeds (by simp)
theorem execHoistPin_proceeds {p : Prop} (s : State) : Proceeds p s (execHoistPin s) := next_proceeds (by simp)
theorem execHoistSnapshot_proceeds {p : Prop} (s : State) : Proceeds p s (execHoistSnapshot s) := next_proceeds (by split <;> simp)
theorem execInterruptRecordPost_proceeds {p : Prop} (s : State) : Proceeds p s (execInterruptRecordPost s) :=
  next_proceeds (by split <;> simp)
theorem execPennantFlitReceive_proceeds {p : Prop} (s : State) (port f) : Proceeds p s (execPennantFlitReceive port f s) :=
  next_proceeds (by split <;> simp)

/-! ### The dispatch -/

/-- What an instruction or a row needs of the state it acts on: a running strand that has the turn, or a running context that
decodes; the rows from outside and the machine's own steps need nothing. -/
structure State.Enables (s : State) (i : Instr) : Prop where
  slot : i.isSlot = true → s.RunsCore
  stream : i.isStream = true → s.RunsCtx
  illegal : ∀ c v, i = .illegalOpcode c v → s.RunsCore
  fetch : ∀ c v, i = .fetchFault c v → s.RunsCore
  unlisted : ∀ r, i = .unlistedOp r → s.RunsCtx
  ended : i = .streamObjectEnd → s.RunsCtx

section
variable {s : State} {i : Instr} {o : Host.Outcome State Fault Refusal}
theorem of_slot (hi : i.isSlot = true) (h : Proceeds s.RunsCore s o) : Proceeds (s.Enables i) s o := h.of fun e => e.slot hi
theorem of_stream (hi : i.isStream = true) (h : Proceeds s.RunsCtx s o) : Proceeds (s.Enables i) s o := h.of fun e => e.stream hi
end

theorem regOp_proceeds (s f lat d a b g) : Proceeds s.RunsCore s (regOp f lat d a b g s) := guarded_proceeds ..
theorem immOp_proceeds (s f d a b g) : Proceeds s.RunsCore s (immOp f d a b g s) := guarded_proceeds ..
theorem divOp_proceeds (s f d a b g) : Proceeds s.RunsCore s (divOp f d a b g s) := guarded_proceeds ..
theorem laneOp_proceeds (s o lat r) : Proceeds s.RunsCore s (laneOp s o lat r) := counted_modStrand_proceeds ..
theorem upsetOp_proceeds (s o lat r) : Proceeds s.RunsCore s (upsetOp s o lat r) := counted_modStrand_proceeds ..
theorem abcOp_proceeds (s o lat f) : Proceeds s.RunsCore s (abcOp s o lat f) := laneOp_proceeds ..
theorem intOp_proceeds (s o lat sat r) : Proceeds s.RunsCore s (intOp s o lat sat r) := abcOp_proceeds ..
theorem patOp_proceeds (s o lat r) : Proceeds s.RunsCore s (patOp s o lat r) := abcOp_proceeds ..
theorem bitOp_proceeds (s o f) : Proceeds s.RunsCore s (bitOp s o f) := abcOp_proceeds ..
theorem fpOp_proceeds (s o lat r) : Proceeds s.RunsCore s (fpOp s o lat r) := abcOp_proceeds ..
theorem codeOp_proceeds (s o r) : Proceeds s.RunsCore s (codeOp s o r) := abcOp_proceeds ..
theorem checkedInt_proceeds (s o lat sat r post) : Proceeds s.RunsCore s (checkedInt s o lat sat r post) :=
  checkedOp_proceeds (intOp_proceeds ..) fun _ => upsetOp_proceeds ..
theorem execVtacc_proceeds (s o) : Proceeds s.RunsCore s (execVtacc o s) := by
  unfold execVtacc
  exact checkedOp_proceeds (abcOp_proceeds ..) fun _ => upsetOp_proceeds ..
theorem execVclamp_proceeds (s o) : Proceeds s.RunsCore s (execVclamp o s) := ite_proceeds (codeOp_proceeds ..) (intOp_proceeds ..)
theorem compareOp_proceeds (s o r) : Proceeds s.RunsCore s (compareOp s o r) := counted_modStrand_proceeds ..
theorem unpackOp_proceeds (s o lat w k val) : Proceeds s.RunsCore s (unpackOp s o lat w k val) := laneOp_proceeds ..
theorem packOp_proceeds (s o w k fmt sat) : Proceeds s.RunsCore s (packOp s o w k fmt sat) := counted_modStrand_proceeds ..
theorem reduceOp_proceeds (s o op) : Proceeds s.RunsCore s (reduceOp s o op) := counted_modStrand_proceeds ..
theorem predOp_proceeds (s o f) : Proceeds s.RunsCore s (predOp s o f) := counted_modStrand_proceeds ..
theorem onCore_issueTrap_proceeds (s code v) : Proceeds s.RunsCore s (onCore s fun k => s.issueTrap k code v) :=
  onCore_proceeds fun k => s.issueTrap_keeps k code v
theorem atom_proceeds (s kind o e) :
    Proceeds s.RunsCore s (engine s e true (fun k => s.checkAtom k kind o) fun k s => s.doAtom k kind o) :=
  engine_proceeds (fun k t => t.doAtom_keeps k kind o) ..
theorem matrixSlot_startOp_proceeds (s check) (op : Nat → State → MatOp) :
    Proceeds s.RunsCore s (matrixSlot s check fun k s => s.startOp k (op k s)) :=
  matrixSlot_proceeds (fun _ _ => State.startOp_keeps ..) _ _
theorem matrixSlot_startStream_proceeds (s check kind o prof) (f : Nat → State → Nat) :
    Proceeds s.RunsCore s (matrixSlot s check fun k s => s.startStream k kind o prof (f k s)) :=
  matrixSlot_proceeds (fun _ _ => State.startStream_keeps ..) _ _
theorem engine_sendUpdate_proceeds (s e atIssue check bar) (kind : Nat → State → UpdKind) (line) :
    Proceeds s.RunsCore s (engine s e atIssue check fun k s => s.sendUpdate k bar (kind k s) line) :=
  engine_proceeds (fun _ _ => State.sendUpdate_keeps ..) ..
theorem engine_sendUpdate_modStrand_proceeds (s e atIssue check bar) (kind : Nat → State → UpdKind) (line)
    (f : Nat → State → Strand → Strand) :
    Proceeds s.RunsCore s (engine s e atIssue check fun k s => (s.sendUpdate k bar (kind k s) line).modStrand k (f k s)) :=
  engine_proceeds (fun _ _ => (State.modStrand_keeps ..).trans (State.sendUpdate_keeps ..)) ..

/-- Every instruction and every event proceeds where it is enabled, one row of the dispatch at a time. -/
theorem exec_proceeds (s : State) (i : Instr) : Proceeds (s.Enables i) s (exec i s) := by
  unfold exec
  cases i with
  | nop | cmp | cmpi | qlog | lil | lih | br | brx | call | nopw | rot | endt | crights | cget | cmov =>
    exact of_slot rfl (guarded_proceeds ..)
  | add | sub | mul | mulh | mulhn | and | or | xor | andn | shl | shr | sar | rotl | min | max | minn | maxn =>
    exact of_slot rfl (regOp_proceeds ..)
  | div | divn | rem | remn => exact of_slot rfl (divOp_proceeds ..)
  | sel => exact of_slot rfl (onCore_proceeds fun _ => State.modStrand_keeps ..)
  | addi | andi | ori | xori | shli | shri | sari | sext | zext | clz | popc | mov => exact of_slot rfl (immOp_proceeds ..)
  | mfsr => exact of_slot rfl (execMfsr_proceeds ..)
  | mtsr => exact of_slot rfl (execMtsr_proceeds ..)
  | loop => exact of_slot rfl (execLoop_proceeds ..)
  | nopwCountExpiry | longOpStep | bandPowerUpEnd => exact next_proceeds (State.modStrand_keeps ..)
  | swpt => exact of_slot rfl (execSwpt_proceeds ..)
  | endtCont => exact of_slot rfl (execEndtCont_proceeds ..)
  | cload => exact of_slot rfl (execCload_proceeds ..)
  | cnarrow => exact of_slot rfl (execCnarrow_proceeds ..)
  | lds => exact of_slot rfl (execLds_proceeds ..)
  | sts => exact of_slot rfl (execSts_proceeds ..)
  | vld => exact of_slot rfl (execVld_proceeds ..)
  | vst => exact of_slot rfl (execVst_proceeds ..)
  | vldb => exact of_slot rfl (execVldb_proceeds ..)
  | vlds => exact of_slot rfl (execVlds_proceeds ..)
  | vsts | vstx => exact of_slot rfl (storeSingles_proceeds ..)
  | vldx => exact of_slot rfl (execVldx_proceeds ..)
  | amo | amor | amof => exact of_slot rfl (atom_proceeds ..)
  | drain => exact of_slot rfl (execDrain_proceeds ..)
  | vadd | vsub | vadds | vsubs | vmul | vmulh | vmac | vaddi => exact of_slot rfl (checkedInt_proceeds ..)
  | vand | vor | vxor | vandn => exact of_slot rfl (bitOp_proceeds ..)
  | vshl | vmin | vmax | vabs | vneg => exact of_slot rfl (intOp_proceeds ..)
  | vshr | vsar | vclz | vpopc => exact of_slot rfl (patOp_proceeds ..)
  | vfadd | vfsub | vrcp | vrsq | vexp2 | vlog2 | vfdiv => exact of_slot rfl (fpOp_proceeds ..)
  | vfmul | vfma => exact of_slot rfl (checkedOp_proceeds (fpOp_proceeds ..) fun _ => upsetOp_proceeds ..)
  | vfmin | vfmax | vfabs | vfneg => exact of_slot rfl (codeOp_proceeds ..)
  | vclamp => exact of_slot rfl (execVclamp_proceeds ..)
  | vcmp | vfcmp => exact of_slot rfl (compareOp_proceeds ..)
  | vsel | vget | vput | vunpt5 | pcnt | pfirst | vsort | vscan | moutv => exact of_slot rfl (counted_modStrand_proceeds ..)
  | vmov | vcvt => exact of_slot rfl (abcOp_proceeds ..)
  | vbcast | viota | vperm | vrot | vzip | vunzip => exact of_slot rfl (laneOp_proceeds ..)
  | vunp4 | vunp6 | vdpx => exact of_slot rfl (unpackOp_proceeds ..)
  | vpack4 | vpack6 | vdpq => exact of_slot rfl (packOp_proceeds ..)
  | vtacc => exact of_slot rfl (execVtacc_proceeds ..)
  | vredadd => exact of_slot rfl (checkedOp_proceeds (reduceOp_proceeds ..) fun _ => counted_modStrand_proceeds ..)
  | vredfadd | vredmax | vredmin => exact of_slot rfl (reduceOp_proceeds ..)
  | plog | pnot | pset => exact of_slot rfl (predOp_proceeds ..)
  | resultLanding => exact execResultLanding_proceeds ..
  | scalarResultWrite => exact execScalarResultWrite_proceeds ..
  | inflightEntryLand => exact execInflightEntryLand_proceeds ..
  | mldw | mout | mchk => exact of_slot rfl (matrixSlot_startOp_proceeds ..)
  | mswap | mshape => exact of_slot rfl (matrixSlot_modStrand_proceeds ..)
  | mstr | mstrv => exact of_slot rfl (matrixSlot_startStream_proceeds ..)
  | mzero => exact of_slot rfl (execMzero_proceeds ..)
  | mldz => exact of_slot rfl (execMldz_proceeds ..)
  | planeRowWrite => exact execPlaneRowWrite_proceeds ..
  | tileRowLand => exact execTileRowLand_proceeds ..
  | tileRowLoad => exact execTileRowLoad_proceeds ..
  | tileRowStore => exact execTileRowStore_proceeds ..
  | mchkOutcome => exact execMchkOutcome_proceeds ..
  | cplvl | cpsrc | cpdst | cpqry | semwait | barwait | csend | sigrd | sigfold | sigclr | trap | wdog =>
    exact of_slot rfl (engine_modStrand_proceeds ..)
  | cpgo => exact of_slot rfl (execCpgo_proceeds ..)
  | cpfill => exact of_slot rfl (execCpfill_proceeds ..)
  | cppub => exact of_slot rfl (execCppub_proceeds ..)
  | cpabort => exact of_slot rfl (execCpabort_proceeds ..)
  | copyCommandStart => exact execCopyCommandStart_proceeds ..
  | copyRun => exact execCopyRun_proceeds ..
  | copyCommandComplete => exact execCopyCommandComplete_proceeds ..
  | starvationGuard => exact next_proceeds ( (by simp))
  | nopE => exact of_slot rfl (engine_proceeds (fun _ _ => ⟨rfl, rfl⟩) ..)
  | semsig => exact of_slot rfl (execSemsig_proceeds ..)
  | semaphoreSignal => exact execSemaphoreSignal_proceeds ..
  | barinit | bararr => exact of_slot rfl (engine_sendUpdate_modStrand_proceeds ..)
  | barinitAnswer => exact execBarinitAnswer_proceeds ..
  | barexp => exact of_slot rfl (engine_sendUpdate_proceeds ..)
  | barqry => exact of_slot rfl (execBarqry_proceeds ..)
  | cellUpdateCycle => exact execCellUpdateCycle_proceeds ..
  | barrierRelease => exact execBarrierRelease_proceeds ..
  | spawn => exact of_slot rfl (execSpawn_proceeds ..)
  | next => exact of_slot rfl (execNext_proceeds ..)
  | yield => exact of_slot rfl (execYield_proceeds ..)
  | crecv => exact of_slot rfl (execCrecv_proceeds ..)
  | ctab => exact of_slot rfl (execCtab_proceeds ..)
  | circuitSlot => exact execCircuitSlot_proceeds ..
  | circuitTransferArrival => exact execCircuitTransferArrival_proceeds ..
  | circuitCreditReturn => exact execCircuitCreditReturn_proceeds ..
  | zinject => exact of_slot rfl (execZinject_proceeds ..)
  | eret => exact of_slot rfl (execEret_proceeds ..)
  | ctxsave => exact of_slot rfl (execCtxsave_proceeds ..)
  | ctxload => exact of_slot rfl (execCtxload_proceeds ..)
  | halt => exact of_slot rfl (execHalt_proceeds ..)
  | hoist => exact of_slot rfl (execHoist_proceeds ..)
  | remoteAccessSend => exact execRemoteAccessSend_proceeds ..
  | translationWalk => exact execTranslationWalk_proceeds ..
  | remoteAccessPerform => exact execRemoteAccessPerform_proceeds ..
  | remoteReturn => exact execRemoteReturn_proceeds ..
  | remoteStoreAccept => exact execRemoteStoreAccept_proceeds ..
  | loupeAccept => exact execLoupeAccept_proceeds ..
  | pageAbsentSuspend => exact execPageAbsentSuspend_proceeds ..
  | snop | sjmp | sbr | scall | sret | sloop | sendl | faultv => exact of_stream rfl (control_proceeds ..)
  | shalt | notify | ckpt => exact of_stream rfl (sop_proceeds fun _ => State.simpleEntry_keeps ..)
  | sli | sadd | saddi | smul | sshl | sand | smov => exact of_stream rfl (setG_proceeds ..)
  | sld => exact of_stream rfl (execSld_proceeds ..)
  | sst => exact of_stream rfl (execSst_proceeds ..)
  | park => exact of_stream rfl (execPark_proceeds ..)
  | parkPoll => exact execParkPoll_proceeds ..
  | bind => exact of_stream rfl (execBind_proceeds ..)
  | unbind => exact of_stream rfl (execUnbind_proceeds ..)
  | task => exact of_stream rfl (execTask_proceeds ..)
  | opd => exact of_stream rfl (execOpd_proceeds ..)
  | copy => exact of_stream rfl (execCopy_proceeds ..)
  | cdim => exact of_stream rfl (execCdim_proceeds ..)
  | sfence => exact of_stream rfl (execSfence_proceeds ..)
  | svar => exact of_stream rfl (execSvar_proceeds ..)
  | prio => exact of_stream rfl (execPrio_proceeds ..)
  | quota => exact of_stream rfl (execQuota_proceeds ..)
  | dispatch => exact execDispatch_proceeds s
  | entryReady => exact execEntryReady_proceeds ..
  | agingPromotion => exact execAgingPromotion_proceeds ..
  | persistentHandoffTimeout => exact next_proceeds ( (State.modEntry_keeps ..))
  | poolEntryDispatch => exact execPoolEntryDispatch_proceeds s
  | hubCopyComplete => exact execHubCopyComplete_proceeds ..
  | modFillComplete => exact execModFillComplete_proceeds ..
  | retire => exact execRetire_proceeds ..
  | headOnlyMode => exact execHeadOnlyMode_proceeds ..
  | faultDelivery => exact execFaultDelivery_proceeds ..
  | squashRemove => exact execSquashRemove_proceeds ..
  | checkFaultReexecution => exact execCheckFaultReexecution_proceeds ..
  | voteCompare => exact execVoteCompare_proceeds ..
  | thirdRunCompare => exact execThirdRunCompare_proceeds ..
  | suspicionDecay => exact execSuspicionDecay_proceeds s
  | sramUncorrectableError => exact execSramUncorrectableError_proceeds ..
  | chipletReadmission => exact execChipletReadmission_proceeds ..
  | preemptStop => exact execPreemptStop_proceeds ..
  | saveBankStart => exact execSaveBankStart_proceeds ..
  | saveBankEnd => exact execSaveBankEnd_proceeds ..
  | saveEnd => exact execSaveEnd_proceeds ..
  | restoreStart => exact execRestoreStart_proceeds ..
  | restoreBankEnd => exact execRestoreBankEnd_proceeds ..
  | resumeMerge => exact execResumeMerge_proceeds ..
  | watchdogExpiry => exact execWatchdogExpiry_proceeds ..
  | saveTimeout => exact execSaveTimeout_proceeds ..
  | windowLost => exact execWindowLost_proceeds ..
  | ctxkill => exact next_proceeds (State.kill_keeps ..)
  | killComplete => exact execKillComplete_proceeds ..
  | otswap => exact execOtswap_proceeds s
  | otswapDone => exact execOtswapDone_proceeds s
  | otsync => exact execOtsync_proceeds s
  | otsyncDone => exact execOtsyncDone_proceeds s
  | mnqheadWrite | tripcauseClear | hoistArm | irheadWrite | elheadWrite => exact next_proceeds ( (by simp))
  | owedNoticePost => exact execOwedNoticePost_proceeds s
  | extentMigration => exact execExtentMigration_proceeds ..
  | ckptExtentCopied => exact execCkptExtentCopied_proceeds ..
  | droopAlarm => exact execDroopAlarm_proceeds ..
  | droopStretchEnd | droopHalvingEnd | ballastStart => exact next_proceeds (State.modCore_keeps ..)
  | ballastEnd => exact execBallastEnd_proceeds ..
  | thermalTrip => exact execThermalTrip_proceeds ..
  | overQuota => exact execOverQuota_proceeds ..
  | energyQuotaWrite => exact execEnergyQuotaWrite_proceeds ..
  | hoistFire => exact execHoistFire_proceeds s
  | hoistPin => exact execHoistPin_proceeds s
  | hoistSnapshot => exact execHoistSnapshot_proceeds s
  | createObject => exact execCreateObject_proceeds s
  | freeObject => exact execFreeObject_proceeds s
  | createContext => exact execCreateContext_proceeds s
  | restartContext => exact execRestartContext_proceeds s
  | writeCapabilityEntry => exact execWriteCapabilityEntry_proceeds s
  | interruptRecordPost => exact execInterruptRecordPost_proceeds s
  | pennantFlitReceive => exact execPennantFlitReceive_proceeds ..
  | boot => exact execBoot_proceeds s
  | registerWrite => exact execRegisterWrite_proceeds ..
  | illegalOpcode => exact (onCore_issueTrap_proceeds ..).of fun e => e.illegal _ _ rfl
  | fetchFault => exact (onCore_issueTrap_proceeds ..).of fun e => e.fetch _ _ rfl
  | unlistedOp => exact (execUnlistedOp_proceeds ..).of fun e => e.unlisted _ rfl
  | streamObjectEnd => exact (execStreamObjectEnd_proceeds ..).of fun e => e.ended rfl
  | hostWindowAccess => exact execHostWindowAccess_proceeds ..
  | badRequest => exact execBadRequest_proceeds ..
  | otBadOp => exact next_proceeds (by split <;> simp)
  | correctedError => exact execCorrectedError_proceeds ..
  | chipletRetirementRequest => exact execChipletRetirementRequest_proceeds ..
  | checkpointRestart => exact execCheckpointRestart_proceeds ..

end Sys2Proof.Machine
end

section
/-!
PROOFS. The moves of the order of work leave a live machine, or a state between slots in which the act they name can run.
-/

namespace Sys2Proof.Machine

/-! ### The machine's own events -/

/-- None of the events stands for a word that decodes to no instruction. -/
def Own (l : List Event) : Prop := ∀ e ∈ l, e.instr.isRefused = false

theorem own_nil : Own [] := by simp [Own]
theorem own_cons {e : Event} {l : List Event} (he : e.instr.isRefused = false) (hl : Own l) : Own (e :: l) := by
  simpa [Own, he] using hl
theorem own_when (b : Bool) {e : Event} (he : e.instr.isRefused = false) : Own (when_ b e) := by
  unfold when_
  split
  · exact own_cons he own_nil
  · exact own_nil
theorem own_append {l m : List Event} (hl : Own l) (hm : Own m) : Own (l ++ m) := fun e he =>
  (List.mem_append.1 he).elim (hl e) (hm e)
theorem own_map {α : Type} {f : α → Event} (hf : ∀ x, (f x).instr.isRefused = false) (l : List α) : Own (l.map f) := by
  intro e he
  obtain ⟨x, -, rfl⟩ := List.mem_map.1 he
  exact hf x
theorem own_flatMap {α : Type} {f : α → List Event} (hf : ∀ x, Own (f x)) (l : List α) : Own (l.flatMap f) := by
  intro e he
  obtain ⟨x, -, hx⟩ := List.mem_flatMap.1 he
  exact hf x e hx

theorem State.otCommand_own (s : State) : Own s.otCommand := own_when _ (by split_ifs <;> rfl)
theorem State.commanded_own (s : State) : Own s.commanded := own_when _ (by split <;> rfl)
theorem State.strays_own (s : State) : Own s.strays := own_map (fun e => by split <;> rfl) _
theorem State.landings_own (s : State) (k) : Own (s.landings k) :=
  own_append (own_append (own_append (own_append (own_when _ rfl) (own_when _ rfl)) (own_when _ rfl)) (own_when _ rfl)) (own_when _ rfl)
theorem State.exposedDue_own (s : State) (k) : Own (s.exposedDue k) := by
  unfold State.exposedDue
  split
  · exact own_nil
  · exact own_cons rfl own_nil
  · exact own_cons rfl own_nil
  · exact own_cons (by split <;> rfl) own_nil
theorem State.matrixEvents_own (s : State) (k) : Own (s.matrixEvents k) :=
  own_append (own_append (own_append (own_append (own_append (own_append (own_when _ rfl) (own_when _ rfl)) (own_when _ rfl))
    (own_when _ rfl)) (own_when _ rfl)) (own_when _ rfl)) (own_when _ rfl)
theorem State.remoteEvents_own (s : State) (r) : Own (s.remoteEvents r) :=
  own_append (own_append (own_append (own_append (own_when _ rfl) (own_when _ rfl)) (own_when _ rfl)) (own_when _ rfl)) (own_when _ rfl)
theorem State.engineEvents_own (s : State) (k) : Own (s.engineEvents k) :=
  own_append (own_append (own_when _ rfl) (own_when _ rfl)) (own_when _ rfl)
theorem State.hubEvents_own (s : State) (h x) : Own (s.hubEvents h x) := by
  unfold State.hubEvents
  split
  · split
    · exact own_cons rfl own_nil
    · split <;> exact own_when _ rfl
  · split
    · exact own_when _ rfl
    · split <;> exact own_when _ rfl
theorem State.variable_own (s : State) : Own s.variable_ := by
  refine own_append (own_append (own_append (own_append (own_append ?_ ?_) ?_) ?_) ?_) ?_
  · exact own_flatMap s.remoteEvents_own _
  · exact own_flatMap s.engineEvents_own _
  · exact own_flatMap (fun p : Nat × HubCopy => s.hubEvents_own p.1 p.2) _
  · split
    · exact own_cons (by split <;> rfl) own_nil
    · exact own_nil
  · exact own_when _ rfl
  · exact own_flatMap (fun p => own_when _ rfl) _
theorem State.faultEvents_own (s : State) : Own s.faultEvents :=
  own_append (own_append
    (own_flatMap (fun _ => own_append (own_append (own_append (own_when _ rfl) (own_when _ rfl)) (own_when _ rfl)) (own_when _ rfl)) _)
    (own_flatMap (fun _ => own_when _ rfl) _)) (own_flatMap (fun _ => own_when _ rfl) _)
theorem State.readyEvents_own (s : State) : Own s.readyEvents :=
  own_flatMap (fun _ => own_append (own_append (own_when _ rfl) (own_when _ rfl)) (own_when _ rfl)) _
theorem State.quotaEvents_own (s : State) : Own s.quotaEvents := own_flatMap (fun _ => own_when _ rfl) _
theorem State.hubTurn_own (s : State) : Own s.hubTurn :=
  own_append (own_append (own_when _ rfl) (own_when _ rfl)) (own_flatMap (fun _ => own_append (own_when _ rfl) (own_when _ rfl)) _)

/-! ### Running cores and contexts -/

/-- The cores and the contexts of t are those of s, and the same context decodes. -/
@[simp, reducible] def State.SameRunners (t s : State) : Prop := t.cores = s.cores ∧ t.ctxs = s.ctxs ∧ t.curCtx = s.curCtx

section
variable {s t u : State}

theorem State.SameRunners.trans (h : u.SameRunners t) (h' : t.SameRunners s) : u.SameRunners s :=
  ⟨h.1.trans h'.1, h.2.1.trans h'.2.1, h.2.2.trans h'.2.2⟩
theorem State.SameRunners.core (h : t.SameRunners s) (k : Nat) : t.core k = s.core k := by simp only [State.core, h.1]
theorem State.SameRunners.runsCtx (h : t.SameRunners s) (hs : s.RunsCtx) : t.RunsCtx := by
  unfold State.RunsCtx State.ctx at *
  rw [h.2.1, h.2.2]
  exact hs
theorem State.foldl_sameRunners {α : Type} {f : State → α → State} (hf : ∀ t x, (f t x).SameRunners t) (l : List α) (s : State) :
    (l.foldl f s).SameRunners s := by
  induction l generalizing s with
  | nil => exact ⟨rfl, rfl, rfl⟩
  | cons x l ih => exact (ih _).trans (hf s x)
end

section
variable (s : State)

@[simp] theorem State.modHub_sameRunners (f) : (s.modHub f).SameRunners s := ⟨rfl, rfl, rfl⟩
@[simp] theorem State.modCached_sameRunners (port obj ext f) : (s.modCached port obj ext f).SameRunners s := ⟨rfl, rfl, rfl⟩
@[simp] theorem State.modEntryOf_sameRunners (obj ext f) : (s.modEntryOf obj ext f).SameRunners s := by
  unfold State.modEntryOf; split <;> simp
@[simp] theorem State.writeBack_sameRunners (port c) : (s.writeBack port c).SameRunners s := by
  unfold State.writeBack; split <;> simp
@[simp] theorem State.fillCache_sameRunners (port c) : (s.fillCache port c).SameRunners s := by
  simp only [State.fillCache]
  split
  · simp
  · split
    · simp
    · exact (State.writeBack_sameRunners ..).trans ⟨rfl, rfl, rfl⟩
@[simp] theorem State.post_sameRunners (r) : (s.post r).SameRunners s := by
  unfold State.post; split <;> simp
@[simp] theorem State.logError_sameRunners (ws) : (s.logError ws).SameRunners s := by
  simp only [State.logError]
  split_ifs
  · exact s.modHub_sameRunners _
  · exact s.modHub_sameRunners _
  · exact (State.post_sameRunners ..).trans (s.modHub_sameRunners _)
@[simp] theorem State.logEntry_sameRunners (port obj ext) : (s.logEntry port obj ext).SameRunners s := by
  simp only [State.logEntry]
  exact State.logError_sameRunners ..
@[simp] theorem State.walk_sameRunners (port obj ext) : (s.walk port obj ext).1.SameRunners s := by
  simp only [State.walk]
  split
  · exact s.logEntry_sameRunners ..
  · split
    · exact ⟨rfl, rfl, rfl⟩
    · split
      · exact ⟨rfl, rfl, rfl⟩
      · split_ifs
        · exact s.logEntry_sameRunners ..
        · exact s.fillCache_sameRunners ..
        · exact ⟨rfl, rfl, rfl⟩
@[simp] theorem State.notice_sameRunners (obj ext acc hw) : (s.notice obj ext acc hw).SameRunners s := by
  simp only [State.notice]
  split
  · exact s.modHub_sameRunners _
  · exact (State.post_sameRunners ..).trans (s.modHub_sameRunners _)
@[simp] theorem State.crossing_sameRunners (obj ext acc) : (s.crossing obj ext acc).SameRunners s := by
  have hm : ((s.modEntryOf obj ext (·.or0 4)).modCached 8 obj ext (·.or0 4)).SameRunners s :=
    (State.modCached_sameRunners ..).trans (State.modEntryOf_sameRunners ..)
  unfold State.crossing
  split
  · exact ⟨rfl, rfl, rfl⟩
  · dsimp only
    split_ifs
    · exact ⟨rfl, rfl, rfl⟩
    · exact (State.notice_sameRunners ..).trans hm
    · exact State.SameRunners.trans ⟨rfl, rfl, rfl⟩ hm
    · exact (State.modHub_sameRunners ..).trans hm
@[simp] theorem State.countAccess_sameRunners (obj ext) : (s.countAccess obj ext).SameRunners s := by
  unfold State.countAccess
  extract_lets t
  have ht : t.SameRunners s := by
    unfold t
    split
    · exact ⟨rfl, rfl, rfl⟩
    · exact s.walk_sameRunners ..
  split
  · exact ht
  · extract_lets a u
    have hu : u.SameRunners s := (State.modCached_sameRunners ..).trans ht
    split
    · exact (State.crossing_sameRunners ..).trans hu
    · exact hu
theorem State.countFetch_sameRunners (obj off) : (s.countFetch obj off).SameRunners s :=
  State.foldl_sameRunners (fun t x => by
    split
    · exact t.countAccess_sameRunners ..
    · exact ⟨rfl, rfl, rfl⟩) _ s

theorem State.draw_sameRunners : s.draw.2.SameRunners s := by
  unfold State.draw; split <;> exact ⟨rfl, rfl, rfl⟩
@[simp] theorem State.mode_modNow (k j f) : ((s.modNow k f).core j).mode = (s.core j).mode := by
  simp only [State.core_modNow]; split <;> simp_all
@[simp] theorem State.mode_modStrand (k j f) : ((s.modStrand k f).core j).mode = (s.core j).mode := by
  simp only [State.core_modStrand]; split <;> simp_all
@[simp] theorem State.mode_restart (k j) : ((s.restart k).core j).mode = (s.core j).mode := by
  simp only [State.restart]
  split
  · exact (State.mode_modStrand ..).trans (s.mode_modStrand ..)
  · exact s.mode_modStrand ..

/-- Increments that overflow a semaphore leave a late fault. -/
theorem State.addSem_late_of_overflow {k n i : Nat} (h : 65535 < (s.strand k).semaphore n + i) :
    ((s.addSem k n i).core k).now.late ≠ [] := by
  simp [State.addSem, h, State.late]
theorem State.addSem_late {k : Nat} (h : (s.core k).now.late ≠ []) (n i) : ((s.addSem k n i).core k).now.late ≠ [] := by
  simp only [State.addSem]
  split <;> simp [State.late, h]
theorem State.overflow_late {k : Nat} (h : s.overflowing k (fun _ => 0) ≠ []) : ((s.overflow k).core k).now.late ≠ [] := by
  have later (l : List (Nat × Nat)) (t : State) (ht : (t.core k).now.late ≠ []) :
      ((l.foldl (fun s p =>
        (s.addSem k p.1 p.2).modStrand k fun st => st.withSy fun y => { y with semAdd := SMap.erase y.semAdd p.1 }) t).core k).now.late
          ≠ [] := by
    induction l generalizing t with
    | nil => exact ht
    | cons p l ih => exact ih _ (by simpa using t.addSem_late ht p.1 p.2)
  unfold State.overflow
  cases e : s.overflowing k fun _ => 0 with
  | nil => exact absurd e h
  | cons p l =>
    refine later l _ ?_
    have hp : 65535 < (s.strand k).semaphore p.1 + p.2 := by
      have hm : p ∈ s.overflowing k fun _ => 0 := e ▸ List.mem_cons_self ..
      simpa using (List.mem_filter.1 hm).2
    simpa using s.addSem_late_of_overflow hp
end

/-! ### Moves that leave the machine live -/

/-- Nothing from outside is a slot instruction, an S-op or a refused word. -/
def State.OuterEnv (s : State) : Prop := ∀ p ∈ s.env, p.2.isSlot = false ∧ p.2.isStream = false ∧ p.2.isRefused = false

/-- A state between slots: nothing from outside needs a runner, and no slot has the turn. -/
def State.Quiet (s : State) : Prop := s.OuterEnv ∧ ∀ k, s.turn ≠ .core k 8

/-- The instruction whose row an act runs. -/
noncomputable def Act.row : Act → Instr
  | .instr i => i
  | .event e => e.instr

/-- A move leaves a live state, or a state between slots in which its act can run. -/
inductive Sound : Move → Prop
  | goes {t : State} (h : t.Live) : Sound (t, none)
  | does {t : State} {a : Act} (h : t.Quiet) (ha : t.Enables a.row) : Sound (t, some a)

section
variable {s t : State}

theorem State.Quiet.live (h : s.Quiet) : s.Live := ⟨h.1, fun k e => absurd e (h.2 k)⟩
theorem State.Keeps.outerEnv (h : t.Keeps s) (hs : s.OuterEnv) : t.OuterEnv := by
  unfold State.OuterEnv
  rw [h.2]
  exact hs
theorem State.Keeps.quiet (h : t.Keeps s) (hs : s.Quiet) : t.Quiet := ⟨h.outerEnv hs.1, by rw [h.1]; exact hs.2⟩
theorem State.stage_outerEnv (s : State) (k n) : (s.stage k n).OuterEnv ↔ s.OuterEnv := Iff.rfl
theorem State.OuterEnv.stage (h : s.OuterEnv) (k : Nat) {n : Nat} (hn : n ≠ 8) : (s.stage k n).Quiet :=
  ⟨h, fun _ e => by cases e; exact hn rfl⟩
theorem State.OuterEnv.at_ (h : s.OuterEnv) {t : Turn} (ht : ∀ k, t ≠ .core k 8) : (s.at_ t).Quiet := ⟨h, ht⟩
theorem State.Quiet.frozen (h : s.Quiet) (k w) : (s.frozen k w).Quiet := State.OuterEnv.stage h.1 k (by decide)
theorem State.Quiet.advance (h : s.Quiet) (k w) : (s.advance k w).Quiet := State.OuterEnv.stage h.1 k (by decide)
theorem State.OuterEnv.nextCore (h : s.OuterEnv) (k) : (s.nextCore k).Quiet := by
  unfold State.nextCore
  split
  · exact h.stage _ (by decide)
  · exact h.at_ nofun

theorem State.enables_of_outer {i : Instr} (h : i.isSlot = false ∧ i.isStream = false ∧ i.isRefused = false) : s.Enables i where
  slot e := by simp [h.1] at e
  stream e := by simp [h.2.1] at e
  illegal _ _ e := by subst e; cases h.2.2
  fetch _ _ e := by subst e; cases h.2.2
  unlisted _ e := by subst e; cases h.2.2
  ended e := by subst e; cases h.2.2
/-- A slot instruction needs a running core only. -/
theorem State.enables_slot {i : Instr} (hi : i.isSlot = true) (h : s.RunsCore) : s.Enables i where
  slot _ := h
  stream e := by
    unfold Instr.isSlot at hi
    unfold Instr.isStream at e
    split at hi <;> simp_all
  illegal _ _ _ := h
  fetch _ _ _ := h
  unlisted _ e := by subst e; cases hi
  ended e := by subst e; cases hi
/-- An S-op needs a running context only. -/
theorem State.enables_stream {i : Instr} (hi : i.isStream = true) (h : s.RunsCtx) : s.Enables i where
  slot e := by
    unfold Instr.isStream at hi
    unfold Instr.isSlot at e
    split at hi <;> simp_all
  stream _ := h
  illegal _ _ e := by subst e; cases hi
  fetch _ _ e := by subst e; cases hi
  unlisted _ _ := h
  ended _ := h
theorem Event.outer_row {e : Event} (h : e.instr.isRefused = false) :
    e.instr.isSlot = false ∧ e.instr.isStream = false ∧ e.instr.isRefused = false := ⟨e.not_slot.1, e.not_slot.2, h⟩

theorem goes_sound (h : s.Quiet) : Sound (goes s) := .goes h.live
theorem does_sound {e : Event} (h : s.Quiet) (he : e.instr.isRefused = false) : Sound (does s e) :=
  .does h (State.enables_of_outer (Event.outer_row he))
theorem ite_sound {c : Prop} [Decidable c] {m n : Move} (hm : Sound m) (hn : Sound n) : Sound (if c then m else n) := by
  split <;> assumption
theorem goes_stage_sound (h : s.OuterEnv) (k : Nat) {n : Nat} (hn : n ≠ 8 := by decide) : Sound (goes (s.stage k n)) :=
  goes_sound (h.stage k hn)
theorem does_stage_sound (h : s.OuterEnv) (k : Nat) {n : Nat} {e : Event} (he : e.instr.isRefused = false) (hn : n ≠ 8 := by decide) :
    Sound (does (s.stage k n) e) := does_sound (h.stage k hn) he
theorem firstOr_sound {l : List Event} {t : Turn} (h : s.Quiet) (hl : Own l) (ht : ∀ k, t ≠ .core k 8) : Sound (firstOr s l t) := by
  cases l with
  | nil => exact goes_sound (h.1.at_ ht)
  | cons e l => exact does_sound h (hl e (List.mem_cons_self ..))

theorem State.mem_insertEnv {t : Nat} {i : Instr} {l : List (Nat × Instr)} {p : Nat × Instr} (hp : p ∈ insertEnv t i l) :
    p = (t, i) ∨ p ∈ l := by
  induction l with
  | nil => simpa [insertEnv] using hp
  | cons q l ih =>
    unfold insertEnv at hp
    split at hp
    · simpa using hp
    · rcases List.mem_cons.1 hp with e | e
      · exact .inr (e ▸ List.mem_cons_self ..)
      · exact (ih e).imp_right (List.mem_cons_of_mem _)
end

section
variable {s : State} (h : s.Quiet)
include h

theorem State.before_sound : Sound s.before :=
  ite_sound (firstOr_sound h (own_append s.commanded_own s.strays_own) nofun) (goes_sound (h.1.at_ nofun))
theorem State.outside_sound : Sound s.outside := by
  unfold State.outside
  split
  · next e l he => exact does_sound h (s.otCommand_own e (he ▸ List.mem_cons_self ..))
  · next t i r _ henv =>
    have hi := h.1 (t, i) (henv ▸ List.mem_cons_self ..)
    have hr (p) (hp : p ∈ r) := h.1 p (henv ▸ List.mem_cons_of_mem _ hp)
    split
    · dsimp only
      split
      · refine goes_sound ⟨fun p hp => ?_, h.2⟩
        rcases State.mem_insertEnv hp with rfl | e
        · exact hi
        · exact hr p e
      · split
        · exact .does ⟨hr, h.2⟩ (State.enables_of_outer hi)
        · exact goes_sound ⟨hr, h.2⟩
    · exact State.before_sound h
  · exact State.before_sound h
theorem State.begin_sound (k) : Sound (s.begin k) := by
  unfold State.begin
  extract_lets c _ t
  have ht : t.OuterEnv := h.1
  refine ite_sound (goes_sound (h.1.nextCore k)) (ite_sound (goes_stage_sound h.1 k) ?_)
  split
  · exact goes_stage_sound ht k
  · exact goes_stage_sound (State.Keeps.outerEnv (t.modCore_keeps ..) ht) k
  · exact goes_stage_sound ((State.receive_keeps ..).outerEnv ht) k
  · exact goes_stage_sound ht k
  · exact goes_stage_sound ht k
  · exact goes_stage_sound ht k (by split <;> decide)
  · exact goes_stage_sound ht k
theorem State.sequence_sound (k) : Sound (s.sequence k) := by
  have stop : Sound (goes (s.stage k 11)) := goes_stage_sound h.1 k
  unfold State.sequence
  extract_lets c st timeout
  split
  · exact ite_sound (does_sound h rfl) (ite_sound (firstOr_sound h (own_append (s.exposedDue_own k) (own_cons rfl own_nil)) nofun)
      (ite_sound (firstOr_sound h (own_append (s.exposedDue_own k) (own_cons rfl own_nil)) nofun) (goes_stage_sound h.1 k)))
  · refine ite_sound (does_stage_sound h.1 k rfl) ?_
    split
    · exact ite_sound (goes_stage_sound ((s.beginSave_keeps k).outerEnv h.1) k) stop
    · exact stop
    · refine ite_sound stop ?_
      split
      · next q _ _ =>
        extract_lets t
        have ht : t.OuterEnv := State.Keeps.outerEnv (State.keeps_ite ⟨rfl, rfl⟩ (s.saveRegisters_keeps k)) h.1
        exact ite_sound (goes_stage_sound ((t.beginImage_keeps k).outerEnv ht) k)
          (ite_sound (does_stage_sound ht k rfl) (goes_stage_sound ht k))
      · exact does_sound h rfl
      · exact does_stage_sound h.1 k rfl
      · exact stop
  · refine ite_sound (does_stage_sound h.1 k rfl) ?_
    split
    · exact ite_sound (does_stage_sound h.1 k rfl) stop
    · exact stop
    · refine ite_sound stop ?_
      split
      · exact goes_stage_sound ((s.beginRestoreBank_keeps k).outerEnv h.1) k
      · exact does_sound h rfl
      · exact ite_sound stop (does_stage_sound h.1 k rfl)
      · exact goes_stage_sound ((s.endRestore_keeps k).outerEnv h.1) k
      · exact stop
  · exact stop
theorem State.ending_sound (k cont) : Sound (s.ending k cont) := by
  unfold State.ending
  extract_lets t st
  have ht : t.Quiet := (s.restart_keeps k).quiet h
  refine ite_sound (goes_sound (ht.frozen k _)) ?_
  split
  · exact goes_stage_sound (State.Keeps.outerEnv ((State.modNow_keeps ..).trans (t.continueTask_keeps ..)) ht.1) k
  · exact goes_stage_sound ((t.endStrand_keeps k).outerEnv ht.1) k
theorem State.yielded_sound (k) : Sound (s.yielded k) := by
  unfold State.yielded
  split
  · exact ite_sound (goes_sound h) (goes_sound (h.frozen k _))
  · exact goes_sound (h.frozen k _)
theorem State.closing_sound (k) : Sound (s.closing k) :=
  ite_sound (does_sound h rfl) (ite_sound (does_sound h rfl) (goes_stage_sound h.1 k))
end

/-! ### Issue -/

section
variable {s : State}

theorem State.runsCore_stage {k : Nat} (hk : (s.core k).mode = .running) (n) : (s.stage k n).RunsCore := ⟨k, ⟨n, rfl⟩, hk⟩

theorem State.runSlot_sound (h : s.OuterEnv) {k : Nat} (hk : (s.core k).mode = .running) : Sound (s.runSlot k) := by
  have quiet : (s.stage k 9).Quiet := h.stage k (by decide)
  have runs := State.runsCore_stage hk 9
  unfold State.runSlot
  split
  · split
    · next a _ i _ _ x e =>
      exact .does quiet (State.enables_slot (decodeSlot_isSlot (by unfold slotKind; split <;> decide) e) runs)
    · exact .does quiet ⟨nofun, nofun, fun _ _ _ => runs, nofun, nofun, nofun⟩
    · exact goes_stage_sound h k
  · exact goes_stage_sound h k

section
variable (h : s.Quiet) {k : Nat} (hk : (s.core k).mode = .running)
include h hk

theorem State.openBundle_sound (a n slots w) : Sound (s.openBundle k a n slots w) := by
  unfold State.openBundle
  extract_lets t u v
  have ht : t.OuterEnv := (s.countFetch_keeps ..).outerEnv h.1
  have hv : v.Keeps t := (State.restart_keeps ..).trans ((State.modStrand_keeps ..).trans (State.modNow_keeps ..))
  have hm : (v.core k).mode = .running := by
    rw [State.mode_restart, State.mode_modStrand, State.mode_modNow, (s.countFetch_sameRunners ..).core, hk]
  exact State.runSlot_sound ((v.stage_outerEnv k 8).2 (hv.outerEnv ht)) (by rw [State.core_stage]; exact hm)
theorem State.tryBundle_sound (a n slots) : Sound (s.tryBundle k a n slots) := by
  unfold State.tryBundle
  extract_lets c ds w order
  split
  next early t e =>
    have drawn : t.Keeps s ∧ t.SameRunners s := by
      split at e
      · have hd := s.draw_sameRunners
        have hk' := s.draw_keeps
        rw [e] at hd hk'; exact ⟨hk', hd⟩
      · cases e; exact ⟨⟨rfl, rfl⟩, rfl, rfl, rfl⟩
    obtain ⟨hkeeps, hrunners⟩ := drawn
    have ht : t.Quiet := hkeeps.quiet h
    have ht' : (order true t).Quiet := ht
    have frozen (b) : Sound (goes (t.frozen k b)) := goes_sound (ht.frozen k b)
    refine ite_sound (frozen _) (ite_sound (goes_sound (ht'.frozen k _)) ?_)
    split
    · exact frozen _
    · exact frozen _
    · exact ite_sound (frozen _) (State.openBundle_sound ht (by rw [hrunners.core]; exact hk) ..)
theorem State.fetchFails_sound (a c slots) : Sound (s.fetchFails k a c slots) := by
  refine ite_sound (goes_sound (h.frozen k _)) ?_
  extract_lets t
  have ht : t.OuterEnv := (State.restart_keeps ..).outerEnv h.1
  have hm : (t.core k).mode = .running := by simp only [t, State.mode_restart, State.mode_modStrand, hk]
  refine .does (State.OuterEnv.stage ht k (by decide)) ⟨nofun, nofun, nofun, fun _ _ _ => ?_, nofun, nofun⟩
  exact State.runsCore_stage (s := t.advance k _) (by simpa [State.advance] using hm) 9
theorem State.fetchIssue_sound : Sound (s.fetchIssue k) := by
  have bundle (a n slots) : Sound (s.tryBundle k a n slots) := State.tryBundle_sound h hk ..
  have frozen : Sound (goes (s.frozen k false)) := goes_sound (h.frozen k _)
  have hq : Sound (goes s) := goes_sound h
  unfold State.fetchIssue
  extract_lets st past next
  split
  next a first e =>
    extract_lets lost
    have hnext (p skip) : Sound (next p skip) := goes_sound h
    have hlost : Sound lost := goes_sound (State.Keeps.quiet ((State.late_keeps ..).trans (State.logEntry_keeps ..)) h)
    split
    · exact frozen
    · exact frozen
    · exact goes_sound h
    · exact hlost
    · exact hlost
    · exact ite_sound (hnext ..) (ite_sound (goes_sound h) (ite_sound (goes_sound h) (bundle ..)))
    · exact hnext ..
    · exact ite_sound (hnext ..) (State.fetchFails_sound h hk ..)
    · exact ite_sound (hnext ..) (ite_sound (goes_sound h) (bundle ..))
theorem State.ordinary_sound : Sound (s.ordinary k) := by
  have limited {c : Prop} [Decidable c] {m : Move} (hm : Sound m) : Sound (if c then goes (s.frozen k false) else m) :=
    ite_sound (goes_sound (h.frozen k _)) hm
  unfold State.ordinary
  extract_lets c st
  refine ite_sound (goes_sound h) (limited (ite_sound (does_sound (h.frozen k _) rfl) (ite_sound ?_ (ite_sound ?_ (ite_sound ?_
    (ite_sound (State.yielded_sound h k) (ite_sound (goes_sound (h.frozen k _)) (State.fetchIssue_sound h hk))))))))
  · exact limited (goes_sound (State.Quiet.advance ((s.modStrand_keeps ..).quiet h) k _))
  · exact ite_sound (goes_sound h) (goes_sound (h.frozen k _))
  · exact limited (does_sound (((s.restart_keeps k).quiet h).advance k _) rfl)
end

theorem State.faultNow_late_sound (h : s.Quiet) {k : Nat} (hl : (s.core k).now.late ≠ []) : Sound (s.faultNow k) := by
  unfold State.faultNow
  extract_lets c st absent limited t
  have ht : t.Quiet := State.Keeps.quiet ((State.takeLate_keeps ..).trans (State.modNow_keeps ..)) h
  rw [if_pos (by simpa [c] using hl)]
  exact ite_sound (goes_sound (State.Quiet.frozen ((t.modStrand_keeps ..).quiet ht) k _)) (goes_sound (ht.advance k _))
theorem State.faultNow_sound (h : s.Quiet) {k : Nat} (hk : (s.core k).mode = .running) : Sound (s.faultNow k) := by
  by_cases hl : (s.core k).now.late = []
  case neg => exact State.faultNow_late_sound h hl
  unfold State.faultNow
  extract_lets c st absent limited t
  rw [if_neg (by simp [c, hl])]
  refine ite_sound (goes_sound (h.frozen k _)) ?_
  split
  · exact goes_sound (((s.softwareTrap_keeps ..).quiet h).advance k _)
  · refine ite_sound (goes_sound (((s.deliverAbsent_keeps k).quiet h).advance k _)) ?_
    split
    · exact ite_sound (State.ordinary_sound h hk) (State.ending_sound h ..)
    · exact State.ordinary_sound h hk
theorem State.attempt_sound (h : s.Quiet) (k) : Sound (s.attempt k) := by
  unfold State.attempt
  extract_lets c st
  split
  · exact goes_stage_sound h.1 k
  · next hk =>
    have running : (s.core k).mode = .running := Decidable.not_not.1 hk
    split
    · exact ite_sound (goes_sound h) (ite_sound (State.faultNow_sound h running) (goes_sound (h.frozen k _)))
    · exact State.faultNow_sound h running
theorem State.issueAt_sound (h : s.Quiet) (k) : Sound (s.issueAt k) := by
  unfold State.issueAt
  split
  · exact State.attempt_sound h k
  · next ho =>
    exact ite_sound (State.attempt_sound h k) (State.faultNow_late_sound ((s.overflow_keeps k).quiet h) (s.overflow_late ho))
theorem State.issue_sound (h : s.Quiet) (k) : Sound (s.issue k) := by
  have first : Sound (firstOr s (s.exposedDue k) (.core k 7)) := firstOr_sound h (s.exposedDue_own k) nofun
  exact ite_sound (State.issueAt_sound h k) (ite_sound first (ite_sound first
    (ite_sound (goes_sound (h.frozen k _)) (State.issueAt_sound h k))))
theorem State.afterSlot_live (h : s.OuterEnv) (k) : (s.afterSlot k).Live := by
  unfold State.afterSlot
  split
  · exact (h.stage k (by decide)).live
  · next hk =>
    split
    · exact (State.OuterEnv.stage ((s.settleResume_keeps k).outerEnv h) k (by decide)).live
    · refine ⟨h, fun j e => ?_⟩
      have hj : j = k := by injection e with e; exact e.symm
      subst hj
      rw [State.core_stage, State.mode_modStrand]
      exact Decidable.not_not.1 hk
    · exact (h.stage k (by decide)).live
theorem State.endBundle_quiet (h : s.OuterEnv) (k) : (s.endBundle k).Quiet := by
  unfold State.endBundle
  have ht := (s.applyDeferred_keeps k).outerEnv h
  refine State.OuterEnv.stage ?_ k (by decide)
  split <;> exact ht
end

end Sys2Proof.Machine
end

section
/-!
PROOFS. A live machine always makes its next step (O6) and stays live (O5).
-/

namespace Sys2Proof.Machine

/-! ### Turns of the order of work -/

section
variable {s : State}

theorem State.endCycle_quiet (h : s.OuterEnv) (k) : (s.endCycle k).Quiet := by
  unfold State.endCycle
  extract_lets +onlyGivenNames c engine t
  have ht : t.Keeps s := State.keeps_ite (s.chargeBallast_keeps ..) ⟨rfl, rfl⟩
  refine State.OuterEnv.nextCore (State.Keeps.outerEnv (State.Keeps.trans ?_ ht) h) _
  split <;> simp
theorem State.coreTurn_sound (h : s.Live) {k n : Nat} (e : s.turn = .core k n) : Sound (s.coreTurn k n) := by
  by_cases hn : n = 8
  · subst hn
    exact State.runSlot_sound h.1 (h.2 k e)
  have hq : s.Quiet := ⟨h.1, fun j hj => by rw [e] at hj; cases hj; exact hn rfl⟩
  have offered {i : Nat} (hi : i ≠ 8) :
      Sound (if s.offers k then does (s.stage k i) (.circuitSlot k) else goes (s.stage k i)) :=
    ite_sound (does_stage_sound h.1 k rfl hi) (goes_stage_sound h.1 k hi)
  unfold State.coreTurn
  split
  · exact ite_sound (does_sound hq rfl) (State.begin_sound hq k)
  · exact ite_sound (does_stage_sound h.1 k rfl) (goes_stage_sound h.1 k)
  · exact firstOr_sound hq (s.landings_own k) nofun
  · exact goes_stage_sound ((s.matrixReads_keeps ..).outerEnv h.1) k
  · exact firstOr_sound hq (s.matrixEvents_own k) nofun
  · exact offered (by decide)
  · exact State.sequence_sound hq k
  · exact State.issue_sound hq k
  · exact absurd rfl hn
  · exact .goes (State.afterSlot_live h.1 k)
  · exact goes_sound (State.endBundle_quiet h.1 k)
  · exact State.closing_sound hq k
  · exact goes_sound (State.endCycle_quiet h.1 k)
  · exact offered (by decide)
  · exact ite_sound (does_stage_sound h.1 k rfl) (goes_sound (State.OuterEnv.nextCore h.1 _))
  · exact goes_sound (State.OuterEnv.nextCore ((s.modCore_keeps ..).outerEnv h.1) _)
end

section
variable {s : State} (h : s.Quiet)
include h

theorem State.varTurn_sound (n) : Sound (s.varTurn n) := by
  have starved {t : State} (ht : t.OuterEnv) : Sound (goes (t.countStarved.at_ (.prism 0))) :=
    goes_sound (State.OuterEnv.at_ (t.countStarved_keeps.outerEnv ht) nofun)
  unfold State.varTurn
  split
  · refine goes_sound ⟨?_, nofun⟩
    have flushed : s.divertSigs.flushPane.Keeps s := (State.flushPane_keeps _).trans s.divertSigs_keeps
    exact (flushed.outerEnv h.1 : s.divertSigs.flushPane.OuterEnv)
  · exact firstOr_sound h (own_map (fun _ => rfl) _) nofun
  · split
    · exact starved h.1
    · next e r hv =>
      have hd : s.draw.2.Quiet := s.draw_keeps.quiet h
      dsimp only
      split
      · next x hx => exact does_sound hd (s.variable_own x (hv ▸ List.mem_of_getElem? hx))
      · exact starved hd.1
  · split
    · exact does_sound (h.1.at_ nofun) rfl
    · exact goes_sound (h.1.at_ nofun)
theorem State.dispatchTurn_sound : Sound s.dispatchTurn := by
  have rest {t : State} (ht : t.Keeps s) : Sound (goes (t.at_ (.prism 36))) := goes_sound ((ht.outerEnv h.1).at_ nofun)
  unfold State.dispatchTurn
  extract_lets cs
  clear_value cs
  split
  · split
    · exact does_sound (h.1.at_ nofun) rfl
    · next o _ =>
      have hr : ((s.tryRecord o).getD s).Keeps s := by
        cases e : s.tryRecord o with
        | none => exact ⟨rfl, rfl⟩
        | some t => exact State.tryRecord_keeps e
      exact rest ⟨hr.1, hr.2⟩
    · exact does_sound (h.1.at_ nofun) rfl
  · split
    · exact rest (s.preemptFor_keeps ..)
    · exact rest ⟨rfl, rfl⟩
theorem State.decodeTurn_sound (j n) : Sound (s.decodeTurn j n) := by
  unfold State.decodeTurn
  extract_lets x c next off t ext lost
  have hnext (n k) : next n ≠ .core k 8 := by
    unfold next
    split <;> nofun
  have hlost {u : State} (hu : u.OuterEnv) : Sound (lost u) :=
    goes_sound (State.OuterEnv.at_ ((u.decodeFault_keeps ..).outerEnv hu) (hnext _))
  refine ite_sound (goes_sound (h.1.at_ nofun)) ?_
  split
  · exact goes_sound (h.1.at_ (hnext _))
  next hd =>
  have decodes : c.decodes = true := by
    by_contra hc
    simp [hc] at hd
  have runs : t.RunsCtx := by
    have hr : c.run = 1 := by
      unfold Context.decodes at decodes
      simp at decodes
      exact decodes.1.1
    exact hr
  have fetched (n) : ((t.countFetch c.sobj off).at_ (next n)).Quiet :=
    State.OuterEnv.at_ ((t.countFetch_keeps ..).outerEnv h.1) (hnext n)
  have runs' (n) : ((t.countFetch c.sobj off).at_ (next n)).RunsCtx := (t.countFetch_sameRunners ..).runsCtx runs
  split
  · exact .does ((State.OuterEnv.at_ (s := t) h.1) (hnext _)) ⟨nofun, nofun, nofun, nofun, nofun, fun _ => runs⟩
  · split
    · exact goes_sound ((State.OuterEnv.at_ (s := t) h.1) (hnext _))
    · refine ite_sound (hlost ((t.logEntry_keeps ..).outerEnv h.1)) (ite_sound (hlost h.1) ?_)
      split
      · exact .does (fetched _) ⟨nofun, nofun, nofun, nofun, fun _ _ => runs' _, nofun⟩
      · next i hi =>
        split
        · exact .does (fetched _) (State.enables_stream (decodeStream_isStream hi) (runs' _))
        · exact goes_sound (State.OuterEnv.at_ ((t.stalled_keeps ..).outerEnv h.1) (hnext _))
theorem State.prismTurn_sound (n) : Sound (s.prismTurn n) := by
  have rest {t : State} (ht : t.Keeps s) (i) : Sound (goes (t.at_ (.prism i))) := goes_sound ((ht.outerEnv h.1).at_ nofun)
  have stay (i) : Sound (goes (s.at_ (.prism i))) := rest ⟨rfl, rfl⟩ i
  have first {l} (hl : Own l) (i) : Sound (firstOr s l (.prism i)) := firstOr_sound h hl nofun
  unfold State.prismTurn
  refine ite_sound (ite_sound (does_sound (h.1.at_ nofun) rfl) (stay _)) (ite_sound (first s.faultEvents_own _) (ite_sound
    (rest s.releaseShadows_keeps _) (ite_sound (first s.readyEvents_own _) (ite_sound (State.dispatchTurn_sound h) (ite_sound ?_
      (ite_sound (first s.quotaEvents_own _) (ite_sound (ite_sound (does_sound (h.1.at_ nofun) rfl) (stay _)) (ite_sound
        (first s.hubTurn_own _) (ite_sound (State.decodeTurn_sound h ..) (ite_sound ?_ ?_))))))))))
  · split
    · next t e => exact rest (State.releaseFree_keeps e) _
    · exact rest (by simp) _
  · split
    · next t e => exact rest (State.renameTurn_keeps e) _
    · exact stay _
  · exact goes_sound (State.OuterEnv.at_ (s.renamed_keeps.outerEnv h.1) nofun)
end

/-- The next move of a live state leaves a live state, or one in which its act can run. -/
theorem State.next_sound {s : State} (h : s.Live) : Sound s.next := by
  have quiet (hs : ∀ k, s.turn ≠ .core k 8) : s.Quiet := ⟨h.1, hs⟩
  unfold State.next
  split
  · next e => exact State.outside_sound (quiet (by simp [e]))
  · next k n e => exact State.coreTurn_sound h e
  · next n e => exact State.varTurn_sound (quiet (by simp [e])) n
  · next n e => exact State.prismTurn_sound (quiet (by simp [e])) n
  · exact goes_sound ⟨h.1, nofun⟩

/-! ### Every step -/

theorem Proceeds.live {p : Prop} {s : State} {o : Host.Outcome State Fault Refusal} (h : Proceeds p s o) (hp : p) (hs : s.Quiet) :
    ∃ t, o = .next t ∧ t.Live := by
  cases h with
  | fault r hr => exact absurd hp hr
  | next ht =>
    obtain ⟨henv, hturn⟩ := ht
    refine ⟨_, rfl, State.Quiet.live ⟨?_, fun k e => ?_⟩⟩
    · unfold State.OuterEnv
      rw [henv]
      exact hs.1
    · rcases hturn with e' | e' <;> rw [e'] at e
      · exact hs.2 k e
      · cases e

/-- A live machine makes its next step, and stays live. -/
theorem step_live {s : State} (h : s.Live) : ∃ t, step s = .next t ∧ t.Live := by
  have hm := State.next_sound h
  unfold step
  generalize s.next = m at hm
  cases hm with
  | goes ht => exact ⟨_, rfl, ht⟩
  | @does t a hq ha =>
    cases a with
    | instr i => exact (exec_proceeds t i).live ha hq
    | event e =>
      dsimp only
      rw [Event.run_eq]
      exact (exec_proceeds t e.instr).live ha hq

end Sys2Proof.Machine

open Sys2Proof Sys2Proof.Machine

/-- Settles O5: `step_live`. -/
theorem stepKeepsLive : Obligations.StepKeepsLive := by
  unfold Obligations.StepKeepsLive
  intro s t h e
  obtain ⟨u, hu, hlive⟩ := step_live h
  rw [hu] at e
  cases e
  exact hlive

/-- Settles O6: `step_live`. -/
theorem neverStops : Obligations.NeverStops := by
  unfold Obligations.NeverStops
  intro s h
  obtain ⟨t, ht, -⟩ := step_live h
  exact ⟨t, ht⟩

end

section
/-!
PROOFS. Lanes of a vector register, and the lanes of a mask (09 R209).
-/

namespace Sys2Proof.Machine

theorem lanesFrom_lane (f : Nat → W32) {l n : Nat} (h : l < n) (i : Nat) :
    lanesFrom f i n / 2 ^ (32 * l) % 2 ^ 32 = (f (i + l)).toNat := by
  induction n generalizing i l with
  | zero => omega
  | succ n ih =>
    cases l with
    | zero =>
      rw [lanesFrom, Nat.mul_zero, Nat.pow_zero, Nat.div_one, Nat.add_mul_mod_self_left, Nat.mod_eq_of_lt (f i).isLt,
        Nat.add_zero]
    | succ l =>
      have split : 2 ^ (32 * (l + 1)) = 2 ^ 32 * 2 ^ (32 * l) := by rw [← Nat.pow_add]; congr 1; omega
      rw [lanesFrom, split, ← Nat.div_div_eq_div_mul, Nat.add_mul_div_left _ _ (Nat.two_pow_pos 32),
        Nat.div_eq_of_lt (f i).isLt, Nat.zero_add, ih (by omega) (i + 1), Nat.add_right_comm, Nat.add_assoc]

theorem lanesFrom_lt (f : Nat → W32) (i n : Nat) : lanesFrom f i n < 2 ^ (32 * n) := by
  induction n generalizing i with
  | zero => simp [lanesFrom]
  | succ n ih =>
    have split : 2 ^ (32 * (n + 1)) = 2 ^ 32 * 2 ^ (32 * n) := by rw [← Nat.pow_add]; congr 1; omega
    have := (f i).isLt
    have := ih (i + 1)
    rw [lanesFrom, split]
    calc (f i).toNat + 2 ^ 32 * lanesFrom f (i + 1) n < 2 ^ 32 * (lanesFrom f (i + 1) n + 1) := by omega
      _ ≤ 2 ^ 32 * 2 ^ (32 * n) := Nat.mul_le_mul_left _ (by omega)

theorem toNat_lane (v : VReg) (l : Nat) : (lane v l).toNat = v.toNat / 2 ^ (32 * l) % 2 ^ 32 := by
  rw [lane, BitVec.extractLsb'_toNat, Nat.shiftRight_eq_div_pow]

theorem toNat_ofNat_lanesFrom (f : Nat → W32) (n : Nat) : (BitVec.ofNat (32 * n) (lanesFrom f 0 n)).toNat = lanesFrom f 0 n := by
  rw [BitVec.toNat_ofNat, Nat.mod_eq_of_lt (lanesFrom_lt f 0 n)]

theorem toNat_ofLanes (f : Nat → W32) : (ofLanes f).toNat = lanesFrom f 0 128 := toNat_ofNat_lanesFrom f 128

@[simp] theorem lane_ofLanes (f : Nat → W32) {l : Nat} (h : l < 128) : lane (ofLanes f) l = f l := by
  apply BitVec.eq_of_toNat_eq
  rw [toNat_lane, toNat_ofLanes, lanesFrom_lane f h, Nat.zero_add]

/-- A register is its 128 lanes. -/
theorem VReg.ext_lanes {v w : VReg} (h : ∀ l < 128, lane v l = lane w l) : v = w := by
  apply BitVec.eq_of_getLsbD_eq
  intro i hi
  have bit (x : VReg) : x.getLsbD i = (lane x (i / 32)).getLsbD (i % 32) := by
    rw [lane, BitVec.getLsbD_extractLsb', Nat.div_add_mod, decide_eq_true (Nat.mod_lt _ (by decide)), Bool.true_and]
  rw [bit, bit, h _ (by omega)]

theorem ofLanes_congr {f g : Nat → W32} (h : ∀ l < 128, f l = g l) : ofLanes f = ofLanes g :=
  VReg.ext_lanes fun l hl => by rw [lane_ofLanes f hl, lane_ofLanes g hl, h l hl]

theorem lane_mergeLanes (m : PReg) (old new : VReg) {l : Nat} (h : l < 128) :
    lane (mergeLanes m old new) l = if m.getLsbD l then lane new l else lane old l := lane_ofLanes _ h

/-- The lanes that a mask leaves out. -/
theorem lanesOf_not (m : PReg) : lanesOf (~~~m) = (List.range 128).filter fun l => !m.getLsbD l :=
  List.filter_congr fun l hl => by simp [List.mem_range.1 hl]

end Sys2Proof.Machine
end

section
/-!
PROOFS. Reductions, sorts and scans (O36; 09 R237, R239-R241).  A position of VSORT's network is ranked by its lane's activity, its
key and its lane; ranks differ, so the sorted order is one alone, and a stage, which exchanges positions, leaves it.  A step of VSCAN
runs the first of the lanes that are left.
-/

namespace Sys2Proof.Machine

/-! ### The order of VSORT -/

/-- What VSORT orders positions by (R239): the active lanes first, then the key, negated for a descending order, then the lane. -/
def LongOp.rank (o : LongOp) (x : Nat) : Bool ×ₗ Int ×ₗ Nat :=
  let l := o.order.getD x 0
  let key := sortKey o.typ (lane o.img0 x)
  toLex (!o.act.getLsbD l, toLex (if o.act.getLsbD l then (if o.rev then -key else key) else 0, l))

theorem LongOp.before_iff (o : LongOp) (x y : Nat) : o.before x y = true ↔ o.rank x < o.rank y := by
  simp only [LongOp.before, LongOp.rank, Prod.Lex.toLex_lt_toLex]
  cases o.act.getLsbD (o.order.getD x 0) <;> cases o.act.getLsbD (o.order.getD y 0) <;> cases o.rev <;> simp

/-- Equal ranks are of one lane. -/
theorem LongOp.lane_of_rank {o : LongOp} {x y : Nat} (h : o.rank x = o.rank y) : o.order.getD x 0 = o.order.getD y 0 :=
  congrArg (fun r => (ofLex (ofLex r).2).2) h

theorem insertLane_eq_orderedInsert (o : LongOp) (l : Nat) (ls : List Nat) :
    insertLane (fun m l => o.before m l) l ls = ls.orderedInsert (o.rank ⁻¹'o (· ≤ ·)) l := by
  induction ls with
  | nil => rfl
  | cons m r ih =>
    rw [insertLane, List.orderedInsert_cons, ih]
    simp only [LongOp.before_iff, Order.Preimage, ← not_lt, ite_not]

theorem sortLanes_eq_insertionSort (o : LongOp) (ls : List Nat) :
    sortLanes (fun m l => o.before m l) ls = ls.insertionSort (o.rank ⁻¹'o (· ≤ ·)) := by
  induction ls with
  | nil => rfl
  | cons l r ih => rw [sortLanes, ih, insertLane_eq_orderedInsert, List.insertionSort_cons]

theorem LongOp.final_perm (o : LongOp) : o.final.Perm (List.range 128) := by
  rw [LongOp.final, sortLanes_eq_insertionSort]; exact List.perm_insertionSort ..

theorem LongOp.final_pairwise (o : LongOp) : o.final.Pairwise (o.rank ⁻¹'o (· ≤ ·)) := by
  rw [LongOp.final, sortLanes_eq_insertionSort]; exact List.pairwise_insertionSort ..

/-- Each position of the network holds a lane of its own. -/
def LongOp.Placed (o : LongOp) : Prop := o.order.length = 128 ∧ o.order.Nodup

theorem LongOp.Placed.order_inj {o : LongOp} (h : o.Placed) {x y : Nat} (hx : x < 128) (hy : y < 128)
    (e : o.order.getD x 0 = o.order.getD y 0) : x = y := by
  obtain ⟨hlen, hnd⟩ := h
  rw [List.getD_eq_getElem _ _ (by omega), List.getD_eq_getElem _ _ (by omega)] at e
  exact hnd.getElem_inj_iff.1 e

theorem LongOp.Placed.rank_inj {o : LongOp} (h : o.Placed) {x y : Nat} (hx : x < 128) (hy : y < 128)
    (e : o.rank x = o.rank y) : x = y := h.order_inj hx hy (LongOp.lane_of_rank e)

/-- Positions in order of rank are the final order: there is one alone. -/
theorem LongOp.Placed.final_unique {o : LongOp} (h : o.Placed) {ps : List Nat} (hp : ps.Perm (List.range 128))
    (hs : ps.Pairwise (o.rank ⁻¹'o (· ≤ ·))) : ps = o.final :=
  List.Perm.eq_of_pairwise (le := o.rank ⁻¹'o (· ≤ ·))
    (fun _ _ ha hb hab hba => h.rank_inj (List.mem_range.1 (hp.mem_iff.1 ha)) (List.mem_range.1 (o.final_perm.mem_iff.1 hb))
      (le_antisymm hab hba))
    hs o.final_pairwise (hp.trans o.final_perm.symm)

/-! ### A stage of the network -/

section
variable (o : LongOp) (ps : List Nat)
@[simp] theorem LongOp.sort_moved : (o.moved ps).sort = o.sort := by rw [LongOp.moved]
@[simp] theorem LongOp.typ_moved : (o.moved ps).typ = o.typ := by rw [LongOp.moved]
@[simp] theorem LongOp.rev_moved : (o.moved ps).rev = o.rev := by rw [LongOp.moved]
@[simp] theorem LongOp.act_moved : (o.moved ps).act = o.act := by rw [LongOp.moved]
@[simp] theorem LongOp.dst_moved : (o.moved ps).dst = o.dst := by rw [LongOp.moved]
@[simp] theorem LongOp.left_moved : (o.moved ps).left = o.left := by rw [LongOp.moved]
@[simp] theorem LongOp.seq_moved : (o.moved ps).seq = o.seq := by rw [LongOp.moved]
@[simp] theorem LongOp.slot_moved : (o.moved ps).slot = o.slot := by rw [LongOp.moved]
@[simp] theorem LongOp.addr_moved : (o.moved ps).addr = o.addr := by rw [LongOp.moved]

@[simp] theorem LongOp.img0_moved : (o.moved ps).img0 = ofLanes fun j => lane o.img0 (ps.getD j 0) := by rw [LongOp.moved]
@[simp] theorem LongOp.img1_moved : (o.moved ps).img1 = ofLanes fun j => lane o.img1 (ps.getD j 0) := by rw [LongOp.moved]
@[simp] theorem LongOp.order_moved : (o.moved ps).order = ps.map fun p => o.order.getD p 0 := by rw [LongOp.moved]
end

/-- A result of a long operation, with no failed check. -/
def LongOp.result (o : LongOp) (d : Nat) (mask : PReg) (v : VReg) (flags : BitVec 8) : Exposed :=
  ⟨.v d, mask, v, o.left, o.seq, o.slot, o.addr, flags, 0, 0⟩

/-- An image with its positions in the final order. -/
def LongOp.sorted (o : LongOp) (v : VReg) : VReg := ofLanes fun j => lane v (o.final.getD j 0)

theorem LongOp.results_sort {o : LongOp} (h : o.sort = true) (c : Bool) : o.results c =
    [o.result o.dst (BitVec.allOnes 128) (o.sorted o.img0) 0, o.result (o.dst + 1) (BitVec.allOnes 128) (o.sorted o.img1) 0] := by
  simp only [LongOp.results, if_pos h, img0_moved, img1_moved, LongOp.result, LongOp.sorted]

theorem getD_map_of_lt {α β : Type} (f : α → β) (l : List α) {i : Nat} (h : i < l.length) (d : β) (e : α) :
    (l.map f).getD i d = f (l.getD i e) := by
  rw [List.getD_eq_getElem _ _ (by simpa using h), List.getD_eq_getElem _ _ h, List.getElem_map]

section
variable {o : LongOp} {ps : List Nat} (hp : ps.Perm (List.range 128))
include hp

theorem getD_lt_of_perm {i : Nat} (h : i < 128) : ps.getD i 0 < 128 := by
  have hi : i < ps.length := by rw [hp.length_eq, List.length_range]; exact h
  rw [List.getD_eq_getElem _ _ hi]
  exact List.mem_range.1 (hp.mem_iff.1 (List.getElem_mem hi))

theorem LongOp.getD_order_moved {i : Nat} (h : i < 128) : (o.moved ps).order.getD i 0 = o.order.getD (ps.getD i 0) 0 := by
  rw [order_moved, getD_map_of_lt _ _ (by rw [hp.length_eq, List.length_range]; exact h) 0 0]

theorem LongOp.rank_moved {i : Nat} (h : i < 128) : (o.moved ps).rank i = o.rank (ps.getD i 0) := by
  have himg : lane (o.moved ps).img0 i = lane o.img0 (ps.getD i 0) := lane_ofLanes _ h
  simp only [LongOp.rank, LongOp.getD_order_moved hp h, himg, typ_moved, act_moved, rev_moved]

theorem LongOp.Placed.moved (h : o.Placed) : (o.moved ps).Placed := by
  rw [LongOp.Placed, LongOp.order_moved]
  exact ⟨by simp [hp.length_eq], List.Nodup.map_on (fun x hx y hy e => h.order_inj (List.mem_range.1 (hp.mem_iff.1 hx))
    (List.mem_range.1 (hp.mem_iff.1 hy)) e) (hp.nodup_iff.2 List.nodup_range)⟩

/-- The final order is the same, seen through the exchange. -/
theorem LongOp.Placed.final_moved (h : o.Placed) : (o.moved ps).final.map (ps.getD · 0) = o.final := by
  have hfin := (o.moved ps).final_perm
  have hrange : (List.range 128).map (ps.getD · 0) = ps := by
    refine List.ext_getElem (by simp [hp.length_eq]) fun i h1 h2 => ?_
    rw [List.getElem_map, List.getElem_range, List.getD_eq_getElem _ _ h2]
  refine h.final_unique (((hfin.map _).trans (by rw [hrange])).trans hp) ?_
  refine List.pairwise_map.2 ((o.moved ps).final_pairwise.imp_of_mem fun hx hy hxy => ?_)
  have hx := LongOp.rank_moved (o := o) hp (List.mem_range.1 (hfin.mem_iff.1 hx))
  have hy := LongOp.rank_moved (o := o) hp (List.mem_range.1 (hfin.mem_iff.1 hy))
  rw [Order.Preimage, hx, hy] at hxy
  exact hxy

/-- An exchange of positions leaves what VSORT gives. -/
theorem LongOp.Placed.results_moved (h : o.Placed) (hs : o.sort = true) (c : Bool) :
    (o.moved ps).results c = o.results c := by
  have image (v : VReg) : (o.moved ps).sorted (ofLanes fun i => lane v (ps.getD i 0)) = o.sorted v := by
    refine ofLanes_congr fun j hj => ?_
    rw [lane_ofLanes _ (getD_lt_of_perm (o.moved ps).final_perm hj), ← h.final_moved hp,
      getD_map_of_lt _ _ (by rw [(o.moved ps).final_perm.length_eq, List.length_range]; exact hj)]
  rw [LongOp.results_sort hs, LongOp.results_sort ((o.sort_moved ps).trans hs), LongOp.img0_moved, LongOp.img1_moved, image,
    image, LongOp.dst_moved]
  simp only [LongOp.result, left_moved, seq_moved, slot_moved, addr_moved]

end

/-- Stage n exchanges positions across one bit, within blocks of a higher power of two. -/
theorem bitonic_spec (n : Nat) : ∃ p e, bitonic n = (2 ^ (p + 1), 2 ^ e) ∧ e ≤ p ∧ p < 7 := by
  have stages : ∀ x ∈ (List.range 7).flatMap fun p => (List.range (p + 1)).map fun j => (2 ^ (p + 1), 2 ^ (p - j)),
      ∃ p e, x = (2 ^ (p + 1), 2 ^ e) ∧ e ≤ p ∧ p < 7 := by
    intro x hx
    obtain ⟨p, hp, hx⟩ := List.mem_flatMap.1 hx
    obtain ⟨j, -, rfl⟩ := List.mem_map.1 hx
    exact ⟨p, p - j, rfl, Nat.sub_le .., List.mem_range.1 hp⟩
  rw [bitonic]
  generalize ((List.range 7).flatMap fun p => (List.range (p + 1)).map fun j => (2 ^ (p + 1), 2 ^ (p - j))) = l at stages ⊢
  by_cases h : n < l.length
  · rw [List.getD_eq_getElem _ _ h]
    exact stages _ (List.getElem_mem h)
  · exact ⟨6, 0, List.getD_eq_default _ _ (Nat.le_of_not_lt h), by decide, by decide⟩

/-- Position i keeps its element in a stage of blocks b and distance d. -/
def LongOp.stays (o : LongOp) (b d i : Nat) : Bool := o.before i (Nat.xor i d) == (decide (i < Nat.xor i d) == (i / b % 2 == 0))

/-- The position whose element a stage brings to position i. -/
def LongOp.source (o : LongOp) (b d i : Nat) : Nat := if o.stays b d i then i else Nat.xor i d

/-- A map of the positions into themselves that is its own inverse there exchanges them. -/
theorem map_range_perm {f : Nat → Nat} {n : Nat} (hlt : ∀ i < n, f i < n) (hinv : ∀ i < n, f (f i) = i) :
    ((List.range n).map f).Perm (List.range n) := by
  have hnd : ((List.range n).map f).Nodup := List.Nodup.map_on (fun x hx y hy e => by
    rw [← hinv x (List.mem_range.1 hx), e, hinv y (List.mem_range.1 hy)]) List.nodup_range
  refine (List.subperm_of_subset hnd fun y hy => ?_).perm_of_length_le (by simp)
  obtain ⟨x, hx, rfl⟩ := List.mem_map.1 hy
  exact List.mem_range.2 (hlt x (List.mem_range.1 hx))

theorem LongOp.before_swap {o : LongOp} (h : o.Placed) {x y : Nat} (hx : x < 128) (hy : y < 128) (hne : x ≠ y) :
    o.before y x = !o.before x y := by
  have hr : o.rank x ≠ o.rank y := fun e => hne (h.rank_inj hx hy e)
  rw [Bool.eq_iff_iff, Bool.not_eq_true', ← Bool.not_eq_true, LongOp.before_iff, LongOp.before_iff, not_lt]
  exact ⟨le_of_lt, fun hle => lt_of_le_of_ne hle hr.symm⟩

/-! The partner of a position across bit e. -/

theorem partner_partner (i e : Nat) : Nat.xor (Nat.xor i (2 ^ e)) (2 ^ e) = i := Nat.xor_xor_cancel_right i (2 ^ e)

theorem ne_partner (i e : Nat) : i ≠ Nat.xor i (2 ^ e) := fun hi => by
  have cancel : i ^^^ (i ^^^ 2 ^ e) = 2 ^ e := Nat.xor_xor_cancel_left i (2 ^ e)
  rw [show i ^^^ 2 ^ e = i from hi.symm, Nat.xor_self] at cancel
  exact (Nat.two_pow_pos e).ne cancel

theorem partner_lt {i e : Nat} (hi : i < 128) (he : e < 7) : Nat.xor i (2 ^ e) < 128 :=
  Nat.xor_lt_two_pow (n := 7) hi (Nat.pow_lt_pow_right (by decide) he)

/-- Partners lie in one block. -/
theorem partner_div (i : Nat) {e p : Nat} (he : e ≤ p) : Nat.xor i (2 ^ e) / 2 ^ (p + 1) = i / 2 ^ (p + 1) := by
  refine (Nat.xor_div_two_pow (a := i) (b := 2 ^ e) (n := p + 1)).trans ?_
  rw [Nat.div_eq_of_lt (Nat.pow_lt_pow_right (by decide) (by omega)), Nat.xor_zero]

theorem not_beq_not_beq : ∀ a b c : Bool, ((!a) == ((!b) == c)) = (a == (b == c)) := by decide

section
variable {o : LongOp} (h : o.Placed) {p e : Nat} (he : e ≤ p) (hp : p < 7)
include h he hp

/-- Partners decide alike whether they exchange. -/
theorem LongOp.stays_partner {i : Nat} (hi : i < 128) :
    o.stays (2 ^ (p + 1)) (2 ^ e) (Nat.xor i (2 ^ e)) = o.stays (2 ^ (p + 1)) (2 ^ e) i := by
  have hne := ne_partner i e
  have side : decide (Nat.xor i (2 ^ e) < i) = !decide (i < Nat.xor i (2 ^ e)) := by
    rw [← decide_not]; exact decide_eq_decide.2 (by omega)
  rw [LongOp.stays, partner_partner, partner_div i he, side, LongOp.before_swap h hi (partner_lt hi (by omega)) hne,
    not_beq_not_beq, LongOp.stays]

theorem LongOp.source_perm : ((List.range 128).map (o.source (2 ^ (p + 1)) (2 ^ e))).Perm (List.range 128) := by
  refine map_range_perm (fun i hi => ?_) fun i hi => ?_
  · rw [LongOp.source]
    split
    · exact hi
    · exact partner_lt hi (by omega)
  · cases c : o.stays (2 ^ (p + 1)) (2 ^ e) i
    · have goes : o.source (2 ^ (p + 1)) (2 ^ e) i = Nat.xor i (2 ^ e) := by simp [LongOp.source, c]
      rw [goes, LongOp.source, LongOp.stays_partner h he hp hi, c, partner_partner]
      simp
    · have stays : o.source (2 ^ (p + 1)) (2 ^ e) i = i := by simp [LongOp.source, c]
      rw [stays, stays]

end

/-- What VSORT gives does not depend on the number of its stages that are made. -/
theorem LongOp.results_done {o : LongOp} (hs : o.sort = true) (n : Nat) (c : Bool) :
    LongOp.results { o with done := n } c = o.results c := by
  rw [LongOp.results_sort hs, LongOp.results_sort (o := { o with done := n }) hs]
  rfl

theorem LongOp.step_sort {o : LongOp} (hs : o.sort = true) : o.step =
    LongOp.moved { o with done := o.done + 1 } ((List.range 128).map (o.source (bitonic o.done).1 (bitonic o.done).2)) := by
  rw [LongOp.step, if_pos hs]
  rfl

/-- A step of VSORT keeps a lane at each position, and what the operation gives. -/
theorem LongOp.Placed.step {o : LongOp} (h : o.Placed) (hs : o.sort = true) :
    (o.step.Placed ∧ o.step.sort = true) ∧ ∀ c, o.step.results c = o.results c := by
  obtain ⟨p, e, hb, he, hp⟩ := bitonic_spec o.done
  have perm := LongOp.source_perm h he hp
  have counted : LongOp.Placed { o with done := o.done + 1 } := h
  rw [LongOp.step_sort hs, hb]
  exact ⟨⟨counted.moved perm, (LongOp.sort_moved ..).trans hs⟩,
    fun c => (counted.results_moved perm hs c).trans (results_done hs _ c)⟩

/-! ### What VSORT gives -/

section
variable {o : LongOp} (ho : o.order = List.range 128)
include ho

/-- Before the first stage every position holds its own lane. -/
theorem LongOp.placed_start : o.Placed := by rw [LongOp.Placed, ho]; exact ⟨List.length_range, List.nodup_range⟩

theorem LongOp.rank_start {x : Nat} (hx : x < 128) : o.rank x = toLex (!o.act.getLsbD x, toLex
    (if o.act.getLsbD x then (if o.rev then -sortKey o.typ (lane o.img0 x) else sortKey o.typ (lane o.img0 x)) else 0, x)) := by
  have hl : o.order.getD x 0 = x := by rw [ho, List.getD_eq_getElem _ _ (by simpa using hx), List.getElem_range]
  rw [LongOp.rank, hl]

/-- The final order: the active lanes by rank, then the inactive ones by number. -/
theorem LongOp.final_start : o.final = o.final.filter (fun l => o.act.getLsbD l) ++ lanesOf (~~~o.act) := by
  have hp : (o.final.filter fun l => o.act.getLsbD l).Perm (lanesOf o.act) := o.final_perm.filter _
  have hrank {x : Nat} (hx : x ∈ lanesOf (~~~o.act)) : o.rank x = toLex (true, toLex (0, x)) := by
    rw [lanesOf_not] at hx
    obtain ⟨hx, ha⟩ := List.mem_filter.1 hx
    have ha : o.act.getLsbD x = false := by simpa using ha
    rw [LongOp.rank_start ho (List.mem_range.1 hx), ha]
    rfl
  refine ((LongOp.placed_start ho).final_unique ?_ (List.pairwise_append.2 ⟨o.final_pairwise.filter _, ?_, ?_⟩)).symm
  · refine (hp.append_right _).trans ?_
    rw [lanesOf_not]
    exact List.filter_append_perm _ _
  · refine (List.pairwise_lt_range.filter _).imp_of_mem fun {x y} hx hy hxy => ?_
    rw [Order.Preimage, hrank hx, hrank hy, Prod.Lex.toLex_le_toLex]
    simp [Prod.Lex.toLex_le_toLex, hxy.le]
  · intro x hx y hy
    obtain ⟨hx, ha⟩ := List.mem_filter.1 hx
    rw [Order.Preimage, hrank hy, LongOp.rank_start ho (List.mem_range.1 (o.final_perm.mem_iff.1 hx)), Prod.Lex.toLex_le_toLex]
    simp [ha]

/-- The active lanes stand by key, equal keys by lane. -/
theorem LongOp.active_pairwise : (o.final.filter fun l => o.act.getLsbD l).Pairwise fun l m =>
    (if o.rev then sortKey o.typ (lane o.img0 m) < sortKey o.typ (lane o.img0 l)
      else sortKey o.typ (lane o.img0 l) < sortKey o.typ (lane o.img0 m)) ∨
    (sortKey o.typ (lane o.img0 l) = sortKey o.typ (lane o.img0 m) ∧ l < m) := by
  have hne : o.final.Pairwise (· ≠ ·) := o.final_perm.nodup_iff.2 List.nodup_range
  refine ((o.final_pairwise.and hne).filter _).imp_of_mem fun {l m} hl hm hlm => ?_
  obtain ⟨hl, al⟩ := List.mem_filter.1 hl
  obtain ⟨hm, am⟩ := List.mem_filter.1 hm
  have hl := List.mem_range.1 (o.final_perm.mem_iff.1 hl)
  have hm := List.mem_range.1 (o.final_perm.mem_iff.1 hm)
  obtain ⟨hle, hne⟩ := hlm
  have hlt : o.rank l < o.rank m := lt_of_le_of_ne hle fun e => hne ((LongOp.placed_start ho).rank_inj hl hm e)
  rw [LongOp.rank_start ho hl, LongOp.rank_start ho hm] at hlt
  cases hr : o.rev <;> simpa [Prod.Lex.toLex_lt_toLex, al, am, hr] using hlt

end

/-! ### VSCAN -/

/-- One lane of a scan changes the running value, the flags, the count of failed checks and the results so far. -/
theorem LongOp.scanLane_frame (o : LongOp) (l : Nat) : o.scanLane l = { o with
    acc := (o.scanLane l).acc, flags := (o.scanLane l).flags, resn := (o.scanLane l).resn, img1 := (o.scanLane l).img1 } := by
  unfold LongOp.scanLane; split <;> rfl

theorem LongOp.scan_succ (o : LongOp) (n c : Nat) : o.scan n (c + 1) = (o.scanLane n).scan (n + 1) c := rfl

theorem LongOp.scan_frame (o : LongOp) (n c : Nat) : o.scan n c = { o with
    acc := (o.scan n c).acc, flags := (o.scan n c).flags, resn := (o.scan n c).resn, img1 := (o.scan n c).img1 } := by
  induction c generalizing o n with
  | zero => rfl
  | succ c ih =>
    rw [LongOp.scan_succ, ih, LongOp.scanLane_frame]

/-- A scan in two parts. -/
theorem LongOp.scan_scan (o : LongOp) (n c d : Nat) : (o.scan n c).scan (n + c) d = o.scan n (c + d) := by
  simp only [LongOp.scan, ← List.range'_append_1, List.foldl_append]

theorem LongOp.scanLane_inactive {o : LongOp} {l : Nat} (h : o.act.getLsbD l = false) : o.scanLane l = o := by
  simp [LongOp.scanLane, h]

/-- There is nothing to scan beyond lane 127. -/
theorem LongOp.scan_of_ge {o : LongOp} {n : Nat} (h : 128 ≤ n) (c : Nat) : o.scan n c = o := by
  induction c generalizing n with
  | zero => rfl
  | succ c ih => rw [LongOp.scan_succ, LongOp.scanLane_inactive (BitVec.getLsbD_of_ge _ _ h), ih (by omega)]

theorem LongOp.scanLane_done (o : LongOp) (l d : Nat) :
    LongOp.scanLane { o with done := d } l = { o.scanLane l with done := d } := by
  simp only [LongOp.scanLane]; split <;> rfl

theorem LongOp.scan_done (o : LongOp) (n c d : Nat) : LongOp.scan { o with done := d } n c = { o.scan n c with done := d } := by
  induction c generalizing o n with
  | zero => rfl
  | succ c ih => rw [LongOp.scan_succ, LongOp.scanLane_done, ih, ← LongOp.scan_succ]

/-- The scan of the lanes that are left. -/
def LongOp.scanned (o : LongOp) : LongOp := o.scan (32 * o.done) (128 - 32 * o.done)

/-- What a completed scan gives. -/
def LongOp.scanResult (r : LongOp) (checked : Bool) : Exposed :=
  let n := if checked then r.resn else 0
  ⟨.v r.dst, r.act, r.img1, r.left, r.seq, r.slot, r.addr, vbits r.flags ||| (if n = 0 then 0 else vRESID), 0, n⟩

theorem LongOp.scanResult_of_resn {r : LongOp} (h : r.resn = 0) (c : Bool) :
    r.scanResult c = ⟨.v r.dst, r.act, r.img1, r.left, r.seq, r.slot, r.addr, vbits r.flags, 0, 0⟩ := by
  simp [LongOp.scanResult, h]

theorem LongOp.results_scan {o : LongOp} (h : o.sort = false) (c : Bool) : o.results c = [o.scanned.scanResult c] := by
  rw [LongOp.scanResult, LongOp.scanned, LongOp.scan_frame]
  simp only [LongOp.results, h, Bool.false_eq_true, if_false]

/-- A step leaves the completed scan as it is. -/
theorem LongOp.scanned_step {o : LongOp} (h : o.sort = false) : o.step.scanned = { o.scanned with done := o.done + 1 } := by
  have step : o.step = { o.scan (32 * o.done) 32 with done := o.done + 1 } := by rw [LongOp.step, if_neg (by rw [h]; decide)]
  have rest : (o.scan (32 * o.done) 32).scan (32 * (o.done + 1)) (128 - 32 * (o.done + 1)) = o.scanned := by
    rw [LongOp.scanned]
    by_cases hd : o.done < 4
    · rw [Nat.mul_succ, LongOp.scan_scan]; congr 1; omega
    · rw [LongOp.scan_of_ge (by omega), LongOp.scan_of_ge (by omega), LongOp.scan_of_ge (by omega)]
  rw [step, LongOp.scanned, LongOp.scan_done, rest]

/-- A step of VSCAN keeps what the operation gives. -/
theorem LongOp.step_scan {o : LongOp} (h : o.sort = false) :
    o.step.sort = false ∧ ∀ c, o.step.results c = o.results c := by
  have hs : o.step.sort = false := by
    rw [LongOp.step, if_neg (by rw [h]; decide), LongOp.scan_frame]; exact h
  exact ⟨hs, fun c => by rw [LongOp.results_scan hs, LongOp.results_scan h, LongOp.scanned_step h]; rfl⟩

theorem getLsbD_one_shiftLeft {l j : Nat} (hj : j < 128) : ((1 : PReg) <<< l).getLsbD j = decide (j = l) := by
  rw [BitVec.getLsbD_shiftLeft, show (1 : PReg) = 1#128 from rfl, BitVec.getLsbD_one, Bool.eq_iff_iff]
  simp; omega

section
variable (o : LongOp) (l : Nat)
@[simp] theorem LongOp.typ_scanLane : (o.scanLane l).typ = o.typ := by rw [LongOp.scanLane_frame]
@[simp] theorem LongOp.rev_scanLane : (o.scanLane l).rev = o.rev := by rw [LongOp.scanLane_frame]
@[simp] theorem LongOp.op_scanLane : (o.scanLane l).op = o.op := by rw [LongOp.scanLane_frame]
@[simp] theorem LongOp.sat_scanLane : (o.scanLane l).sat = o.sat := by rw [LongOp.scanLane_frame]
@[simp] theorem LongOp.act_scanLane : (o.scanLane l).act = o.act := by rw [LongOp.scanLane_frame]
@[simp] theorem LongOp.img0_scanLane : (o.scanLane l).img0 = o.img0 := by rw [LongOp.scanLane_frame]
@[simp] theorem LongOp.flips_scanLane : (o.scanLane l).flips = o.flips := by rw [LongOp.scanLane_frame]
end

/-- The running value and the flags after lane l. -/
def LongOp.running (o : LongOp) (l : Nat) : W32 × Flags :=
  if o.act.getLsbD l then redStep o.op o.typ o.sat (o.acc, o.flags) (lane o.img0 l, fNone) else (o.acc, o.flags)

section
variable {o : LongOp} (hf : o.flips = [])
include hf

theorem LongOp.scanLane_running (l : Nat) : ((o.scanLane l).acc, (o.scanLane l).flags) = o.running l := by
  cases h : o.act.getLsbD l <;> simp [LongOp.scanLane, LongOp.running, h, hf]

theorem LongOp.scanLane_resn (l : Nat) : (o.scanLane l).resn = o.resn := by
  cases h : o.act.getLsbD l <;> simp [LongOp.scanLane, h, hf]

/-- Lane l alone gets a result: the running value before it or after it. -/
theorem LongOp.scanLane_img1 (l : Nat) {j : Nat} (hj : j < 128) : lane (o.scanLane l).img1 j =
    if j = l ∧ o.act.getLsbD l = true then (if o.rev then o.acc else (o.running l).1) else lane o.img1 j := by
  cases h : o.act.getLsbD l
  · simp [LongOp.scanLane_inactive h]
  · have hl : (o.scanLane l).img1 =
        mergeLanes ((1 : PReg) <<< l) o.img1 (ofLanes fun _ => if o.rev then o.acc else (o.running l).1) := by
      simp [LongOp.scanLane, LongOp.running, h, hf]
    rw [hl, lane_mergeLanes _ _ _ hj, lane_ofLanes _ hj, getLsbD_one_shiftLeft hj]
    simp

/-- Without upsets the lanes of a scan are those of the serial scan. -/
theorem LongOp.scan_eq_scanFrom (n c : Nat) :
    let r := scanFrom (redStep o.op o.typ o.sat) o.act o.img0 o.rev (List.range' n c) (o.acc, o.flags)
    (o.scan n c).flags = r.2 ∧ (o.scan n c).resn = o.resn ∧ ∀ j < 128, lane (o.scan n c).img1 j =
      if n ≤ j ∧ j < n + c ∧ o.act.getLsbD j = true then r.1.getD (j - n) 0 else lane o.img1 j := by
  induction c generalizing o n with
  | zero => exact ⟨rfl, rfl, fun j _ => by rw [if_neg (by omega)]; rfl⟩
  | succ c ih =>
    obtain ⟨hflags, hresn, himg⟩ := ih ((o.flips_scanLane n).trans hf) (n + 1)
    simp only [LongOp.scanLane_running hf, LongOp.scanLane_resn hf, typ_scanLane, rev_scanLane, op_scanLane, sat_scanLane,
      act_scanLane, img0_scanLane] at hflags hresn himg
    rw [LongOp.scan_succ, List.range'_succ]
    refine ⟨hflags, hresn, fun j hj => ?_⟩
    rw [himg j hj, LongOp.scanLane_img1 hf n hj, scanFrom]
    change _ = if _ then ((if o.rev then o.acc else (o.running n).1) :: _).getD (j - n) 0 else _
    rcases lt_trichotomy j n with hlt | rfl | hgt
    · rw [if_neg (by omega), if_neg (by omega), if_neg (by omega)]
    · cases o.act.getLsbD j <;> simp
    · obtain ⟨m, rfl⟩ := Nat.exists_eq_add_of_lt hgt
      rw [show n + m + 1 - (n + 1) = m by omega, show n + m + 1 - n = m + 1 by omega, List.getD_cons_succ,
        if_neg (show ¬(n + m + 1 = n ∧ _) by omega)]
      exact if_congr (and_congr (by omega) (and_congr (by omega) Iff.rfl)) rfl rfl

end

/-- What a scan gives that has made no step and meets no upset. -/
theorem LongOp.results_scan_start {o : LongOp} (hs : o.sort = false) (hd : o.done = 0) (hf : o.flips = []) (hr : o.resn = 0)
    (hi : o.img1 = 0) (c : Bool) :
    let scan := scanFrom (redStep o.op o.typ o.sat) o.act o.img0 o.rev (List.range 128) (o.acc, o.flags)
    o.results c =
      [o.result o.dst o.act (ofLanes fun l => if o.act.getLsbD l then scan.1.getD l 0 else 0) (vbits scan.2)] := by
  intro scan
  obtain ⟨hflags, hresn, hlanes⟩ := LongOp.scan_eq_scanFrom hf 0 128
  rw [← List.range_eq_range'] at hflags hlanes
  have himg : (o.scan 0 128).img1 = ofLanes fun l => if o.act.getLsbD l then scan.1.getD l 0 else 0 :=
    VReg.ext_lanes fun j hj => by
      have zero : lane o.img1 j = 0 := by rw [hi]; exact BitVec.extractLsb'_zero ..
      rw [lane_ofLanes _ hj, hlanes j hj, zero, Nat.sub_zero]
      exact if_congr (by simp [hj]) rfl rfl
  have scanned : o.scanned = o.scan 0 128 := by rw [LongOp.scanned, hd]
  rw [LongOp.results_scan hs, LongOp.scanResult_of_resn (by rw [scanned, hresn, hr]), scanned, himg, hflags,
    LongOp.scan_frame]
  rfl

/-! ### At issue -/

section
variable {s : State} {k : Nat}

theorem State.upsetsOf_undisturbed (h : s.Undisturbed k) : s.upsetsOf k = [] := by
  refine List.filter_eq_nil_iff.2 fun u hu hmeets => ?_
  simp only [Bool.and_eq_true, beq_iff_eq] at hmeets
  exact h u hu hmeets.1

/-- Without upsets a checked operation is as it stands. -/
theorem checkedOp_undisturbed (h : s.Undisturbed k) (hi : s.Issues k) (calm : Host.Outcome State Fault Refusal)
    (upset : List Upset → Host.Outcome State Fault Refusal) : checkedOp s calm upset = calm := by
  obtain ⟨⟨n, ht⟩, -⟩ := hi
  simp only [checkedOp, ht, State.upsetsOf_undisturbed h, if_true]

/-- The root of a reduction's tree, the inactive lanes giving the identity (R237, 04 R104). -/
def Strand.reduction (st : Strand) (o : VOp) (op : Nat) : W32 × Flags :=
  (tree (redStep op o.typ.toNat o.sat) 7 ((List.range 128).map fun l =>
    ((if (st.active o.g).getLsbD l then lane (st.v o.a.toNat) l else redIdent op o.typ.toNat), fNone))).headD (0, fNone)

theorem reduces_acts (h : s.Issues k) (hr : (s.strand k).Room 1) {i : Instr} {o : VOp} {op : Nat}
    (hi : exec i s = reduceOp s o op) :
    Acts i s k fun z => (z.count 1 7).expose (.v o.d.toNat) (if o.fn = 0 then 1 else BitVec.allOnes 128)
      (ofLanes fun _ => ((s.strand k).reduction o op).1) 7 (vbits ((s.strand k).reduction o op).2) 0 := by
  rw [Acts, Answers, hi, reduceOp, counted_room h hr rfl, State.modStrand_modStrand]
  exact congrArg _ (State.modStrand_congr _ _ rfl)

theorem exec_vredadd_undisturbed (h : s.Undisturbed k) (hi : s.Issues k) (o : VOp) : exec (.vredadd o) s = reduceOp s o 0 := by
  change execVredadd o s = _
  rw [execVredadd, checkedOp_undisturbed h hi]

/-- The operation that VSORT starts. -/
def Strand.sortOp (st : Strand) (o : VOp) : LongOp :=
  ⟨true, o.typ.toNat, o.fn != 0, 0, false, st.active o.g, o.d.toNat, st.v o.a.toNat, st.v o.b.toNat, List.range 128,
    0, fNone, 0, [], 32, 0, 0, st.fl.seq, st.slot, st.bundleAddr, false, false⟩

/-- The operation that VSCAN starts where no upset meets its slot. -/
def Strand.scanOp (st : Strand) (o : VOp) : LongOp :=
  ⟨false, o.typ.toNat, o.fn.getLsbD 0, o.fn.toNat / 2, o.sat, st.active o.g, o.d.toNat, st.v o.a.toNat, 0, [],
    redIdent (o.fn.toNat / 2) o.typ.toNat, fNone, 0, [], 16, 0, 0, st.fl.seq, st.slot, st.bundleAddr, false, false⟩

theorem execVsort_room (h : s.Issues k) (hr : (s.strand k).Room 2) (o : VOp) : execVsort o s =
    .next (s.modStrand k fun z => { z.count 2 32 with longs := z.longs ++ [(s.strand k).sortOp o] }) := by
  rw [execVsort, counted_room h hr rfl, State.modStrand_modStrand]
  exact congrArg _ (State.modStrand_congr _ _ rfl)

theorem execVscan_room (h : s.Issues k) (hu : s.Undisturbed k) (hr : (s.strand k).Room 1) (o : VOp) : execVscan o s =
    .next (s.modStrand k fun z => { z.count 1 16 with longs := z.longs ++ [(s.strand k).scanOp o] }) := by
  have calm : (s.modStrand k fun st => st.count 1 16).upsetsOf k = [] := State.upsetsOf_undisturbed hu
  rw [execVscan, counted_room h hr rfl, State.modStrand_modStrand]
  refine congrArg _ (State.modStrand_congr _ _ ?_)
  simp only [calm, List.map_nil, ite_self]
  rfl

end

/-! ### The results, wherever the network stands -/

/-- What every step keeps, any number of them keeps. -/
theorem LongOp.results_iterate {P : LongOp → Prop} (hP : ∀ o, P o → P o.step ∧ ∀ c, o.step.results c = o.results c) {o : LongOp}
    (h : P o) (n : Nat) (c : Bool) : (LongOp.step^[n] o).results c = o.results c := by
  induction n generalizing o with
  | zero => rfl
  | succ n ih =>
    obtain ⟨h', hc⟩ := hP o h
    rw [Function.iterate_succ_apply, ih h', hc]

theorem LongOp.Placed.results_iterate {o : LongOp} (h : o.Placed) (hs : o.sort = true) (n : Nat) (c : Bool) :
    (LongOp.step^[n] o).results c = o.results c :=
  LongOp.results_iterate (P := fun o => o.Placed ∧ o.sort = true) (fun _ h => h.1.step h.2) ⟨h, hs⟩ n c

theorem LongOp.results_iterate_scan {o : LongOp} (hs : o.sort = false) (n : Nat) (c : Bool) :
    (LongOp.step^[n] o).results c = o.results c :=
  LongOp.results_iterate (P := fun o => o.sort = false) (fun _ => LongOp.step_scan) hs n c

/-- The source lane of each position when VSORT ends. -/
theorem Strand.sorted_sortOp (st : Strand) (o : VOp) (v : VReg) : (st.sortOp o).sorted v = ofLanes fun j =>
    lane v ((((st.sortOp o).final.filter fun l => (st.active o.g).getLsbD l) ++ lanesOf (~~~(st.active o.g))).getD j 0) := by
  rw [LongOp.sorted]
  conv_lhs => rw [LongOp.final_start (o := st.sortOp o) rfl]
  rfl

theorem Strand.results_sortOp (st : Strand) (o : VOp) (c : Bool) :
    let all := ((st.sortOp o).final.filter fun l => (st.active o.g).getLsbD l) ++ lanesOf (~~~(st.active o.g))
    let image (v : VReg) : VReg := ofLanes fun j => lane v (all.getD j 0)
    (st.sortOp o).results c =
      [⟨.v o.d.toNat, BitVec.allOnes 128, image (st.v o.a.toNat), 32, st.fl.seq, st.slot, st.bundleAddr, 0, 0, 0⟩,
       ⟨.v (o.d.toNat + 1), BitVec.allOnes 128, image (st.v o.b.toNat), 32, st.fl.seq, st.slot, st.bundleAddr, 0, 0, 0⟩] := by
  intro all image
  have sorted (v : VReg) : (st.sortOp o).sorted v = image v := st.sorted_sortOp o v
  have hs : (st.sortOp o).sort = true := by rw [Strand.sortOp]
  rw [LongOp.results_sort hs, sorted, sorted, LongOp.result, Strand.sortOp]
  rfl

theorem Strand.results_scanOp (st : Strand) (o : VOp) (c : Bool) :
    let act := st.active o.g
    let scan := scanFrom (redStep (o.fn.toNat / 2) o.typ.toNat o.sat) act (st.v o.a.toNat) (o.fn.getLsbD 0) (List.range 128)
      (redIdent (o.fn.toNat / 2) o.typ.toNat, fNone)
    (st.scanOp o).results c = [⟨.v o.d.toNat, act, ofLanes fun l => if act.getLsbD l then scan.1.getD l 0 else 0, 16, st.fl.seq,
      st.slot, st.bundleAddr, vbits scan.2, 0, 0⟩] :=
  LongOp.results_scan_start (o := st.scanOp o) rfl rfl rfl rfl rfl c

end Sys2Proof.Machine
end

section
open Sys2Proof Sys2Proof.Machine

/-- Settles O36: a stage of VSORT's network and a block of VSCAN leave what the operation gives (`LongOp.Placed.step`,
`LongOp.step_scan`), and at the start it gives the sorted and the scanned lanes. -/
theorem vectorReductions : Obligations.VectorReductions := by
  unfold Obligations.VectorReductions
  intro s k o hi hu hr
  have hr1 : (s.strand k).Room 1 := Nat.le_trans (Nat.add_le_add_left (by decide) _) hr
  refine ⟨reduces_acts hi hr1 (exec_vredadd_undisturbed hu hi o), reduces_acts hi hr1 (o := { o with sat := false }) rfl,
    reduces_acts hi hr1 rfl, reduces_acts hi hr1 rfl, ?_, ?_⟩
  · refine ⟨((s.strand k).sortOp o).final.filter fun l => ((s.strand k).active o.g).getLsbD l,
      ((s.strand k).sortOp o).final_perm.filter _, (LongOp.active_pairwise (o := (s.strand k).sortOp o) rfl).imp fun h => ?_,
      (s.strand k).sortOp o, execVsort_room hi hr o, rfl, rfl, fun c => ⟨Strand.results_sortOp _ o c, fun n =>
        ((LongOp.placed_start rfl).results_iterate rfl n c).trans (Strand.results_sortOp _ o c)⟩⟩
    by_cases hd : o.fn = 0 <;> simpa [Strand.sortOp, hd] using h
  · exact ⟨(s.strand k).scanOp o, execVscan_room hi hu hr1 o, rfl, rfl, fun c => ⟨Strand.results_scanOp _ o c, fun n =>
      (LongOp.results_iterate_scan rfl n c).trans (Strand.results_scanOp _ o c)⟩⟩

end

section
/-!
PROOFS. What an access of memory leaves alone, and what it adds (07 R165, R166, 19 R399): one lemma for each operation that the
loads and stores share.
-/

namespace Sys2Proof.Machine

/-! ### A counted destination -/

section
variable (st : Strand) (n lat : Nat)

@[simp] theorem Strand.fl_count : (st.count n lat).fl = st.fl := rfl
@[simp] theorem Strand.c_count (i) : (st.count n lat).c i = st.c i := rfl
@[simp] theorem Strand.guard_count (g) : (st.count n lat).guard g = st.guard g := rfl
@[simp] theorem Strand.active_count (g) : (st.count n lat).active g = st.active g := rfl
@[simp] theorem Strand.slot_count : (st.count n lat).slot = st.slot := rfl
@[simp] theorem Strand.bundleAddr_count : (st.count n lat).bundleAddr = st.bundleAddr := rfl
@[simp] theorem Strand.owner_count : (st.count n lat).owner = st.owner := rfl
@[simp] theorem Strand.elemFmt_count (x o) : (st.count n lat).elemFmt x o = st.elemFmt x o := rfl
@[simp] theorem Strand.footprint_count (x o) : (st.count n lat).footprint x o = st.footprint x o := rfl
@[simp] theorem Strand.scalarOff_count (off imm size) : (st.count n lat).scalarOff off imm size = st.scalarOff off imm size := rfl
@[simp] theorem Strand.off12_count (off imm) : (st.count n lat).off12 off imm = st.off12 off imm := rfl

end

section
variable (s : State) (k : Nat)

@[simp] theorem State.space_modStrand (f x) : (s.modStrand k f).space k x = s.space k x := rfl
@[simp] theorem State.inFrame_modStrand (f x) : (s.modStrand k f).inFrame x = s.inFrame x := rfl
@[simp] theorem State.objLE_modStrand (f o a n) : (s.modStrand k f).objLE o a n = s.objLE o a n := by
  have bytes (a n : Nat) : (s.modStrand k f).objBytes o a n = s.objBytes o a n := by
    induction n generalizing a with
    | zero => rfl
    | succ n ih => rw [State.objBytes, ih]; rfl
  rw [State.objLE, bytes, State.objLE]
@[simp] theorem State.spadBytes_count (n lat a m) :
    (s.modStrand k fun st => st.count n lat).spadBytes k a m = s.spadBytes k a m := by
  induction m generalizing a with
  | zero => rfl
  | succ m ih => simp only [State.spadBytes, ih, State.spadByte, State.strand_modStrand, if_true, State.mem_modStrand]; rfl
@[simp] theorem State.readLocal_count (n lat x a m) :
    (s.modStrand k fun st => st.count n lat).readLocal k x a m = s.readLocal k x a m := by simp [State.readLocal]
@[simp] theorem State.elemAt_count (n lat x o) : (s.modStrand k fun st => st.count n lat).elemAt k x o = s.elemAt k x o := by
  simp [State.elemAt]

/-! ### Full bits, banks and queued writes of the scratchpad -/

@[simp] theorem State.core_setFull (a b j) : (s.setFull k a b).core j = s.core j := rfl
@[simp] theorem State.strand_setFull (a b j) : (s.setFull k a b).strand j = s.strand j := rfl
theorem State.strand_ite_setFull (c : Prop) [Decidable c] (a b j) : (if c then s.setFull k a b else s).strand j = s.strand j := by
  split <;> rfl
@[simp] theorem State.core_setFulls (b l j) : (s.setFulls k b l).core j = s.core j := by
  induction l generalizing s with
  | nil => rfl
  | cons a l ih => exact ih _
@[simp] theorem State.strand_setFulls (b l j) : (s.setFulls k b l).strand j = s.strand j := by simp [State.strand]
@[simp] theorem State.core_schedule (banks j) : (s.schedule k banks).core j =
    if j = k then { s.core k with now := { (s.core k).now with banks := (s.core k).now.banks ||| banks } } else s.core j :=
  State.core_modNow ..
@[simp] theorem State.strand_schedule (banks j) : (s.schedule k banks).strand j = s.strand j := State.strand_modNow ..
@[simp] theorem State.core_bufferCells (cs j) : (s.bufferCells k cs).core j =
    if j = k then { s.core k with now := { (s.core k).now with wbuf := (s.core k).now.wbuf ++ cs } } else s.core j :=
  State.core_modNow ..
@[simp] theorem State.strand_bufferCells (cs j) : (s.bufferCells k cs).strand j = s.strand j := State.strand_modNow ..

theorem State.isFull_setFull (a b : Nat) (h : s.isFull k b = true ∨ b = a) : (s.setFull k a true).isFull k b = true := by
  by_cases e : (s.strand k).fullKey k b = (s.strand k).fullKey k a
  · rw [State.isFull, State.strand_setFull, e]
    exact SMap.get_set_same ..
  · have hb : s.isFull k b = true := h.resolve_right fun e' => e (by rw [e'])
    rw [State.isFull, State.strand_setFull, State.setFull, SMap.get_set_other _ _ _ e]
    exact hb

theorem State.isFull_setFulls {l : List Nat} {b : Nat} (h : s.isFull k b = true ∨ b ∈ l) :
    (s.setFulls k true l).isFull k b = true := by
  induction l generalizing s with
  | nil => exact h.resolve_right nofun
  | cons a l ih =>
    refine ih _ ?_
    rcases h with h | h
    · exact .inl (s.isFull_setFull k a b (.inl h))
    · rcases List.mem_cons.1 h with rfl | h
      · exact .inl (s.isFull_setFull k b b (.inr rfl))
      · exact .inr h

/-! ### The flags of conversions (04 R97) -/

section
variable (bits : BitVec 8) (resn addr slot : Nat)

@[simp] theorem State.full_raiseV : (s.raiseV k bits resn addr slot).full = s.full := by
  simp only [State.raiseV]; split_ifs <;> rfl
@[simp] theorem State.vec_raiseV : ((s.raiseV k bits resn addr slot).strand k).vec = (s.strand k).vec := by
  simp only [State.raiseV]; split_ifs <;> simp [State.late, Strand.addSig]
@[simp] theorem State.cp_raiseV : ((s.raiseV k bits resn addr slot).strand k).cp = (s.strand k).cp := by
  simp only [State.raiseV]; split_ifs <;> simp [State.late, Strand.addSig]
@[simp] theorem State.wbuf_raiseV : ((s.raiseV k bits resn addr slot).core k).now.wbuf = (s.core k).now.wbuf := by
  simp only [State.raiseV]; split_ifs <;> simp [State.late]
@[simp] theorem State.vstat_raiseV : ((s.raiseV k bits resn addr slot).core k).now.vstat = (s.core k).now.vstat ||| bits := by
  simp only [State.raiseV]; split_ifs <;> simp [State.late, *]
@[simp] theorem State.isFull_raiseV (a) : (s.raiseV k bits resn addr slot).isFull k a = s.isFull k a := by
  simp only [State.isFull, State.full_raiseV, Strand.fullKey, Strand.phys, State.cp_raiseV]

end

/-! ### Late faults and the remote queue -/

@[simp] theorem State.strand_frameFault (x j) : (s.frameFault k x).strand j = s.strand j := State.strand_modNow ..
theorem State.late_frameFault (x) : ((s.frameFault k x).core k).now.late = (s.core k).now.late ++
    [⟨.revoked, BitVec.ofNat 64 (capObj x), some ((s.strand k).bundleAddr, (s.strand k).slot), (s.strand k).slot⟩] := by
  simp [State.frameFault, State.slotLate, State.late]
@[simp] theorem State.remotes_frameFault (x) : (s.frameFault k x).remotes = s.remotes := rfl
@[simp] theorem State.paneW_frameFault (x) : (s.frameFault k x).paneW = s.paneW := rfl


/-- The access that joins the remote queue. -/
def State.enqueued (s : State) (k : Nat) (kind : RKind) (x : CapBits) (off size : Nat) (data comparand : W64) (fn : Nat)
    (bytes : List (Nat × Byte)) (dst : Option SDest) (sx : Bool) (cls : Nat) (rel acq : Bool) (scope : Nat)
    (held : Bool) : Remote :=
  { id := s.nextId, owner := (s.strand k).owner, core := k, num := (s.strand k).fl.accesses, slot := (s.strand k).slot,
    addr := (s.strand k).bundleAddr, kind := kind, ckind := capKind x, obj := capObj x, off := off, size := size, data := data,
    bytes := bytes, comparand := comparand, fn := fn, dst := dst, seq := (s.strand k).fl.seq, sx := sx, cls := cls, rel := rel,
    acq := acq, scope := scope, stage := .queued, held := held, issued := s.now }

section
variable (kind : RKind) (x : CapBits) (off size : Nat) (data comparand : W64) (fn : Nat) (bytes : List (Nat × Byte))
  (dst : Option SDest) (sx : Bool) (cls : Nat) (rel acq : Bool) (scope : Nat) (held : Bool)

theorem State.remotes_enqueue : (s.enqueue k kind x off size data comparand fn bytes dst sx cls rel acq scope held).remotes =
    s.remotes ++ [s.enqueued k kind x off size data comparand fn bytes dst sx cls rel acq scope held] := rfl
@[simp] theorem State.paneW_enqueue :
    (s.enqueue k kind x off size data comparand fn bytes dst sx cls rel acq scope held).paneW = s.paneW := rfl
theorem State.strand_enqueue : (s.enqueue k kind x off size data comparand fn bytes dst sx cls rel acq scope held).strand k =
    (s.strand k).withFlow fun f =>
      { f with accesses := f.accesses + 1, acquire := if acq then 2 * s.nextId :: f.acquire else f.acquire } :=
  Eq.trans (b := (s.modStrand k fun st => st.withFlow fun f =>
    { f with accesses := f.accesses + 1, acquire := if acq then 2 * s.nextId :: f.acquire else f.acquire }).strand k) rfl
    (by rw [State.strand_modStrand, if_pos rfl])

end

/-! ### Stores outside the scratchpad -/

/-- The own pane's D bits change entries of the object table alone. -/
theorem State.dirty_frame (es : List (Nat × Nat)) : s.dirty es = { s with objs := (s.dirty es).objs } := by
  have step (t : State) (x : Nat × Nat) :
      (if (t.tableEntry x.1 x.2).any (!·.d) then t.modEntryOf x.1 x.2 (·.or0 2) else t) =
      { t with objs := (if (t.tableEntry x.1 x.2).any (!·.d) then t.modEntryOf x.1 x.2 (·.or0 2) else t).objs } := by
    unfold State.modEntryOf; split <;> (try split) <;> rfl
  unfold State.dirty
  induction es generalizing s with
  | nil => rfl
  | cons x l ih => rw [List.foldl_cons, ih, step]

/-- What a store does before its bytes go their way: the signature's sum, and the mark that its entry has escaped. -/
def State.storing (s : State) (k : Nat) (x : CapBits) (bs : List (Nat × Byte)) : State :=
  (s.modStrand k fun st => st.fold x bs).escape k x

section
variable (x : CapBits) (bs : List (Nat × Byte))

theorem Strand.fold_frame (st : Strand) : st.fold x bs = { st with sigNow := (st.fold x bs).sigNow } := by
  unfold Strand.fold; split <;> rfl
theorem State.escape_frame : s.escape k x = { s with window := (s.escape k x).window } := by
  simp only [State.escape]; split <;> rfl

@[simp] theorem State.remotes_storing : (s.storing k x bs).remotes = s.remotes := by rw [State.storing, State.escape_frame]; rfl
@[simp] theorem State.paneW_storing : (s.storing k x bs).paneW = s.paneW := by rw [State.storing, State.escape_frame]; rfl
@[simp] theorem State.objs_storing : (s.storing k x bs).objs = s.objs := by rw [State.storing, State.escape_frame]; rfl
@[simp] theorem State.views_storing : (s.storing k x bs).views = s.views := by rw [State.storing, State.escape_frame]; rfl
@[simp] theorem State.core_escape (j) : (s.escape k x).core j = s.core j := by simp only [State.escape]; split <;> rfl
@[simp] theorem State.strand_storing : (s.storing k x bs).strand k = (s.strand k).fold x bs := by
  rw [State.strand, State.storing, State.core_escape, State.core_modStrand, if_pos rfl]
@[simp] theorem State.now_storing : ((s.storing k x bs).core k).now = (s.core k).now := by
  rw [State.storing, State.core_escape, State.core_modStrand, if_pos rfl]
@[simp] theorem State.space_storing : (s.storing k x bs).space k x = s.space k x := by
  rw [State.storing, State.escape_frame]; rfl
@[simp] theorem State.inFrame_storing : (s.storing k x bs).inFrame x = s.inFrame x := by
  rw [State.storing, State.escape_frame]; rfl

end

section
variable {s k} {x : CapBits} (bs : List (Nat × Byte)) (cls : Nat)

/-- The first of the bytes of a store, and the length from there to the last. -/
def storeSpan (bs : List (Nat × Byte)) : Nat × Nat :=
  let off := (bs.map (·.1)).foldl min ((bs.map (·.1)).headD 0)
  (off, (bs.map (·.1)).foldl max 0 + 1 - off)

/-- A write that the Loupe holds, or that leaves the chiplet, joins the remote queue. -/
theorem State.storeOut_remote (h : (s.strand k).holds x = true ∨ s.space k x ≠ .pane) : s.storeOut k x bs cls =
    (s.storing k x bs).enqueue k .store x (storeSpan bs).1 (storeSpan bs).2 0 0 0 bs none false cls false false 0
      ((s.strand k).holds x) := by
  rw [State.storeOut]
  by_cases hh : (s.strand k).holds x = true
  · rw [if_pos hh, hh]; rfl
  · rw [if_neg hh, Bool.eq_false_iff.2 hh]
    have hp : (s.storing k x bs).space k x ≠ .pane := by rw [State.space_storing]; exact h.resolve_left hh
    exact if_neg hp

/-- A FRAME object of the own pane takes no write. -/
theorem State.storeOut_frame (h : (s.strand k).holds x = false) (hp : s.space k x = .pane) (hf : s.inFrame x = true) :
    s.storeOut k x bs cls = (s.storing k x bs).frameFault k x := by
  rw [State.storeOut, if_neg (by simp [h])]
  exact (if_pos ((s.space_storing k x bs).trans hp)).trans (if_pos ((s.inFrame_storing k x bs).trans hf))

/-- Another object of the own pane is written through the pane's port at the end of the cycle. -/
theorem State.storeOut_pane (h : (s.strand k).holds x = false) (hp : s.space k x = .pane) (hf : s.inFrame x = false) :
    (s.storeOut k x bs cls).remotes = s.remotes ∧ (s.storeOut k x bs cls).strand k = (s.strand k).fold x bs ∧
    (s.storeOut k x bs cls).paneW = s.paneW ++ bs.flatMap fun p => s.objCells (capObj x) p.1 [p.2] := by
  have cells : (bs.flatMap fun p => (s.storing k x bs).objCells (capObj x) p.1 [p.2]) =
      bs.flatMap fun p => s.objCells (capObj x) p.1 [p.2] :=
    congrArg (bs.flatMap ·) (funext fun p => State.objCells_congr (s.objs_storing k x bs) (s.views_storing k x bs) ..)
  have stored : ∃ t, s.storeOut k x bs cls = t ∧ t.remotes = s.remotes ∧ t.strand k = (s.strand k).fold x bs ∧
      t.paneW = s.paneW ++ bs.flatMap fun p => s.objCells (capObj x) p.1 [p.2] := by
    refine ⟨_, (if_neg (by simp [h])).trans ((if_pos ((s.space_storing k x bs).trans hp)).trans
      (if_neg (by rw [← State.storing, State.inFrame_storing, hf]; decide))), ?_, ?_, ?_⟩
    · rw [State.dirty_frame]; exact s.remotes_storing k x bs
    · rw [State.dirty_frame]; exact s.strand_storing k x bs
    · exact congr (congrArg _ (s.paneW_storing k x bs)) cells
  obtain ⟨t, e, ht⟩ := stored
  rw [e]; exact ht

end
end
end Sys2Proof.Machine
end

section
/-!
PROOFS. Scalar and vector loads (O19; 07 R165, R166, R172, R173, 04 R96, 19 R399).
-/

namespace Sys2Proof.Machine

variable {s : State} {k : Nat}

/-! ### LDS -/

/-- A scalar load's value is queued for its register, s0 excepted. -/
def Strand.queueLoad (st : Strand) (r : BitVec 6) (dst : Nat) (v : W64) (lat extra : Nat) : Strand :=
  if r = 0 then st else st.expose (.s dst) 1 (v.setWidth 4096) lat 0 extra

theorem Strand.exposed_queueLoad (st : Strand) (r : BitVec 6) (dst : Nat) (v : W64) (lat extra : Nat) :
    (st.queueLoad r (if r = 0 then 0 else dst) v lat extra).exposed = st.exposed ++ if r = 0 then [] else
      [⟨.s dst, 1, v.setWidth 4096, lat, st.fl.seq, st.slot, st.bundleAddr, 0, extra, 0⟩] := by
  by_cases h : r = 0
  · simp [Strand.queueLoad, h]
  · rw [Strand.queueLoad, if_neg h, if_neg h, if_neg h]; rfl

section
variable {r : BitVec 6} {cap : BitVec 4} {off imm : BitVec 6} {size : BitVec 2} {sx : Bool} {g : Guard} {q : MemQ}
  (h : s.Issues k) (hr : (s.strand k).Room 1)
  (hc : (s.strand k).checkScalar cap.toNat rRead ((s.strand k).scalarOff off imm size) (2 ^ size.toNat) q = none)
include h hr hc

/-- What a load with its checks passed answers, by its guard and the space it reaches. -/
theorem lds_answers : Answers (.lds r cap off imm size sx g q) s (
    let st := s.strand k
    let x := st.c cap.toNat
    let n := 2 ^ size.toNat
    let a := capAddr x (st.scalarOff off imm size)
    let dst := if r = 0 then 0 else rotIndex st.sc.rotb r.toNat
    let t := s.modStrand k fun st => st.count 1 20
    let queue (t : State) (v lat extra : Nat) : State := t.modStrand k fun st => st.queueLoad r dst (extendLoad sx n v) lat extra
    if st.guard g = true then
      match s.space k x with
      | .spad =>
        let u := queue (t.schedule k (st.bankBit a)) (ofLE (s.spadBytes k a n)) 6 14
        if q.qual = 2 then u.setFull k a false else u
      | .pane => if s.inFrame x = true then t.frameFault k x else queue t (s.objLE (capObj x) a n) 20 0
      | .remote => t.enqueue k .load x a n 0 0 0 [] (some (.s dst)) sx q.cls.toNat false false 0 false
    else t) := by
  change execLds r cap off imm size sx g q s = _
  rw [execLds, counted_room h hr hc]
  simp only [State.strand_modStrand, if_true, Strand.c_count, Strand.guard_count, State.space_modStrand, Strand.scalarOff_count,
    State.spadBytes_count, State.objLE_modStrand, State.inFrame_modStrand, Strand.count_sc]
  cases (s.strand k).guard g <;> rfl

end

/-! ### The vector loads -/

section
variable (t : State) (x : CapBits) (v : Nat) (act : PReg) (f : Nat → W32)

/-- A vector load's value is queued for its active lanes, where there are any. -/
theorem State.exposed_landLoad (hx : capKind x = kScratch ∨ t.inFrame x = false) :
    ((t.landLoad k x v act f).strand k).exposed = (t.strand k).exposed ++ if act = 0 then [] else
      [⟨.v v, act, ofLanes f, (loadLat x).1, (t.strand k).fl.seq, (t.strand k).slot, (t.strand k).bundleAddr, 0,
        (loadLat x).2, 0⟩] := by
  rw [State.landLoad]
  by_cases ha : act = 0
  · simp [ha]
  · rw [if_neg ha, if_neg ha, if_neg (by rcases hx with hx | hx <;> simp [hx])]
    simp [Strand.expose]

/-- A FRAME object of the own pane gives a late fault in place of a value (19 R399). -/
theorem State.landLoad_frame (hx : capKind x ≠ kScratch) (hf : t.inFrame x = true) (ha : act ≠ 0) :
    t.landLoad k x v act f = t.frameFault k x := by
  rw [State.landLoad, if_neg ha, if_pos ⟨hx, hf⟩]

end

/-- A vector load: its destination is counted and its value queued; a load of the scratchpad schedules its banks, and .fec empties
the granules it reads. -/
def State.loadLanes (s : State) (k : Nat) (x : CapBits) (v : Nat) (act : PReg) (f : Nat → W32) (q : MemQ) (banks : BitVec 64)
    (granules : List Nat) : State :=
  let t := (s.modStrand k fun st => st.count 1 20).landLoad k x v act f
  if act ≠ 0 ∧ capKind x = kScratch then
    (if q.qual = 2 then (t.schedule k banks).setFulls k false granules else t.schedule k banks)
  else t

section
variable {x : CapBits} {v : Nat} {act : PReg} {f : Nat → W32} {q : MemQ} {banks : BitVec 64} {granules : List Nat}

theorem State.loadLanes_frame :
    let t := (s.modStrand k fun st => st.count 1 20).landLoad k x v act f
    let u := s.loadLanes k x v act f q banks granules
    u.mem = s.mem ∧ u.strand k = t.strand k ∧ (u.core k).now.late = (t.core k).now.late := by
  simp only [State.loadLanes]; split_ifs <;> simp

/-- What the vector loads share (07 R173, 19 R399). -/
theorem gives_of_loadLanes {i : Instr} (hi : Answers i s (s.loadLanes k x v act f q banks granules)) :
    ∃ t, Answers i s t ∧ s.SameMemory t ∧
      ((capKind x == kScratch) = true ∨ s.inFrame x = false →
        (t.strand k).exposed = (s.strand k).exposed ++ (if act = 0 then [] else [⟨.v v, act, ofLanes f, if capKind x == kScratch then 6 else 20, (s.strand k).fl.seq, (s.strand k).slot,
          (s.strand k).bundleAddr, 0, if capKind x == kScratch then 14 else 0, 0⟩])) ∧
      ((capKind x == kScratch) = false → s.inFrame x = true → act ≠ 0 → (t.strand k).exposed = (s.strand k).exposed ∧
        (t.core k).now.late = (s.core k).now.late ++
          [⟨.revoked, BitVec.ofNat 64 (capObj x), some ((s.strand k).bundleAddr, (s.strand k).slot), (s.strand k).slot⟩]) := by
  obtain ⟨hmem, hstrand, hlate⟩ := State.loadLanes_frame (s := s) (k := k) (x := x) (v := v) (act := act) (f := f) (q := q)
    (banks := banks) (granules := granules)
  refine ⟨_, hi, fun a => by rw [hmem], fun hx => ?_, fun hx hf ha => ?_⟩
  · rw [hstrand, State.exposed_landLoad _ _ _ _ _ (by simpa using hx)]
    by_cases hs : capKind x = kScratch <;> simp [loadLat, hs]
  · rw [hstrand, hlate, State.landLoad_frame (s.modStrand k fun st => st.count 1 20) x v act f (by simpa using hx) hf ha,
      State.late_frameFault]
    simp

end

section
variable {v : BitVec 9} {cap : BitVec 4} {g : PGuard} {q : MemQ} (h : s.Issues k) (hr : (s.strand k).Room 1)
include h hr

theorem vld_answers {off : BitVec 6} {imm : BitVec 12}
    (hc : s.checkContig k cap.toNat rRead ((s.strand k).off12 off imm) q = none) :
    let st := s.strand k
    let x := st.c cap.toNat
    let o := st.off12 off imm
    let f := st.elemFmt x o
    let bytes := s.readLocal k x (capAddr x o) (st.footprint x o)
    Answers (.vld v cap off imm g q) s (s.loadLanes k x v.toNat (st.active g)
      (fun l => BitVec.ofNat 32 (widen f (bytes / 2 ^ (fmtWidth f * l) % 2 ^ fmtWidth f)))
      q (st.bankBit (capAddr x o)) (contigGranules (capAddr x o) (fmtWidth f) (st.active g))) := by
  intro st x o f bytes
  change execVld v cap off imm g q s = _
  rw [execVld, counted_room h hr hc]
  simp only [State.strand_modStrand, if_true, Strand.c_count, Strand.active_count, Strand.off12_count, Strand.elemFmt_count,
    Strand.footprint_count, State.readLocal_count]
  rfl

/-- The loads of single elements, each at the offset that `at_` gives for the strand and the lane. -/
theorem loadSingles_room {at_ : Strand → Nat → Int} {one : Bool}
    (hat : at_ ((s.strand k).count 1 20) = at_ (s.strand k))
    (hc : s.checkSingles k cap.toNat rRead (at_ (s.strand k) 0)
      (if one then [at_ (s.strand k) 0] else (lanesOf ((s.strand k).active g)).map (at_ (s.strand k))) q = none) :
    let st := s.strand k
    let x := st.c cap.toNat
    let act := st.active g
    loadSingles s v cap g q at_ one = .next (s.loadLanes k x v.toNat act
      (fun l => if act.getLsbD l then s.elemAt k x (at_ st l) else 0) q
      (if one then st.bankBit (capAddr x (at_ st 0)) else BitVec.allOnes 64)
      ((lanesOf act).map fun l => capAddr x (at_ st l))) := by
  intro st x act
  rw [loadSingles, counted_room h hr hc]
  simp only [State.strand_modStrand, if_true, Strand.c_count, Strand.active_count, hat, State.elemAt_count]
  rfl

end
end Sys2Proof.Machine
end

section
open Sys2Proof Sys2Proof.Machine

/-- Settles O19: `lds_answers`, and `gives_of_landLoad` for the vector forms. -/
theorem loads : Obligations.Loads := by
  unfold Obligations.Loads
  constructor
  · intro s k r cap off imm size sx g q h hr
    dsimp only
    intro hc
    have ha := lds_answers (r := r) (sx := sx) (g := g) h hr hc
    cases hg : (s.strand k).guard g
    · simp only [hg, Bool.false_eq_true, if_false] at ha
      exact ⟨_, ha, fun _ => rfl, nofun, nofun, nofun, nofun, fun _ => ⟨by simp, rfl⟩⟩
    · cases hs : s.space k ((s.strand k).c cap.toNat) with
      | spad =>
        simp only [hg, hs, if_true] at ha
        refine ⟨_, ha, fun _ => by split_ifs <;> rfl, fun _ _ => ?_, nofun, nofun, nofun, nofun⟩
        rw [State.strand_ite_setFull, State.strand_modStrand, if_pos rfl, Strand.exposed_queueLoad]
        simp only [State.strand_schedule, State.strand_modStrand, if_true]
        rfl
      | pane =>
        simp only [hg, hs, if_true] at ha
        cases hf : s.inFrame ((s.strand k).c cap.toNat)
        · simp only [hf, Bool.false_eq_true, if_false] at ha
          refine ⟨_, ha, fun _ => rfl, nofun, fun _ _ _ => ?_, nofun, nofun, nofun⟩
          rw [State.strand_modStrand, if_pos rfl, Strand.exposed_queueLoad]
          simp only [State.strand_modStrand, if_true]
          rfl
        · simp only [hf, if_true] at ha
          exact ⟨_, ha, fun _ => rfl, nofun, nofun, fun _ _ _ => ⟨by simp, by rw [State.late_frameFault]; simp⟩,
            nofun, nofun⟩
      | remote =>
        simp only [hg, hs, if_true] at ha
        exact ⟨_, ha, fun _ => rfl, nofun, nofun, nofun,
          fun _ _ => ⟨_, State.remotes_enqueue .., rfl, rfl, rfl, rfl, rfl, rfl, by simp [State.enqueued]⟩, nofun⟩
  · intro s k v ix cap off stride i6 imm wi g q h hr st act x local_ base one f bytes strided gathered gives
    exact ⟨fun hc => gives_of_loadLanes (vld_answers h hr hc),
      fun hc => gives_of_loadLanes (loadSingles_room (at_ := fun st _ => st.off12 off imm) (one := true) h hr rfl hc),
      fun hc => gives_of_loadLanes (loadSingles_room (at_ := fun st l => st.offStride off stride i6 l) (one := false) h hr rfl hc),
      fun hc => gives_of_loadLanes (loadSingles_room (at_ := fun st l => st.offIndex off ix wi l) (one := false) h hr rfl hc)⟩

end

section
/-!
PROOFS. Scalar and vector stores (O20; 07 R165, R172, R173, R179, 04 R97, 19 R399).
-/

namespace Sys2Proof.Machine

variable {s : State} {k : Nat}

/-! ### Outside the scratchpad -/

section
variable (x : CapBits) (bs : List (Nat × Byte)) (cls : Nat)

@[simp] theorem Strand.sc_fold (st : Strand) : (st.fold x bs).sc = st.sc := by rw [Strand.fold_frame]
@[simp] theorem Strand.vec_fold (st : Strand) : (st.fold x bs).vec = st.vec := by rw [Strand.fold_frame]
@[simp] theorem Strand.slot_fold (st : Strand) : (st.fold x bs).slot = st.slot := by rw [Strand.fold_frame]; rfl
@[simp] theorem Strand.bundleAddr_fold (st : Strand) : (st.fold x bs).bundleAddr = st.bundleAddr := by
  rw [Strand.fold_frame]; rfl

/-- A store changes no register at issue. -/
theorem State.storeOut_registers : ((s.storeOut k x bs cls).strand k).sc = (s.strand k).sc ∧
    ((s.storeOut k x bs cls).strand k).vec = (s.strand k).vec := by
  by_cases hr : (s.strand k).holds x = true ∨ s.space k x ≠ .pane
  · rw [State.storeOut_remote bs cls hr, State.strand_enqueue]; simp
  · obtain ⟨hh, hp⟩ := not_or.1 hr
    have hh := Bool.eq_false_iff.2 hh
    have hp := not_not.1 hp
    cases hf : s.inFrame x
    · obtain ⟨-, hs, -⟩ := State.storeOut_pane bs cls hh hp hf
      rw [hs]; simp
    · rw [State.storeOut_frame bs cls hh hp hf]; simp

end

/-! ### STS -/

theorem sts_answers {r : BitVec 6} {cap : BitVec 4} {off imm : BitVec 6} {size : BitVec 2} {g : Guard} {q : MemQ} (h : s.Issues k)
    (hc : (s.strand k).checkScalar cap.toNat rWrite ((s.strand k).scalarOff off imm size) (2 ^ size.toNat) q = none) :
    Answers (.sts r cap off imm size g q) s (
      let st := s.strand k
      let x := st.c cap.toNat
      let a := capAddr x (st.scalarOff off imm size)
      let bs := atAddr a (leBytes (2 ^ size.toNat) (st.s r.toNat).toNat)
      if st.guard g = true then
        if capKind x = kScratch then
          let t := (s.schedule k (st.bankBit a)).bufferCells k bs
          if q.qual ≠ 0 then t.setFull k a true else t
        else s.storeOut k x bs q.cls.toNat
      else s) := by
  change execSts r cap off imm size g q s = _
  rw [execSts, onCore_issues h]
  simp only [hc]
  cases (s.strand k).guard g
  · rfl
  · simp

/-! ### The vector stores -/

/-- A vector store to the scratchpad: its bytes are queued, a qualifier sets the granules full, and the flags of the conversions are
raised. -/
def State.storeLanes (s : State) (k : Nat) (bs : List (Nat × Byte)) (flags : BitVec 8) (q : MemQ) (banks : BitVec 64)
    (granules : List Nat) : State :=
  let t := (s.schedule k banks).bufferCells k bs
  (if q.qual != 0 then t.setFulls k true granules else t).raiseV k flags 0 (s.strand k).bundleAddr 3

section
variable {x : CapBits} {act : PReg} {bs raw : List (Nat × Byte)} {flags : BitVec 8} {q : MemQ} {banks : BitVec 64}
  {granules : List Nat}

theorem State.storeLanes_queues : let t := s.storeLanes k bs flags q banks granules
    s.SameMemory t ∧ (t.strand k).vec = (s.strand k).vec ∧ (t.core k).now.wbuf = (s.core k).now.wbuf ++ bs ∧
      (t.core k).now.vstat = (s.core k).now.vstat ||| flags ∧ (q.qual ≠ 0 → ∀ a ∈ granules, t.isFull k a = true) := by
  simp only [State.storeLanes]
  by_cases hq : q.qual = 0
  · rw [if_neg (by simp [hq])]
    exact ⟨fun _ => by simp, by simp, by simp, by simp, fun h => absurd hq h⟩
  · rw [if_pos (by simpa using hq)]
    refine ⟨fun _ => by simp, by simp, by simp, by simp, fun _ a ha => ?_⟩
    rw [State.isFull_raiseV]
    exact State.isFull_setFulls _ k (.inr ha)

/-- What the vector stores share (07 R173). -/
theorem stores_of_answers {i : Instr} (hi : Answers i s (if act = 0 then s
      else if capKind x = kScratch then s.storeLanes k bs flags q banks granules else s.storeOut k x raw q.cls.toNat)) :
    (act = 0 → Answers i s s) ∧
    (act ≠ 0 → capKind x = kScratch → ∃ t, Answers i s t ∧ s.SameMemory t ∧ (t.strand k).vec = (s.strand k).vec ∧
      (t.core k).now.wbuf = (s.core k).now.wbuf ++ bs ∧ (t.core k).now.vstat = (s.core k).now.vstat ||| flags ∧
      (q.qual ≠ 0 → ∀ a ∈ granules, t.isFull k a = true)) ∧
    (act ≠ 0 → capKind x ≠ kScratch → Answers i s (s.storeOut k x raw q.cls.toNat)) := by
  refine ⟨fun ha => ?_, fun ha hx => ⟨s.storeLanes k bs flags q banks granules, ?_, State.storeLanes_queues⟩,
    fun ha hx => ?_⟩
  · rwa [if_pos ha] at hi
  · rwa [if_neg ha, if_pos hx] at hi
  · rwa [if_neg ha, if_neg hx] at hi

end

section
variable {v : BitVec 9} {cap : BitVec 4} {g : PGuard} {q : MemQ} (h : s.Issues k)
include h

/-- The element that a store converts for lane l, to the format at offset o, with its flags. -/
def Strand.narrowed (st : Strand) (x : CapBits) (v : BitVec 9) (o : Int) (l : Nat) : Nat × Flags :=
  let r := st.fmtReg (capAddr x o)
  narrow (st.elemFmt x o) (fmtRnd r) (fmtSat r) (lane (st.v v.toNat) l).toNat

theorem vst_answers {off : BitVec 6} {imm : BitVec 12}
    (hc : s.checkContig k cap.toNat rWrite ((s.strand k).off12 off imm) q = none) :
    let st := s.strand k
    let act := st.active g
    let x := st.c cap.toNat
    let o := st.off12 off imm
    let w := fmtWidth (st.elemFmt x o)
    let a := capAddr x o
    let row := putElems (ofLE (s.spadBytes k a (16 * w))) w (fun l => (st.narrowed x v o l).1) (lanesOf act)
    Answers (.vst v cap off imm g q) s (if act = 0 then s
      else if capKind x = kScratch then
        s.storeLanes k (((atAddr 0 (leBytes (16 * w) row)).filter fun p => touched w act p.1).map fun p => (a + p.1, p.2))
          (vbits (flagsOf (fun l => (st.narrowed x v o l).2) (lanesOf act))) q (st.bankBit a) (contigGranules a w act)
      else s.storeOut k x
        ((lanesOf act).flatMap fun l => atAddr (a + 4 * l) (leBytes 4 (lane (st.v v.toNat) l).toNat)) q.cls.toNat) := by
  intro st act x o w a row
  change execVst v cap off imm g q s = _
  rw [execVst, onCore_issues h]
  simp only [hc]
  rfl

/-- The stores of single elements, each at the offset that `at_` gives for the strand and the lane. -/
theorem storeSingles_answers {at_ : Strand → Nat → Int}
    (hc : s.checkSingles k cap.toNat rWrite (at_ (s.strand k) 0)
      ((lanesOf ((s.strand k).active g)).map (at_ (s.strand k))) q = none) :
    let st := s.strand k
    let act := st.active g
    let x := st.c cap.toNat
    let a (l : Nat) : Nat := capAddr x (at_ st l)
    storeSingles s v cap g q at_ = .next (if act = 0 then s
      else if capKind x = kScratch then
        s.storeLanes k ((lanesOf act).flatMap fun l =>
            atAddr (a l) (leBytes (elemBytes (st.elemFmt x (at_ st l))) (st.narrowed x v (at_ st l) l).1))
          (vbits (flagsOf (fun l => (st.narrowed x v (at_ st l) l).2) (lanesOf act))) q (BitVec.allOnes 64) ((lanesOf act).map a)
      else s.storeOut k x ((lanesOf act).flatMap fun l => atAddr (a l) (leBytes 4 (lane (st.v v.toNat) l).toNat)) q.cls.toNat) := by
  intro st act x a
  rw [storeSingles, onCore_issues h]
  simp only [hc]
  rfl

end
end Sys2Proof.Machine
end

section
open Sys2Proof Sys2Proof.Machine

/-- Settles O20: the lemmas of `State.storeOut` by where its bytes go, `sts_answers`, and `stores_of_answers` for the vector
forms. -/
theorem stores : Obligations.Stores := by
  unfold Obligations.Stores
  refine ⟨fun s k x bs cls => ?_, ?_, ?_⟩
  · dsimp only
    obtain ⟨hsc, hvec⟩ := State.storeOut_registers (s := s) (k := k) x bs cls
    refine ⟨fun _ => by simp, hsc, hvec, fun hr => ?_, fun hh hp hf => ?_, fun hh hp hf => ?_⟩
    · rw [State.storeOut_remote bs cls hr]
      exact ⟨by simp, _, by rw [State.remotes_enqueue, State.remotes_storing], rfl, rfl, rfl, rfl⟩
    · obtain ⟨hrem, -, hpane⟩ := State.storeOut_pane bs cls hh hp hf
      exact ⟨hrem, hpane⟩
    · rw [State.storeOut_frame bs cls hh hp hf]
      exact ⟨by simp, by simp, by rw [State.late_frameFault]; simp⟩
  · intro s k r cap off imm size g q h
    dsimp only
    intro hc
    have ha := sts_answers (r := r) (g := g) h hc
    refine ⟨fun hg => ?_, fun hg hx => ?_, fun hg hx => ?_⟩
    · simpa only [hg, Bool.false_eq_true, if_false] using ha
    · simp only [hg, if_true, if_neg hx] at ha
      exact ha
    · simp only [hg, if_true, if_pos hx] at ha
      refine ⟨_, ha, fun _ => ?_, ?_, ?_, fun hq => ?_⟩
      · split_ifs <;> rfl
      · rw [State.strand_ite_setFull]; simp
      · split_ifs <;> simp <;> rfl
      · rw [if_pos hq]
        exact State.isFull_setFull _ k _ _ (.inr rfl)
  · intro s k v ix cap off stride i6 imm wi g q h
    exact ⟨fun hc => stores_of_answers (vst_answers h hc),
      fun hc => stores_of_answers (storeSingles_answers (at_ := fun st l => st.offStride off stride i6 l) h hc),
      fun hc => stores_of_answers (storeSingles_answers (at_ := fun st l => st.offIndex off ix wi l) h hc)⟩

end

section
/-!
PROOFS. Stream memory (O51; 05 R133, R137): loads, the entries of stores, PARK and its polls, and SVAR.  An S-op that takes an entry
complete at decode is told once, for the other ones too.
-/

namespace Sys2Proof.Machine

variable {s : State} {x : Nat}

/-! ### Entries complete at decode -/

/-- The entry that such an S-op leaves in the window (R115, R116). -/
def State.simpleOf (s : State) (x : Nat) (kind : EntryKind) (prods : List Nat) (f : FrontEnd → FrontEnd) : Entry :=
  { (freshEntry s x kind (s.ctx x).fe [] prods).passed s.now with after := (f (s.ctx x).fe).after }

@[simp] theorem Entry.passed_tid (e : Entry) (n : Nat) : (e.passed n).tid = e.tid := by unfold Entry.passed; split <;> rfl
@[simp] theorem Entry.passed_ctx (e : Entry) (n : Nat) : (e.passed n).ctx = e.ctx := by unfold Entry.passed; split <;> rfl
@[simp] theorem Entry.passed_kind (e : Entry) (n : Nat) : (e.passed n).kind = e.kind := by unfold Entry.passed; split <;> rfl
@[simp] theorem Entry.passed_sop (e : Entry) (n : Nat) : (e.passed n).sop = e.sop := by unfold Entry.passed; split <;> rfl
@[simp] theorem Entry.passed_prods (e : Entry) (n : Nat) : (e.passed n).prods = e.prods := by unfold Entry.passed; split <;> rfl

theorem Entry.passed_state (e : Entry) (n : Nat) :
    (e.passed n).state = if e.kind.passes = true then .verified else e.state := by unfold Entry.passed; split <;> rfl

section
variable (s : State) (x : Nat) (kind : EntryKind) (prods : List Nat) (f : FrontEnd → FrontEnd)

@[simp] theorem State.simpleOf_tid : (s.simpleOf x kind prods f).tid = nextTid x (s.ctx x).count := Entry.passed_tid ..
@[simp] theorem State.simpleOf_ctx : (s.simpleOf x kind prods f).ctx = x := Entry.passed_ctx ..
@[simp] theorem State.simpleOf_kind : (s.simpleOf x kind prods f).kind = kind := Entry.passed_kind ..
@[simp] theorem State.simpleOf_sop : (s.simpleOf x kind prods f).sop = (s.ctx x).fe.spc := Entry.passed_sop ..
@[simp] theorem State.simpleOf_prods : (s.simpleOf x kind prods f).prods = prods := Entry.passed_prods ..
/-- What has no work and waits for nothing has passed to VERIFIED (R116). -/
@[simp] theorem State.simpleOf_state :
    (s.simpleOf x kind prods f).state = if kind.passes = true then .verified else .wait := Entry.passed_state ..

end

@[simp] theorem State.window_commit (f : FrontEnd → FrontEnd) : (s.commit x f).window = s.window := rfl

@[simp] theorem State.ctx_commit (f : FrontEnd → FrontEnd) (y : Nat) : (s.commit x f).ctx y =
    if y = x then { s.ctx x with fe := (f (s.ctx x).fe).after, stats := { (s.ctx x).stats with sopf := (s.ctx x).stats.sopf + 1 } }
    else s.ctx y := State.ctx_modCtx ..

@[simp] theorem State.ctx_take (e : Entry) (y : Nat) : (s.take x e).ctx y =
    if y = x then { s.ctx x with count := (s.ctx x).count + 1 } else s.ctx y := s.ctx_modCtx y x fun c => { c with count := c.count + 1 }
@[simp] theorem State.window_take (e : Entry) : (s.take x e).window = s.window ++ [e] := rfl

@[simp] theorem freshEntry_tid (kind : EntryKind) (before : FrontEnd) (ops : List ROperand) (prods : List Nat) :
    (freshEntry s x kind before ops prods).tid = nextTid x (s.ctx x).count := rfl

@[simp] theorem State.window_modEntry (tid : Nat) (f : Entry → Entry) :
    (s.modEntry tid f).window = s.window.map fun e => if e.tid = tid then f e else e := rfl
@[simp] theorem State.ctx_modEntry (tid : Nat) (f : Entry → Entry) : (s.modEntry tid f).ctx x = s.ctx x := rfl

/-- No entry of a window has a number: an update of the entry of that number leaves them all. -/
theorem map_entry_of_fresh {w : List Entry} {tid : Nat} (h : ∀ e ∈ w, e.tid ≠ tid) (f : Entry → Entry) :
    w.map (fun e => if e.tid = tid then f e else e) = w := by
  conv_rhs => rw [← List.map_id w]
  exact List.map_congr_left fun e he => if_neg (h e he)

theorem State.window_simpleEntry (h : ∀ e ∈ s.window, e.tid ≠ nextTid x (s.ctx x).count) (kind : EntryKind) (prods : List Nat)
    (f : FrontEnd → FrontEnd) : (s.simpleEntry x kind prods f).window = s.window ++ [s.simpleOf x kind prods f] := by
  simp only [State.simpleEntry, State.window_modEntry, State.window_commit, State.window_take, State.ctx_commit, State.ctx_take, if_true,
    List.map_append, Entry.passed_tid, freshEntry_tid]
  rw [map_entry_of_fresh h]
  simp [State.simpleOf]

theorem State.ctx_simpleEntry (kind : EntryKind) (prods : List Nat) (f : FrontEnd → FrontEnd) :
    (s.simpleEntry x kind prods f).ctx x = { s.ctx x with
      fe := (f (s.ctx x).fe).after, count := (s.ctx x).count + 1,
      stats := { (s.ctx x).stats with sopf := (s.ctx x).stats.sopf + 1 } } := by
  simp [State.simpleEntry]

/-! ### Loads -/

/-- What SLD writes into its register: the value, extended (R133). -/
def loadedValue (o : SmemOp) (v : Nat) : W64 :=
  if o.sx then BitVec.ofInt 64 (signedOf v (8 * 2 ^ o.size.toNat)) else BitVec.ofNat 64 v

/-- SLD ends at decode with a value in its register. -/
def State.loaded (s : State) (x : Nat) (o : SmemOp) (v : Nat) : State := s.commit x fun f => f.setReg o.a (loadedValue o v)

section
variable (h : s.Decodes x)
include h

theorem sld_reads_status {o : SmemOp} (hs : o.stat = true) (hr : (o.imm + (s.ctx x).fe.reg o.b).toNat < 0x1000)
    (ha : (o.imm + (s.ctx x).fe.reg o.b).toNat % 2 ^ o.size.toNat = 0) : execSld o s = .next (s.loaded x o
      (s.statusRead x (o.imm + (s.ctx x).fe.reg o.b).toNat (2 ^ o.size.toNat))) := by
  rw [execSld, sop_decodes h]
  simp only [Context.streamAddr, hs, if_true, hr.not_ge, ha, ne_eq, not_true_eq_false, if_false]
  rfl

theorem sld_reads_memory {o : SmemOp} (hs : o.stat = false) {u : State} {v : Nat} {f : Finding} {k : CapBits} {a : Nat}
    (hk : (s.ctx x).cap o.n.toNat = k) (ha : (o.imm + (s.ctx x).fe.reg o.b).toNat = a)
    (hc : checkStream k rRead a (2 ^ o.size.toNat) = none)
    (hp : s.prismRead o.early (capObj k) (capBase k + a) (2 ^ o.size.toNat) = (u, some v, f)) :
    execSld o s = .next ((u.sldValue x o (capObj k) (capBase k + a) v).2.loaded x o
      (u.sldValue x o (capObj k) (capBase k + a) v).1) := by
  rw [execSld, sop_decodes h]
  simp only [Context.streamAddr, hs, hk, ha, hc, hp, Bool.false_eq_true, if_false]
  rfl

end

/-- What an early SLD answers: what is in memory, or what was there since the oldest unretired entry decoded; the oracle alone
changes (log 13, DESIGN CHOICE). -/
theorem State.sldValue_early (u : State) (x : Nat) {o : SmemOp} (h : o.early = true) (obj off v : Nat) :
    ∃ w m, u.sldValue x o obj off v = (w, { u with oracle := m }) ∧ (w = v ∨
      w ∈ u.valuesSince ((List.range (2 ^ o.size.toNat)).map fun i => u.keyVia (u.hubPort obj off) obj (off + i))
        (u.oldestDecoded x)) := by
  refine ⟨_, u.draw.2.oracle, by rw [State.sldValue, if_pos h, ← u.draw_frame], ?_⟩
  generalize u.valuesSince _ _ = vs
  cases hv : vs[u.draw.1]? with
  | none => exact .inl rfl
  | some w => exact .inr (List.mem_of_getElem? hv)

/-- SST takes an entry with the register's value as decode reads it (log 78, DEDUCED). -/
theorem sst_takes (h : s.Decodes x) {o : SmemOp} {k : CapBits} {a : Nat} (hk : (s.ctx x).cap o.n.toNat = k)
    (ha : (o.imm + (s.ctx x).fe.reg o.b).toNat = a) (hc : checkStream k rWrite a (2 ^ o.size.toNat) = none) :
    execSst o s = .next (s.simpleEntry x (.sst (capObj k) (capBase k + a) (2 ^ o.size.toNat) (capKind k) ((s.ctx x).fe.reg o.a))
      [] id) := by
  rw [execSst, sop_decodes h]
  simp only [Context.streamAddr, hk, ha, hc]

/-! ### PARK and SVAR -/

section
variable {a b c : BitVec 4} {n : BitVec 12} {i : BitVec 64} {u : State} {v : Nat} {k : CapBits} {off : Nat}

/-- SOPF counts the S-op. -/
def State.countSop (s : State) (x : Nat) : State :=
  s.modCtx x fun z => { z with stats := { z.stats with sopf := z.stats.sopf + 1 } }

/-- PARK reads its word: another than the comparand goes into g[b], and equal to it the context waits (R133). -/
theorem park_reads (h : s.Decodes x) (hk : (s.ctx x).cap n.toNat = k) (hoff : (i + (s.ctx x).fe.reg c).toNat = off)
    (hc : checkStream k rRead off 8 = none) (hp : s.prismRead false (capObj k) (capBase k + off) 8 = (u, some v, .ok)) :
    execPark a b c n i s = .next (if BitVec.ofNat 64 v ≠ (s.ctx x).fe.reg a then (u.countSop x).unpark x b v
      else (u.countSop x).modCtx x fun z => { z with
        run := 2
        park := some ⟨a, b, capObj k, capBase k + off, off, u.now, u.freshWord (capObj k) (capBase k + off)⟩ }) := by
  rw [execPark, sop_decodes h]
  simp only [Context.streamAddr, hk, hoff, hc, hp, Option.any_some, bne_iff_ne]
  rfl

variable {off : BitVec 64} {f : Finding}

/-- SVAR goes to the offset in entry BUDGET of its table (R137). -/
theorem svar_takes (h : s.Decodes x) (hk : (s.ctx x).cap n.toNat = k) (hr : capGrants k [rRead] = true)
    (hs : capKind k ≠ kScratch) (hl : off.toNat + 64 ≤ capLen k)
    (hp : s.prismRead false (capObj k) (capBase k + off.toNat + 8 * (s.ctx x).budget.toNat) 8 = (u, some v, f))
    (hv : v ≠ 0) (ht : u.target x v = true) : execSvar n off s = .next (u.commitFe x ((s.ctx x).fe.goto v)) := by
  rw [execSvar, sop_decodes h]
  simp [hk, hr, hs, hl.not_gt, hp, hv, ht]

/-- Where that entry is 0, to the offset in entry 0. -/
theorem svar_defaults (h : s.Decodes x) (hk : (s.ctx x).cap n.toNat = k) (hr : capGrants k [rRead] = true)
    (hs : capKind k ≠ kScratch) (hl : off.toNat + 64 ≤ capLen k)
    (hp : s.prismRead false (capObj k) (capBase k + off.toNat + 8 * (s.ctx x).budget.toNat) 8 = (u, some 0, f))
    {u' : State} {w : Nat} {f' : Finding}
    (hp' : u.prismRead false (capObj k) (capBase k + off.toNat + 8 * 0) 8 = (u', some w, f'))
    (hw : w ≠ 0) (ht : u'.target x w = true) : execSvar n off s = .next (u'.commitFe x ((s.ctx x).fe.goto w)) := by
  rw [execSvar, sop_decodes h]
  rw [Nat.mul_zero, Nat.add_zero] at hp'
  simp [hk, hr, hs, hl.not_gt, hp, hp', hw, ht]

end

/-- A poll that fails ends PARK with its decode fault (logs 49 and 116, DESIGN CHOICE). -/
theorem parkPoll_stops {p : ParkState} (hp : (s.ctx x).park = some p) {u : State} {r : Finding} {why : Reason}
    (hr : s.prismRead false p.obj p.off 8 = (u, none, r)) (hw : r = .gone ∧ why = .rights ∨ r = .error ∧ why = .data) :
    execParkPoll x s = .next ((u.modCtx x fun c => { c with run := 1, park := none }).decodeFault x why 0 0 p.woff) := by
  obtain ⟨rfl, rfl⟩ | ⟨rfl, rfl⟩ := hw <;> simp only [execParkPoll, hp, hr]

/-- A poll that reads the word ends PARK, or the context goes on waiting. -/
theorem parkPoll_reads {p : ParkState} (hp : (s.ctx x).park = some p) {u : State} {v : Nat} {r : Finding}
    (hr : s.prismRead false p.obj p.off 8 = (u, some v, r)) :
    execParkPoll x s = .next (if BitVec.ofNat 64 v ≠ (u.ctx x).fe.reg p.a then u.unpark x p.b v else u.modCtx x fun c =>
      { c with park := some { p with last := u.now, hit := u.freshWord p.obj p.off } }) := by
  simp only [execParkPoll, hp, hr]

end Sys2Proof.Machine

open Sys2Proof Sys2Proof.Machine

/-- Settles O51: one lemma for each S-op, `State.window_simpleEntry` for the entry of SST. -/
theorem streamMemory : Obligations.StreamMemory := by
  unfold Obligations.StreamMemory
  intro s u u' x o a b d n i v w f f'
  extract_lets F size at_ k ext loads unparks counts kp off goes stops
  refine ⟨fun h => ⟨?status, ?memory, ?store, ?park, ?svar⟩, fun p hp => ?poll⟩
  case status => exact fun hs hr ha => sld_reads_status h hs hr ha
  case memory =>
    intro hs hc hp
    have reads := sld_reads_memory h hs rfl rfl hc hp
    refine ⟨fun he => ?_, fun he => ?_⟩
    · rw [State.sldValue, if_neg (by simp [he])] at reads
      exact reads
    · obtain ⟨w, m, e, hw⟩ := u.sldValue_early x he (capObj k) (capBase k + at_) v
      rw [e] at reads
      exact ⟨w, m, reads, hw⟩
  case store =>
    intro hc hfresh
    exact ⟨_, _, sst_takes h rfl rfl hc, State.window_simpleEntry hfresh .., State.simpleOf_ctx .., State.simpleOf_kind ..,
      State.simpleOf_state .., by rw [State.ctx_simpleEntry]; rfl, fun _ => by rw [State.simpleEntry_mem]⟩
  case park =>
    intro hc hp
    have reads := park_reads (a := a) (b := b) h rfl rfl hc hp
    refine ⟨fun hv => ?_, fun hv => ?_⟩
    · rw [if_pos hv] at reads
      exact reads
    · rw [if_neg (not_not.2 hv)] at reads
      exact ⟨_, _, reads, by simp, by simp; rfl, rfl, rfl, rfl, rfl⟩
  case svar =>
    intro hr hs hl hp
    refine ⟨svar_takes h rfl hr hs hl hp, ?_⟩
    rintro rfl
    exact svar_defaults h rfl hr hs hl hp
  case poll =>
    refine ⟨fun hr => ?_, fun hr => ?_, fun hb hr => ⟨fun hv => ?_, fun hv => ?_⟩⟩
    · exact ⟨_, _, parkPoll_stops hp hr (.inl ⟨rfl, rfl⟩), by simp [State.decodeFault]; rfl, by simp [State.decodeFault]⟩
    · exact ⟨_, _, parkPoll_stops hp hr (.inr ⟨rfl, rfl⟩), by simp [State.decodeFault]; rfl, by simp [State.decodeFault]⟩
    · exact (parkPoll_reads hp hr).trans (by rw [if_pos hv, hb]; rfl)
    · exact (parkPoll_reads hp hr).trans (by rw [if_neg (not_not.2 hv)])

end

section
/-!
PROOFS. Buffers, work and the S-ops that take entries (O52; 05 R109, R110, R117, R118, R134-R137): the S-ops of the buffer table and of
the state, then the words of TASK and COPY.
-/

namespace Sys2Proof.Machine

variable {s : State} {x : Nat}

/-! ### Buffers (R134) -/

section
variable (h : s.Decodes x)
include h

/-- BIND makes the record that its registers and its capability name. -/
theorem bind_ends {buf : BitVec 6} {a b : BitVec 4} {n : BitVec 12} {seg : BitVec 5} {i : BitVec 64} {k : CapBits} {o len : Nat}
    (hk : (s.ctx x).cap n.toNat = k) (ho : (i + (s.ctx x).fe.reg a).toNat = o) (hlen : ((s.ctx x).fe.reg b).toNat = len)
    (hb : (SMap.get Buf.unbound (s.ctx x).fe.btab buf.toNat).bound = false) (hr : capGrants k [rRead] = true)
    (hs : capKind k ≠ kScratch) (hl : o + len ≤ capLen k) (hseg : o % 2 ^ seg.toNat = 0) (h0 : len ≠ 0)
    (hlseg : len % 2 ^ seg.toNat = 0) :
    execBind buf a b n seg i s = .next (({ s with nextId := s.nextId + 1 } : State).commit x fun f =>
      { f with
        btab := SMap.set f.btab buf.toNat
          { bound := true, r := true, w := capHas k rWrite, obj := capObj k, seglog := seg.toNat, start := capBase k + o,
            len := len, map := [], prod := [], bid := s.nextId + 1 } }) := by
  rw [execBind, sop_decodes h]
  simp [hk, ho, hlen, hb, hr, hs, hl.not_gt, hseg, h0, hlseg]

/-- UNBIND marks the buffer unbound and takes an entry behind the producers of its segments. -/
theorem unbind_takes {buf : BitVec 6} {disc : Bool} {r : Buf} (hr : SMap.get Buf.unbound (s.ctx x).fe.btab buf.toNat = r)
    (hb : r.bound = true) (hw : disc = true ∨ r.w = true) :
    execUnbind buf disc s = .next (s.simpleEntry x (.unbind buf.toNat disc r)
      ((r.prod.filter fun p => p.2 != 0).map fun p => p.2 - 1)
      fun f => { f with btab := SMap.set f.btab buf.toNat { r with bound := false, map := [], prod := [] } }) := by
  have hw' : (!disc && !r.w) = false := by obtain rfl | e := hw <;> simp [*]
  rw [execUnbind, sop_decodes h]
  simp [hr, hb, hw']

/-! ### Effects and state (R137) -/

theorem shalt_takes (code : BitVec 32) : execShalt code s = .next (s.simpleEntry x (.shalt code) [] id) := sop_decodes h _
theorem notify_takes (v : BitVec 6) (a : BitVec 4) (p : BitVec 32) :
    execNotify v a p s = .next (s.simpleEntry x (.notify v.toNat ((s.ctx x).fe.reg a) p) [] id) := sop_decodes h _
theorem ckpt_takes (tag : BitVec 32) : execCkpt tag s = .next (s.simpleEntry x (.ckpt tag) [] id) := sop_decodes h _

/-- SFENCE passes, with .sys once no older entry and no store of one is left. -/
theorem sfence_passes {sys : Bool} (hq : sys = false ∨ s.alive x = [] ∧ s.storesOut x = false) :
    execSfence sys s = .next (s.commit x id) := by
  rw [execSfence, sop_decodes h]
  obtain rfl | ⟨ha, ho⟩ := hq
  · rfl
  · simp [State.quiet, State.drainedCtx, ha, ho]

theorem service_decodes (h0 : x = 0) (f : State → Nat → State) : (service s fun s => sop s (f s)) = .next (f s 0) := by
  subst h0
  rw [service, if_pos h.1, sop_decodes h]

theorem prio_sets (h0 : x = 0) (y : BitVec 4) (level : BitVec 3) :
    execPrio y level s = .next ((s.setPrio y.toNat level.toNat).commit 0 id) := service_decodes h h0 fun s x => (s.setPrio y.toNat level.toNat).commit x id

theorem quota_sets (h0 : x = 0) {y : BitVec 4} {w : BitVec 9} {pool : BitVec 13} {n : BitVec 12} {k : CapBits}
    (hk : (s.ctx y.toNat).cap n.toNat = k) (hr : capGrants k [rRead, rWrite] = true) (hs : capKind k ≠ kScratch)
    (hq : s.quotasOk y.toNat w.toNat pool.toNat = true) :
    execQuota y w pool n s = .next ((s.modCtx y.toNat fun c =>
      { c with fe := { c.fe with wquota := w.toNat, pquota := pool.toNat, heap := k } }).commit 0 id) := by
  refine (service_decodes h h0 _).trans ?_
  simp [hk, hr, hs, hq]

end

/-- A commit of a front end that stands as it is moves its stream PC alone. -/
theorem State.fe_commit_id (y : Nat) :
    ((s.commit x id).ctx y).fe = { (s.ctx y).fe with spc := if y = x then (s.ctx x).fe.spc + 16 else (s.ctx y).fe.spc } := by
  rw [State.ctx_commit]
  split
  · next e => subst e; rfl
  · rfl

@[simp] theorem State.ctx_setPrio (y z level : Nat) : (s.setPrio y level).ctx z =
    if z = y then { s.ctx y with fe := { (s.ctx y).fe with prio := level } } else s.ctx z :=
  s.ctx_modCtx z y fun c => { c with fe := { c.fe with prio := level } }

/-! ### Words of TASK and COPY (R118, R135, R136) -/

/-- Where every operand reads, no quota is asked. -/
theorem State.overQuotas_of_reads {p : PendingSop} (h : ∀ o ∈ p.ops, o.renames = false) : s.overQuotas x p = false := by
  have hf : p.ops.filter (·.renames) = [] := List.filter_eq_nil_iff.2 fun o ho => by simp [h o ho]
  simp [State.overQuotas, hf]

/-- The work of a TASK or COPY whose words are all there. -/
def PendingSop.kind (p : PendingSop) : EntryKind :=
  match p.copy with
  | some w => .copy w p.cdims
  | none => .task (p.task.getD ⟨0, 0, 0, 0, 0, false, 0, 0⟩) p.code

/-- The entry that it takes. -/
def State.workOf (s : State) (x : Nat) (p : PendingSop) : Entry :=
  freshEntry s x p.kind (s.ctx x).fe p.ops (p.ops.flatMap (·.prods)).dedup

/-- With the last word the S-op takes its entry, and renaming begins. -/
theorem State.withWord_whole {p : PendingSop} (hw : p.whole = true) (hq : s.overQuotas x p = false) :
    (s.withWord x p).window = s.window ++ [s.workOf x p] ∧ ((s.withWord x p).ctx x).pending =
      some { p with tid := some (nextTid x (s.ctx x).count), todo := renameList 0 p.ops } := by
  have hq' : (s.modCtx x fun c => { c with pending := some p }).overQuotas x p = false := by
    simpa [State.overQuotas] using hq
  simp only [State.withWord, hw, if_true, State.takeWork, hq', Bool.false_eq_true, if_false]
  constructor
  · simp only [State.window_modCtx, State.window_take, State.workOf, freshEntry, State.ctx_modCtx, if_true]
    rfl
  · simp

/-- With another word it waits for the next. -/
theorem State.withWord_part {p : PendingSop} (hw : p.whole = false) :
    s.withWord x p = s.modCtx x fun c => { c with pending := some p } := by simp [State.withWord, hw]

theorem task_goes (h : s.Decodes x) {w : TaskWord} {k : CapBits}
    (hk : ((s.ctx x).findCap fun k => capHas k rExec && covers k w.kobj.toNat w.koff.toNat 1) = some k) :
    execTask w s = .next (s.withWord x ⟨some w, none, [], [], k, [], none, []⟩) := by
  rw [execTask, sop_decodes h]
  simp only [hk]

theorem copy_waits (h : s.Decodes x) {w : CopyWord} (hc : w.clamp = false ∨ x = 0) :
    execCopy w s = .next (s.modCtx x fun c => { c with pending := some ⟨none, some w, [], [], 0, [], none, []⟩ }) := by
  have hc' : (w.clamp && x != 0) = false := by obtain e | e := hc <;> simp [e]
  rw [execCopy, sop_decodes h]
  simp only [hc', Bool.false_eq_true, if_false]
  rw [State.withWord_part rfl]

/-- An IN operand of a bound buffer resolves to the present mappings of its segments, and waits for their producers (R109, R110). -/
def Buf.reads (b : Buf) (w : OpdWord) : ROperand :=
  { w := w, segs := (opdSegments w b.seglog).map fun j => (SMap.get homeMap b.map j, homeMap, homeMap), seglog := b.seglog,
    seg0 := w.first / 2 ^ b.seglog, atomic := false, bid := b.bid,
    prods := (((opdSegments w b.seglog).map fun j => SMap.get 0 b.prod j).filter (· != 0)).map (· - 1), obj := b.obj,
    base := b.start }

theorem resolveOpd_reads {c : Context} {w : OpdWord} {b : Buf} (hb : SMap.get Buf.unbound c.fe.btab w.buf.toNat = b)
    (he : w.isExt = false) (hm : w.mode = 0) (hbound : b.bound = true) (hl : w.first + w.size ≤ b.len) :
    resolveOpd c w [] = .inr (b.reads w) := by
  simp [resolveOpd, Buf.reads, hb, he, hm, hbound, hl.not_gt]

theorem Buf.mem_reads_prods (b : Buf) (w : OpdWord) (t : Nat) :
    t ∈ (b.reads w).prods ↔ ∃ j ∈ opdSegments w b.seglog, SMap.get 0 b.prod j = t + 1 := by
  simp only [Buf.reads, List.mem_map, List.mem_filter, bne_iff_ne]
  constructor
  · rintro ⟨_, ⟨⟨j, hj, rfl⟩, h0⟩, rfl⟩
    exact ⟨j, hj, by omega⟩
  · rintro ⟨j, hj, e⟩
    exact ⟨t + 1, ⟨⟨j, hj, e⟩, by omega⟩, by omega⟩

section
variable {p : PendingSop} (hx : s.curCtx = x) (hr : (s.ctx x).run = 1) (hp : (s.ctx x).pending = some p)
include hx hr hp

theorem extension_wanted {want : PendingSop → Bool} (hw : want p = true) (f : Nat → PendingSop → State) :
    extension s want f = .next (f x p) := by
  subst hx
  rw [extension, onCtx_decodes hr, hp]
  simp only [hw, if_true]

theorem opd_reads {w : OpdWord} {b : Buf} (hw : p.wantsOpd = true) (hc : p.copy = none) (ho : p.ops = [])
    (hb : SMap.get Buf.unbound (s.ctx x).fe.btab w.buf.toNat = b) (he : w.isExt = false) (hm : w.mode = 0)
    (hbound : b.bound = true) (hl : w.first + w.size ≤ b.len) :
    execOpd w s = .next (s.withWord x { p with opds := p.opds ++ [w], ops := p.ops ++ [b.reads w] }) := by
  have hmode : p.modeOk w = true := by simp [PendingSop.modeOk, hc]
  rw [execOpd, extension_wanted hx hr hp hw]
  simp only [hmode, ho, resolveOpd_reads hb he hm hbound hl, Bool.not_true, Bool.false_eq_true, if_false]

theorem cdim_goes {w : CdimWord} (hw : p.wantsCdim = true) (hok : p.cdimOk w = true) :
    execCdim w s = .next (s.withWord x { p with cdims := p.cdims ++ [w] }) := by
  rw [execCdim, extension_wanted hx hr hp hw]
  simp only [hok, if_true]

end

end Sys2Proof.Machine

open Sys2Proof Sys2Proof.Machine

/-- Settles O52: one lemma for each S-op; `State.window_simpleEntry` for those whose entry is complete at decode, `State.withWord_whole`
for the entry that a TASK or COPY takes with its last word. -/
theorem streamWork : Obligations.StreamWork := by
  unfold Obligations.StreamWork
  refine ⟨fun s x buf v a b y n seg i p disc level w pool h => ?_, fun s x w cw ow dw k p => ?_⟩
  · extract_lets c F k o len r ends enters z k'
    have simple {j : Instr} {kind : EntryKind} {prods : List Nat} {f : FrontEnd → FrontEnd} {z : EState} {g : State → Entry → Prop}
        (hj : exec j s = .next (s.simpleEntry x kind prods f)) (hf : ∀ fe, (f fe).spc = fe.spc)
        (hz : (if kind.passes = true then .verified else .wait) = z)
        (hg : g (s.simpleEntry x kind prods f) (s.simpleOf x kind prods f)) : enters j z g := fun hfresh =>
      ⟨_, _, hj, State.window_simpleEntry hfresh .., State.simpleOf_tid .., State.simpleOf_ctx .., (State.simpleOf_state ..).trans hz,
        State.simpleOf_sop .., by simp [State.ctx_simpleEntry, FrontEnd.after, FrontEnd.goto, hf]; rfl,
        by rw [State.ctx_simpleEntry], fun _ => by rw [State.simpleEntry_mem], hg⟩
    refine ⟨?bind, ?unbind, ?_, ?_, ?_, ?sfence, ?prio, ?quota⟩
    case bind => exact fun hb hr hs hl hseg h0 hlseg => bind_ends h rfl rfl rfl hb hr hs hl hseg h0 hlseg
    case unbind =>
      refine fun hb hw => simple (unbind_takes h rfl hb hw) (fun _ => rfl) rfl ⟨State.simpleOf_kind .., ?_, fun m hm h0 => ?_⟩
      · simp [State.ctx_simpleEntry, FrontEnd.after, FrontEnd.goto]
      · rw [State.simpleOf_prods]
        exact List.mem_map.2 ⟨m, List.mem_filter.2 ⟨hm, by simpa using h0⟩, rfl⟩
    · exact simple (shalt_takes h p) (fun _ => rfl) rfl (State.simpleOf_kind ..)
    · exact simple (notify_takes h v a p) (fun _ => rfl) rfl (State.simpleOf_kind ..)
    · exact simple (ckpt_takes h p) (fun _ => rfl) rfl (State.simpleOf_kind ..)
    case sfence => exact fun hq => sfence_passes h hq
    case prio =>
      exact fun h0 => ⟨_, prio_sets h h0 y level, by rw [State.fe_commit_id, State.ctx_setPrio, if_pos rfl], fun _ => rfl, rfl⟩
    case quota =>
      intro h0 hr hs hok
      refine ⟨_, quota_sets h h0 rfl hr hs hok, ?_⟩
      rw [State.fe_commit_id, State.ctx_modCtx, if_pos rfl]
      exact ⟨rfl, rfl, rfl, fun _ => rfl⟩
  · extract_lets c waits r q
    refine ⟨fun h hk => ⟨fun hn => ?_, fun hn => ?_⟩, fun h hc => copy_waits h hc, fun hx hr hp ht => ⟨?opd, ?cdim⟩⟩
    · refine (task_goes h hk).trans (congrArg _ (State.withWord_part ?_))
      have hn' : 0 < w.nopd.toNat := Nat.pos_of_ne_zero fun e => hn (BitVec.eq_of_toNat_eq e)
      simp [PendingSop.whole, PendingSop.wantsOpd, hn']
    · obtain ⟨hwin, hpend⟩ := State.withWord_whole (s := s) (x := x) (p := ⟨some w, none, [], [], k, [], none, []⟩)
        (by simp [PendingSop.whole, PendingSop.wantsOpd, PendingSop.wantsCdim, hn]) (State.overQuotas_of_reads (by simp))
      exact ⟨_, _, _, task_goes h hk, hwin, rfl, rfl, rfl, rfl, hpend, rfl, rfl, fun _ => by rw [State.withWord_mem]⟩
    case opd =>
      intro hw hc ho he hm hb hl
      have reads := opd_reads hx hr hp hw hc ho rfl he hm hb hl
      refine ⟨r.reads ow, rfl, r.mem_reads_prods ow, rfl, rfl, fun hq => ?_, fun hq => ?_⟩
      · exact reads.trans (congrArg _ (State.withWord_part hq))
      · have hreads : ∀ o ∈ p.ops ++ [r.reads ow], o.renames = false := by
          simp [ho, ROperand.renames, Buf.reads, hm]
        obtain ⟨hwin, -⟩ := State.withWord_whole (s := s) (x := x) hq (State.overQuotas_of_reads hreads)
        exact ⟨_, _, reads, hwin, by simp [State.workOf, freshEntry, ho], rfl, by simp [State.workOf, freshEntry, ho]⟩
    case cdim =>
      intro hw hok
      refine ⟨fun hq => ?_, fun hq hover => ?_⟩
      · exact (cdim_goes hx hr hp hw hok).trans (congrArg _ (State.withWord_part hq))
      · exact ⟨_, _, cdim_goes hx hr hp hw hok, (State.withWord_whole hq hover).1, rfl, rfl⟩

end

section
/-!
PROOFS. What aborting a task leaves alone, and the frames that it writes (05 R127, 18 R361, R362); an update of a window entry and what
reads find after it.
-/

namespace Sys2Proof

variable {α β : Type}

/-- Reading sparse data whose values a function has changed. -/
theorem SMap.get_map (f : α → β) (d : α) (m : SMap α) (k : Nat) :
    SMap.get (f d) (m.map fun p => (p.1, f p.2)) k = f (SMap.get d m k) := by
  induction m with
  | nil => rfl
  | cons p m ih =>
    obtain ⟨j, v⟩ := p
    simp only [List.map_cons, SMap.get, ih]
    split <;> rfl

end Sys2Proof

namespace Sys2Proof.Machine

variable {s : State}

/-! ### Window entries -/

theorem State.entry_tid {tid : Nat} {e : Entry} (h : s.entry tid = some e) : e.tid = tid := by
  simpa using List.find?_some h

/-- An update of the entries of one number that leaves their number. -/
theorem State.entry_modEntry {tid : Nat} {f : Entry → Entry} (hf : ∀ e, e.tid = tid → (f e).tid = tid := by exact fun _ h => h) (t : Nat) :
    (s.modEntry tid f).entry t = (s.entry t).map fun e => if e.tid = tid then f e else e := by
  have hp : ((fun e : Entry => e.tid == t) ∘ fun e => if e.tid = tid then f e else e) = fun e => e.tid == t := by
    funext e
    by_cases h : e.tid = tid
    · simp [h, hf e h]
    · simp [h]
  simp only [State.entry, State.window_modEntry, List.find?_map, hp]

/-- The entry that is updated. -/
theorem State.entry_modEntry_self {tid : Nat} {f : Entry → Entry} {e : Entry} (h : s.entry tid = some e)
    (hf : ∀ e, e.tid = tid → (f e).tid = tid := by exact fun _ h => h) : (s.modEntry tid f).entry tid = some (f e) := by
  rw [State.entry_modEntry hf, h, Option.map_some, if_pos (State.entry_tid h)]

/-! ### Frames (18 R362) -/

/-- Of memory, t has changed frames alone, and frames lie where they lay. -/
structure State.FramesAlone (s t : State) : Prop where
  obj : ∀ x, (t.ctx x).frameObj = (s.ctx x).frameObj
  key : ∀ o off, t.frameKey o off = s.frameKey o off
  mem : s.SameButFrames t

theorem State.FramesAlone.trans {s t u : State} (h : s.FramesAlone t) (h' : t.FramesAlone u) : s.FramesAlone u where
  obj x := (h'.obj x).trans (h.obj x)
  key o off := (h'.key o off).trans (h.key o off)
  mem a ha := (h'.mem a fun x off => by rw [h.key, h.obj]; exact ha x off).trans (h.mem a ha)

/-- Memory and the objects stand, and every context keeps its frame object. -/
theorem State.FramesAlone.of_eq {s t : State} (hm : t.mem = s.mem) (ho : t.objs = s.objs)
    (hc : ∀ x, (t.ctx x).frameObj = (s.ctx x).frameObj) : s.FramesAlone t :=
  ⟨hc, fun o off => State.frameKey_congr (State.obj_congr ho o) off, fun _ _ => by rw [hm]⟩

theorem State.foldl_framesAlone {α : Type} {f : State → α → State} (hf : ∀ (t : State) x, t.FramesAlone (f t x)) (l : List α) (s : State) :
    s.FramesAlone (l.foldl f s) := by
  induction l generalizing s with
  | nil => exact .of_eq rfl rfl fun _ => rfl
  | cons x l ih => exact (hf s x).trans (ih _)

/-- The mark that a write sets in an entry of the object table leaves the extent where it is. -/
theorem OtEntry.or0_two (e : OtEntry) : (e.or0 2).p = e.p ∧ ∀ page off, (e.or0 2).key page off = e.key page off := by
  have shift (n : Nat) (hn : 2 ≤ n) : (e.w0 ||| 2).toNat / 2 ^ n = e.w0.toNat / 2 ^ n := by
    have h2 : (2 : Nat) >>> n = 0 := by
      rw [Nat.shiftRight_eq_div_pow]
      exact Nat.div_eq_of_lt (lt_of_lt_of_le (by decide : 2 < 2 ^ 2) (Nat.pow_le_pow_right (by decide) hn))
    rw [BitVec.toNat_or, ← Nat.shiftRight_eq_div_pow, Nat.shiftRight_or_distrib, ← Nat.shiftRight_eq_div_pow]
    exact (congrArg _ h2).trans (Nat.or_zero _)
  have home : (e.or0 2).home = e.home := by unfold OtEntry.home OtEntry.or0; rw [shift 8 (by decide)]
  have unit : (e.or0 2).unit = e.unit := by unfold OtEntry.unit OtEntry.or0; rw [shift 16 (by decide)]
  refine ⟨by simp [OtEntry.p, OtEntry.or0], fun page off => ?_⟩
  simp only [OtEntry.key, home, unit]
  rfl

theorem State.frameKey_modEntryOf {f : OtEntry → OtEntry} (hf : ∀ e, (f e).p = e.p ∧ ∀ page off, (f e).key page off = e.key page off)
    (obj ext o off : Nat) : (s.modEntryOf obj ext f).frameKey o off = s.frameKey o off := by
  unfold State.modEntryOf
  split
  · rfl
  · next ob hob =>
    by_cases h : o = obj
    · subst h
      rw [State.frameKey, State.obj_of_objs_set rfl, if_pos rfl, State.frameKey, hob]
      dsimp only
      rw [List.getElem?_mapIdx]
      cases ob.exts[off / 2 ^ pageLog ob.pcode]? with
      | none => rfl
      | some e =>
        simp only [Option.map_some, Option.bind_some]
        split
        · rw [(hf e).1, (hf e).2]
        · rfl
    · exact State.frameKey_congr ((State.obj_of_objs_set rfl o).trans (if_neg h)) off

@[simp] theorem State.frameKey_dirty (es : List (Nat × Nat)) (o off : Nat) : (s.dirty es).frameKey o off = s.frameKey o off := by
  unfold State.dirty
  induction es generalizing s with
  | nil => rfl
  | cons x l ih =>
    rw [List.foldl_cons, ih]
    split
    · exact State.frameKey_modEntryOf OtEntry.or0_two ..
    · rfl

/-! ### Records that are marked discarded (18 R361) -/

/-- Marking a byte of a frame changes memory and its marks, the object table's D and what is owed to frames, and nothing else. -/
theorem State.markFrame_frame (s : State) (obj off : Nat) (b : Byte) : let t := s.markFrame obj off b
    t = { s with mem := t.mem, poison := t.poison, objs := t.objs, dueMarks := t.dueMarks } := by
  unfold State.markFrame
  split
  · rfl
  · rw [State.dirty_frame]; rfl
  · rfl

theorem State.markFrame_framesAlone (s : State) (x off : Nat) (b : Byte) : s.FramesAlone (s.markFrame (s.ctx x).frameObj off b) := by
  unfold State.markFrame
  split
  · exact .of_eq rfl rfl fun _ => rfl
  · next k _ hk =>
    refine ⟨fun y => by rw [State.dirty_frame]; rfl, fun o i => by rw [State.frameKey_dirty]; rfl, fun a ha => ?_⟩
    rw [State.dirty_mem, State.putCells_mem, Memory.read_writeAll_of_forall_ne]
    rintro c hc rfl
    rw [List.mem_singleton.1 hc] at ha
    exact ha x off hk
  · exact .of_eq rfl rfl fun _ => rfl

theorem State.markDiscarded_framesAlone (s : State) (a : Absent) : s.FramesAlone (s.markDiscarded a) := s.markFrame_framesAlone ..

/-! ### Aborts (05 R127) -/

theorem State.foldl_markDiscarded_frame (l : List Absent) (s : State) : let t := l.foldl State.markDiscarded s
    t = { s with mem := t.mem, poison := t.poison, objs := t.objs, dueMarks := t.dueMarks } := by
  induction l generalizing s with
  | nil => rfl
  | cons a l ih =>
    have h := ih (s.markDiscarded a)
    dsimp only at h ⊢
    rw [List.foldl_cons, h, State.markDiscarded, State.markFrame_frame]

section
variable (tid : Nat) (role : Option Nat)

theorem State.window_abort : (s.abort tid role).window = s.window := by
  rw [State.abort, State.foldl_markDiscarded_frame]
theorem State.irq_abort : (s.abort tid role).irq = s.irq := by
  rw [State.abort, State.foldl_markDiscarded_frame]
theorem State.hub_abort : (s.abort tid role).hub = s.hub := by
  rw [State.abort, State.foldl_markDiscarded_frame]
theorem State.shadows_abort : (s.abort tid role).shadows = s.shadows := by
  rw [State.abort, State.foldl_markDiscarded_frame]
/-- Pool entries of the task's spawn tree go; a context keeps all else. -/
theorem State.ctx_abort (x : Nat) : (s.abort tid role).ctx x =
    { s.ctx x with pool := (s.ctx x).pool.filter fun e => !(e.tid == tid && role.all (· == e.role)) } := by
  rw [State.abort, State.foldl_markDiscarded_frame]
  exact SMap.get_map (fun c : Context => { c with pool := c.pool.filter fun e => !(e.tid == tid && role.all (· == e.role)) })
    Context.none s.ctxs x

theorem State.abort_framesAlone : s.FramesAlone (s.abort tid role) := by
  refine (State.foldl_framesAlone State.markDiscarded_framesAlone (s.absent.filter fun a => inTask tid role a.st.owner) s).trans ?_
  refine .of_eq rfl rfl fun x => ?_
  rw [State.ctx_abort, State.foldl_markDiscarded_frame]
  rfl

end

end Sys2Proof.Machine

end

section
/-!
PROOFS. Readiness, aging and dispatch (O53; 05 R116, R121-R125, R134, R137, 11 R293): first the entries that become READY or are done,
then strands that are sent to cores, and what the dispatcher serves.
-/

namespace Sys2Proof.Machine

variable {s : State}

/-! ### Readiness (R116, R134, R137) -/

section
variable {tid : Nat} {e : Entry} (he : s.entry tid = some e)
include he

/-- A TASK, COPY or UNBIND whose producers are done becomes READY. -/
theorem entryReady_of_producers (hs : e.state = .wait)
    (hk : (∃ w c, e.kind = .task w c) ∨ (∃ w d, e.kind = .copy w d) ∨ ∃ b d r, e.kind = .unbind b d r)
    (hr : s.renaming e = false) (hf : e.fills = 0) (hfill : e.filledAt < s.now) (hp : ∀ p ∈ e.prods, s.prodDone p = true) :
    execEntryReady tid s = .next (s.becomeReady tid) := by
  have hprods : e.prods.all s.prodDone = true := List.all_eq_true.2 hp
  obtain ⟨w, c, hk⟩ | ⟨w, d, hk⟩ | ⟨b, d, r, hk⟩ := hk <;>
    simp [execEntryReady, he, State.canBeReady, hk, hs, hr, hf, hfill, hprods]

/-- What has no work and waits for nothing is done at once. -/
theorem entryReady_passes (hs : e.state = .wait) (hk : e.kind.passes = true) :
    execEntryReady tid s = .next (s.verify tid) := by
  cases hkind : e.kind with
  | task | copy | unbind | ckpt => rw [hkind] at hk; cases hk
  | sst | notify | shalt => simp [execEntryReady, he, State.canBeReady, hkind, hs]

/-- A READY UNBIND is done where it discards or writes nothing back, and otherwise queues its write-backs. -/
theorem entryReady_unbind {b : Nat} {d : Bool} {r : Buf} (hk : e.kind = .unbind b d r) (hs : e.state = .ready)
    (hb : s.writebackBlocked e = false) :
    execEntryReady tid s = .next (if d || e.homeWrites.isEmpty then s.verify tid else s.queueWritebacks e r) := by
  simp only [execEntryReady, he, State.canBeReady, hk, hs, hb, Bool.not_false, Bool.not_true, Bool.false_eq_true, if_false]

theorem entryReady_ckpt {tag : W32} (hk : e.kind = .ckpt tag) (hs : e.state = .wait) (ho : s.olderThan e = []) :
    execEntryReady tid s = .next (s.becomeReady tid) := by
  simp [execEntryReady, he, State.canBeReady, hk, hs, ho]

theorem entryReady_marks {tag : W32} (hk : e.kind = .ckpt tag) (hs : e.state = .ready) (hc : (s.ctx e.ctx).ckpt = none)
    (hm : s.markable e.ctx = true) : execEntryReady tid s = .next ((s.mark e.ctx tag e.after).verify tid) := by
  simp [execEntryReady, he, State.canBeReady, hk, hs, hm, Context.copying, hc]

theorem agingPromotion_rises (hs : e.state = .ready) (hp : e.prio < 7) (ha : e.readySince + 2 ^ 20 ≤ s.now) :
    execAgingPromotion tid s = .next ((s.modEntry tid fun y =>
      { y with prio := y.prio + 1, rises := y.rises + 1, readySince := y.readySince + 2 ^ 20 }).modCtx e.ctx fun c =>
      { c with stats := { c.stats with aged := c.stats.aged + 1 } }) := by
  simp only [execAgingPromotion, he]
  rw [if_pos ⟨hs, hp, ha⟩]

/-- The hand-over of a READY entry is given up. -/
theorem handoffTimeout_gives (hs : e.state = .ready) (hw : e.waitFrom + 2 ^ 16 ≤ s.now) :
    ∃ t, execPersistentHandoffTimeout tid s = .next t ∧ t.entry tid = some { e with timedOut := true } := by
  refine ⟨_, rfl, ?_⟩
  refine (State.entry_modEntry_self he fun y hy => ?_).trans (congrArg some (if_pos ⟨hs, hw⟩))
  split <;> exact hy

end

/-- The marking of a checkpoint names it (21 R421). -/
theorem State.ckrec_mark (x : Nat) (tag : W32) (fe : FrontEnd) : ((s.mark x tag fe).ctx x).ckrec = tag := by
  rw [State.mark, State.ctx_modCtx, if_pos rfl]
  split <;> rfl

/-- The write-backs of an UNBIND name the ranges of its homes that it writes. -/
theorem State.queueWritebacks_spec {tid b : Nat} {e : Entry} {r : Buf} (he : s.entry tid = some e) (hk : e.kind = .unbind b false r) :
    ∃ y hs, (s.queueWritebacks e r).entry tid = some y ∧ y.state = .run ∧ y.fills = e.homeWrites.length ∧
      (s.queueWritebacks e r).hubQueue = s.hubQueue ++ hs ∧ hs.map (fun h => (h.dst.1, h.dst.2, h.len)) = e.homeWrites ∧
      ∀ h ∈ hs, h.kind = .writeback e.tid := by
  obtain rfl := State.entry_tid he
  have hw : e.homeWrites = (r.map.filter fun m => m.2 != homeMap).map fun m => (r.obj, r.start + m.1 * 2 ^ r.seglog, 2 ^ r.seglog) := by
    simp only [Entry.homeWrites, hk]
  have hentry := State.entry_modEntry_self (f := fun y =>
    { y with state := .run, fills := (r.map.filter fun m => m.2 != homeMap).length }) he
  refine ⟨_, _, hentry, rfl, ?_, rfl, ?_, ?_⟩
  · simp [hw]
  · simp [hw, Function.comp_def]
  · intro h hm
    obtain ⟨m, -, rfl⟩ := List.mem_map.1 hm
    rfl

/-! ### Strands sent to cores (R124, 06 R139) -/

theorem State.core_sendTo (k j : Nat) (st : Strand) : (s.sendTo k st).core j =
    if j = k then { s.core k with mode := .starting 9, st := st, req := none, seq := none, now := Now.zero } else s.core j :=
  State.core_modCore ..

theorem State.strand_sendTo_self (k : Nat) (st : Strand) : (s.sendTo k st).strand k = st := by
  rw [State.strand, State.core_sendTo, if_pos rfl]
theorem State.strand_modEntry (tid k : Nat) (f : Entry → Entry) : (s.modEntry tid f).strand k = s.strand k := rfl

/-- A core that no strand is sent to stays as it is. -/
theorem State.core_foldl_sendTo_of_notMem (g : State → Nat × Nat → Strand) {l : List (Nat × Nat)} {k : Nat}
    (hk : k ∉ l.map Prod.snd) (s : State) : (l.foldl (fun s p => s.sendTo p.2 (g s p)) s).core k = s.core k := by
  induction l generalizing s with
  | nil => rfl
  | cons p l ih =>
    rw [List.map_cons, List.mem_cons, not_or] at hk
    rw [List.foldl_cons, ih hk.2, State.core_sendTo, if_neg hk.1]

/-- Of strands sent to different cores, each starts on its own. -/
theorem State.core_foldl_sendTo (g : State → Nat × Nat → Strand) {l : List (Nat × Nat)} (hl : (l.map Prod.snd).Nodup) {p : Nat × Nat}
    (hp : p ∈ l) (s : State) : ∃ u, ((l.foldl (fun s p => s.sendTo p.2 (g s p)) s).core p.2).mode = .starting 9 ∧
      ((l.foldl (fun s p => s.sendTo p.2 (g s p)) s).core p.2).st = g u p := by
  induction l generalizing s with
  | nil => cases hp
  | cons q l ih =>
    rw [List.map_cons, List.nodup_cons] at hl
    obtain rfl | hp := List.mem_cons.1 hp
    · refine ⟨s, ?_⟩
      rw [List.foldl_cons, State.core_foldl_sendTo_of_notMem g hl.1, State.core_sendTo, if_pos rfl]
      exact ⟨rfl, rfl⟩
    · exact ih hl.2 hp _

theorem State.buildOperands_frame (s : State) (tid role : Nat) (l : List ROperand) :
    (s.buildOperands tid role l).1 = { s with views := (s.buildOperands tid role l).1.views } := by
  induction l generalizing s with
  | nil => rfl
  | cons p l ih =>
    rw [State.buildOperands]
    dsimp only
    rw [ih]
    unfold State.buildOperand
    split <;> rfl

theorem State.cores_buildOperands (s : State) (tid role : Nat) (l : List ROperand) :
    (s.buildOperands tid role l).1.cores = s.cores := by rw [State.buildOperands_frame]
theorem State.window_buildOperands (s : State) (tid role : Nat) (l : List ROperand) :
    (s.buildOperands tid role l).1.window = s.window := by rw [State.buildOperands_frame]

/-- The strand of rank n of a run of an entry: what dispatch gives it (R124). -/
structure Strand.StartsRun (st : Strand) (e : Entry) (w : TaskWord) (code : CapBits) (role att n size : Nat) : Prop where
  tid : st.id.tid = BitVec.ofNat 32 e.tid
  ctx : st.id.ctx = e.ctx
  att : st.id.att = BitVec.ofNat 32 att
  role : st.id.role = BitVec.ofNat 2 role
  rank : st.id.rank = n
  size : st.id.gangSize = size
  code : st.kn.code = code
  hdr : st.kn.hdr = w.koff.toNat
  regs : st.sc.s = []

section
variable (e : Entry) (w : TaskWord) (code : CapBits) (role att : Nat)

/-- A run takes a view for each operand, a gang barrier, its strands on their cores, and its place in the entry. -/
theorem State.startRun_shape (ks : List Nat) (s : State) : ∃ (u : State) (g : State → Nat × Nat → Strand) (run : TaskRun),
    u.cores = s.cores ∧ u.window = s.window ∧ (∀ t p, (g t p).StartsRun e w code role att p.1 ks.length) ∧
      s.startRun e w code role att ks = (((List.range ks.length).zip ks).foldl (fun s p => s.sendTo p.2 (g s p)) u).modEntry e.tid
        fun y => { y with runs := y.runs.filter (·.role != role) ++ [run] } := by
  have hc := s.cores_buildOperands e.tid role e.ops
  have hw := s.window_buildOperands e.tid role e.ops
  unfold State.startRun
  cases hb : s.buildOperands e.tid role e.ops with
  | mk t ops =>
    rw [hb] at hc hw
    refine ⟨_, _, _, ?_, ?_, ?_, rfl⟩
    · exact hc
    · exact hw
    · exact fun _ _ => ⟨rfl, rfl, rfl, rfl, rfl, rfl, rfl, rfl, rfl⟩

theorem map_snd_zip_range (ks : List Nat) : ((List.range ks.length).zip ks).map Prod.snd = ks := List.map_snd_zip (by simp)

theorem State.core_startRun_of_notMem {ks : List Nat} {k : Nat} (hk : k ∉ ks) (s : State) :
    (s.startRun e w code role att ks).core k = s.core k := by
  obtain ⟨u, g, run, hc, -, -, h⟩ := s.startRun_shape e w code role att ks
  rw [h]
  refine (State.core_foldl_sendTo_of_notMem g (by rwa [map_snd_zip_range]) u).trans ?_
  simp only [State.core, hc]

theorem State.core_startRun {ks : List Nat} (hks : ks.Nodup) {n k : Nat} (hn : ks[n]? = some k) (s : State) :
    ((s.startRun e w code role att ks).core k).mode = .starting 9 ∧
      ((s.startRun e w code role att ks).strand k).StartsRun e w code role att n ks.length := by
  obtain ⟨u, g, run, -, -, hg, h⟩ := s.startRun_shape e w code role att ks
  have hlt : n < ks.length := (List.getElem?_eq_some_iff.1 hn).1
  have hp : (n, k) ∈ (List.range ks.length).zip ks :=
    List.mem_of_getElem? (i := n) (List.getElem?_zip_eq_some.2 ⟨by simp [hlt], hn⟩)
  obtain ⟨v, hm, hst⟩ := State.core_foldl_sendTo g (by rwa [map_snd_zip_range]) hp u
  have hstart := hg v (n, k)
  rw [← hst] at hstart
  rw [h]
  exact ⟨hm, hstart⟩

theorem State.window_foldl_sendTo (g : State → Nat × Nat → Strand) (l : List (Nat × Nat)) (s : State) :
    (l.foldl (fun s p => s.sendTo p.2 (g s p)) s).window = s.window := by
  induction l generalizing s with
  | nil => rfl
  | cons p l ih => exact ih _

/-- A run that starts changes the runs of its entry alone, of the window. -/
theorem State.entry_startRun {ks : List Nat} {y : Entry} {tid : Nat} (hy : s.entry tid = some y) :
    ∃ runs, (s.startRun e w code role att ks).entry tid = some { y with runs := runs } := by
  obtain ⟨u, g, run, -, hwin, -, h⟩ := s.startRun_shape e w code role att ks
  have hu : (((List.range ks.length).zip ks).foldl (fun s p => s.sendTo p.2 (g s p)) u).entry tid = some y := by
    rw [State.entry, State.window_foldl_sendTo, hwin]
    exact hy
  rw [h, State.entry_modEntry, hu, Option.map_some]
  split
  · exact ⟨_, rfl⟩
  · exact ⟨y.runs, rfl⟩

end

/-! ### Dispatch of entries (R121, R122, R124, R125) -/

section
variable (e : Entry) (w : TaskWord) (code : CapBits) (att : Nat)

/-- Runs of an entry on sets of cores, one after the other. -/
def State.startRuns (s : State) (l : List (Nat × List Nat)) : State :=
  l.foldl (fun s p => s.startRun e w code p.1 att p.2) s

theorem State.core_startRuns_of_notMem {l : List (Nat × List Nat)} {k : Nat} (hk : k ∉ (l.map Prod.snd).flatten) (s : State) :
    (s.startRuns e w code att l).core k = s.core k := by
  induction l generalizing s with
  | nil => rfl
  | cons p l ih =>
    rw [List.map_cons, List.flatten_cons, List.mem_append, not_or] at hk
    exact (ih hk.2 _).trans (State.core_startRun_of_notMem e w code p.1 att hk.1 s)

/-- Where the sets are disjoint, every core starts the strand of its run and rank. -/
theorem State.core_startRuns {l : List (Nat × List Nat)} (hl : (l.map Prod.snd).flatten.Nodup) {p : Nat × List Nat} (hp : p ∈ l)
    {n k : Nat} (hn : p.2[n]? = some k) (s : State) : ((s.startRuns e w code att l).core k).mode = .starting 9 ∧
      ((s.startRuns e w code att l).strand k).StartsRun e w code p.1 att n p.2.length := by
  induction l generalizing s with
  | nil => cases hp
  | cons q l ih =>
    rw [List.map_cons, List.flatten_cons, List.nodup_append] at hl
    obtain ⟨hq, hrest, hdisj⟩ := hl
    obtain rfl | hp := List.mem_cons.1 hp
    · have hk : k ∉ (l.map Prod.snd).flatten := fun h => hdisj k (List.mem_of_getElem? hn) k h rfl
      have hcore := State.core_startRuns_of_notMem e w code att hk (s.startRun e w code p.1 att p.2)
      obtain ⟨hm, hst⟩ := State.core_startRun e w code p.1 att hq hn s
      exact ⟨(congrArg Core.mode hcore).trans hm, by rw [State.strand, State.startRuns, List.foldl_cons]; exact hcore ▸ hst⟩
    · exact ih hrest hp _

theorem State.entry_startRuns {l : List (Nat × List Nat)} {y : Entry} {tid : Nat} (hy : s.entry tid = some y) :
    ∃ runs, (s.startRuns e w code att l).entry tid = some { y with runs := runs } := by
  induction l generalizing s y with
  | nil => exact ⟨y.runs, hy⟩
  | cons p l ih =>
    obtain ⟨_, h⟩ := State.entry_startRun e w code p.1 att (ks := p.2) hy
    obtain ⟨runs, h'⟩ := ih h
    exact ⟨runs, h'⟩

@[simp] theorem State.startRuns_mem (l : List (Nat × List Nat)) : (s.startRuns e w code att l).mem = s.mem :=
  State.foldl_mem (fun t (p : Nat × List Nat) => t.startRun_mem e w code p.1 att p.2) l s

end

/-- The dispatcher serves the first candidate that is an entry and can be placed (R121). -/
theorem dispatch_serves {x : Nat} {c : Cand} {l r : List (Nat × Cand)} {t : State} (hs : s.served = l ++ (x, c) :: r)
    (hl : ∀ c ∈ l, s.tryEntry c.2 = none) (ht : s.tryEntry c = some t) : execDispatch s = .next (s.servedBy t x) := by
  have hnone : l.findSome? (fun c => (s.tryEntry c.2).map fun t => s.servedBy t c.1) = none :=
    List.findSome?_eq_none_iff.2 fun c hc => by rw [hl c hc]; rfl
  simp [execDispatch, hs, List.findSome?_append, hnone, ht]

theorem State.rot_servedBy (s t : State) (x : Nat) : SMap.get 0 (s.servedBy t x).rot (s.topPrio.getD 0) = x := by
  simp [State.servedBy]

/-- The entry as dispatch leaves it, before its runs. -/
def State.dispatched (s : State) (e : Entry) : Entry := { e with state := .run, dep := s.dependent e, stamp := s.now }

section
variable {tid : Nat} {e : Entry} (he : s.entry tid = some e)
include he

/-- A TASK that is placed starts its runs (R122, R124). -/
theorem State.tryEntry_task {w : TaskWord} {code : CapBits} {sets : List (List Nat)} (hk : e.kind = .task w code)
    (hp : s.placeEntry false e e.gangOf none = some sets) :
    s.tryEntry (.entry tid) = some ((s.modEntry tid fun _ => { s.dispatched e with runs := [] }).startRuns
      { s.dispatched e with runs := [] } w code e.att ((List.range sets.length).zip sets)) := by
  simp only [State.tryEntry, he, hk, hp, State.startRuns, State.dispatched]

/-- A COPY takes a hub engine (R125). -/
theorem State.tryEntry_copy {w : CopyWord} {dims : List CdimWord} {h : Nat} (hk : e.kind = .copy w dims)
    (hf : s.freeEngine w.clamp = some h) :
    s.tryEntry (.entry tid) = some ((s.modEntry tid fun _ => s.dispatched e).startCopy (s.dispatched e) w dims h) := by
  simp only [State.tryEntry, he, hk, hf, State.dispatched]

/-- A fault of an entry, as its record keeps it, and what it writes. -/
theorem State.entryFault_spec (kind : Nat) (r : Reason) (trapc : W64) (core slot : Nat) (v : W64) :
    s.FramesAlone (s.entryFault tid kind r trapc core slot v) ∧ ∃ y f, (s.entryFault tid kind r trapc core slot v).entry tid = some y ∧
      y.state = .fault ∧ y.fault = some f ∧ f.reason = r := by
  have habort : (s.abort tid none).entry tid = some e := by rw [State.entry, State.window_abort]; exact he
  exact ⟨(s.abort_framesAlone tid none).trans (.of_eq rfl rfl fun _ => rfl), _, _,
    State.entry_modEntry_self habort, rfl, rfl, rfl⟩

/-- A COPY whose operands pass the checks of R186 stands on its engine; another faults. -/
theorem State.startCopy_spec (w : CopyWord) (dims : List CdimWord) (h : Nat) {z : Entry} (hz : z.tid = tid) (hrun : e.state = .run) :
    s.FramesAlone (s.startCopy z w dims h) ∧ ∃ y, (s.startCopy z w dims h).entry tid = some y ∧
      (y.state = .run ∧ (∃ c, SMap.get none ((s.startCopy z w dims h).hubCopies.map fun p => (p.1, some p.2)) h = some c ∧
        c.kind = .copy tid ∧ c.done = 0) ∨ y.state = .fault ∧ ∃ f, y.fault = some f ∧ f.reason = .copycap) := by
  subst hz
  have hviews := s.buildOperands_frame z.tid 0 z.ops
  unfold State.startCopy
  cases hb : s.buildOperands z.tid 0 z.ops with
  | mk t ops =>
    obtain ⟨m, rfl⟩ : ∃ m, t = { s with views := m } := by rw [hb] at hviews; exact ⟨_, hviews⟩
    have views : s.FramesAlone { s with views := m } := .of_eq rfl rfl fun _ => rfl
    dsimp only
    split
    · obtain ⟨hf, y, f, hy, hfault⟩ := State.entryFault_spec (s := { s with views := m }) he 3 .copycap 0 0 0 0
      exact ⟨views.trans hf, y, hy, .inr ⟨hfault.1, f, hfault.2⟩⟩
    · have engine (x : HubCopy) : SMap.get none ((SMap.set s.hubCopies h x).map fun p => (p.1, some p.2)) h = some x := by
        rw [SMap.map_set, SMap.get_set, if_pos rfl]
      exact ⟨views.trans (.of_eq rfl rfl fun _ => rfl), e, he, .inl ⟨hrun, _, engine _, rfl, rfl⟩⟩

end

/-! ### Dispatch of spawned children (11 R292, R293) -/

/-- The strand of a child on its core. -/
structure Strand.StartsChild (st : Strand) (e : Entry) (p : PoolEntry) : Prop where
  tid : st.id.tid = BitVec.ofNat 32 e.tid
  pers : st.id.pers = false
  hdr : st.kn.hdr = p.off
  arg : st.sc.s = if p.arg = 0 then [] else [(1, p.arg)]
  node : st.node = p.node

/-- A child that starts leaves its pool and takes its core; of the window, it changes the runs of its entry alone. -/
theorem State.startChild_spec {x : Nat} {p : PoolEntry} (k : Nat) {e : Entry} {w : TaskWord} {code : CapBits} {run : TaskRun}
    (he : s.entry p.tid = some e) (hk : e.kind = .task w code) (hr : e.runs.find? (·.role == p.role) = some run) :
    ∃ t, s.startChild x p k = some t ∧ (∀ q ∈ (t.ctx x).pool, q ∈ (s.ctx x).pool ∧ q.number ≠ p.number) ∧
      (t.core k).mode = .starting 9 ∧ (t.strand k).StartsChild e p ∧ (∀ j, j ≠ k → t.core j = s.core j) ∧
      t.entry p.tid = some { e with runs := e.runs.map fun r => if r.role = p.role then
        { r with strands := r.strands + 1, cores := r.cores ++ [k], born := r.born ++ [p.node.path] } else r } := by
  unfold State.startChild
  simp only [he, hk, hr]
  refine ⟨_, rfl, ?_, ?_, ?_, fun j hj => ?_, ?_⟩
  · intro q hq
    have hpool := congrArg Context.pool (s.ctx_modCtx x x fun c => { c with pool := c.pool.filter (·.number != p.number) })
    rw [if_pos rfl] at hpool
    obtain ⟨hmem, hne⟩ := List.mem_filter.1 (hpool ▸ hq)
    exact ⟨hmem, bne_iff_ne.1 hne⟩
  · exact congrArg Core.mode ((State.core_sendTo ..).trans (if_pos rfl))
  · rw [State.strand_modEntry, State.strand_sendTo_self]
    exact ⟨rfl, rfl, rfl, rfl, rfl⟩
  · exact (State.core_sendTo ..).trans (if_neg hj)
  · rw [← hk]
    exact State.entry_modEntry_self he

/-- A run is found in an entry whose runs of another role have changed. -/
theorem find?_role_map {l : List TaskRun} {a b : Nat} (h : b ≠ a) {f : TaskRun → TaskRun} (hf : ∀ r, (f r).role = r.role) :
    (l.map fun r => if r.role = a then f r else r).find? (·.role == b) = l.find? (·.role == b) := by
  induction l with
  | nil => rfl
  | cons r l ih =>
    by_cases ha : r.role = a
    · have hb : ¬r.role = b := fun e => h (e.symm.trans ha)
      simp [ha, hf, Ne.symm h, ih]
    · simp [List.find?_cons, ha, ih]

theorem State.twinChild_spec {p q : PoolEntry} (h : s.twinChild p = some q) :
    q.tid = p.tid ∧ q.role + p.role = 1 ∧ (s.entry p.tid).any (·.cls == 2) = true := by
  unfold State.twinChild at h
  split at h
  · next hc =>
    have hq := List.find?_some h
    simp only [Bool.and_eq_true, beq_iff_eq] at hq
    exact ⟨hq.1.1, hq.1.2, hc.2⟩
  · cases h

theorem State.chipOf_of_mem_roomOn {all : Bool} {c k : Nat} (h : k ∈ s.roomOn all c) : chipOf k = c := by
  unfold State.roomOn at h
  split at h
  · cases h
  · obtain ⟨hk, -⟩ := List.mem_filter.1 h
    obtain ⟨j, hj, rfl⟩ := List.mem_map.1 hk
    have := List.mem_range.1 hj
    unfold chipOf
    omega

/-- The twin of a class D child takes a core in another supply domain (15 R327). -/
theorem State.placeChild_ne {q : PoolEntry} {k j : Nat} (hd : (s.entry q.tid).any (·.cls == 2) = true)
    (h : s.placeChild q [k] = some j) : j ≠ k := by
  rintro rfl
  simp only [State.placeChild, hd, if_true] at h
  obtain ⟨c, hc, hj⟩ := List.mem_flatMap.1 (List.mem_of_head? h)
  obtain rfl := State.chipOf_of_mem_roomOn hj
  have hoff := (List.mem_filter.1 hc).2
  simp [domainsOf] at hoff

/-- A pool entry whose number is not the child's own leaves the pool with another child too. -/
theorem State.tryPool_alone {x n k : Nat} {p : PoolEntry} (hp : (s.ctx x).pool.find? (·.number == n) = some p)
    (hc : s.placeChild p [] = some k) (ht : s.twinChild p = none) : s.tryPool x n = s.startChild x p k := by
  simp only [State.tryPool, hp, hc, ht]

theorem State.tryPool_twins {x n k j : Nat} {p q : PoolEntry} (hp : (s.ctx x).pool.find? (·.number == n) = some p)
    (hc : s.placeChild p [] = some k) (ht : s.twinChild p = some q) (hc' : s.placeChild q [k] = some j) :
    s.tryPool x n = (s.startChild x p k).bind fun s => s.startChild x q j := by
  simp only [State.tryPool, hp, hc, ht, hc']

/-- The dispatcher serves the first candidate that is a pool entry and can be placed. -/
theorem poolDispatch_serves {x y n : Nat} {l r : List (Nat × Cand)} {t : State} (hs : s.served = l ++ (x, .pool y n) :: r)
    (hl : ∀ c ∈ l, ∀ y m, c.2 = .pool y m → s.tryPool y m = none) (ht : s.tryPool y n = some t) :
    execPoolEntryDispatch s = .next (s.servedBy t x) := by
  unfold execPoolEntryDispatch
  rw [hs, List.findSome?_append, List.findSome?_eq_none_iff.2 fun c hc => ?_]
  · simp [ht]
  · split
    · next y m e => rw [hl c hc y m e]; rfl
    · rfl

end Sys2Proof.Machine

open Sys2Proof Sys2Proof.Machine

/-- Settles O53: what the dispatcher serves is placed by `State.core_startRuns`, `State.startCopy_spec` and `State.startChild_spec`; one
lemma for each entry that becomes READY or is done. -/
theorem dispatchAndReadiness : Obligations.DispatchAndReadiness := by
  unfold Obligations.DispatchAndReadiness
  refine ⟨fun s x tid e l r he => ⟨fun hs hl => ⟨?task, ?copy⟩, ?pool⟩, fun s tid e he => ?ready⟩
  case task =>
    intro w code sets hk hp hnodup
    obtain ⟨runs, hentry⟩ := State.entry_startRuns { s.dispatched e with runs := [] } w code e.att
      (l := (List.range sets.length).zip sets) (State.entry_modEntry_self (f := fun _ => { s.dispatched e with runs := [] }) he
        fun _ _ => (State.entry_tid he : e.tid = tid))
    refine ⟨_, _, dispatch_serves hs hl (State.tryEntry_task he hk hp), State.rot_servedBy .., fun _ => ?_, hentry, rfl, rfl, ?_⟩
    · rw [State.servedBy_mem, State.startRuns_mem]; rfl
    · intro i ks n k hi hn
      have hlt : i < sets.length := (List.getElem?_eq_some_iff.1 hi).1
      have hmem : (i, ks) ∈ (List.range sets.length).zip sets :=
        List.mem_of_getElem? (i := i) (List.getElem?_zip_eq_some.2 ⟨by simp [hlt], hi⟩)
      have hdisj : (((List.range sets.length).zip sets).map Prod.snd).flatten.Nodup := by
        rwa [List.map_snd_zip (by simp)]
      obtain ⟨hm, hst⟩ := State.core_startRuns { s.dispatched e with runs := [] } w code e.att hdisj hmem hn
        (s.modEntry tid fun _ => { s.dispatched e with runs := [] })
      exact ⟨hm, hst.tid, hst.ctx, hst.att, hst.role, hst.rank, hst.size, hst.code, hst.hdr, hst.regs⟩
  case copy =>
    intro w dims h hk hf
    have hentry := State.entry_modEntry_self (f := fun _ => s.dispatched e) he fun _ _ => (State.entry_tid he : e.tid = tid)
    obtain ⟨hframes, y, hy, hend⟩ := State.startCopy_spec hentry w dims h (z := s.dispatched e) (State.entry_tid he : e.tid = tid) rfl
    have alone : s.FramesAlone (s.modEntry tid fun _ => s.dispatched e) := .of_eq rfl rfl fun _ => rfl
    exact ⟨_, y, dispatch_serves hs hl (State.tryEntry_copy he hk hf), State.rot_servedBy .., (alone.trans hframes).mem, hy, hend⟩
  case pool =>
    intro n p k w code run hk hs hl hfind htid hplace hrun starts
    subst htid
    obtain ⟨u, hu, hpool, hmode, hst, hcores, hentry⟩ := State.startChild_spec (x := x) k he hk hrun
    refine ⟨fun htwin => ?_, fun q j run' htwin hplace' hrun' hx => ?_⟩
    · have ht := (State.tryPool_alone hfind hplace htwin).trans hu
      refine ⟨_, poolDispatch_serves hs hl ht, State.rot_servedBy .., fun _ => ?_, fun q hq => ?_, hmode, hst.tid, hst.pers, hst.hdr,
        hst.arg, hst.node⟩
      · rw [State.servedBy_mem, State.tryPool_mem ht]
      · exact (hpool q hq).2
    · obtain ⟨hqtid, hsum, hclass⟩ := State.twinChild_spec htwin
      have hne : j ≠ k := State.placeChild_ne (hqtid ▸ hclass) hplace'
      have hrole : q.role ≠ p.role := by omega
      have hrun2 := (find?_role_map hrole (f := fun r =>
        { r with strands := r.strands + 1, cores := r.cores ++ [k], born := r.born ++ [p.node.path] }) fun _ => rfl).trans hrun'
      rw [← hqtid] at hentry
      obtain ⟨v, hv, hpool', hmode', hst', hcores', -⟩ := State.startChild_spec (x := x) j hentry hk hrun2
      have ht : s.tryPool x n = some v := by rw [State.tryPool_twins hfind hplace htwin hplace', hu]; exact hv
      have hold : v.core k = u.core k := hcores' k hne.symm
      have hst : (v.strand k).StartsChild e p := by rw [State.strand, hold]; exact hst
      refine ⟨_, poolDispatch_serves hs hl ht, State.rot_servedBy .., fun _ => ?_,
        ⟨fun z hz => (hpool z (hpool' z hz).1).2, (congrArg Core.mode hold).trans hmode, hst.tid, hst.pers, hst.hdr, hst.arg, hst.node⟩,
        fun z hz => (hpool' z hz).2, hmode', hst'.tid, hst'.pers, hst'.hdr, hst'.arg, hst'.node⟩
      rw [State.servedBy_mem, State.tryPool_mem ht]
  case ready =>
    intro ready done
    refine ⟨fun hw hr hf hfill hp => ⟨?_, ?_, ?_⟩, ?unbind, ?_, ?_, ?_, ?_, ?_, ?_⟩
    · exact fun w c hk => entryReady_of_producers he hw (.inl ⟨w, c, hk⟩) hr hf hfill hp
    · exact fun w d hk => entryReady_of_producers he hw (.inr (.inl ⟨w, d, hk⟩)) hr hf hfill hp
    · exact fun b d r hk => entryReady_of_producers he hw (.inr (.inr ⟨b, d, r, hk⟩)) hr hf hfill hp
    case unbind =>
      intro b d r hk hs hb
      have answers := entryReady_unbind he hk hs hb
      refine ⟨fun h => answers.trans ?_, fun hd hw => ?_⟩
      · rw [if_pos (by obtain rfl | h := h <;> simp [*])]; rfl
      · subst hd
        obtain ⟨y, hs, hy, hrun, hfills, hqueue, hmap, hkind⟩ := State.queueWritebacks_spec he hk
        rw [if_neg (by simpa using hw)] at answers
        exact ⟨_, y, answers, hy, hrun, hfills, fun _ => by rw [State.queueWritebacks_mem], hs, hqueue, hmap, hkind⟩
    · exact fun hw i hk => entryReady_passes he hw (by rw [hk]; rfl)
    · exact fun hw v g i hk => entryReady_passes he hw (by rw [hk]; rfl)
    · exact fun hw o f n c v hk => entryReady_passes he hw (by rw [hk]; rfl)
    · exact fun i hk => ⟨fun hw ho => entryReady_ckpt he hk hw ho,
        fun hr hc hm => ⟨entryReady_marks he hk hr hc hm, State.ckrec_mark ..⟩⟩
    · exact fun hs hp ha => agingPromotion_rises he hs hp ha
    · intro hs hw
      obtain ⟨t, ht, hentry⟩ := handoffTimeout_gives he hs hw
      exact ⟨t, _, ht, hentry, rfl, rfl⟩

end

section
/-!
PROOFS. The window and a context's counters under accesses to memory and the late faults of strands (07 R165, R179, 19 R395-R398): what
the release of held writes leaves alone, for retirement (O54).
-/

namespace Sys2Proof.Machine

/-- t has the window of s, and the counters of context x as they stand there. -/
def State.KeepsStats (x : Nat) (t s : State) : Prop := t.window = s.window ∧ (t.ctx x).stats = (s.ctx x).stats

variable {x : Nat}

theorem State.KeepsStats.trans {s t u : State} (h : u.KeepsStats x t) (h' : t.KeepsStats x s) : u.KeepsStats x s :=
  ⟨h.1.trans h'.1, h.2.trans h'.2⟩

theorem State.KeepsStats.of_fst {α : Type} {p : State × α} {s t : State} {a : α} (h : p.1.KeepsStats x s) (e : p = (t, a)) :
    t.KeepsStats x s := by
  rw [e] at h; exact h

theorem State.KeepsStats.ite {c : Prop} [Decidable c] {t u s : State} (ht : t.KeepsStats x s) (hu : u.KeepsStats x s) :
    (if c then t else u).KeepsStats x s := by split <;> assumption

theorem State.foldl_keepsStats {α : Type} {f : State → α → State} (hf : ∀ t a, (f t a).KeepsStats x t) (l : List α) (s : State) :
    (l.foldl f s).KeepsStats x s := by
  induction l generalizing s with
  | nil => exact ⟨rfl, rfl⟩
  | cons a l ih => exact (ih _).trans (hf s a)

variable (s : State)

/-! ### The object table and its caches -/

theorem State.modEntryOf_keepsStats (obj ext f) : (s.modEntryOf obj ext f).KeepsStats x s := by
  unfold State.modEntryOf; split <;> exact ⟨rfl, rfl⟩
theorem State.modCached_keepsStats (port obj ext f) : (s.modCached port obj ext f).KeepsStats x s := ⟨rfl, rfl⟩
theorem State.post_keepsStats (r) : (s.post r).KeepsStats x s := .ite ⟨rfl, rfl⟩ ⟨rfl, rfl⟩
theorem State.dirty_keepsStats (es) : (s.dirty es).KeepsStats x s :=
  State.foldl_keepsStats (fun t _ => .ite (t.modEntryOf_keepsStats ..) ⟨rfl, rfl⟩) es s
theorem State.logError_keepsStats (ws) : (s.logError ws).KeepsStats x s :=
  .ite ⟨rfl, rfl⟩ (.ite ⟨rfl, rfl⟩ (State.post_keepsStats _ _))
theorem State.writeBack_keepsStats (port c) : (s.writeBack port c).KeepsStats x s := .ite (s.modEntryOf_keepsStats ..) ⟨rfl, rfl⟩
theorem State.fillCache_keepsStats (port c) : (s.fillCache port c).KeepsStats x s := by
  refine .ite ⟨rfl, rfl⟩ ?_
  split
  · exact ⟨rfl, rfl⟩
  · exact State.writeBack_keepsStats _ ..
theorem State.walk_keepsStats (port obj ext) : (s.walk port obj ext).1.KeepsStats x s := by
  have failed : (s.logEntry port obj ext).KeepsStats x s := s.logError_keepsStats _
  unfold State.walk
  dsimp only
  split
  · exact failed
  · split
    · exact ⟨rfl, rfl⟩
    · split
      · exact ⟨rfl, rfl⟩
      · split
        · exact failed
        · split
          · exact s.fillCache_keepsStats ..
          · exact ⟨rfl, rfl⟩
theorem State.crossing_keepsStats (obj ext acc) : (s.crossing obj ext acc).KeepsStats x s := by
  have marked : ((s.modEntryOf obj ext (·.or0 4)).modCached 8 obj ext (·.or0 4)).KeepsStats x s := s.modEntryOf_keepsStats ..
  unfold State.crossing
  split
  · exact ⟨rfl, rfl⟩
  · refine .ite ⟨rfl, rfl⟩ (.ite ?_ (.ite marked marked))
    exact (State.KeepsStats.ite ⟨rfl, rfl⟩ (State.post_keepsStats ..)).trans marked
theorem State.countAccess_keepsStats (obj ext) : (s.countAccess obj ext).KeepsStats x s := by
  have walked : (if (s.cached 8 obj ext).isSome then s else (s.walk 8 obj ext).1).KeepsStats x s :=
    .ite ⟨rfl, rfl⟩ (s.walk_keepsStats ..)
  unfold State.countAccess
  dsimp only
  split
  · exact walked
  · exact .ite ((State.crossing_keepsStats _ ..).trans walked) walked
theorem State.reach_keepsStats (port obj ext write img) : (s.reach port obj ext write img).1.KeepsStats x s := by
  have walked : (if (s.cached port obj ext).isSome then (s, Finding.ok) else s.walk port obj ext).1.KeepsStats x s := by
    split
    · exact ⟨rfl, rfl⟩
    · exact s.walk_keepsStats ..
  unfold State.reach
  extract_lets frame
  split
  · exact ⟨rfl, rfl⟩
  · split
    next t r e =>
    have ht : t.KeepsStats x s := walked.of_fst e
    split
    · split_ifs
      · exact ht
      · exact ht
      · exact (State.countAccess_keepsStats ..).trans ((State.modEntryOf_keepsStats ..).trans ht)
      · exact (State.modEntryOf_keepsStats ..).trans ht
      · exact (State.countAccess_keepsStats ..).trans ht
      · exact ht
    · exact ht
theorem State.reachAll_keepsStats (port write img l) : (s.reachAll port write img l).1.KeepsStats x s := by
  induction l generalizing s with
  | nil => exact ⟨rfl, rfl⟩
  | cons p l ih =>
    have hr := s.reach_keepsStats (x := x) port p.1 p.2 write img
    rw [State.reachAll]
    split
    · next t e => exact (ih t).trans (hr.of_fst e)
    · exact hr

/-! ### Writes, and the frames of strands that are away -/

theorem State.storeCells_keepsStats (cells) : (s.storeCells cells).KeepsStats x s := by
  have kept : (s.keepPast (cells.map (·.1))).KeepsStats x s := .ite ⟨rfl, rfl⟩ ⟨rfl, rfl⟩
  exact kept
theorem State.writeVia_keepsStats (port obj bs) : (s.writeVia port obj bs).KeepsStats x s :=
  State.storeCells_keepsStats (s.noteWrites ..) _
theorem State.putPart_keepsStats (obj base p) : (s.putPart obj base p).KeepsStats x s :=
  State.foldl_keepsStats (fun t c => by
    split
    · exact ⟨rfl, rfl⟩
    · exact State.dirty_keepsStats _ _) _ s
theorem State.putParts_keepsStats (obj base ps) : (s.putParts obj base ps).KeepsStats x s :=
  State.foldl_keepsStats (fun t _ => t.putPart_keepsStats ..) _ s
theorem State.countSpan_keepsStats (obj off n) : (s.countSpan obj off n).KeepsStats x s :=
  State.foldl_keepsStats (fun t _ => State.foldl_keepsStats (fun u _ =>
    .ite (State.foldl_keepsStats (fun v _ => v.countAccess_keepsStats ..) _ u) ⟨rfl, rfl⟩) _ t) _ s
theorem State.mirror_keepsStats (a) : (s.mirror a).KeepsStats x s :=
  .ite ⟨rfl, rfl⟩ ((State.putParts_keepsStats ..).trans (s.countSpan_keepsStats ..))
theorem State.modAbsent_keepsStats (o f) : (s.modAbsent o f).KeepsStats x s := by
  unfold State.modAbsent
  dsimp only
  split
  · exact State.mirror_keepsStats _ _
  · exact ⟨rfl, rfl⟩
theorem State.modOwner_keepsStats (o f) : (s.modOwner o f).KeepsStats x s := by
  unfold State.modOwner
  split
  · exact s.modAbsent_keepsStats ..
  · split <;> exact ⟨rfl, rfl⟩

/-! ### The release of held writes -/

theorem State.modPeri_keepsStats (ctx f) : (s.modPeri ctx f).KeepsStats x s :=
  ⟨rfl, by simp only [State.modPeri, State.ctx_modCtx]; split <;> simp_all⟩
theorem State.raiseTo_keepsStats (o f) : (s.raiseTo o f).KeepsStats x s := by
  unfold State.raiseTo
  split
  · exact .ite ((State.modPeri_keepsStats ..).trans (s.modOwner_keepsStats ..)) (s.modPeri_keepsStats ..)
  · split <;> exact ⟨rfl, rfl⟩
theorem State.sendPeer_keepsStats (use l) : (s.sendPeer use l).KeepsStats x s :=
  by
  rw [State.sendPeer_frame]; exact ⟨rfl, rfl⟩
theorem State.releaseHeld_keepsStats (h) : (s.releaseHeld h).KeepsStats x s := by
  unfold State.releaseHeld
  extract_lets port
  have reached {t f} (e : s.reachAll port true false (s.extents h.obj h.off h.size) = (t, f)) : t.KeepsStats x s :=
    (s.reachAll_keepsStats ..).of_fst e
  split
  · next t e =>
    split
    · have ht : t.KeepsStats x s := reached e
      exact (State.sendPeer_keepsStats ..).trans ht
    · exact (State.writeVia_keepsStats ..).trans (reached e)
    · exact (State.writeVia_keepsStats ..).trans (reached e)
  · next t e => exact (State.raiseTo_keepsStats ..).trans (reached e)
  · next t e => exact (State.raiseTo_keepsStats ..).trans (reached e)
  · next t _ _ e => exact reached e
theorem State.releaseAllHeld_keepsStats (tid role) : (s.releaseAllHeld tid role).KeepsStats x s :=
  State.foldl_keepsStats (fun t w => t.releaseHeld_keepsStats w) _ s

end Sys2Proof.Machine

end

section
/-!
PROOFS. Retirement (05 R126, R131, R133, R134, R137, 21 R425) and the ends of the Prism's own work (05 R116, R135, R136, 08 R207, R208,
12 R306), for O54.
-/

namespace Sys2Proof.Machine

/-! ### Words written to memory -/

theorem getD_leBytes {n i : Nat} (h : i < n) (v : Nat) : (leBytes n v).getD i 0 = BitVec.ofNat 8 (v / 256 ^ i) := by
  induction n generalizing i v with
  | zero => exact absurd h i.not_lt_zero
  | succ n ih =>
    cases i with
    | zero => simp [leBytes]
    | succ i => rw [leBytes, List.getD_cons_succ, ih (by omega), Nat.div_div_eq_div_mul, Nat.pow_succ']

theorem getD_flatMap_leBytes (ws : List W64) {i : Nat} (h : i < 8 * ws.length) : (ws.flatMap fun w => leBytes 8 w.toNat).getD i 0 =
    BitVec.ofNat 8 ((ws.getD (i / 8) 0).toNat / 256 ^ (i % 8)) := by
  induction ws generalizing i with
  | nil => simp at h
  | cons w ws ih =>
    rw [List.flatMap_cons]
    by_cases hi : i < 8
    · rw [List.getD_append _ _ _ _ (by simpa using hi), getD_leBytes hi, Nat.div_eq_of_lt hi, Nat.mod_eq_of_lt hi, List.getD_cons_zero]
    · rw [List.getD_append_right _ _ _ _ (by simpa using hi), leBytes_length, ih (by simp at h; omega),
        show i / 8 = (i - 8) / 8 + 1 by omega, List.getD_cons_succ, show i % 8 = (i - 8) % 8 by omega]

theorem Memory.read_writeAll_atAddr {m : Memory} (hm : m.wf = true) (a : Nat) {bs : List Byte} {i : Nat} (hi : i < bs.length) :
    (m.writeAll (atAddr a bs)).read (a + i) = bs.getD i 0 := by
  induction bs generalizing m a i with
  | nil => simp at hi
  | cons b bs ih =>
    change ((m.write a b).writeAll (atAddr (a + 1) bs)).read (a + i) = _
    cases i with
    | zero =>
      rw [Memory.read_writeAll_of_forall_ne _ fun c hc e => by have := (atAddr_mem hc).1; omega, Memory.read_write hm]
      simp
    | succ i =>
      rw [show a + (i + 1) = a + 1 + i by omega, ih (Memory.wf_write hm a b) _ (by simpa using hi), List.getD_cons_succ]

variable {s : State} {x : Nat} {e : Entry}

/-- A record is in the ring once its words are in memory (21 R425). -/
theorem State.ringTakes_writeRecord (h : s.Canonical) (r : IntRec) : s.RingTakes (s.writeRecord r) (r.words s.gcyc) := by
  have hlen : ((r.words s.gcyc).flatMap fun w => leBytes 8 w.toNat).length = 32 := by simp [IntRec.words]
  refine ⟨State.writeRecord_irtail .., fun i hi => ?_, fun a ha => ?_⟩
  · rw [State.writeRecord_mem, Memory.read_writeAll_atAddr h _ (hlen ▸ hi), getD_flatMap_leBytes _ (by simpa [IntRec.words] using hi)]
  · rw [State.writeRecord_mem, Memory.read_writeAll_of_forall_ne]
    intro c hc e
    obtain ⟨hlo, hhi⟩ := atAddr_mem hc
    exact ha (c.1 - s.hub.ringKey s.hub.irtail.toNat) (by omega) (by omega)

/-! ### Posts (21 R425) -/

theorem State.ctx_post (s : State) (r : IntRec) (x : Nat) : (s.post r).ctx x = s.ctx x := by
  rw [State.ctx, State.ctxs_post]; rfl

/-- With room for it, a record waits. -/
theorem State.irq_post (h : s.irq.length < 64) (r : IntRec) : (s.post r).irq = s.irq ++ [r] := by
  simp [State.post, h]

/-! ### Dependence (15 R333) -/

/-- t is s but for entries that no longer depend, and the strands that are told so. -/
def State.FreesEntries (s t : State) : Prop :=
  t = { s with window := t.window, cores := t.cores, absent := t.absent } ∧ t.window.map (·.tid) = s.window.map (·.tid)

theorem State.updateDeps_freesEntries (s : State) : s.FreesEntries s.updateDeps := by
  refine List.foldlRecOn (motive := s.FreesEntries) s.window _ ⟨rfl, rfl⟩ fun t ht e _ => ?_
  obtain ⟨hframe, htids⟩ := ht
  split
  · refine ⟨by rw [hframe]; rfl, Eq.trans ?_ htids⟩
    change ((t.modEntry e.tid fun e => { e with dep := false }).window).map (·.tid) = _
    rw [State.window_modEntry, List.map_map]
    refine List.map_congr_left fun y _ => ?_
    simp only [Function.comp]
    split <;> rfl
  · exact ⟨hframe, htids⟩

theorem State.ctx_updateDeps (s : State) (x : Nat) : s.updateDeps.ctx x = s.ctx x := by
  rw [s.updateDeps_freesEntries.1]; rfl

/-! ### Retirement in three parts: what it publishes and releases, the entry's own effect, the entry's leave -/

/-- Mappings are published, reads that are outstanding are kept, and held writes released. -/
def State.released (s : State) (e : Entry) : State :=
  let u := (s.publish e).keepReads e
  ((u.held.filter (·.tid == e.tid)).map (·.role)).dedup.foldl (fun t r => t.releaseAllHeld e.tid r) u

/-- Counters of retired tasks and copies (05 R138). -/
def Entry.counted (e : Entry) (c : Context) : Context :=
  match e.kind with
  | .task _ _ => { c with stats := { c.stats with tret := c.stats.tret + 1 } }
  | .copy _ _ => { c with stats := { c.stats with cret := c.stats.cret + 1 } }
  | _ => c

/-- The entry leaves the window, and counts. -/
def State.left (s : State) (x : Nat) (e : Entry) : State :=
  ((({ s with window := s.window.filter (·.tid != e.tid) }.dropViews e.tid).modCtx x e.counted).forget x e.tid).updateDeps.prunePast

def State.afterRetire (s : State) (x : Nat) (e : Entry) : State := ((s.released e).ownEffect e).left x e

theorem execRetire_retirable (h : s.retirable x = some e) : execRetire x s = .next (s.afterRetire x e) := by
  rw [execRetire, h]; rfl

/-- The entry that retires is one of the context. -/
theorem State.ctx_of_retirable (h : s.retirable x = some e) : e.ctx = x := by
  unfold State.retirable at h
  split at h
  · cases h
  · next y l hl =>
    have hy : y ∈ s.alive x := hl ▸ List.mem_cons_self
    obtain ⟨-, hye⟩ := Option.ite_none_right_eq_some.1 h
    rw [← Option.some.inj hye]
    simp only [State.alive, List.mem_filter, Bool.and_eq_true, beq_iff_eq] at hy
    exact hy.2.1

theorem State.prunePast_frame (s : State) : s.prunePast = { s with past := s.prunePast.past } := by
  unfold State.prunePast; split <;> rfl

/-- An entry without operands that holds no writes has nothing to publish and nothing to release. -/
theorem State.released_of_nothing (hops : e.ops = []) (hheld : ∀ h ∈ s.held, h.tid ≠ e.tid) : s.released e = s := by
  have hpub : s.publish e = s := by rw [State.publish, hops]; rfl
  have hreads : s.keepReads e = s := by simp [State.keepReads, hops]
  have hnone : s.held.filter (·.tid == e.tid) = [] := List.filter_eq_nil_iff.2 fun h hh => by simpa using hheld h hh
  simp [State.released, hpub, hreads, hnone]

theorem State.ctx_discard (s : State) (ms : List Nat) (by_ y : Nat) : (s.discard ms by_).ctx y = s.ctx y := rfl

theorem State.publish_keepsStats (s : State) (e : Entry) : (s.publish e).KeepsStats x s := by
  refine State.foldl_keepsStats (fun t p => ?_) _ s
  dsimp only
  split
  · exact ⟨rfl, rfl⟩
  · refine ⟨rfl, ?_⟩
    rw [State.ctx_discard, State.ctx_modCtx]
    split
    · next h => subst h; rfl
    · rfl

theorem State.released_keepsStats (s : State) (e : Entry) : (s.released e).KeepsStats x s := by
  have kept : ((s.publish e).keepReads e).KeepsStats x s := .trans (.ite ⟨rfl, rfl⟩ ⟨rfl, rfl⟩) (s.publish_keepsStats e)
  exact (State.foldl_keepsStats (fun t r => t.releaseAllHeld_keepsStats ..) _ _).trans kept

theorem State.ownEffect_keepsStats (s : State) (e : Entry) : (s.ownEffect e).KeepsStats x s := by
  have context {t : State} (y : Nat) (f : Context → Context) (hf : ∀ c, (f c).stats = c.stats) : (t.modCtx y f).KeepsStats x t := by
    refine ⟨rfl, ?_⟩
    rw [State.ctx_modCtx]
    split
    · next h => subst h; exact hf _
    · rfl
  unfold State.ownEffect
  split
  · exact ⟨rfl, rfl⟩
  · exact State.storeCells_keepsStats ..
  · exact (State.post_keepsStats ..).trans (context _ _ fun _ => rfl)
  · exact (context _ _ fun c => by dsimp only; split <;> rfl).trans ⟨rfl, rfl⟩
  · exact ⟨rfl, rfl⟩

/-! ### The leave -/

theorem State.ctx_forget (s : State) (x tid : Nat) :
    (s.forget x tid).ctx x = { s.ctx x with fe := (s.ctx x).fe.keepProds (· != tid) } :=
  (s.ctx_modCtx x x fun c => { c with fe := c.fe.keepProds (· != tid) }).trans (if_pos rfl)

/-- What the leave of an entry changes. -/
theorem State.left_frame (s : State) (x : Nat) (e : Entry) : let t := s.left x e
    t = { s with
      window := t.window, views := t.views, ctxs := t.ctxs, shadows := t.shadows, cores := t.cores, absent := t.absent, past := t.past } := by
  dsimp only
  rw [State.left, State.prunePast_frame, (State.updateDeps_freesEntries _).1]
  rfl

theorem State.mem_left (s : State) (x : Nat) (e : Entry) : (s.left x e).mem = s.mem := by rw [State.left_frame]
theorem State.hub_left (s : State) (x : Nat) (e : Entry) : (s.left x e).hub = s.hub := by rw [State.left_frame]
theorem State.irq_left (s : State) (x : Nat) (e : Entry) : (s.left x e).irq = s.irq := by rw [State.left_frame]
theorem State.remotes_left (s : State) (x : Nat) (e : Entry) : (s.left x e).remotes = s.remotes := by rw [State.left_frame]

theorem State.tids_left (s : State) (x : Nat) (e : Entry) : (s.left x e).window.map (·.tid) = (s.window.map (·.tid)).filter (· != e.tid) := by
  rw [State.left, State.prunePast_frame]
  exact (State.updateDeps_freesEntries _).2.trans (List.filter_map (p := fun t : Nat => t != e.tid)).symm

theorem State.ctx_left (s : State) (x : Nat) (e : Entry) : (s.left x e).ctx x =
    { e.counted (s.ctx x) with fe := (e.counted (s.ctx x)).fe.keepProds (· != e.tid) } := by
  have hctx (t : State) : t.updateDeps.prunePast.ctx x = t.ctx x := by
    rw [State.prunePast_frame]
    exact State.ctx_updateDeps ..
  rw [State.left, hctx, State.ctx_forget, State.ctx_modCtx, if_pos rfl]
  rfl

/-- The entry answers RETIRE by its leave. -/
theorem retire_leaves (h : s.retirable x = some e) : Answers (.retire x) s (s.afterRetire x e) ∧
    (s.afterRetire x e).window.map (·.tid) = (s.window.map (·.tid)).filter (· != e.tid) := by
  refine ⟨execRetire_retirable h, ?_⟩
  have hw : ((s.released e).ownEffect e).window = s.window :=
    ((State.ownEffect_keepsStats (x := x) _ e).trans (s.released_keepsStats e)).1
  rw [State.afterRetire, State.tids_left, hw]

/-- Counters move at the leave alone. -/
theorem State.stats_afterRetire (s : State) (x : Nat) (e : Entry) : ((s.afterRetire x e).ctx x).stats = (e.counted (s.ctx x)).stats := by
  have hs : (((s.released e).ownEffect e).ctx x).stats = (s.ctx x).stats :=
    ((State.ownEffect_keepsStats _ e).trans (s.released_keepsStats e)).2
  rw [State.afterRetire, State.ctx_left]
  simp only [Entry.counted]
  split <;> simp only [hs]

section
variable (hops : e.ops = []) (hheld : ∀ h ∈ s.held, h.tid ≠ e.tid) (hx : e.ctx = x)
include hops hheld

/-- Where the entry has nothing to publish and nothing to release, its own effect is all. -/
theorem State.afterRetire_of_nothing (x : Nat) : s.afterRetire x e = (s.ownEffect e).left x e := by
  rw [State.afterRetire, State.released_of_nothing hops hheld]

/-- A retired NOTIFY has its record in the ring (05 R137). -/
theorem State.afterRetire_notify {v : Nat} {g : W64} {p : W32} (hk : e.kind = .notify v g p) (hs : s.Canonical) :
    s.RingTakes (s.afterRetire x e) [BitVec.ofNat 64 (1 + v * 2 ^ 8 + e.ctx * 2 ^ 16), g, p.setWidth 64, s.gcyc] := by
  have hown : s.ownEffect e = s.writeRecord ⟨1, v, e.ctx, g, p⟩ := by simp only [State.ownEffect, hk]
  rw [State.afterRetire_of_nothing hops hheld, State.RingTakes, State.hub_left, State.mem_left, hown]
  exact State.ringTakes_writeRecord hs _

/-- A retired SST has sent its store to the home (05 R133). -/
theorem State.afterRetire_sst {o f n c : Nat} {v : W64} (hk : e.kind = .sst o f n c v) : let t := s.afterRetire x e
    s.SameMemory t ∧ ∃ m, t.remotes = s.remotes ++ [m] ∧ m.kind = .store ∧ m.obj = o ∧ m.bytes = atAddr f (leBytes n v.toNat) ∧
      m.stage = .port ∧ m.held = false := by
  have hown : s.ownEffect e = s.sendStore e o f n v := by simp only [State.ownEffect, hk]
  dsimp only
  rw [State.afterRetire_of_nothing hops hheld, State.SameMemory, State.mem_left, State.remotes_left, hown]
  exact ⟨fun _ => rfl, _, rfl, rfl, rfl, rfl, rfl, rfl⟩

include hx

/-- A retired SHALT has stopped its context, which the host is told (05 R137). -/
theorem State.afterRetire_shalt {code : W32} (hk : e.kind = .shalt code) : let t := s.afterRetire x e
    (t.ctx x).donecode = code ∧ (t.ctx x).run = 3 ∧ (s.irq.length < 64 → t.irq = s.irq ++ [⟨2, 0, x, 0, 0⟩]) ∧ s.SameMemory t := by
  have hown : s.ownEffect e = (s.modCtx x fun c => { c with donecode := code, run := 3 }).post ⟨2, 0, x, 0, 0⟩ := by
    simp only [State.ownEffect, hk, hx]
  have hctx : (s.ownEffect e).ctx x = { s.ctx x with donecode := code, run := 3 } := by
    rw [hown, State.ctx_post]; exact (State.ctx_modCtx ..).trans (if_pos rfl)
  dsimp only
  rw [State.afterRetire_of_nothing hops hheld, State.ctx_left, State.SameMemory, State.mem_left, State.irq_left, hctx, hown]
  refine ⟨?_, ?_, fun h => State.irq_post (s := s.modCtx ..) h _, fun a => by rw [State.post_mem]; rfl⟩ <;> simp only [Entry.counted, hk]

/-- The mappings of a buffer whose UNBIND has retired are gone (05 R134). -/
theorem State.afterRetire_unbind {b : Nat} {d : Bool} {r : Buf} (hk : e.kind = .unbind b d r)
    (hbid : (SMap.get Published.zero (s.ctx x).pub b).bid = r.bid) : let t := s.afterRetire x e
    s.SameMemory t ∧ (SMap.get Published.zero (t.ctx x).pub b).map = [] := by
  have hpub : SMap.get Published.zero ((s.ownEffect e).ctx x).pub b = { SMap.get Published.zero (s.ctx x).pub b with map := [] } := by
    simp only [State.ownEffect, hk, hx, State.ctx_modCtx, if_true, State.ctx_discard, hbid, SMap.get_set_same]
  have hmem : (s.ownEffect e).mem = s.mem := by simp only [State.ownEffect, hk]; rfl
  dsimp only
  rw [State.afterRetire_of_nothing hops hheld, State.ctx_left, State.SameMemory, State.mem_left, hmem]
  refine ⟨fun _ => rfl, ?_⟩
  simp only [Entry.counted, hk, hpub]

end

/-! ### Ends of squashed entries and of the hub's copies -/

theorem squashRemove_leaves {tid : Nat} (he : s.entry tid = some e) (hs : e.state = .squash) (ho : s.outstanding tid = false) :
    execSquashRemove tid s = .next ({ s with window := s.window.filter (·.tid != tid) }.dropViews tid) := by
  simp only [execSquashRemove, he, hs, ho, Bool.not_false, and_self, if_true]

/-- The hub engine that a copy held is free. -/
def State.freeHub (s : State) (h : Nat) : State := { s with hubCopies := SMap.erase s.hubCopies h }

section
variable {tid h : Nat} {y : HubCopy} (hy : SMap.get none (s.hubCopies.map fun p => (p.1, some p.2)) h = some y) (hw : s.hubWriting h = false)
include hy hw

theorem hubCopyComplete_copy {c : CopyCmd} (hk : y.kind = .copy tid) (hc : y.cmd = some c) (hd : c.runs ≤ c.done) :
    execHubCopyComplete h s = .next ((s.freeHub h).verify tid) := by
  simp only [execHubCopyComplete, hy, hk, hc, hw, Nat.not_lt.2 hd, decide_false, Bool.or_self, Bool.false_eq_true, if_false]
  rfl

theorem hubCopyComplete_writeback (hk : y.kind = .writeback tid) (hd : y.len ≤ y.done) (he : s.entry tid = some e) :
    let less : State := (s.freeHub h).modEntry tid fun z => { z with fills := z.fills - 1 }
    execHubCopyComplete h s = .next (if e.fills ≤ 1 then less.verify tid else less) := by
  intro less
  have hlast : (less.entry tid).any (·.fills == 0) = decide (e.fills ≤ 1) := by
    rw [State.entry_modEntry_self (s := s.freeHub h) (f := fun z => { z with fills := z.fills - 1 }) he, Option.any_some,
      Bool.beq_eq_decide_eq]
    exact decide_eq_decide.2 (by dsimp only; omega)
  have hnext : execHubCopyComplete h s = .next (if (less.entry tid).any (·.fills == 0) then less.verify tid else less) := by
    simp only [execHubCopyComplete, hy, hk, hw, Nat.not_lt.2 hd, decide_false, Bool.or_self, Bool.false_eq_true, if_false]
    rfl
  simp only [hnext, hlast, decide_eq_true_eq]

theorem modFillComplete_fills (hk : y.kind = .fill tid) (hd : y.len ≤ y.done) : execModFillComplete h s = .next
    ((s.freeHub h).modEntry tid fun z => { z with fills := z.fills - 1, filledAt := s.now }) := by
  simp only [execModFillComplete, hy, hk, hw, Nat.not_lt.2 hd, decide_false, Bool.or_self, Bool.false_eq_true, if_false]
  rfl

end

end Sys2Proof.Machine

open Sys2Proof Sys2Proof.Machine

/-- Settles O54: `retire_leaves` and one lemma for each effect that an entry has at its retirement; the ends by the cases of what a hub
engine carries. -/
theorem retirement : Obligations.Retirement := by
  unfold Obligations.Retirement
  refine ⟨fun s x e h => ?retire, fun s tid h e y => ?ends⟩
  case retire =>
    have hx := State.ctx_of_retirable h
    have hleaves := retire_leaves h
    refine ⟨⟨_, hleaves⟩, fun w c hk => ⟨_, hleaves, ?_⟩, fun w d hk => ⟨_, hleaves, ?_⟩, fun hops hheld =>
      ⟨fun code hk => ⟨_, hleaves, ?_⟩, fun v g p hk => ⟨_, hleaves, ?_⟩, fun o f n c v hk => ?_, fun b d r hk hbid => ⟨_, hleaves, ?_⟩⟩⟩
    · simp only [State.stats_afterRetire, Entry.counted, hk]
    · simp only [State.stats_afterRetire, Entry.counted, hk]
    · rw [hx]; exact State.afterRetire_shalt hops hheld hx hk
    · exact State.afterRetire_notify hops hheld hk
    · obtain ⟨hmem, m, hm⟩ := State.afterRetire_sst (x := x) hops hheld hk
      exact ⟨_, m, hleaves, hmem, hm⟩
    · exact State.afterRetire_unbind hops hheld hx hk hbid
  case ends =>
    intro free less done
    refine ⟨fun he hs ho => ⟨_, squashRemove_leaves he hs ho, rfl, fun _ => rfl⟩, fun hy he hw => ⟨fun c hk hc hd => ?_, fun hk hd hf => ?_,
      fun hk hd hf => ?_, fun hk hd => modFillComplete_fills hy hw hk hd⟩⟩
    · exact hubCopyComplete_copy hy hw hk hc hd
    · exact (hubCopyComplete_writeback hy hw hk hd he).trans (by rw [if_pos hf]; rfl)
    · exact (hubCopyComplete_writeback hy hw hk hd he).trans (by rw [if_neg (by omega)]; rfl)

end

section
/-!
PROOFS. Fault delivery (05 R127-R130): the squash of the younger entries, the record, and what the context goes on with, for O55.
-/

namespace Sys2Proof.Machine

variable {s t u : State} {x : Nat} {f : FaultInfo}

/-! ### The record and the entry of the handler (R128-R130) -/

/-- t has, where s's FHEAD points, the words of a fault's record. -/
def State.FaultRecorded (s t : State) (x : Nat) (f : FaultInfo) (words : List W64) : Prop :=
  (t.ctx x).fhead = (s.ctx x).fhead + 1 ∧ (t.ctx x).fcount = (s.ctx x).fcount + 1 ∧
    (t.ctx x).lastFault = some f.sop ∧ SMap.get [] (t.ctx x).frec (s.ctx x).fhead.toNat = words

/-- A handler takes the fault: there is one, it does not run, and the stack of calls has room (R130). -/
abbrev FrontEnd.Takes (b : FrontEnd) (f : FaultInfo) : Prop := f.hw = true ∧ b.fvec ≠ 0 ∧ b.handler = false ∧ b.calls.length < 16

/-- After a fault the context of t goes on from a front-end state b: in its handler where it has one, or stopped. -/
def State.GoesOn (s t : State) (x : Nat) (f : FaultInfo) (b : FrontEnd) : Prop :=
  if b.Takes f then
    (t.ctx x).fe.spc = b.fvec ∧ (t.ctx x).fe.handler = true ∧ (t.ctx x).fe.calls = (f.sop, true) :: b.calls ∧
      (t.ctx x).fe.reg 15 = BitVec.ofNat 64 (0x100 + 64 * (s.ctx x).fhead.toNat) ∧ (t.ctx x).run = 1
  else (t.ctx x).run = 3 ∧ (t.ctx x).fe.spc = b.spc ∧ (s.irq.length < 64 → t.irq = s.irq ++ [⟨2, 0, x, 0, 0⟩])

theorem State.fireHoist_frame (s : State) (src tag ctx : Nat) : ∃ hub hoist, s.fireHoist src tag ctx = { s with hub := hub, hoist := hoist } := by
  unfold State.fireHoist
  extract_lets h old put seen first tag' ctx' armed
  obtain ⟨g, hput⟩ : ∃ g : Nat → HubRegs, ∀ v, put v s = { s with hub := g v } := ⟨_, fun _ => rfl⟩
  clear_value put
  split
  · rw [hput]; exact ⟨_, s.hoist, rfl⟩
  · split
    · simp only [armed, hput]
      exact ⟨_, _, rfl⟩
    · split
      · exact ⟨s.hub, s.hoist, rfl⟩
      · rw [hput]; exact ⟨_, s.hoist, rfl⟩

/-- The context once a fault is recorded. -/
def Context.recorded (c : Context) (f : FaultInfo) (words : List W64) : Context :=
  { c with frec := SMap.set c.frec c.fhead.toNat words, fhead := c.fhead + 1, fcount := c.fcount + 1,
           lastFault := some f.sop,
           stats := { c.stats with dfault := c.stats.dfault + (if f.kind = 1 then 1 else 0)
                                   tfault := c.stats.tfault + (if f.kind = 2 ∨ f.kind = 3 then 1 else 0) } }

theorem State.recordFault_frame (s : State) (x : Nat) (f : FaultInfo) (words : List W64) : ∃ hub hoist,
    s.recordFault x f words = { s.modCtx x (·.recorded f words) with hub := hub, hoist := hoist } := by
  unfold State.recordFault
  extract_lets s1
  split
  · exact s1.fireHoist_frame ..
  · exact ⟨_, _, rfl⟩

theorem State.ctx_recordFault (s : State) (x : Nat) (f : FaultInfo) (words : List W64) :
    (s.recordFault x f words).ctx x = (s.ctx x).recorded f words := by
  obtain ⟨hub, hoist, hrec⟩ := s.recordFault_frame x f words
  rw [hrec]
  exact (s.ctx_modCtx x x (·.recorded f words)).trans (if_pos rfl)

theorem State.window_recordFault (s : State) (x : Nat) (f : FaultInfo) (words : List W64) : (s.recordFault x f words).window = s.window := by
  obtain ⟨hub, hoist, hrec⟩ := s.recordFault_frame x f words
  rw [hrec]; rfl

theorem State.irq_recordFault (s : State) (x : Nat) (f : FaultInfo) (words : List W64) : (s.recordFault x f words).irq = s.irq := by
  obtain ⟨hub, hoist, hrec⟩ := s.recordFault_frame x f words
  rw [hrec]; rfl

/-- What the handler begins with, the address of the record at hand. -/
def FrontEnd.inHandler (b : FrontEnd) (f : FaultInfo) (at_ : W64) : FrontEnd :=
  FrontEnd.setReg { b with calls := (f.sop, true) :: b.calls, handler := true, spc := b.fvec } 15 at_

section
variable {b : FrontEnd} (hb : (s.ctx x).fe = b)
include hb

theorem State.enterFault_handler (h : b.Takes f) : s.enterFault x f = s.modCtx x fun c =>
    { c with decodeFrom := s.now + 1, fe := b.inHandler f (BitVec.ofNat 64 (0x100 + 64 * ((s.ctx x).fhead - 1).toNat)), run := 1 } := by
  obtain ⟨hw, hvec, hfree, hroom⟩ := h
  subst hb
  have hc : (f.hw && (s.ctx x).fe.fvec != 0 && !(s.ctx x).fe.handler && decide ((s.ctx x).fe.calls.length < 16)) = true := by
    simp [hw, hvec, hfree, hroom]
  simp only [State.enterFault, State.ctx_modCtx, if_true, hc, State.modCtx_modCtx]
  exact State.modCtx_congr _ _ rfl

theorem State.enterFault_stops (h : ¬b.Takes f) : s.enterFault x f =
    (s.modCtx x fun c => { c with decodeFrom := s.now + 1, run := 3 }).post ⟨2, 0, x, 0, 0⟩ := by
  subst hb
  have hc : (f.hw && (s.ctx x).fe.fvec != 0 && !(s.ctx x).fe.handler && decide ((s.ctx x).fe.calls.length < 16)) = false := by
    rw [Bool.eq_false_iff]
    intro hc
    simp only [Bool.and_eq_true, bne_iff_ne, Bool.not_eq_true', decide_eq_true_eq] at hc
    obtain ⟨⟨⟨hw, hvec⟩, hfree⟩, hroom⟩ := hc
    exact h ⟨hw, hvec, hfree, hroom⟩
  simp only [State.enterFault, State.ctx_modCtx, if_true, hc, Bool.false_eq_true, if_false, State.modCtx_modCtx]

end

theorem State.window_post (s : State) (r : IntRec) : (s.post r).window = s.window := by
  unfold State.post; split <;> rfl

theorem State.window_enterFault (s : State) (x : Nat) (f : FaultInfo) : (s.enterFault x f).window = s.window := by
  by_cases h : (s.ctx x).fe.Takes f
  · rw [State.enterFault_handler rfl h, State.window_modCtx]
  · rw [State.enterFault_stops rfl h, State.window_post, State.window_modCtx]

/-- A fault that is recorded and then entered: the record, and where the context goes on. -/
theorem State.enterFault_recordFault (s : State) (x : Nat) (f : FaultInfo) (words : List W64) :
    let t := (s.recordFault x f words).enterFault x f
    (t.ctx x).fault = (s.ctx x).fault ∧ s.FaultRecorded t x f words ∧ s.GoesOn t x f (s.ctx x).fe := by
  have hctx := s.ctx_recordFault x f words
  have hfe : ((s.recordFault x f words).ctx x).fe = (s.ctx x).fe := by rw [hctx]; rfl
  have hrecord : SMap.get [] ((s.ctx x).recorded f words).frec (s.ctx x).fhead.toNat = words := SMap.get_set_same ..
  dsimp only
  unfold State.GoesOn
  by_cases h : (s.ctx x).fe.Takes f
  · have hat : ((s.ctx x).recorded f words).fhead - 1 = (s.ctx x).fhead := add_sub_cancel_right ..
    rw [if_pos h, State.enterFault_handler hfe h, State.FaultRecorded, State.ctx_modCtx, if_pos rfl, hctx, hat]
    exact ⟨rfl, ⟨rfl, rfl, rfl, hrecord⟩, rfl, rfl, rfl, SMap.get_set_same .., rfl⟩
  · rw [if_neg h, State.enterFault_stops hfe h, State.FaultRecorded, State.ctx_post, State.ctx_modCtx, if_pos rfl, hctx]
    refine ⟨rfl, ⟨rfl, rfl, rfl, hrecord⟩, rfl, rfl, fun hroom => ?_⟩
    have hirq := s.irq_recordFault x f words
    rw [State.irq_post (by rw [State.irq_modCtx, hirq]; exact hroom), State.irq_modCtx, hirq]

/-! ### What stands while younger entries are squashed (R127) -/

/-- Frames alone have changed in memory; interrupts and the place of the next record stand. -/
structure State.SameRecords (x : Nat) (s t : State) : Prop where
  frames : s.FramesAlone t
  irq : t.irq = s.irq
  fhead : (t.ctx x).fhead = (s.ctx x).fhead
  fcount : (t.ctx x).fcount = (s.ctx x).fcount

theorem State.SameRecords.of_eq (hm : t.mem = s.mem) (ho : t.objs = s.objs) (hc : t.ctxs = s.ctxs) (hi : t.irq = s.irq) :
    s.SameRecords x t := by
  have hctx (y : Nat) : t.ctx y = s.ctx y := congrArg (SMap.get Context.none · y) hc
  exact ⟨.of_eq hm ho fun y => by rw [hctx], hi, by rw [hctx], by rw [hctx]⟩

theorem State.SameRecords.trans (h : s.SameRecords x t) (h' : t.SameRecords x u) : s.SameRecords x u :=
  ⟨h.frames.trans h'.frames, h'.irq.trans h.irq, h'.fhead.trans h.fhead, h'.fcount.trans h.fcount⟩

/-- An update of a context that leaves its frame object and the place of its records. -/
theorem State.modCtx_sameRecords (s : State) (x : Nat) {g : Context → Context}
    (hg : ∀ c, (g c).frameObj = c.frameObj ∧ (g c).fhead = c.fhead ∧ (g c).fcount = c.fcount) : s.SameRecords x (s.modCtx x g) := by
  have hctx : (s.modCtx x g).ctx x = g (s.ctx x) := (s.ctx_modCtx x x g).trans (if_pos rfl)
  obtain ⟨-, hhead, hcount⟩ := hg (s.ctx x)
  refine ⟨.of_eq rfl rfl fun y => ?_, rfl, by rw [hctx, hhead], by rw [hctx, hcount]⟩
  rw [State.ctx_modCtx]
  split
  · next h => rw [h]; exact (hg _).1
  · rfl

theorem State.FaultRecorded.of_sameRecords {words : List W64} (h : u.FaultRecorded t x f words) (hs : s.SameRecords x u) :
    s.FaultRecorded t x f words := by
  rwa [State.FaultRecorded, ← hs.fhead, ← hs.fcount]

theorem State.GoesOn.of_sameRecords {b b' : FrontEnd} (h : u.GoesOn t x f b) (hs : s.SameRecords x u) (hspc : b.spc = b'.spc)
    (hvec : b.fvec = b'.fvec) (hfree : b.handler = b'.handler) (hcalls : b.calls = b'.calls) : s.GoesOn t x f b' := by
  simpa only [State.GoesOn, FrontEnd.Takes, hs.fhead, hs.irq, hspc, hvec, hfree, hcalls] using h

/-! ### The squash -/

/-- An entry is squashed: its strands end, the shadows that it writes are dead, its copies go. -/
def State.squashOne (x : Nat) (s : State) (e : Entry) : State :=
  let s := s.abort e.tid none
  let mine := (s.shadows.filter fun p => p.2.writer == some e.tid && p.2.ctx == x).map (·.1)
  let s := s.discard mine e.tid
  { (s.modEntry e.tid fun e => { e with state := .squash, fills := 0, runs := [] }) with
    hubCopies := s.hubCopies.filter fun h => h.2.kind.task != some e.tid
    hubQueue := s.hubQueue.filter fun h => h.kind.task != some e.tid }

/-- Decode begins anew for a context whose younger entries, n of them, are squashed. -/
def Context.rewound (c : Context) (n : Nat) : Context :=
  { c with pending := Option.none, park := Option.none, fault := Option.none, run := if c.run = 2 then 1 else c.run,
           stats := { c.stats with squash := c.stats.squash + BitVec.ofNat 64 n } }

theorem State.squashAll_eq (s : State) (x : Nat) (es : List Entry) :
    s.squashAll x es = (es.foldl (State.squashOne x) s).modCtx x (·.rewound es.length) := rfl

theorem State.squashOne_sameRecords (x : Nat) (s : State) (e : Entry) : s.SameRecords x (s.squashOne x e) := by
  have hctx (y : Nat) : (s.squashOne x e).ctx y = (s.abort e.tid none).ctx y := rfl
  refine ⟨(State.abort_framesAlone ..).trans (.of_eq rfl rfl fun _ => rfl), State.irq_abort .., ?_, ?_⟩ <;> rw [hctx, State.ctx_abort]

theorem State.squashAll_sameRecords (s : State) (x : Nat) (es : List Entry) : s.SameRecords x (s.squashAll x es) := by
  have folded : s.SameRecords x (es.foldl (State.squashOne x) s) :=
    List.foldlRecOn (motive := s.SameRecords x) es _ (.of_eq rfl rfl rfl rfl) fun t ht e _ =>
      ht.trans (t.squashOne_sameRecords x e)
  exact folded.trans (State.modCtx_sameRecords _ x (g := (·.rewound es.length)) fun _ => ⟨rfl, rfl, rfl⟩)

/-- Entries of one number are squashed. -/
def State.Squashed (s : State) (tid : Nat) : Prop := ∀ y ∈ s.window, y.tid = tid → y.state = .squash

theorem State.window_squashOne (x : Nat) (s : State) (e : Entry) : (s.squashOne x e).window =
    s.window.map fun y => if y.tid = e.tid then { y with state := .squash, fills := 0, runs := [] } else y :=
  congrArg (List.map _) (State.window_abort ..)

theorem State.squashOne_squashed (x : Nat) (s : State) (e : Entry) {tid : Nat} (h : tid = e.tid ∨ s.Squashed tid) :
    (s.squashOne x e).Squashed tid := by
  intro y hy ht
  rw [State.window_squashOne] at hy
  obtain ⟨z, hz, rfl⟩ := List.mem_map.1 hy
  by_cases hze : z.tid = e.tid
  · rw [if_pos hze]
  · rw [if_neg hze] at ht ⊢
    exact h.elim (fun he => absurd (ht.trans he) hze) fun hs => hs z hz ht

/-- Every entry of a squash is squashed. -/
theorem State.foldl_squashOne_squashed (x : Nat) (es : List Entry) (s : State) {tid : Nat} (h : tid ∈ es.map (·.tid) ∨ s.Squashed tid) :
    (es.foldl (State.squashOne x) s).Squashed tid := by
  induction es generalizing s with
  | nil => simpa using h
  | cons e es ih =>
    refine ih _ ?_
    rw [List.map_cons, List.mem_cons] at h
    obtain (he | hes) | hs := h
    · exact .inr (State.squashOne_squashed x s e (.inl he))
    · exact .inl hes
    · exact .inr (State.squashOne_squashed x s e (.inr hs))

theorem State.squashAll_squashed (s : State) (x : Nat) {es : List Entry} {tid : Nat} (h : tid ∈ es.map (·.tid)) :
    (s.squashAll x es).Squashed tid := State.foldl_squashOne_squashed x es s (.inl h)

/-! ### The faulting entry leaves (R127, log 48) -/

/-- The faulting entry leaves the window, and its context's front end goes back to before its S-op. -/
def State.withdrawn (s : State) (x : Nat) (e : Entry) : State :=
  let mine := (s.shadows.filter fun (p : Nat × Shadow) => p.2.writer == some e.tid && p.2.ctx == x).map fun (p : Nat × Shadow) => p.1
  let s := ((s.discard mine e.tid).keepReads e).restoreFe x e.before
  let s : State := { s with
    window := s.window.filter fun (w : Entry) => w.tid != e.tid
    hubCopies := s.hubCopies.filter fun (h : Nat × HubCopy) => h.2.kind.task != some e.tid
    hubQueue := s.hubQueue.filter fun (h : HubCopy) => h.kind.task != some e.tid }
  s.dropViews e.tid

theorem State.keepReads_frame (s : State) (e : Entry) : s.keepReads e = { s with shadows := (s.keepReads e).shadows } := by
  unfold State.keepReads; split <;> rfl

theorem State.restoreFe_sameRecords (s : State) (x : Nat) (before : FrontEnd) : s.SameRecords x (s.restoreFe x before) := by
  unfold State.restoreFe
  exact s.modCtx_sameRecords x fun _ => ⟨rfl, rfl, rfl⟩

/-- The stream PC, the handler and the calls are those of the earlier state, whatever becomes of the quotas. -/
theorem State.fe_restoreFe (s : State) (x : Nat) (before : FrontEnd) : let b := ((s.restoreFe x before).ctx x).fe
    b.spc = before.spc ∧ b.fvec = before.fvec ∧ b.handler = before.handler ∧ b.calls = before.calls := by
  simp only [State.restoreFe, State.ctx_modCtx, if_true]
  split <;> exact ⟨rfl, rfl, rfl, rfl⟩

theorem State.withdrawn_sameRecords (s : State) (x : Nat) (e : Entry) : s.SameRecords x (s.withdrawn x e) := by
  have kept (t : State) : t.SameRecords x (t.keepReads e) := by
    rw [t.keepReads_frame e]
    exact .of_eq rfl rfl rfl rfl
  have dead (ms : List Nat) : s.SameRecords x (s.discard ms e.tid) := .of_eq rfl rfl rfl rfl
  exact (dead _).trans ((kept _).trans ((State.restoreFe_sameRecords _ x e.before).trans (.of_eq rfl rfl rfl rfl)))

theorem State.window_withdrawn (s : State) (x : Nat) (e : Entry) : (s.withdrawn x e).window = s.window.filter (·.tid != e.tid) := by
  have kept (t : State) : ((t.keepReads e).restoreFe x e.before).window = t.window := by
    rw [t.keepReads_frame e]; rfl
  exact congrArg (List.filter _) (kept _)

theorem State.fe_withdrawn (s : State) (x : Nat) (e : Entry) : let b := ((s.withdrawn x e).ctx x).fe
    b.spc = e.before.spc ∧ b.fvec = e.before.fvec ∧ b.handler = e.before.handler ∧ b.calls = e.before.calls :=
  State.fe_restoreFe _ x e.before

/-! ### The delivery -/

/-- What is delivered: the record is written, and the context goes on or stops. -/
def State.delivered (s : State) (x : Nat) (f : FaultInfo) (words : List W64) : State := (s.recordFault x f words).enterFault x f

theorem State.window_delivered (s : State) (x : Nat) (f : FaultInfo) (words : List W64) : (s.delivered x f words).window = s.window :=
  (State.window_enterFault ..).trans (State.window_recordFault ..)

theorem State.mem_delivered (s : State) (x : Nat) (f : FaultInfo) (words : List W64) : (s.delivered x f words).mem = s.mem := by
  rw [State.delivered, State.enterFault_mem, State.recordFault_mem]

/-- A fault of decode, with no older entry left (R127). -/
theorem faultDelivery_decode (ha : s.alive x = []) (hf : (s.ctx x).fault = some f) :
    execFaultDelivery x s = .next ((s.squashAll x []).delivered x f (faultRecord f x 0 false [])) := by
  have hd : s.deliverable x = some (f, none) := by rw [State.deliverable, ha]; simp only [hf, Option.map_some]
  rw [execFaultDelivery, hd]
  simp only [List.filter_nil, List.map_nil, List.isEmpty_nil, Bool.not_true, Option.any_none, Bool.and_false, Bool.or_false]
  rfl

/-- A fault of the oldest entry (R127). -/
theorem faultDelivery_entry {e : Entry} {r : List Entry} (ha : s.alive x = e :: r) (hs : e.state = .fault) (hf : e.fault = some f) :
    let younger := r.filter fun y => y.tid != e.tid
    let escaped := (younger.filter fun y => y.escaped).map fun y => y.tid
    execFaultDelivery x s = .next (((s.squashAll x younger).withdrawn x e).delivered x f
      (faultRecord f x e.tid (!escaped.isEmpty || (f.ofCheck && e.headOnly)) escaped)) := by
  have hd : s.deliverable x = some (f, some e) := by
    rw [State.deliverable, ha]
    simp only [hs, if_true, hf, Option.map_some]
  have hyounger : (e :: r).filter (fun y => y.tid != e.tid) = r.filter fun y => y.tid != e.tid := by simp
  dsimp only
  rw [execFaultDelivery, hd]
  simp only [ha, hyounger]
  rfl

end Sys2Proof.Machine

open Sys2Proof Sys2Proof.Machine

/-- Settles O55: `State.enterFault_recordFault` for the record and what the context goes on with; `State.squashAll_squashed` and
`State.withdrawn_sameRecords` for what the squash of the younger entries leaves of the state before. -/
theorem faultDelivery : Obligations.FaultDelivery := by
  unfold Obligations.FaultDelivery
  intro s x f e
  dsimp only
  refine ⟨fun ha hf => ?decode, fun r ha hs hf => ?entry⟩
  case decode =>
    have hu := s.squashAll_sameRecords x []
    have hctx : (s.squashAll x []).ctx x = (s.ctx x).rewound 0 := (s.ctx_modCtx x x (·.rewound 0)).trans (if_pos rfl)
    obtain ⟨hfault, hrec, hgoes⟩ := (s.squashAll x []).enterFault_recordFault x f (faultRecord f x 0 false [])
    rw [hctx] at hfault hgoes
    exact ⟨_, faultDelivery_decode ha hf, State.window_delivered .., fun _ => by rw [State.mem_delivered]; rfl, hfault,
      hrec.of_sameRecords hu, hgoes.of_sameRecords hu rfl rfl rfl rfl⟩
  case entry =>
    have hanswers := faultDelivery_entry ha hs hf
    generalize hy : r.filter (fun y => y.tid != e.tid) = younger at hanswers ⊢
    dsimp only at hanswers
    generalize (younger.filter fun y => y.escaped).map (fun y => y.tid) = escaped at hanswers ⊢
    have hu : s.SameRecords x ((s.squashAll x younger).withdrawn x e) :=
      (s.squashAll_sameRecords x younger).trans (State.withdrawn_sameRecords _ x e)
    have hwindow (words : List W64) : ∀ y ∈ (((s.squashAll x younger).withdrawn x e).delivered x f words).window,
        y ∈ (s.squashAll x younger).window ∧ y.tid ≠ e.tid := fun y hy => by
      rw [State.window_delivered, State.window_withdrawn, List.mem_filter, bne_iff_ne] at hy
      exact hy
    obtain ⟨hspc, hvec, hfree, hcalls⟩ := (s.squashAll x younger).fe_withdrawn x e
    obtain ⟨-, hrec, hgoes⟩ := ((s.squashAll x younger).withdrawn x e).enterFault_recordFault x f
      (faultRecord f x e.tid (!escaped.isEmpty || (f.ofCheck && e.headOnly)) escaped)
    exact ⟨_, hanswers, fun y hy => (hwindow _ y hy).2, fun y hy hyt => State.squashAll_squashed s x hyt y (hwindow _ y hy).1 rfl,
      hrec.of_sameRecords hu, hgoes.of_sameRecords hu hspc hvec hfree hcalls, fun a ha => by
        rw [State.mem_delivered]; exact hu.frames.mem a ha⟩

end

section
/-!
PROOFS. What reset leaves (O3; 06 R149, 15 R344, 18 R378, 21 R409, R416, R420, R432).
-/

open Sys2Proof Sys2Proof.Machine

/-- Settles O3: the lists of the reset state are empty, so that every core, context, object and byte is the default of its list. -/
theorem resetState : Obligations.ResetState := by
  unfold Obligations.ResetState
  have hlive : State.reset.Live :=
    ⟨fun _ hp => absurd hp List.not_mem_nil, fun k ht => by have ht : Turn.outside = .core k 8 := ht; cases ht⟩
  exact ⟨rfl, fun _ => rfl, rfl, rfl, rfl, rfl, rfl, rfl, rfl, rfl, rfl, rfl, rfl, rfl, rfl, rfl, rfl,
    fun _ => ⟨rfl, rfl, by simp only [State.readSR]; rfl, rfl⟩, fun _ => ⟨rfl, rfl⟩, rfl, fun _ => rfl, rfl, hlive⟩

end

section
/-!
PROOFS. The values of the scalar unit as arithmetic on numbers (06 R151-R153, 03 R52).
-/

namespace Sys2Proof.Machine

/-! ### Products, quotients and shifts -/

theorem ofInt_ushiftRight_setWidth (p : Int) : ((BitVec.ofInt 128 p) >>> 64).setWidth 64 = BitVec.ofInt 64 (p / 2 ^ 64) := by
  apply BitVec.eq_of_toNat_eq
  simp only [BitVec.toNat_setWidth, BitVec.toNat_ushiftRight, BitVec.toNat_ofInt, Nat.shiftRight_eq_div_pow]
  omega

theorem mulhV_eq (x y : W64) : mulhV x y = BitVec.ofInt 64 (x.toInt * y.toInt / 2 ^ 64) := by
  rw [← ofInt_ushiftRight_setWidth, BitVec.ofInt_mul]; rfl

theorem mulhnV_eq (x y : W64) : mulhnV x y = BitVec.ofNat 64 (x.toNat * y.toNat / 2 ^ 64) := by
  have hxy : x.toNat * y.toNat < 2 ^ 64 * 2 ^ 64 := Nat.mul_lt_mul'' x.isLt y.isLt
  apply BitVec.eq_of_toNat_eq
  simp only [mulhnV, BitVec.toNat_setWidth, BitVec.toNat_ushiftRight, BitVec.toNat_mul, Nat.shiftRight_eq_div_pow, BitVec.toNat_ofNat]
  rw [Nat.mod_eq_of_lt (a := x.toNat) (by omega), Nat.mod_eq_of_lt (a := y.toNat) (by omega)]
  omega

theorem sdiv_eq_ofInt (x y : W64) : x.sdiv y = BitVec.ofInt 64 (x.toInt.tdiv y.toInt) :=
  BitVec.eq_of_toInt_eq (by rw [BitVec.toInt_sdiv, BitVec.toInt_ofInt])
theorem srem_eq_ofInt (x y : W64) : x.srem y = BitVec.ofInt 64 (x.toInt.tmod y.toInt) := by
  rw [← BitVec.toInt_srem, BitVec.ofInt_toInt]
theorem udiv_eq_ofNat (x y : W64) : x / y = BitVec.ofNat 64 (x.toNat / y.toNat) := by
  rw [← BitVec.toNat_udiv, BitVec.ofNat_toNat, BitVec.setWidth_eq]
theorem umod_eq_ofNat (x y : W64) : x % y = BitVec.ofNat 64 (x.toNat % y.toNat) := by
  rw [← BitVec.toNat_umod, BitVec.ofNat_toNat, BitVec.setWidth_eq]
theorem shl_eq_ofNat (x : W64) (n : Nat) : x <<< n = BitVec.ofNat 64 (x.toNat * 2 ^ n) := by
  apply BitVec.eq_of_toNat_eq; simp [Nat.shiftLeft_eq]
theorem shr_eq_ofNat (x : W64) (n : Nat) : x >>> n = BitVec.ofNat 64 (x.toNat / 2 ^ n) := by
  rw [← Nat.shiftRight_eq_div_pow, ← BitVec.toNat_ushiftRight, BitVec.ofNat_toNat, BitVec.setWidth_eq]
theorem sar_eq_ofInt (x : W64) (n : Nat) : x.sshiftRight n = BitVec.ofInt 64 (x.toInt / 2 ^ n) := by
  rw [← BitVec.ofInt_toInt (x := x.sshiftRight n), BitVec.toInt_sshiftRight, Int.shiftRight_eq_div_pow, Nat.cast_pow, Nat.cast_ofNat]
theorem rotl_eq (x : W64) {n : Nat} (h : n < 64) :
    x.rotateLeft n = BitVec.ofNat 64 (x.toNat * 2 ^ n) ||| BitVec.ofNat 64 (x.toNat / 2 ^ (64 - n)) := by
  rw [BitVec.rotateLeft_eq_rotateLeftAux_of_lt h, BitVec.rotateLeftAux, shl_eq_ofNat, shr_eq_ofNat]

theorem shlV_eq (x n : W64) : shlV x n = BitVec.ofNat 64 (x.toNat * 2 ^ (n.toNat % 64)) := shl_eq_ofNat ..
theorem shrV_eq (x n : W64) : shrV x n = BitVec.ofNat 64 (x.toNat / 2 ^ (n.toNat % 64)) := shr_eq_ofNat ..
theorem sarV_eq (x n : W64) : sarV x n = BitVec.ofInt 64 (x.toInt / 2 ^ (n.toNat % 64)) := sar_eq_ofInt ..
theorem rotlV_eq (x n : W64) : rotlV x n =
    BitVec.ofNat 64 (x.toNat * 2 ^ (n.toNat % 64)) ||| BitVec.ofNat 64 (x.toNat / 2 ^ (64 - n.toNat % 64)) :=
  rotl_eq x (Nat.mod_lt _ (by norm_num))

/-- An immediate shift amount is below 64. -/
theorem toNat_shiftImm (m : BitVec 6) : (m.setWidth 64 : W64).toNat % 64 = m.toNat := by
  rw [BitVec.toNat_setWidth_of_le (by norm_num), Nat.mod_eq_of_lt m.isLt]

/-! ### Counts, extensions and selections -/

theorem sextV_eq (x : W64) (m : BitVec 6) : sextV x m = (x <<< (63 - m.toNat)).sshiftRight (63 - m.toNat) := by
  have hm := m.isLt
  rw [sextV, sar_eq_ofInt, BitVec.toInt_eq_toNat_cond, BitVec.toNat_shiftLeft, Nat.shiftLeft_eq]
  generalize hk : 63 - m.toNat = k
  have hp : 2 ^ 64 = 2 ^ (m.toNat + 1) * 2 ^ k := by rw [← pow_add]; congr 1; omega
  have hpos : 0 < 2 ^ k := by positivity
  rw [hp, Nat.mul_mod_mul_right, signedOf]
  generalize x.toNat % 2 ^ (m.toNat + 1) = r
  have h2 : 2 ^ (m.toNat + 1) = 2 * 2 ^ m.toNat := by rw [pow_succ, mul_comm]
  have hiff : 2 * (r * 2 ^ k) < 2 ^ (m.toNat + 1) * 2 ^ k ↔ r < 2 ^ (m.toNat + 1 - 1) := by
    rw [h2, ← mul_assoc, Nat.mul_lt_mul_right hpos]; simp
  simp only [hiff]
  split <;> congr 1
  · push_cast; exact (Int.mul_ediv_cancel _ (by positivity)).symm
  · push_cast; rw [← sub_mul]; exact (Int.mul_ediv_cancel _ (by positivity)).symm
theorem onesBelow_eq (x : W64) (n : Nat) : onesBelow x.toNat n = (List.range n).countP fun i => x.getLsbD i := by
  induction n with
  | zero => rfl
  | succ n ih =>
    rw [onesBelow, ih, List.range_succ, List.countP_append, List.countP_singleton, Nat.add_comm, BitVec.getLsbD,
      Nat.testBit_eq_decide_div_mod_eq]
    have := Nat.mod_two_eq_zero_or_one (x.toNat / 2 ^ n)
    rcases this with h | h <;> simp [h]
theorem popcV_eq (x : W64) : popcV x = BitVec.ofNat 64 ((List.range 64).countP fun i => x.getLsbD i) := by
  rw [popcV, onesBelow_eq]
theorem minS_eq (x y : W64) : minS x y = if x.toInt < y.toInt then x else y := by simp [minS, BitVec.slt]
theorem maxS_eq (x y : W64) : maxS x y = if x.toInt < y.toInt then y else x := by simp [maxS, BitVec.slt]
theorem minU_eq (x y : W64) : minU x y = if x.toNat < y.toNat then x else y := by simp [minU, BitVec.ult]
theorem maxU_eq (x y : W64) : maxU x y = if x.toNat < y.toNat then y else x := by simp [maxU, BitVec.ult]

theorem leadZeros_spec {x : Nat} (h : x < 2 ^ 64) : leadZeros 64 x ≤ 64 ∧ x < 2 ^ (64 - leadZeros 64 x) ∧
    (leadZeros 64 x < 64 → 2 ^ (63 - leadZeros 64 x) ≤ x) := by
  rw [leadZeros, Nat.mod_eq_of_lt h]
  split
  · next h0 => simp [h0]
  · next h0 =>
    have hl : x.log2 < 64 := (Nat.log2_lt h0).2 h
    have e : 64 - (64 - 1 - x.log2) = x.log2 + 1 := by omega
    have e' : 63 - (64 - 1 - x.log2) = x.log2 := by omega
    rw [e, e']
    exact ⟨by omega, Nat.lt_log2_self, fun _ => Nat.log2_self_le h0⟩

theorem lih_eq (x : W64) (l : BitVec 14) : x <<< 14 ||| l.setWidth 64 = BitVec.ofNat 64 (x.toNat * 2 ^ 14 + l.toNat) := by
  have hl : l.toNat < 2 ^ 14 := l.isLt
  rw [shl_eq_ofNat, ← BitVec.ofNat_toNat 64 l, ← BitVec.ofNat_or, Nat.mul_comm, Nat.two_pow_add_eq_or_of_lt hl]

/-! ### Conditions -/

theorem condV_iff (c : BitVec 3) (x y : W64) : condV c x y = true ↔
    (c = 0 ∧ x = y) ∨ (c = 1 ∧ x ≠ y) ∨ (c = 2 ∧ x.toInt < y.toInt) ∨ (c = 3 ∧ y.toInt ≤ x.toInt) ∨
    (c = 4 ∧ x.toNat < y.toNat) ∨ (c = 5 ∧ y.toNat ≤ x.toNat) ∨ (c = 6 ∧ x &&& y ≠ 0) ∨ (c = 7 ∧ x &&& y = 0) := by
  have hc : c = 0 ∨ c = 1 ∨ c = 2 ∨ c = 3 ∨ c = 4 ∨ c = 5 ∨ c = 6 ∨ c = 7 := by revert c; decide
  rcases hc with rfl | rfl | rfl | rfl | rfl | rfl | rfl | rfl <;>
    simp [condV, BitVec.slt, BitVec.ult]

theorem qlogV_iff (f : BitVec 3) (a b : Bool) : qlogV f a b = true ↔
    (f = 0 ∧ a = true ∧ b = true) ∨ (f = 1 ∧ (a = true ∨ b = true)) ∨ (f = 2 ∧ ¬(a = true ↔ b = true)) ∨
    (f = 3 ∧ a = true ∧ ¬b = true) ∨ (f = 4 ∧ ¬(a = true ∧ b = true)) ∨ (f = 5 ∧ ¬(a = true ∨ b = true)) ∨
    (f = 6 ∧ (a = true ↔ b = true)) ∨ (f = 7 ∧ (a = true ∨ ¬b = true)) := by
  revert f a b; decide

end Sys2Proof.Machine
end

section
/-!
PROOFS. Scalar instructions under a true guard, and SEL (O12, O13, O14; 06 R141, R151-R154).
-/

namespace Sys2Proof.Machine

variable {s : State} {k : Nat}

/-- An instruction of the common scalar form acts on its strand by every update that makes the same of it. -/
theorem acts_of_guarded (h : s.Issues k) {g : Guard} (hg : (s.strand k).guard g = true) {i : Instr} {f f' : Strand → Strand}
    (hi : exec i s = guarded s g f) (hf : f (s.strand k) = f' (s.strand k)) : Acts i s k f' := by
  rw [Acts, Answers, hi, guarded_true h hg, State.modStrand_congr _ _ hf]

/-- A slot's instruction acts on its strand where its effect does. -/
theorem acts_of_onCore (h : s.Issues k) {i : Instr} {f : Nat → State} {f' : Strand → Strand} (hi : exec i s = onCore s f)
    (hf : f k = s.modStrand k f') : Acts i s k f' := by
  rw [Acts, Answers, hi, onCore_issues h, hf]

end Sys2Proof.Machine

open Sys2Proof Sys2Proof.Machine

/-- Settles O12: each form is the common one, its value by the equation of its function (`mulhV_eq`, `sdiv_eq_ofInt`, `shlV_eq` and
those beside them). -/
theorem scalarArithmetic : Obligations.ScalarArithmetic := by
  unfold Obligations.ScalarArithmetic
  refine ⟨fun s k d a b i g h hg => ?products, fun s k d a b g h hg => ?quotients, fun s k d a b m i g h hg => ?logic⟩
  case products =>
    exact ⟨acts_of_guarded h hg rfl rfl, acts_of_guarded h hg rfl rfl, acts_of_guarded h hg rfl rfl,
      acts_of_guarded h hg rfl rfl, acts_of_guarded h hg rfl (by rw [mulhV_eq]), acts_of_guarded h hg rfl (by rw [mulhnV_eq])⟩
  case quotients =>
    exact ⟨acts_of_guarded h hg rfl (by rw [divS, sdiv_eq_ofInt]), acts_of_guarded h hg rfl (by rw [divU, udiv_eq_ofNat]),
      acts_of_guarded h hg rfl (by rw [remS, srem_eq_ofInt]), acts_of_guarded h hg rfl (by rw [remU, umod_eq_ofNat])⟩
  case logic =>
    exact ⟨acts_of_guarded h hg rfl rfl, acts_of_guarded h hg rfl rfl, acts_of_guarded h hg rfl rfl,
      acts_of_guarded h hg rfl rfl, acts_of_guarded h hg rfl rfl, acts_of_guarded h hg rfl rfl, acts_of_guarded h hg rfl rfl,
      acts_of_guarded h hg rfl (by rw [shlV_eq]), acts_of_guarded h hg rfl (by rw [shrV_eq]),
      acts_of_guarded h hg rfl (by rw [sarV_eq]), acts_of_guarded h hg rfl (by rw [rotlV_eq]),
      acts_of_guarded h hg rfl (by rw [shlV_eq, toNat_shiftImm]), acts_of_guarded h hg rfl (by rw [shrV_eq, toNat_shiftImm]),
      acts_of_guarded h hg rfl (by rw [sarV_eq, toNat_shiftImm])⟩

/-- Settles O13: the values are those of `leadZeros_spec`, `onesBelow_eq`, `sextV_eq` and `lih_eq`; SEL's guard chooses its value. -/
theorem scalarSelections : Obligations.ScalarSelections := by
  unfold Obligations.ScalarSelections
  intro s k d a b m l g h x y res
  refine ⟨acts_of_onCore h rfl (State.modStrand_congr _ _ rfl), fun hg => ?_⟩
  obtain ⟨hn, hlt, hle⟩ := leadZeros_spec x.isLt
  exact ⟨acts_of_guarded h hg rfl (congrArg (res · _) (minS_eq x y)),
    acts_of_guarded h hg rfl (congrArg (res · _) (maxS_eq x y)),
    acts_of_guarded h hg rfl (congrArg (res · _) (minU_eq x y)),
    acts_of_guarded h hg rfl (congrArg (res · _) (maxU_eq x y)),
    ⟨_, hn, acts_of_guarded h hg rfl rfl, hlt, hle⟩, acts_of_guarded h hg rfl (congrArg (res · _) (popcV_eq x)),
    acts_of_guarded h hg rfl (congrArg (res · _) (sextV_eq x m)), acts_of_guarded h hg rfl rfl, acts_of_guarded h hg rfl rfl,
    acts_of_guarded h hg rfl rfl, acts_of_guarded h hg rfl (by rw [lih_eq])⟩

/-- Settles O14: `condV_iff` and `qlogV_iff` say what the function queued for the flag is. -/
theorem scalarConditions : Obligations.ScalarConditions := by
  unfold Obligations.ScalarConditions
  intro s k c f qd qa qb a b i g h hg x cond A B logic
  exact ⟨⟨_, acts_of_guarded h hg rfl rfl, condV_iff ..⟩, ⟨_, acts_of_guarded h hg rfl rfl, condV_iff ..⟩,
    ⟨_, acts_of_guarded h hg rfl rfl, qlogV_iff ..⟩⟩

end

section
/-!
PROOFS. Transfers of control, loops, idle cycles and the end of a strand (O16; 06 R156-R162).
-/

namespace Sys2Proof.Machine

theorem Strand.branchTarget_eq (st : Strand) (o : BitVec 20) :
    st.branchTarget o = BitVec.ofInt 64 ((st.bundleAddr : Int) + o.toInt) := by
  rw [BitVec.ofInt_add]; rfl

variable {s : State} {k : Nat}

/-- ENDT.cont of a persistent strand (06 R162). -/
theorem endtCont_acts (h : s.Issues k) {g : Guard} (hg : (s.strand k).guard g = true) (hp : (s.strand k).id.pers = true) :
    Acts (.endtCont g) s k fun x => { x with fl := { x.fl with ending := some true } } :=
  acts_of_onCore h rfl (by simp only [hp, hg, if_true, Bool.not_true, Bool.false_eq_true, if_false]; rfl)

section
variable (h : s.Issues k) {d : BitVec 6} {l : BitVec 14} {g : Guard} (hg : (s.strand k).guard g = true)
  (hl : (s.strand k).bundleLen ≤ l.toNat) (hn : (s.strand k).sc.loops.length < 4)
include h hg hl hn

/-- LOOP with a count pushes its entry (06 R158). -/
theorem loop_pushes (hd : (s.strand k).s d.toNat ≠ 0) :
    let st := s.strand k
    Acts (.loop d l g) s k fun x =>
      { x with sc := { x.sc with
          loops := ⟨st.bundleAddr + st.bundleLen, st.bundleAddr + l.toNat, st.s d.toNat⟩ :: x.sc.loops } } :=
  acts_of_onCore h rfl (by
    simp only [if_neg (not_or.2 ⟨not_lt.2 hl, not_le.2 hn⟩), hg, Bool.not_true, Bool.false_eq_true, if_false, if_neg hd]
    exact State.modStrand_congr _ _ rfl)

/-- LOOP with a count of 0 goes on past the last bundle of its body (06 R158). -/
theorem loop_passes (hd : (s.strand k).s d.toNat = 0) :
    Acts (.loop d l g) s k fun x =>
      { x with fl := { x.fl with transfer := some (BitVec.ofNat 64 ((s.strand k).bundleAddr + l.toNat)), skip := true } } :=
  acts_of_onCore h rfl (by
    simp only [if_neg (not_or.2 ⟨not_lt.2 hl, not_le.2 hn⟩), hg, Bool.not_true, Bool.false_eq_true, if_false, if_pos hd]; rfl)

end

theorem Kernel.tableWord_iff {kn : Kernel} {a : Nat} :
    kn.tableWord a = true ↔ capBase kn.code ≤ a ∧ a + 4 ≤ capBase kn.code + capLen kn.code := by
  rw [Kernel.tableWord, Bool.and_eq_true, decide_eq_true_iff, decide_eq_true_iff]

/-- SWPT takes the word of the granted level, or of level 0 where that is 0 (06 R161). -/
theorem swpt_acts (h : s.Issues k) {t : BitVec 8} {g : Guard} (hg : (s.strand k).guard g = true) :
    let kn := (s.strand k).kn
    let base := kn.powerTable t.toNat
    let word (l : Nat) : Nat := s.objLE (capObj kn.code) (base + 4 * l) 4
    let e := if word (s.grant k) = 0 then word 0 else word (s.grant k)
    kn.variant ≠ 0 → e ≠ 0 → (∀ l, l = s.grant k ∨ (word (s.grant k) = 0 ∧ l = 0) → kn.tableWord (base + 4 * l) = true) →
    Acts (.swpt t g) s k fun x => { x with fl := { x.fl with transfer := some (BitVec.ofNat 64 (kn.hdr + e)) } } := by
  intro kn base word e hv he hw
  have h1 : ¬(!kn.tableWord (base + 4 * s.grant k)) = true := by simpa using hw _ (.inl rfl)
  have h0 : ¬(word (s.grant k) = 0 && !kn.tableWord base) = true := by
    simpa using fun h0 : word (s.grant k) = 0 => hw 0 (.inr ⟨h0, rfl⟩)
  have hne : ¬(word (s.grant k) = 0 ∧ word 0 = 0) := fun ⟨ha, hb⟩ => he (by rw [show e = word 0 from if_pos ha, hb])
  exact acts_of_onCore h rfl <| (if_neg hv).trans ((if_neg h1).trans ((if_neg h0).trans ((if_neg hne).trans (if_neg (by simp [hg])))))

end Sys2Proof.Machine

open Sys2Proof Sys2Proof.Machine

/-- Settles O16. -/
theorem transfers : Obligations.Transfers := by
  unfold Obligations.Transfers
  refine ⟨fun s k d a o l g h hg => ?transfers, fun s k t g h hg hv he hw =>
    swpt_acts h hg hv he fun l hl => Kernel.tableWord_iff.2 (hw l hl)⟩
  intro st A link target goes
  have htarget : st.branchTarget o = target := st.branchTarget_eq o
  exact ⟨acts_of_guarded h hg rfl (congrArg (goes · st) htarget), acts_of_guarded h hg rfl (congrArg (goes · _) htarget),
    acts_of_guarded h hg rfl rfl, acts_of_guarded h hg rfl rfl, acts_of_guarded h hg rfl rfl, endtCont_acts h hg,
    fun hl hn => ⟨loop_pushes h hg hl hn, loop_passes h hg hl hn⟩⟩

end

section
/-!
PROOFS. Results reach their registers (O18; 06 R141, R147, R159, 09 R212, R215, R220, R241, 18 R357).
-/

namespace Sys2Proof.Machine

/-! ### Steps of long operations -/

/-- A step is one of the same operation. -/
@[simp] theorem LongOp.sort_step (o : LongOp) : o.step.sort = o.sort := by
  cases h : o.sort
  · exact (LongOp.step_scan h).1
  · rw [LongOp.step_sort h]; exact (LongOp.sort_moved ..).trans h
@[simp] theorem LongOp.done_step (o : LongOp) : o.step.done = o.done + 1 := rfl
@[simp] theorem LongOp.steps_step (o : LongOp) : o.step.steps = o.steps := by simp [LongOp.steps]
/-- VSCAN has one result. -/
theorem LongOp.length_results (o : LongOp) (h : o.sort = false) (checked : Bool) : (o.results checked).length = 1 := by
  rw [LongOp.results_scan h]; rfl

section
variable {s : State} {k : Nat} {o : LongOp} (ho : (s.strand k).longs.find? LongOp.stepDue = some o)
include ho

theorem longOpStep_goes (hs : o.stopping = false) :
    Acts (.longOpStep k) s k fun st => { st with longs := st.longs.replace o o.step } :=
  congrArg Host.Outcome.next (s.modStrand_congr k (by simp [ho, hs]))

theorem longOpStep_stops (hs : o.stopping = true) (hm : o.done + 1 < o.steps ∨ o.sort = true) :
    Acts (.longOpStep k) s k fun st =>
      { st with longs := st.longs.replace o { o.step with stopped := true }
                vec := { st.vec with vpi := BitVec.ofNat 6 (o.done + 1) } } :=
  congrArg Host.Outcome.next (s.modStrand_congr k (by simp [ho, hs, hm.symm]))

theorem longOpStep_ends (hs : o.stopping = true) (hm : ¬(o.done + 1 < o.steps ∨ o.sort = true)) :
    ∃ t, Answers (.longOpStep k) s t ∧ (t.strand k).longs = (s.strand k).longs.erase o ∧
      (t.strand k).vec = (if ((s.strand k).longs.erase o).any (·.stopped) then (s.strand k).vec
        else { (s.strand k).vec with vpi := 0 }) ∧
      (t.strand k).tr.waiting.length + (t.strand k).tr.held.length =
        (s.strand k).tr.waiting.length + (s.strand k).tr.held.length + 1 := by
  have hsort : o.sort = false := by simpa using fun e => hm (.inr e)
  have hlen := o.step.length_results (by simpa using hsort) ((s.strand k).id.cls != 0)
  refine ⟨_, rfl, ?_⟩
  rw [State.strand_modStrand, if_pos rfl, ho]
  have hm' : (o.step.sort || decide (o.step.done < o.step.steps)) = false := by simpa [hsort] using hm
  simp only [hs, hm', Bool.not_true, Bool.false_eq_true, if_false]
  refine ⟨trivial, trivial, ?_⟩
  split <;> simp only [List.length_append, hlen] <;> omega

end

/-! ### Landing -/

theorem execScalarResultWrite_due {s : State} {k : Nat} {p : SPend} (hp : (s.strand k).pend.find? (·.due == 0) = some p) :
    ∃ t, Answers (.scalarResultWrite k) s t ∧ (t.strand k).sc = (s.strand k).sc.put p.dst p.value ∧
      (t.strand k).pend = (s.strand k).pend.erase p ∧ (t.core k).now.dz = ((s.core k).now.dz || p.dz) ∧ t.mem = s.mem := by
  refine ⟨_, congrArg Host.Outcome.next (by rw [hp]), ?_⟩
  simp

/-- A landing vector result changes the lanes of its mask alone (09 R212, R215). -/
theorem State.lane_landExposed (s : State) (k : Nat) {i l : Nat} (j : Nat) {e : Exposed} (he : e.dst = .v i) (hl : l < 128) :
    lane (((s.landExposed k e).strand k).v j) l =
      if j = i ∧ e.mask.getLsbD l = true then lane e.value l else lane ((s.strand k).v j) l := by
  unfold State.landExposed
  rw [Strand.v, State.vec_raiseV, State.strand_modStrand, if_pos rfl, he]
  simp only [Strand.vec_withVec]
  by_cases hj : j = i
  · subst hj
    rw [SMap.get_set_same, lane_mergeLanes _ _ _ hl]
    simp only [true_and]; rfl
  · rw [SMap.get_set_other _ _ _ hj, if_neg fun h => hj h.1]; rfl

end Sys2Proof.Machine

open Sys2Proof Sys2Proof.Machine

/-- Settles O18: `execScalarResultWrite_due`, the three lemmas on a step of a long operation, and `State.lane_landExposed`; the other
landings are the events' own text. -/
theorem landings : Obligations.Landings := by
  unfold Obligations.Landings
  refine ⟨fun s k => ⟨fun p => execScalarResultWrite_due, fun e he => ?_, fun e he => ?_, fun o ho =>
    ⟨longOpStep_goes ho, longOpStep_stops ho, longOpStep_ends ho⟩, rfl⟩, fun s k i j l e he => s.lane_landExposed k j he⟩
  · exact congrArg Host.Outcome.next (by rw [he])
  · exact congrArg Host.Outcome.next (by rw [he]; rfl)

end

section
/-!
PROOFS. What the slots S, X, L, W, V and Y leave alone in their issue cycle (O7; 06 R141, R146, 07 R165, R179, 09 R212).  Of the strand
that issues, `Strand.files` stands; of the machine, `State.besides`.  One lemma for each operation that the slots share, one for each
common form, and one for each instruction with a form of its own.
-/

namespace Sys2Proof.Machine

/-! ### What a strand keeps -/

/-- The register files of a strand, its identity, kernel, trap registers and format registers: what a queued result has not reached. -/
def Strand.files (st : Strand) :
    ScalarRegs × VectorRegs × MatrixRegs × Ident × TrapRegs × Kernel × CopyRegs × SMap W64 × SMap W64 :=
  (st.sc, st.vec, st.mx, st.id, st.tr, st.kn, st.cp, st.sig, st.fmtb)

section
variable (st : Strand)

@[simp] theorem Strand.files_withFlow (f : Flow → Flow) : (st.withFlow f).files = st.files := rfl
@[simp] theorem Strand.files_goto (t : W64) : (st.goto t).files = st.files := rfl
@[simp] theorem Strand.files_push (d : SDest) (v : BitVec 128) (lat : Nat) (dz : Bool) : (st.push d v lat dz).files = st.files := rfl
@[simp] theorem Strand.files_pushS (d : Nat) (v : W64) (lat : Nat) (dz : Bool) : (st.pushS d v lat dz).files = st.files := by
  unfold Strand.pushS; split_ifs <;> rfl
@[simp] theorem Strand.files_pushQ (d : Nat) (v : Bool) (lat : Nat) : (st.pushQ d v lat).files = st.files := by
  unfold Strand.pushQ; split <;> rfl
@[simp] theorem Strand.files_pushC (d : Nat) (v : CapBits) (lat : Nat) : (st.pushC d v lat).files = st.files := rfl
@[simp] theorem Strand.files_count (n lat : Nat) : (st.count n lat).files = st.files := rfl
@[simp] theorem Strand.files_expose (d : EDest) (m : PReg) (v : VReg) (lat : Nat) (fl : BitVec 8) (extra : Nat) :
    (st.expose d m v lat fl extra).files = st.files := rfl
@[simp] theorem Strand.files_addSig (i : Nat) (v : W64) : (st.addSig i v).files = st.files := rfl
@[simp] theorem Strand.files_fold (x : CapBits) (bs : List (Nat × Byte)) : (st.fold x bs).files = st.files := by
  unfold Strand.fold; split <;> rfl
@[simp] theorem Strand.files_startLong (o : LongOp) : (st.startLong o).files = st.files := rfl

theorem Strand.files_foldl {α : Type} {f : Strand → α → Strand} (hf : ∀ st x, (f st x).files = st.files) (l : List α) :
    (l.foldl f st).files = st.files := by
  induction l generalizing st with
  | nil => rfl
  | cons x l ih => rw [List.foldl_cons, ih, hf]

@[simp] theorem Strand.files_landLanes (o : VOp) (act : PReg) (lat : Nat) (r : Nat → W32 × Flags) :
    (st.landLanes o act lat r).files = st.files := by
  unfold Strand.landLanes
  extract_lets live bad fl v
  split
  · split <;> simp
  · split
    · split <;> simp
    · rw [Strand.files_foldl _ fun _ _ => Strand.files_expose .., Strand.files_expose]
@[simp] theorem Strand.files_landPred (p : Nat) (m v : PReg) (lat : Nat) (fl : BitVec 8) :
    (st.landPred p m v lat fl).files = st.files := by
  unfold Strand.landPred; split_ifs <;> simp
@[simp] theorem Strand.files_noteResid (n : Nat) : (st.noteResid n).files = st.files := by
  unfold Strand.noteResid; split
  · rfl
  · split <;> rfl

end

/-! ### What the machine keeps -/

/-- Of the machine, what stands while results are queued on core k: memory, the window but for the mark that an effect has escaped, the
cells, the hub's registers, the contexts and every other core. -/
def State.besides (s : State) (k : Nat) : Memory × List Entry × SMap Cell × HubRegs × SMap Context × (Nat → Option Core) :=
  (s.mem, s.window.map fun e => { e with escaped := false }, s.cells, s.hub, s.ctxs, fun j => if j = k then none else some (s.core j))

theorem State.besides_modCore (s : State) (k : Nat) (f : Core → Core) : (s.modCore k f).besides k = s.besides k := by
  have hcores : (fun j => if j = k then none else some ((s.modCore k f).core j)) =
      fun j => if j = k then none else some (s.core j) := by
    funext j; split
    · rfl
    · next h => rw [State.core_modCore, if_neg h]
  exact congrArg (fun c => (s.mem, s.window.map fun e => { e with escaped := false }, s.cells, s.hub, s.ctxs, c)) hcores

/-- From s to t, results have at most been queued on core k. -/
structure State.Queues (s : State) (k : Nat) (t : State) : Prop where
  besides : t.besides k = s.besides k
  files : (t.strand k).files = (s.strand k).files

namespace State.Queues

variable {s t u : State} {k : Nat}

theorem refl (s : State) (k : Nat) : s.Queues k s := ⟨rfl, rfl⟩
theorem trans (h : s.Queues k t) (h' : t.Queues k u) : s.Queues k u := ⟨h'.besides.trans h.besides, h'.files.trans h.files⟩
theorem ite {c : Prop} [Decidable c] (h : s.Queues k t) (h' : s.Queues k u) : s.Queues k (if c then t else u) := by
  split <;> assumption

theorem modStrand {f : Strand → Strand} (hf : (f (s.strand k)).files = (s.strand k).files) : s.Queues k (s.modStrand k f) :=
  ⟨s.besides_modCore k _, by rw [State.strand_modStrand, if_pos rfl, hf]⟩
theorem modNow (f : Now → Now) : s.Queues k (s.modNow k f) :=
  ⟨s.besides_modCore k _, by rw [State.strand_modNow]⟩
theorem setFull (a : Nat) (b : Bool) : s.Queues k (s.setFull k a b) := ⟨rfl, rfl⟩
theorem setFulls (b : Bool) (l : List Nat) : s.Queues k (s.setFulls k b l) := by
  induction l generalizing s with
  | nil => exact refl ..
  | cons a l ih => exact (setFull a b).trans ih
theorem schedule (banks : BitVec 64) : s.Queues k (s.schedule k banks) := modNow _
theorem bufferCells (cs : List (Nat × Byte)) : s.Queues k (s.bufferCells k cs) := modNow _
theorem late (f : LateFault) : s.Queues k (s.late k f) := modNow _
theorem frameFault (x : CapBits) : s.Queues k (s.frameFault k x) := by
  unfold State.frameFault State.slotLate; exact late _
theorem raiseV (bits : BitVec 8) (resn addr slot : Nat) : s.Queues k (s.raiseV k bits resn addr slot) := by
  unfold State.raiseV
  split
  · exact refl ..
  · have hv (t : State) (c : Prop) [Decidable c] (f : LateFault) (h : s.Queues k t) : s.Queues k (if c then t.late k f else t) :=
      ite (h.trans (late f)) h
    dsimp only
    split
    · exact ((hv _ _ _ (hv _ _ _ (modNow _))).trans (modStrand (by simp))).trans (late _)
    · exact hv _ _ _ (hv _ _ _ (modNow _))
theorem enqueue (kind : RKind) (x : CapBits) (off size : Nat) (data comparand : W64) (fn : Nat) (bytes : List (Nat × Byte))
    (dst : Option SDest) (sx : Bool) (cls : Nat) (rel acq : Bool) (scope : Nat) (held : Bool) :
    s.Queues k (s.enqueue k kind x off size data comparand fn bytes dst sx cls rel acq scope held) :=
  ⟨Eq.trans (b := (s.modStrand k fun st => st.withFlow fun f =>
      { f with accesses := f.accesses + 1, acquire := if acq then 2 * s.nextId :: f.acquire else f.acquire }).besides k) rfl
    (s.besides_modCore k _), by rw [State.strand_enqueue, Strand.files_withFlow]⟩
theorem escape (x : CapBits) : s.Queues k (s.escape k x) := by
  refine ⟨?_, by rw [State.strand, State.core_escape, State.strand]⟩
  unfold State.escape
  dsimp only
  split
  · have hw : ((s.window.map fun e => if e.tid = (s.strand k).id.tid.toNat then { e with escaped := true } else e).map
        fun e => { e with escaped := false }) = s.window.map fun e => { e with escaped := false } := by
      rw [List.map_map]; refine List.map_congr_left fun e _ => ?_
      dsimp only [Function.comp]; split <;> rfl
    exact congrArg (fun w => (s.mem, w, s.cells, s.hub, s.ctxs, fun j => if j = k then none else some (s.core j))) hw
  · rfl
theorem storing (x : CapBits) (bs : List (Nat × Byte)) : s.Queues k (s.storing k x bs) := (modStrand (by simp)).trans (escape x)
/-- A store outside the scratchpad: its bytes wait in the remote queue or for the pane's port. -/
theorem storeOut (x : CapBits) (bs : List (Nat × Byte)) (cls : Nat) : s.Queues k (s.storeOut k x bs cls) := by
  unfold State.storeOut
  dsimp only
  have hs := storing (s := s) (k := k) x bs
  unfold State.storing at hs
  refine ite (hs.trans (enqueue ..)) (ite (ite (hs.trans (frameFault x)) (hs.trans ?_)) (hs.trans (enqueue ..)))
  rw [State.dirty_frame]
  exact ⟨rfl, rfl⟩
theorem landLoad (x : CapBits) (v : Nat) (act : PReg) (f : Nat → W32) : s.Queues k (s.landLoad k x v act f) := by
  unfold State.landLoad
  exact ite (refl ..) (ite (frameFault x) (modStrand (by simp)))

end State.Queues

/-! ### The common forms -/

/-- Of a bundle that a slot closes by a trap nothing is left to issue. -/
theorem State.bundle_issueTrap (s : State) (k : Nat) (c : TrapCode) (v : W64) : ((s.issueTrap k c v).strand k).fl.bundle = none := by
  simp [State.issueTrap]

/-- Results are queued on core k, or a trap closes its bundle. -/
def State.QueuesOrTraps (s : State) (k : Nat) (t : State) : Prop := s.Queues k t ∨ (t.strand k).fl.bundle = none

namespace State.QueuesOrTraps

variable {s t u : State} {k : Nat}

theorem keeps (s : State) (k : Nat) : s.QueuesOrTraps k s := .inl (.refl s k)
theorem traps (s : State) (k : Nat) (c : TrapCode) (v : W64) : s.QueuesOrTraps k (s.issueTrap k c v) :=
  .inr (s.bundle_issueTrap k c v)
theorem acts {f : Strand → Strand} (hf : (f (s.strand k)).files = (s.strand k).files) : s.QueuesOrTraps k (s.modStrand k f) :=
  .inl (.modStrand hf)
theorem ite {c : Prop} [Decidable c] (h : s.QueuesOrTraps k t) (h' : s.QueuesOrTraps k u) :
    s.QueuesOrTraps k (if c then t else u) := by split <;> assumption

end State.QueuesOrTraps

/-- On the core that issues, the outcome queues results, or a trap closes the bundle. -/
structure SlotQueues (s : State) (o : Host.Outcome State Fault Refusal) : Prop where
  answers : ∀ k t, s.Issues k → o = .next t → s.QueuesOrTraps k t

section
variable {s : State}

theorem onCore_queues {f : Nat → State} (hf : ∀ k, s.QueuesOrTraps k (f k)) :
    SlotQueues s (onCore s f) := ⟨fun k t h e => by
  rw [onCore_issues h] at e; cases e; exact hf k⟩
theorem guarded_queues {g : Guard} {f : Strand → Strand} (hf : ∀ st, (f st).files = st.files) : SlotQueues s (guarded s g f) :=
  onCore_queues fun _ => .ite (.acts (hf _)) (.keeps ..)
/-- A slot whose checks pass acts; a failed one closes the bundle. -/
theorem checked_queues {check : Nat → Trap} {f : Nat → State} (hf : ∀ k, s.Queues k (f k)) :
    SlotQueues s (onCore s fun k => match check k with
      | some (c, v) => s.issueTrap k c v
      | none => f k) :=
  onCore_queues fun k => by
    split
    · exact .traps ..
    · exact .inl (hf k)
theorem counted_queues {n lat : Nat} {check : Nat → Trap} {f : Nat → State → State} (hf : ∀ k (t : State), t.Queues k (f k t)) :
    SlotQueues s (counted s n lat check f) :=
  checked_queues (check := fun k => firstTrap [(s.strand k).checkInflight n, check k])
    fun k => (State.Queues.modStrand (Strand.files_count ..)).trans (hf k _)
theorem counted_modStrand_queues {n lat : Nat} {check : Nat → Trap} {f : Nat → State → Strand → Strand}
    (hf : ∀ k t st, (f k t st).files = st.files) : SlotQueues s (counted s n lat check fun k t => t.modStrand k (f k t)) :=
  counted_queues fun k t => .modStrand (hf k t _)
theorem checkedOp_queues {calm : Host.Outcome State Fault Refusal} {upset : List Upset → Host.Outcome State Fault Refusal}
    (hc : SlotQueues s calm) (hu : ∀ us, SlotQueues s (upset us)) : SlotQueues s (checkedOp s calm upset) := by
  unfold checkedOp
  split
  · split
    · exact hc
    · exact hu _
  · exact hc
theorem ite_queues {c : Prop} [Decidable c] {o o' : Host.Outcome State Fault Refusal} (h : SlotQueues s o)
    (h' : SlotQueues s o') : SlotQueues s (if c then o else o') := by split <;> assumption

theorem regOp_queues (f lat d a b g) : SlotQueues s (regOp f lat d a b g s) := guarded_queues fun _ => Strand.files_pushS ..
theorem immOp_queues (f d a b g) : SlotQueues s (immOp f d a b g s) := guarded_queues fun _ => Strand.files_pushS ..
theorem divOp_queues (f d a b g) : SlotQueues s (divOp f d a b g s) := guarded_queues fun _ => Strand.files_pushS ..
theorem laneOp_queues (o lat r) : SlotQueues s (laneOp s o lat r) := counted_modStrand_queues fun _ _ _ => Strand.files_landLanes ..
theorem upsetOp_queues (o lat r) : SlotQueues s (upsetOp s o lat r) :=
  counted_modStrand_queues fun _ _ _ => (Strand.files_noteResid ..).trans (Strand.files_landLanes ..)
theorem abcOp_queues (o lat f) : SlotQueues s (abcOp s o lat f) := laneOp_queues ..
theorem intOp_queues (o lat sat r) : SlotQueues s (intOp s o lat sat r) := abcOp_queues ..
theorem patOp_queues (o lat r) : SlotQueues s (patOp s o lat r) := abcOp_queues ..
theorem bitOp_queues (o f) : SlotQueues s (bitOp s o f) := abcOp_queues ..
theorem fpOp_queues (o lat r) : SlotQueues s (fpOp s o lat r) := abcOp_queues ..
theorem codeOp_queues (o r) : SlotQueues s (codeOp s o r) := abcOp_queues ..
theorem checkedInt_queues (o lat sat r post) : SlotQueues s (checkedInt s o lat sat r post) :=
  checkedOp_queues (intOp_queues ..) fun _ => upsetOp_queues ..
theorem compareOp_queues (o r) : SlotQueues s (compareOp s o r) :=
  counted_modStrand_queues fun _ _ _ => (Strand.files_landPred ..).trans (Strand.files_landPred ..)
theorem unpackOp_queues (o lat w k val) : SlotQueues s (unpackOp s o lat w k val) := laneOp_queues ..
theorem packOp_queues (o w k fmt sat) : SlotQueues s (packOp s o w k fmt sat) := counted_modStrand_queues fun _ _ _ => rfl
theorem reduceOp_queues (o op) : SlotQueues s (reduceOp s o op) := counted_modStrand_queues fun _ _ _ => rfl
theorem predOp_queues (o f) : SlotQueues s (predOp s o f) := counted_modStrand_queues fun _ _ _ => Strand.files_landPred ..

end

end Sys2Proof.Machine
end

section
/-!
PROOFS. Every instruction of the slots S, X, L, W, V and Y but LOOP queues its results (O7).
-/

namespace Sys2Proof.Machine

/-! ### Instructions with a form of their own -/

variable {s : State}

theorem execSel_queues (d a b g) : SlotQueues s (execSel d a b g s) := onCore_queues fun _ => .acts (Strand.files_pushS ..)
theorem execSwpt_queues (t g) : SlotQueues s (execSwpt t g s) :=
  onCore_queues fun _ => .ite (.traps ..) (.ite (.traps ..) (.ite (.traps ..) (.ite (.traps ..) (.ite (.keeps ..) (.acts rfl)))))
theorem execEndtCont_queues (g) : SlotQueues s (execEndtCont g s) :=
  onCore_queues fun _ => .ite (.traps ..) (.ite (.acts rfl) (.keeps ..))
theorem execCload_queues (c a imm g) : SlotQueues s (execCload c a imm g s) :=
  onCore_queues fun _ => .ite (.traps ..) (.ite (.acts rfl) (.keeps ..))
theorem execCnarrow_queues (c ca b g) : SlotQueues s (execCnarrow c ca b g s) :=
  onCore_queues fun _ => .ite (.traps ..) (.ite (.acts rfl) (.keeps ..))
theorem execBrx_queues (d a g) : SlotQueues s (execBrx d a g s) :=
  guarded_queues fun st => by split <;> simp
theorem execMfsr_queues (d n g) : SlotQueues s (execMfsr d n g s) :=
  checked_queues (check := fun k => (s.strand k).checkPriv (readLevel n.toNat) 0x28) fun _ =>
    .ite (.modStrand (Strand.files_pushS ..)) (.refl ..)
theorem execMtsr_queues (d n g) : SlotQueues s (execMtsr d n g s) :=
  checked_queues (check := fun k => (s.strand k).checkMtsr n.toNat ((s.strand k).s d.toNat)) fun _ =>
    .ite (.modStrand rfl) (.refl ..)

theorem execLds_queues (r cap off imm size sx g q) : SlotQueues s (execLds r cap off imm size sx g q s) :=
  counted_queues fun k t => by
    extract_lets st x n a dst
    refine .ite (.refl ..) ?_
    split
    · refine .ite (.trans ?_ (.setFull ..)) ?_ <;> exact (State.Queues.schedule _).trans (.modStrand (by split <;> rfl))
    · exact .ite (.frameFault _) (.modStrand (by split <;> rfl))
    · exact .enqueue ..

theorem execSts_queues (r cap off imm size g q) : SlotQueues s (execSts r cap off imm size g q s) :=
  checked_queues (check := fun k => let st := s.strand k
      st.checkScalar cap.toNat rWrite (st.scalarOff off imm size) (2 ^ size.toNat) q) fun k =>
    have hbuf (banks bs) : s.Queues k ((s.schedule k banks).bufferCells k bs) := (State.Queues.schedule _).trans (.bufferCells _)
    .ite (.refl ..) (.ite (.ite ((hbuf ..).trans (.setFull ..)) (hbuf ..)) (.storeOut ..))

/-- What a load from the scratchpad notes: its banks, and with `.take` the granules that it empties. -/
theorem State.Queues.noteLoad {t : State} {k : Nat} {c c' : Prop} [Decidable c] [Decidable c'] (h : s.Queues k t)
    (banks : BitVec 64) (l : List Nat) : s.Queues k
      (if c then (if c' then (t.schedule k banks).setFulls k false l else t.schedule k banks) else t) :=
  .ite (.ite ((h.trans (.schedule _)).trans (.setFulls ..)) (h.trans (.schedule _))) h

theorem execVld_queues (v cap off imm g q) : SlotQueues s (execVld v cap off imm g q s) :=
  counted_queues fun _ _ => .noteLoad (.landLoad ..) _ _
theorem loadSingles_queues (v cap g q off one) : SlotQueues s (loadSingles s v cap g q off one) :=
  counted_queues fun _ _ => .noteLoad (.landLoad ..) _ _

/-- A vector store to the scratchpad: its banks, its bytes, with a qualifier its granules, and its flags. -/
theorem State.Queues.storeSpad {k : Nat} {c : Prop} [Decidable c] (banks : BitVec 64) (bs : List (Nat × Byte)) (l : List Nat)
    (bits : BitVec 8) (addr slot : Nat) : s.Queues k
      ((if c then ((s.schedule k banks).bufferCells k bs).setFulls k true l else (s.schedule k banks).bufferCells k bs).raiseV k
        bits 0 addr slot) :=
  have hbuf : s.Queues k ((s.schedule k banks).bufferCells k bs) := (State.Queues.schedule _).trans (.bufferCells _)
  (State.Queues.ite (hbuf.trans (.setFulls ..)) hbuf).trans (.raiseV ..)

theorem execVst_queues (v cap off imm g q) : SlotQueues s (execVst v cap off imm g q s) :=
  checked_queues (check := fun k => s.checkContig k cap.toNat rWrite ((s.strand k).off12 off imm) q) fun _ =>
    .ite (.refl ..) (.ite (.storeSpad ..) (.storeOut ..))
theorem storeSingles_queues (v cap g q off) : SlotQueues s (storeSingles s v cap g q off) :=
  checked_queues (check := fun k => let st := s.strand k
      s.checkSingles k cap.toNat rWrite (off st 0) ((lanesOf (st.active g)).map (off st)) q) fun _ =>
    .ite (.refl ..) (.ite (.storeSpad ..) (.storeOut ..))

theorem execVunpt5_queues (o) : SlotQueues s (execVunpt5 o s) :=
  counted_modStrand_queues fun _ _ _ => Strand.files_foldl _ (fun _ _ => by split <;> rfl) _
theorem execVtacc_queues (o) : SlotQueues s (execVtacc o s) := by
  unfold execVtacc; exact checkedOp_queues (abcOp_queues ..) fun _ => upsetOp_queues ..
theorem execVclamp_queues (o) : SlotQueues s (execVclamp o s) := ite_queues (codeOp_queues ..) (intOp_queues ..)
theorem execVget_queues (o) : SlotQueues s (execVget o s) := counted_modStrand_queues fun _ _ _ => by
  dsimp only; split <;> simp
theorem execVredadd_queues (o) : SlotQueues s (execVredadd o s) :=
  checkedOp_queues (reduceOp_queues ..) fun _ => counted_modStrand_queues fun _ _ _ => Strand.files_noteResid ..

/-! ### The dispatch -/

/-- The slots S and X, L, W, V and Y, by the kind that the encoder writes. -/
def queueing (i : Instr) : Bool := ((encode i).map fun p => [SlotKind.s, .x, .l, .w, .v, .y].contains p.1).getD false

theorem exec_queues {i : Instr} (hi : queueing i = true) (hl : ∀ d imm g, i ≠ .loop d imm g) : SlotQueues s (exec i s) := by
  unfold exec
  cases i with
  | loop d imm g => exact absurd rfl (hl d imm g)
  | nop | nopw | rot | endt | br | crights | cmov => exact guarded_queues fun _ => rfl
  | cmp | cmpi | qlog => exact guarded_queues fun _ => Strand.files_pushQ ..
  | lil | lih | cget => exact guarded_queues fun _ => Strand.files_pushS ..
  | call => exact guarded_queues fun _ => (Strand.files_goto ..).trans (Strand.files_pushS ..)
  | brx => exact execBrx_queues ..
  | add | sub | mul | mulh | mulhn | and | or | xor | andn | shl | shr | sar | rotl | min | max | minn | maxn => exact regOp_queues ..
  | div | divn | rem | remn => exact divOp_queues ..
  | addi | andi | ori | xori | shli | shri | sari | sext | zext | clz | popc | mov => exact immOp_queues ..
  | sel => exact execSel_queues ..
  | mfsr => exact execMfsr_queues ..
  | mtsr => exact execMtsr_queues ..
  | swpt => exact execSwpt_queues ..
  | endtCont => exact execEndtCont_queues ..
  | cload => exact execCload_queues ..
  | cnarrow => exact execCnarrow_queues ..
  | lds => exact execLds_queues ..
  | sts => exact execSts_queues ..
  | vld => exact execVld_queues ..
  | vst => exact execVst_queues ..
  | vldb | vlds | vldx => exact loadSingles_queues ..
  | vsts | vstx => exact storeSingles_queues ..
  | vadd | vsub | vadds | vsubs | vmul | vmulh | vmac | vaddi => exact checkedInt_queues ..
  | vand | vor | vxor | vandn => exact bitOp_queues ..
  | vshl | vmin | vmax | vabs | vneg => exact intOp_queues ..
  | vshr | vsar | vclz | vpopc => exact patOp_queues ..
  | vfadd | vfsub | vrcp | vrsq | vexp2 | vlog2 | vfdiv => exact fpOp_queues ..
  | vfmul | vfma => exact checkedOp_queues (fpOp_queues ..) fun _ => upsetOp_queues ..
  | vfmin | vfmax | vfabs | vfneg => exact codeOp_queues ..
  | vclamp => exact execVclamp_queues ..
  | vcmp | vfcmp => exact compareOp_queues ..
  | vsel | vput => exact counted_modStrand_queues fun _ _ _ => Strand.files_landLanes ..
  | vmov | vcvt => exact abcOp_queues ..
  | vget => exact execVget_queues ..
  | vbcast | viota | vperm | vrot | vzip | vunzip => exact laneOp_queues ..
  | vunp4 | vunp6 | vdpx => exact unpackOp_queues ..
  | vpack4 | vpack6 | vdpq => exact packOp_queues ..
  | vunpt5 => exact execVunpt5_queues ..
  | vtacc => exact execVtacc_queues ..
  | vredadd => exact execVredadd_queues ..
  | vredfadd | vredmax | vredmin => exact reduceOp_queues ..
  | vsort | vscan => exact counted_modStrand_queues fun _ _ _ => rfl
  | plog | pnot | pset => exact predOp_queues ..
  | pcnt | pfirst => exact counted_modStrand_queues fun _ _ _ => Strand.files_pushS ..
  | _ => exact (Bool.false_ne_true hi).elim

end Sys2Proof.Machine

open Sys2Proof Sys2Proof.Machine

/-- Settles O7: `exec_queues`, and of a bundle that a trap closes nothing is left. -/
theorem slotsQueue : Obligations.SlotsQueue := by
  unfold Obligations.SlotsQueue
  intro s t k kind w i he hk hl h ha hb hbt
  have hi : queueing i = true := by
    rw [queueing, he]; simpa using hk
  obtain hq | hn := (exec_queues hi hl).answers k t h ha
  · obtain ⟨hbesides, hfiles⟩ := hq
    simp only [State.besides, Strand.files, Prod.mk.injEq] at hbesides hfiles
    obtain ⟨hmem, hwindow, hcells, hhub, hctxs, hcores⟩ := hbesides
    obtain ⟨hsc, hvec, hmx, hid, htr, hkn, hcp, hsig, hfmtb⟩ := hfiles
    refine ⟨fun a => by rw [hmem], hsc, hvec, hmx, hid, htr, hkn, hcp, hsig, hfmtb, hwindow, hcells, hhub, hctxs, fun j hj => ?_⟩
    have hj' := congrFun hcores j
    rwa [if_neg hj, if_neg hj, Option.some.injEq] at hj'
  · exact absurd (hbt.symm.trans hn) hb

end

section
/-!
PROOFS. The engine and matrix slots (O8; 08 R181, 10 R249, 11 R269, R294).
-/

namespace Sys2Proof.Machine

/-! ### SPAWN and the other strands -/

theorem State.relax_frame (s : State) (st : Strand) :
    s.relax st = { st with node := { st.node with throttled := (s.relax st).node.throttled } } := by
  unfold State.relax; split <;> rfl

/-- Where throttles end, a strand keeps all but its throttle (11 R294). -/
theorem State.strand_unthrottle {s : State} {j : Nat} {st : Strand} (h : s.strand j = st) :
    ∃ b, s.unthrottle.strand j = { st with node := { st.node with throttled := b } } := by
  subst h
  unfold State.unthrottle
  split
  · let f (c : Core) : Core := { c with st := s.relax c.st }
    have hidle : f Core.idle = Core.idle := by
      simp only [f, State.relax]; split <;> rfl
    have hget := SMap.get_map f Core.idle s.cores j
    rw [hidle] at hget
    exact ⟨_, (congrArg Core.st hget).trans (s.relax_frame _)⟩
  · exact ⟨_, rfl⟩

/-- A SPAWN that no trap stops changes of another core's strand at most the throttle. -/
theorem spawn_strand_other {s t : State} {k j : Nat} {qd : BitVec 3} {cap : BitVec 4} {off st' : BitVec 6} {after : Bool} {e : ESync}
    (h : s.Issues k) (hj : j ≠ k) (ha : Answers (.spawn qd cap off st' after e) s t) (hb : (t.strand k).fl.bundle ≠ none) :
    ∃ b, t.strand j = { s.strand j with node := { (s.strand j).node with throttled := b } } := by
  have hother (u : State) (f : Strand → Strand) : (u.modStrand k f).strand j = u.strand j := by
    rw [State.strand_modStrand, if_neg hj]
  obtain ⟨k', h', rfl⟩ := onCore_next (show onCore s _ = .next t from ha)
  obtain rfl := h.unique h'
  revert hb
  split
  · exact fun hb => absurd (s.bundle_issueTrap ..) hb
  · intro _
    split
    · simp only [if_true, hother]
      split
      · exact ⟨_, (hother ..).trans (hother ..)⟩
      · exact State.strand_unthrottle ((hother ..).trans ((hother ..).trans (hother ..)))
    · exact ⟨_, hother ..⟩

/-- A strand that may spawn from an empty descriptor at offset 0 of the scratchpad, in the E slot of its bundle. -/
def spawner : Strand :=
  { Strand.zero with
    sc := { ScalarRegs.zero with c := [(1, mkCap 0 0xFF kScratch 0 0x1800000)] }
    node := { SpawnNode.zero with limit := 1 }
    fl := { Flow.zero with bundle := some (0, 13, [7]) } }

/-- The spawner on core 0, and on core 1 a strand throttled by a pool that has emptied since. -/
def besideThrottled : State :=
  { State.reset with
    turn := .core 0 8
    cores := [(0, { Core.idle with mode := .running, st := spawner }),
      (1, { Core.idle with mode := .running, st := { Strand.zero with node := { SpawnNode.zero with throttled := true } } })] }

/-- SPAWN from that descriptor. -/
def plainSpawn : Instr := .spawn 1 1 0 0 false ⟨⟨0, false⟩, false, 0, 0, false, 0, 0⟩

/-- It ends the throttle of core 1's strand. -/
theorem spawn_ends_throttle : ∃ t, Answers plainSpawn besideThrottled t ∧
    (t.strand 0).fl.bundle = (besideThrottled.strand 0).fl.bundle ∧ (t.strand 1).node.throttled = false :=
  ⟨_, rfl, rfl, rfl⟩

end Sys2Proof.Machine

open Sys2Proof Sys2Proof.Machine

/-- Refutes O8: SPAWN, which is none of `Instr.actsAtOnce`, ends the throttles of strands on other cores whose pool has emptied
(`spawn_ends_throttle`); it changes nothing else of them (`spawn_strand_other`). -/
theorem not_enginesQueue : ¬ Obligations.EnginesQueue := by
  unfold Obligations.EnginesQueue
  intro h
  obtain ⟨t, ha, hb, ht⟩ := spawn_ends_throttle
  obtain ⟨-, -, -, -, -, -, -, -, -, -, -, -, hothers⟩ :=
    h besideThrottled t 0 .e _ plainSpawn rfl (.inl rfl) rfl ⟨⟨8, rfl⟩, rfl⟩ ha nofun hb
  have hthrottled : (t.strand 1).node.throttled = true := by rw [hothers 1 (by decide)]; rfl
  rw [ht] at hthrottled; cases hthrottled

end

section
/-!
PROOFS. Special registers (O17; 06 R145, R146).
-/

namespace Sys2Proof.Machine

/-- A copy command of the null strand. -/
def nullCommand : CopyCmd :=
  State.reset.command 3 ⟨0, 1, 0, 0, 0, false, false, 0, 0, 0, false, 0⟩ ⟨⟨0, false⟩, false, 0, 0, false, 0, 0⟩

/-- Core 3 holds a copy command of its strand, and its record stands behind the one of core 5. -/
def commandOutOfOrder : State :=
  { State.reset with cores := [(5, Core.idle), (3, { Core.idle with cmds := [nullCommand] })] }

/-- There a write of VCTL lists core 3 a second time, and CPSTAT counts the command twice. -/
theorem cpstat_commandOutOfOrder :
    (commandOutOfOrder.writeSR 3 0x021 0).readSR 3 0x040 ≠ commandOutOfOrder.readSR 3 0x040 := by
  decide

end Sys2Proof.Machine

open Sys2Proof Sys2Proof.Machine

/-- Refutes O17: that a write leaves every other special register is said of every state, also of one whose cores are not in order
(`cpstat_commandOutOfOrder`). -/
theorem not_scalarState : ¬ Obligations.ScalarState := by
  unfold Obligations.ScalarState
  rintro ⟨-, -, -, hwrite, -⟩
  obtain ⟨-, -, -, -, -, -, -, -, -, hother, -⟩ := hwrite commandOutOfOrder 3 0x021 0
  exact cpstat_commandOutOfOrder (hother 0x040 (by decide))

end
